-- ==== Sys2Proof/Word.lean ====
section
/-!
DEFINITION. The words of the part (R7, R121, R124): bytes, 64-bit words, and the sparse map in which the model keeps
every sparsely filled array (registers, counters, memory bytes).
-/
namespace Sys2Proof

/-- One byte (R7). -/
abbrev Byte := BitVec 8

/-- One 64-bit register or counter (R124, R178). -/
abbrev Word := BitVec 64

/-- A sparse array: key and value pairs, keys strictly rising; a key that is not listed holds the array's default. -/
abbrev Map (α : Type) := List (Nat × α)

end Sys2Proof
end

