-- ==== Sys2Proof/Syntax.lean ====
section
/-!
DEFINITION. The commands of the part: one constructor of `Instr` for each row of the table of operations and events. An
operand names the unit at which the step happens, or gives the value written, the message received or the sample taken.
-/
namespace Sys2Proof

/-- A core, 0 to 1,023 (R4). -/
abbrev CoreId := BitVec 10
/-- A work queue, 0 to 255 (R72). -/
abbrev QueueId := BitVec 8
/-- An in-flight slot, 0 to 8,191 (R73). -/
abbrev SlotId := BitVec 13
/-- A Sheaf slice, 0 to 7 (R4). -/
abbrev SliceId := BitVec 3
/-- A peer link, 0 to 31 (R4). -/
abbrev LinkId := BitVec 5
/-- A link port, 0 to 7 (R4). -/
abbrev PortId := BitVec 3
/-- An Ethernet port (R4). -/
abbrev EthId := BitVec 1
/-- A queue pair, 0 to 1,023 (R382). -/
abbrev QpId := BitVec 10

/-- What a scrub or a read finds in a line (R400, R403). -/
inductive Flaw where
  | clean
  | corrected
  | uncorrected
  deriving DecidableEq, Repr

/-- A source address and UDP port of an FCT datagram (R391, R395). -/
structure Source where
  addr : BitVec 128
  port : BitVec 16
  deriving DecidableEq, Repr

/-- What a RoCEv2 packet brings beside its fields: the queue pair it is for, and whether it carried CE (R380); of a message, whether a packet of it did. -/
structure QpPacket where
  qp : QpId
  ce : Bool
  deriving DecidableEq, Repr

/-- A RoCEv2 request: its queue pair, the number of its first packet, and whether a packet of it carried CE (R380, R381). -/
structure QpRequest where
  qp  : QpId
  psn : BitVec 24
  ce  : Bool
  deriving DecidableEq, Repr

/-- A frame that port `e` does not recognise; `qp` names the queue pair of a RoCEv2 packet whose opcode R381 does not list,
and `ce` says that it carried CE (R380). -/
structure OddFrame where
  e  : EthId
  qp : Option QpId
  ce : Bool
  deriving DecidableEq, Repr

/-- An FCT datagram: its header and what follows it (R391). -/
structure Datagram where
  hdr  : BitVec 128
  body : List Byte
  deriving DecidableEq, Repr

/-- An unacknowledged completion datagram: its port, and its place from the port's oldest (R394). -/
structure KeptRecord where
  e   : EthId
  idx : BitVec 6
  deriving DecidableEq, Repr

/-- A residue checker, and the instruction it checks by its place from the engine's oldest in flight (R238, R239). -/
structure Checked where
  chk : BitVec 8
  idx : BitVec 8
  deriving DecidableEq, Repr

/-- A line that the scrub reads: in its channel where `hbm` holds, else in its slice (R403). -/
structure ScrubLine where
  a   : BitVec 48
  hbm : Bool
  deriving DecidableEq, Repr

/-- An I2C write of a byte index, to the FRU area or to telemetry (R429). -/
structure I2cIndex where
  fru : Bool
  idx : Byte
  deriving DecidableEq, Repr

/-- An I2C read of `n` bytes, of the FRU area or of telemetry (R429). -/
structure I2cRead where
  fru : Bool
  n   : BitVec 9
  deriving DecidableEq, Repr

/-- A message between chips: the 32-byte header of R350 and the payload that follows it. -/
structure Msg where
  hdr  : BitVec 256
  data : List Byte
  deriving DecidableEq, Repr

/-- A flit as it crosses the fibre (R336): its fields, its valid payload bytes and its CRC. -/
structure Flit where
  fseq   : BitVec 16
  vc     : BitVec 2
  sub    : Bool
  cls    : Bool
  som    : Bool
  eom    : Bool
  ctrl   : Bool
  ackSeq : BitVec 16
  ackV   : Bool
  nak    : Bool
  cvc    : BitVec 2
  csub   : Bool
  ccls   : Bool
  cred   : BitVec 4
  data   : List Byte
  crc    : BitVec 32
  deriving DecidableEq, Repr

/-- The commands, in the order of the table. -/
inductive Instr where
  /-- QTAIL_WRITE: QTAIL[q] is written with v (R72, R74). -/
  | qtailWrite (q : QueueId) (v : Word)
  /-- ABORT_ONE: QCTL[q].ABORT_ONE is written with ABORT_SEQ = seq (R112). -/
  | abortOne (q : QueueId) (seq : BitVec 32)
  /-- ABORT_ALL: QCTL[q].ABORT_ALL is written (R112). -/
  | abortAll (q : QueueId)
  /-- ADMIT: the dispatcher admits the next ring record, the queues in round robin (R73, R78, R90). -/
  | admission
  /-- COMMAND_READY: the admitted command in slot k becomes ready (R87, R85). -/
  | commandReady (k : SlotId)
  /-- GRANT: the dispatcher chooses a queue by deficit and grants its oldest ready command (R88, R109, R111). -/
  | grant
  /-- DEFICIT_CHARGE: 65,536 engine cycles of the running command in slot k have accrued (R108). -/
  | deficitCharge (k : SlotId)
  /-- EPOCH_WAIT_TIMEOUT: EPOCH_WAIT has passed since the admission of the command in slot k (R90). -/
  | epochWaitTimeout (k : SlotId)
  /-- RTC_LAPSED: the run-to-commit command in slot k has run RTC_MAX (R110). -/
  | rtcLapsed (k : SlotId)
  /-- NOP: the NOP in slot k runs (R78). -/
  | nop (k : SlotId)
  /-- LAUNCH: the LAUNCH in slot k starts on its cores (R80). -/
  | launch (k : SlotId)
  /-- COPY: the COPY in slot k moves its bytes (R81). -/
  | copy (k : SlotId)
  /-- COLLECTIVE: the COLLECTIVE in slot k starts its instance (R359). -/
  | collective (k : SlotId)
  /-- FORK: the FORK in slot k runs (R285). -/
  | fork (k : SlotId)
  /-- APPEND: the APPEND_SEAL with OP APPEND in slot k runs (R287). -/
  | append (k : SlotId)
  /-- RELOCATE: the APPEND_SEAL with OP RELOCATE in slot k runs (R290). -/
  | relocate (k : SlotId)
  /-- FREE: the FREE in slot k runs (R291). -/
  | free (k : SlotId)
  /-- MODE: the SETTINGS MODE command in slot k reads its block and begins the drain (R114, R115). -/
  | mode (k : SlotId)
  /-- PREPARE: the drain has ended and the units load their shadow registers (R115). -/
  | prepare
  /-- UNIT_CONFIRM: the confirmation of one unit reaches the sequencer (R115). -/
  | unitConfirm (cls : BitVec 4) (unit : BitVec 16)
  /-- PUBLISH: the units move their shadow values into effect (R115). -/
  | publish
  /-- MODE_TIMEOUT: a unit has not confirmed within MODE_TIMEOUT (R116). -/
  | modeTimeout
  /-- STORE: the SETTINGS STORE in slot k runs; ok says whether the read-back of the entries agrees (R463). -/
  | store (k : SlotId) (ok : Bool)
  /-- REPORT: the SETTINGS REPORT in slot k runs (R466). -/
  | report (k : SlotId)
  /-- TEST: the SELFTEST TEST in slot k starts (R412). -/
  | test (k : SlotId)
  /-- FENCE: the SELFTEST FENCE in slot k runs (R412). -/
  | fence (k : SlotId)
  /-- UNFENCE: the SELFTEST UNFENCE in slot k starts (R412). -/
  | unfence (k : SlotId)
  /-- VIEW_READ: the DEBUG VIEW_READ in slot k runs (R498). -/
  | viewRead (k : SlotId)
  /-- VIEW_WRITE: the DEBUG VIEW_WRITE in slot k runs (R498). -/
  | viewWrite (k : SlotId)
  /-- DONE_REPORT: core c reports done (R143). -/
  | doneReport (c : CoreId)
  /-- COMMIT_REQUEST: the sequencer takes the commit request of the command in slot k (R95, R113). -/
  | commitRequest (k : SlotId)
  /-- FAIL_MESSAGE: the sequencer takes the fail message of the command in slot k (R113). -/
  | failMessage (k : SlotId)
  /-- ABORT_MESSAGE: the sequencer takes the abort message for the command in slot k (R113). -/
  | abortMessage (k : SlotId)
  /-- KILL_COMPLETE: the kill of the command in slot k has completed (R104, R105). -/
  | killComplete (k : SlotId)
  /-- APPLY: slice b applies the commit under way; bad says that the Husk finds an error in a staged line (R95, R408). -/
  | apply (b : SliceId) (bad : Option (BitVec 48))
  /-- APPLY_DONE: slice b's apply_done reaches the sequencer (R95). -/
  | applyDone (b : SliceId)
  /-- RELEASE: slice b releases the commit under way (R95). -/
  | release (b : SliceId)
  /-- RELEASE_DONE: every slice has released; sums and the done signal are applied (R95). -/
  | releaseDone
  /-- COMPLETION_RECORD: the completion record of the command in slot k is written (R119, R120). -/
  | completionRecord (k : SlotId)
  /-- HOLD_TIMEOUT: a held read of core c (who 0 the control core, otherwise ENG + 1) has outlasted HOLD (R93). -/
  | holdTimeout (c : CoreId) (who : BitVec 3)
  /-- ALU: core c executes the ALU at its PC (R129). -/
  | alu (c : CoreId)
  /-- ADDI: core c executes the ADDI at its PC (R130). -/
  | addi (c : CoreId)
  /-- ANDI: core c executes the ANDI at its PC (R130). -/
  | andi (c : CoreId)
  /-- ORI: core c executes the ORI at its PC (R130). -/
  | ori (c : CoreId)
  /-- XORI: core c executes the XORI at its PC (R130). -/
  | xori (c : CoreId)
  /-- SHI: core c executes the SHI at its PC (R130). -/
  | shi (c : CoreId)
  /-- LI: core c executes the LI at its PC (R127). -/
  | li (c : CoreId)
  /-- LIH: core c executes the LIH at its PC (R127). -/
  | lih (c : CoreId)
  /-- CMP: core c executes the CMP at its PC (R131). -/
  | cmp (c : CoreId)
  /-- CMPI: core c executes the CMPI at its PC (R131). -/
  | cmpi (c : CoreId)
  /-- PLOG: core c executes the PLOG at its PC (R131). -/
  | plog (c : CoreId)
  /-- BR: core c executes the BR at its PC (R132). -/
  | br (c : CoreId)
  /-- CALL: core c executes the CALL at its PC (R132). -/
  | call (c : CoreId)
  /-- JR: core c executes the JR at its PC (R132). -/
  | jr (c : CoreId)
  /-- LD: core c executes the LD at its PC (R134). -/
  | ld (c : CoreId)
  /-- ST: core c executes the ST at its PC (R136). -/
  | st (c : CoreId)
  /-- AMO: core c executes the AMO at its PC (R138). -/
  | amo (c : CoreId)
  /-- DLD: core c executes the DLD at its PC (R139). -/
  | dld (c : CoreId)
  /-- DST: core c executes the DST at its PC (R139). -/
  | dst (c : CoreId)
  /-- DRD: core c executes the DRD at its PC (R139). -/
  | drd (c : CoreId)
  /-- DWR: core c executes the DWR at its PC (R139). -/
  | dwr (c : CoreId)
  /-- ISSUE: core c executes the ISSUE at its PC (R140). -/
  | issue (c : CoreId)
  /-- WAIT: core c executes the WAIT at its PC (R141). -/
  | wait (c : CoreId)
  /-- SIGNAL: core c executes the SIGNAL at its PC (R141). -/
  | signal (c : CoreId)
  /-- RDCTR: core c executes the RDCTR at its PC (R141). -/
  | rdctr (c : CoreId)
  /-- DRAIN: core c executes the DRAIN at its PC (R142). -/
  | drain (c : CoreId)
  /-- MFS: core c executes the MFS at its PC (R144). -/
  | mfs (c : CoreId)
  /-- END: core c executes the END at its PC (R143). -/
  | endProg (c : CoreId)
  /-- ICACHE_FILL: the instruction-cache line core c has waited for longest arrives (R145). -/
  | icacheFill (c : CoreId)
  /-- LOAD_RETURN: the oldest outstanding load of core c returns (R146). -/
  | loadReturn (c : CoreId)
  /-- ACCEPTANCE: an acceptance returns to core c (who 0 the control core's oldest store, otherwise ENG + 1) (R500). -/
  | acceptance (c : CoreId) (who : BitVec 3)
  /-- BASE_POINT: every core of the run of slot k has reached its base point (R193). -/
  | basePoint (k : SlotId)
  /-- MM: the matrix engine of core c takes the MM at the head of its queue (R218). -/
  | mm (c : CoreId)
  /-- MMF: the matrix engine of core c takes the MMF at the head of its queue (R228). -/
  | mmf (c : CoreId)
  /-- MMP: the matrix engine of core c takes the MMP at the head of its queue (R233). -/
  | mmp (c : CoreId)
  /-- CONV: the matrix engine of core c takes the CONV at the head of its queue (R318). -/
  | conv (c : CoreId)
  /-- CONVG: the matrix engine of core c takes the CONVG at the head of its queue (R321). -/
  | convg (c : CoreId)
  /-- CWIN: the matrix engine of core c takes the CWIN at the head of its queue (R323). -/
  | cwin (c : CoreId)
  /-- CROP: the matrix engine of core c takes the CROP at the head of its queue (R325). -/
  | crop (c : CoreId)
  /-- KMM: the matrix engine of core c takes the KMM at the head of its queue (R298). -/
  | kmm (c : CoreId)
  /-- KMMF: the matrix engine of core c takes the KMMF at the head of its queue (R298). -/
  | kmmf (c : CoreId)
  /-- KMMP: the matrix engine of core c takes the KMMP at the head of its queue (R298). -/
  | kmmp (c : CoreId)
  /-- MV: the Awn path of core c takes the MV at the head of its queue (R235). -/
  | mv (c : CoreId)
  /-- VCVT: the vector engine of core c takes the VCVT at the head of its queue (R247). -/
  | vcvt (c : CoreId)
  /-- VADD: the vector engine of core c takes the VADD at the head of its queue (R247). -/
  | vadd (c : CoreId)
  /-- VSUB: the vector engine of core c takes the VSUB at the head of its queue (R247). -/
  | vsub (c : CoreId)
  /-- VMUL: the vector engine of core c takes the VMUL at the head of its queue (R247). -/
  | vmul (c : CoreId)
  /-- VFMA: the vector engine of core c takes the VFMA at the head of its queue (R247). -/
  | vfma (c : CoreId)
  /-- VMIN: the vector engine of core c takes the VMIN at the head of its queue (R249). -/
  | vmin (c : CoreId)
  /-- VMAX: the vector engine of core c takes the VMAX at the head of its queue (R249). -/
  | vmax (c : CoreId)
  /-- VDIV: the vector engine of core c takes the VDIV at the head of its queue (R247). -/
  | vdiv (c : CoreId)
  /-- VAFF: the vector engine of core c takes the VAFF at the head of its queue (R249). -/
  | vaff (c : CoreId)
  /-- VFN: the vector engine of core c takes the VFN at the head of its queue (R251). -/
  | vfn (c : CoreId)
  /-- VROW: the vector engine of core c takes the VROW at the head of its queue (R249). -/
  | vrow (c : CoreId)
  /-- VRED: the vector engine of core c takes the VRED at the head of its queue (R252). -/
  | vred (c : CoreId)
  /-- VSMX: the vector engine of core c takes the VSMX at the head of its queue (R253). -/
  | vsmx (c : CoreId)
  /-- VCMUL: the vector engine of core c takes the VCMUL at the head of its queue (R256). -/
  | vcmul (c : CoreId)
  /-- VBFLY: the vector engine of core c takes the VBFLY at the head of its queue (R257). -/
  | vbfly (c : CoreId)
  /-- VTRANS: the vector engine of core c takes the VTRANS at the head of its queue (R258). -/
  | vtrans (c : CoreId)
  /-- VRNG: the vector engine of core c takes the VRNG at the head of its queue (R255). -/
  | vrng (c : CoreId)
  /-- VGATE: the vector engine of core c takes the VGATE at the head of its queue (R260). -/
  | vgate (c : CoreId)
  /-- VSCAN: the vector engine of core c takes the VSCAN at the head of its queue (R264). -/
  | vscan (c : CoreId)
  /-- KDESC: the vector engine of core c takes the KDESC at the head of its queue (R303). -/
  | kdesc (c : CoreId)
  /-- KPOST: the vector engine of core c takes the KPOST at the head of its queue (R305). -/
  | kpost (c : CoreId)
  /-- KTAKE: the vector engine of core c takes the KTAKE at the head of its queue (R306). -/
  | ktake (c : CoreId)
  /-- ENGINE_COPY: the copy engine of core c takes the COPY at the head of its queue (R155, R503). -/
  | engineCopy (c : CoreId)
  /-- SYNC: the sync-only engine of core c takes the SYNC at the head of its queue (R153). -/
  | sync (c : CoreId)
  /-- ENGINE_COMPLETE: the oldest instruction in flight on engine eng of core c completes (R174). -/
  | engineComplete (c : CoreId) (eng : BitVec 3)
  /-- RESIDUE_MISMATCH: a checker of core c finds a mismatch in an instruction in flight, as x names them, at row m, step k, column n (R239). -/
  | residueMismatch (c : CoreId) (x : Checked) (m : BitVec 16) (k n : BitVec 8)
  /-- WALK: the Rachis walker of core c's cluster translates a page for the command of core c (R295). -/
  | walk (c : CoreId) (future : BitVec 20) (layer : BitVec 8) (page : BitVec 27)
  /-- KV_ENABLE: KV_CTL.ENABLE is written with 1 (R279). -/
  | kvEnable
  /-- KV_DISABLE: KV_CTL.ENABLE is written with 0 (R279). -/
  | kvDisable
  /-- KV_INIT_DONE: KV initialisation ends (R279). -/
  | kvInitDone
  /-- COUNTER_SIGNAL: the oldest signal in flight to counter n reaches its home (R182). -/
  | counterSignal (n : BitVec 16)
  /-- WAKE: a wake reaches a waiter of core c (who 0 the control core, otherwise ENG + 1) (R184). -/
  | wake (c : CoreId) (who : BitVec 3)
  /-- COUNTER_POLL: the watchers without a watch entry re-read counter n (R185). -/
  | counterPoll (n : BitVec 16)
  /-- WAIT_TIMEOUT: a sleeping wait of core c reaches its tick count (R188). -/
  | waitTimeout (c : CoreId) (who : BitVec 3)
  /-- PREFETCH_ISSUE: the prefetch runner of slice b issues its next entry (R57). -/
  | prefetchIssue (b : SliceId)
  /-- PREFETCH_ARRIVAL: every byte of an entry in flight of slice b, the oldest that can be, is in place (R58). -/
  | prefetchArrival (b : SliceId)
  /-- HBM_LINE_FILL: the requested HBM line at a arrives in its home slice; bad says that it is uncorrectable (R43, R50). -/
  | hbmLineFill (a : BitVec 48) (flaw : Flaw)
  /-- SCRUB: the scrub reads the line x and finds flaw (R403). -/
  | scrub (x : ScrubLine) (flaw : Flaw)
  /-- HBM_TEMP_SAMPLE: stack st is sampled at temp (R66). -/
  | hbmTempSample (st : BitVec 4) (temp : BitVec 12)
  /-- TEST_END: the targeted test of a unit ends (R411). -/
  | testEnd (cls : BitVec 4) (unit : BitVec 48) (pass : Bool)
  /-- ERRLOG_TAIL_WRITE: ERRLOG_TAIL is written with v (R418). -/
  | errlogTailWrite (v : Word)
  /-- ALERT_CLEAR: 1 is written to CHIP_STAT.ALERT (R419). -/
  | alertClear
  /-- COOLANT_CLEAR: 1 is written to MOD_STAT.COOLANT (R439). -/
  | coolantClear
  /-- REGISTER_WRITE: the management register word at offset off is written with v (R460). -/
  | registerWrite (off : BitVec 24) (v : Word)
  /-- GROUP_REGISTER: GROUP_REG is written with OP = 1 for group g (R355). -/
  | groupRegister (g : BitVec 12)
  /-- GROUP_UNREGISTER: GROUP_REG is written with OP = 0 for group g (R355). -/
  | groupUnregister (g : BitVec 12)
  /-- LINK_DISABLE: LINK_CTL[l].DISABLE is written with 1 (R340). -/
  | linkDisable (l : LinkId)
  /-- LINK_ENABLE: LINK_CTL[l].DISABLE is written with 0 (R375). -/
  | linkEnable (l : LinkId)
  /-- LINK_TRAINED: the training of link l ends with the far end's chip and link-in-port numbers (R334). -/
  | linkTrained (l : LinkId) (peer : BitVec 16) (port : BitVec 2)
  /-- DATA_FLIT: link l receives a data flit (R337). -/
  | dataFlit (l : LinkId) (f : Flit)
  /-- IDLE: link l receives an idle control flit (R336). -/
  | idle (l : LinkId) (f : Flit)
  /-- RETRAIN_REQUEST: link l receives a retrain-request control flit (R338). -/
  | retrainRequest (l : LinkId) (f : Flit)
  /-- RETRAIN_DONE: link l receives a retrain-done control flit (R338). -/
  | retrainDone (l : LinkId) (f : Flit)
  /-- DOWN_EXCHANGE: link l receives a down-exchange control flit (R338). -/
  | downExchange (l : LinkId) (f : Flit)
  /-- REPLAY_TIMEOUT: the oldest unacknowledged flit of link l has waited 1.0 us (R337). -/
  | replayTimeout (l : LinkId)
  /-- RETRAIN_START: ACKSEQ of link l has not advanced for 8 us (R338). -/
  | retrainStart (l : LinkId)
  /-- RETRAIN_ATTEMPT_TIMEOUT: the retrain attempt of link l has not completed in 30 us (R338). -/
  | retrainAttemptTimeout (l : LinkId)
  /-- FORWARD: port p receives a message for another chip on sub-lane sub (R347). -/
  | forward (p : PortId) (sub : Bool) (m : Msg)
  /-- READ_REQ: a peer's read request arrives (R351). -/
  | readReq (m : Msg)
  /-- READ_RESP: a read response arrives (R351). -/
  | readResp (m : Msg)
  /-- PEER_READ_TIMEOUT: the oldest read request of core c, or of the prefetch runner of slice c - 1,024, is unanswered after 4 x HOLD (R351). -/
  | peerReadTimeout (c : BitVec 11)
  /-- WRITE_REQ: a peer's write reservation request arrives (R352). -/
  | writeReq (m : Msg)
  /-- WRITE_GRANT: a write grant arrives (R352). -/
  | writeGrant (m : Msg)
  /-- WRITE: a peer's write message arrives (R352). -/
  | write (m : Msg)
  /-- WRITE_ACK: the answer to a peer write message arrives (R352, R353). -/
  | writeAck (m : Msg)
  /-- WRITE_CANCEL: a peer cancels its reservation (R352). -/
  | writeCancel (m : Msg)
  /-- GRANT_EXPIRY: the oldest grant given to chip src has waited 64 x HOLD (R352). -/
  | grantExpiry (src : BitVec 16)
  /-- WRITE_RESEND: the oldest unacknowledged WRITE to chip dst has waited 4 x HOLD (R353). -/
  | writeResend (dst : BitVec 16)
  /-- PIECE: a piece arrives (R357). -/
  | piece (m : Msg)
  /-- CREDIT: a credit arrives (R357). -/
  | credit (m : Msg)
  /-- COUNT: a count arrives (R366). -/
  | count (m : Msg)
  /-- ABANDON: an abandon arrives (R373). -/
  | abandon (m : Msg)
  /-- MGMT_REQ: a forwarded management request arrives (R395, R396). -/
  | mgmtReq (m : Msg)
  /-- MGMT_RESP: a forwarded management response arrives (R395). -/
  | mgmtResp (m : Msg)
  /-- MGMT_FORWARD_TIMEOUT: a forwarded request has no response within MGMT_TO; dropped says it was dropped under R349 (R395). -/
  | mgmtForwardTimeout (tag : BitVec 32) (dropped : Bool)
  /-- DEBUG: a DEBUG message arrives (R497). -/
  | debugMsg (m : Msg)
  /-- ARP_REQUEST: port e receives an ARP request for address tpa (R379). -/
  | arpRequest (e : EthId) (tpa : BitVec 32)
  /-- NEIGHBOUR_SOLICITATION: port e receives a neighbour solicitation for target (R379). -/
  | neighbourSolicitation (e : EthId) (target : BitVec 128)
  /-- PAUSE_FRAME: port e receives a priority pause frame (R380). -/
  | pauseFrame (e : EthId) (pri : BitVec 3) (quanta : BitVec 16)
  /-- CNP: queue pair qp receives a CNP (R380). -/
  | cnp (qp : QpId)
  /-- CNP_RATE_RECOVERY: 55 us have passed without a CNP for qp (R380). -/
  | cnpRateRecovery (qp : QpId)
  /-- RDMA_WRITE: a whole host RDMA WRITE message, its first packet numbered psn, has arrived (R386). -/
  | rdmaWrite (p : QpPacket) (psn : BitVec 24) (rkey : BitVec 32) (va : BitVec 48) (data : List Byte)
  /-- RDMA_READ_REQUEST: a host RDMA READ request arrives (R387). -/
  | rdmaReadRequest (p : QpRequest) (rkey : BitVec 32) (va : BitVec 48) (len : BitVec 32)
  /-- READ_HOLD_RNR: the oldest held host READ of qp has been held 64 us (R99). -/
  | readHoldRnr (qp : QpId)
  /-- SEND: a host SEND message arrives (R388). -/
  | send (p : QpRequest) (data : List Byte)
  /-- RDMA_READ_RESPONSE: the data of the oldest RDMA READ the part sent on qp arrives (R389). -/
  | rdmaReadResponse (p : QpPacket) (data : List Byte)
  /-- ACKNOWLEDGE: qp receives an ACK up to psn (R383). -/
  | acknowledge (p : QpPacket) (psn : BitVec 24)
  /-- SEQUENCE_ERROR_NAK: qp receives a sequence-error NAK naming psn (R383). -/
  | sequenceErrorNak (p : QpPacket) (psn : BitVec 24)
  /-- RNR_NAK: qp receives an RNR NAK (R383). -/
  | rnrNak (p : QpPacket) (delay : BitVec 5)
  /-- RNR_DELAY_EXPIRY: the delay of an RNR NAK on qp ends (R383). -/
  | rnrDelayExpiry (qp : QpId)
  /-- REMOTE_ACCESS_NAK: qp receives a remote-access-error NAK (R390). -/
  | remoteAccessNak (p : QpPacket)
  /-- INVALID_REQUEST_NAK: qp receives an invalid-request NAK (R382). -/
  | invalidRequestNak (p : QpPacket)
  /-- ACK_TIMEOUT: no acknowledgement has reached qp within its timeout (R383). -/
  | ackTimeout (qp : QpId)
  /-- QP_READY: STATE = 1 is written to QP[qp] (R382). -/
  | qpReady (qp : QpId)
  /-- QP_RESET: STATE = 0 is written to QP[qp] (R382). -/
  | qpReset (qp : QpId)
  /-- ETH_LINK_UP: the link of port e comes up (R378). -/
  | ethLinkUp (e : EthId)
  /-- ETH_LINK_DOWN: port e loses its link (R397). -/
  | ethLinkDown (e : EthId)
  /-- SUBMIT: port e receives an FCT SUBMIT, or a datagram of a type that no host sends (R391, R393). -/
  | submit (e : EthId) (src : Source) (hdr : BitVec 128) (body : List Byte)
  /-- COMPLETION_ACK: port e receives an FCT COMPLETION_ACK (R394). -/
  | completionAck (e : EthId) (src : Source) (d : Datagram)
  /-- COMPLETION_RESEND: RESEND us have passed for the unacknowledged completion datagram x of a port (R394). -/
  | completionResend (x : KeptRecord)
  /-- MGMT_READ: port e receives an FCT MGMT_READ (R395). -/
  | mgmtRead (e : EthId) (src : Source) (hdr : BitVec 128) (body : List Byte)
  /-- MGMT_WRITE: port e receives an FCT MGMT_WRITE (R395). -/
  | mgmtWrite (e : EthId) (src : Source) (hdr : BitVec 128) (body : List Byte)
  /-- SNAP_TAKE: SNAP_CTL.TAKE is written; soon says that less than 10 us have passed since the last start (R484). -/
  | snapTake (soon : Bool)
  /-- LATCH: every domain has confirmed the hold and latches (R485). -/
  | latch
  /-- SNAPSHOT_RELEASE: every domain has confirmed the latch and FREEZE falls (R485). -/
  | snapshotRelease
  /-- WATCH_ENABLE: word 0 of watch point i is written with v, which has ENABLE = 1 (R487). -/
  | watchEnable (i : BitVec 6) (v : Word)
  /-- HALT: DBG_CORE_CTL.HALT of core c is written (R492). -/
  | halt (c : CoreId)
  /-- RESUME: DBG_CORE_CTL.RESUME of core c is written (R494). -/
  | resume (c : CoreId)
  /-- STEP: DBG_CORE_CTL.STEP of core c is written (R494). -/
  | step (c : CoreId)
  /-- HALTED: the engines of the halting core c have drained (R493). -/
  | halted (c : CoreId)
  /-- HALT_ALL: DBG_GLOBAL.HALT_ALL is written, with FAB = fab (R497). -/
  | haltAll (fab : Bool)
  /-- RESUME_ALL: DBG_GLOBAL.RESUME_ALL is written, with FAB = fab (R499). -/
  | resumeAll (fab : Bool)
  /-- ATT_REPORT: ATT_CTL is written with OP = 1 (R475). -/
  | attReport
  /-- ATT_REPORT_DONE: the signed report is ready (R475). -/
  | attReportDone
  /-- EXTEND_MREG6: ATT_CTL is written with OP = 2 (R475). -/
  | extendMreg6
  /-- EXTEND_MREG7: ATT_CTL is written with OP = 3 (R475). -/
  | extendMreg7
  /-- INSTALL: FW_CTL is written with OP = 1 (R477). -/
  | install
  /-- INSTALL_DONE: the read-back of the installed slot ends; ok says that it agrees (R477). -/
  | installDone (ok : Bool)
  /-- COMMIT_SVN: FW_CTL is written with OP = 2 (R478). -/
  | commitSvn
  /-- REVOKE_KEY0: FW_CTL is written with OP = 3 (R478). -/
  | revokeKey0
  /-- VERIFY: DBG_CTL.VERIFY is written (R480). -/
  | verify
  /-- VERIFY_DONE: the token check ends (R480). -/
  | verifyDone
  /-- RELOCK: DBG_CTL.RELOCK is written (R481). -/
  | relock
  /-- TELEMETRY_INDEX_WRITE: an I2C write sets the byte index of the telemetry address, or of the FRU area (R429). -/
  | telemetryIndexWrite (x : I2cIndex)
  /-- TELEMETRY_READ: an I2C read of telemetry bytes, or of bytes of the FRU area (R429). -/
  | telemetryRead (x : I2cRead)
  /-- TELEMETRY_SAMPLE: the telemetry sample set is refreshed (R429). -/
  | telemetrySample
  /-- CAP_SAMPLE: the input is sampled (R435). -/
  | capSample (watts volts amps : BitVec 16)
  /-- DIE_TEMP_SAMPLE: the sixteen die sensors are sampled; fall says that 1 ms has passed since w last fell (R436). -/
  | dieTempSample (temps : List (BitVec 12)) (fall : Bool)
  /-- COOLANT_CHECK: a coolant condition has held for 1 s, or the temperatures are measured without one (R439). -/
  | coolantCheck (inlet outlet : BitVec 16)
  /-- THERMAL_TRIP: a sensor reaches its trip temperature (R450). -/
  | thermalTrip
  /-- INPUT_FAULT: the input current has been above 120 A for 20 us (R431). -/
  | inputFault
  /-- INPUT_UNDERVOLTAGE: the input falls below 36.0 V (R431). -/
  | inputUndervoltage
  /-- INPUT_RESTORED: the input has stayed above 38.0 V for 10 ms (R431). -/
  | inputRestored
  /-- POWER_LOSS: power is lost (R421). -/
  | powerLoss
  /-- PWR_EN_RISE: PWR_EN goes high (R443). -/
  | pwrEnRise
  /-- PWR_EN_FALL: PWR_EN goes low (R447). -/
  | pwrEnFall
  /-- RESET_N_ASSERT: RESET_N goes low (R446). -/
  | resetNAssert
  /-- RESET_N_DEASSERT: RESET_N goes high (R446). -/
  | resetNDeassert
  /-- MOD_ID_CHANGE: the slot strap changes to v (R448). -/
  | modIdChange (v : BitVec 3)
  /-- BOOT_ROM: stage 2 runs (R472). -/
  | bootRom
  /-- RAILS: stage 3 runs; ok says that every rail is in regulation (R443, R445). -/
  | rails (ok : Bool)
  /-- SETTINGS_LOAD: stage 4 runs; ok says that the Sheaf initialises (R458, R445). -/
  | settingsLoad (ok : Bool)
  /-- HBM_TRAINING: stage 5 runs; bad lists the channels that fail training (R443, R444). -/
  | hbmTraining (bad : List (BitVec 9))
  /-- STARTUP_LINKS: stage 6 runs; bad lists the links that fail their lane test (R444). -/
  | startupLinks (bad : List LinkId)
  /-- STARTUP_ETHERNET: stage 7 runs (R443). -/
  | startupEthernet
  /-- READY: stage 8 runs and READY is asserted (R443). -/
  | ready
  /-- STAGE_TIMEOUT: a stage has not ended in time (R445). -/
  | stageTimeout
  /-- PEER_HOLD_TIMEOUT: the oldest held peer request has outlasted HOLD (R351). -/
  | peerHoldTimeout
  /-- SNAPSHOT_DEFERRED_START: the snapshot that waited starts (R484). -/
  | snapshotDeferredStart
  /-- THERM_TRIP_RELEASE: PWR_EN has been low for 100 ms after a trip (R450). -/
  | thermTripRelease
  /-- STANDBY_POWER_ON: the input rises above 38.0 V (R431). -/
  | standbyPowerOn
  /-- GROUP_REGISTRATION_DONE: the registration under way ends (R355). -/
  | groupRegistrationDone
  /-- UNRECOGNISED_FRAME: a port receives a frame it does not recognise (R379), or a RoCEv2 packet with an opcode that R381 does not list. -/
  | unrecognisedFrame (f : OddFrame)
  deriving DecidableEq, Repr

end Sys2Proof
end

