-- ==== Sys2Proof/Decode.lean ====
section
/-!
DEFINITION. The words of the commands. The table of operations and events gives no row any bits: a command is a step of the
part, not a word, so no word spells one. (The words that the part itself decodes, control-core and engine instructions and
ring records, stand in its memory; Machine/Control.lean, Machine/Engine.lean and Machine/Records.lean read them.)
-/
namespace Sys2Proof

/-- The command that a word spells by the table's bits: none, since no row has bits. -/
def decodeTableWord (_nbits _w : Nat) : Option Instr := none

end Sys2Proof
end

