-- ==== Sys2Proof/Machine/Bits.lean ====
section
/-!
DEFINITION. Bit fields, little-endian bytes, and the operations on sparse arrays.
-/
namespace Sys2Proof

/-! ### Sparse arrays -/

/-- The value listed at `k`. -/
def Map.find? {α : Type} (m : Map α) (k : Nat) : Option α :=
  match m with
  | [] => none
  | e :: t => if e.1 = k then some e.2 else Map.find? t k

/-- The value at `k`, the default of `k` where `k` is not listed. -/
def Map.get {α : Type} (d : Nat → α) (m : Map α) (k : Nat) : α := (Map.find? m k).getD (d k)

/-- `m` without `k`. -/
def Map.erase {α : Type} (m : Map α) (k : Nat) : Map α :=
  match m with
  | [] => []
  | e :: t => if e.1 = k then Map.erase t k else e :: Map.erase t k

/-- Insert the pair before the first larger key. -/
def Map.insert {α : Type} (m : Map α) (k : Nat) (v : α) : Map α :=
  match m with
  | [] => [(k, v)]
  | e :: t => if k < e.1 then (k, v) :: e :: t else e :: Map.insert t k v

/-- List `v` at `k`. -/
def Map.put {α : Type} (m : Map α) (k : Nat) (v : α) : Map α := Map.insert (Map.erase m k) k v

/-- Write `v` at `k`; a value equal to the default of `k` is not listed. -/
def Map.set {α : Type} [DecidableEq α] (d : Nat → α) (m : Map α) (k : Nat) (v : α) : Map α :=
  if v = d k then Map.erase m k else Map.put m k v

/-- Keys strictly rising. -/
abbrev Map.sorted {α : Type} (m : Map α) : Prop := m.Pairwise fun a b => a.1 < b.1

/-- The canonical form: keys strictly rising, no entry equal to its default. -/
abbrev Map.canonical {α : Type} (d : Nat → α) (m : Map α) : Prop := Map.sorted m ∧ ∀ e ∈ m, e.2 ≠ d e.1

/-- Write a run of values from `k`. -/
def Map.setRun {α : Type} [DecidableEq α] (d : Nat → α) (m : Map α) (k : Nat) (vs : List α) : Map α :=
  match vs with
  | [] => m
  | v :: t => Map.setRun d (Map.set d m k v) (k + 1) t

/-- List a run of values from `k`. -/
def Map.putRun {α : Type} (m : Map α) (k : Nat) (vs : List α) : Map α :=
  match vs with
  | [] => m
  | v :: t => Map.putRun (Map.put m k v) (k + 1) t

/-- Remove the keys from `lo` up to but not including `hi`. -/
def Map.clear {α : Type} (m : Map α) (lo hi : Nat) : Map α := m.filter fun e => e.1 < lo || hi ≤ e.1

namespace Machine

/-! ### Fields -/

/-- The field of `len` bits from bit `lo`, as a number. -/
def fld {n : Nat} (w : BitVec n) (lo len : Nat) : Nat := (w.toNat >>> lo) % 2 ^ len

/-- Bit `i` as a truth value. -/
def bit {n : Nat} (w : BitVec n) (i : Nat) : Bool := w.getLsbD i

/-- `w` with the field of `len` bits from bit `lo` replaced by `v`. -/
def setFld {n : Nat} (w : BitVec n) (lo len v : Nat) : BitVec n :=
  (w &&& ~~~(BitVec.ofNat n ((2 ^ len - 1) <<< lo))) ||| BitVec.ofNat n ((v % 2 ^ len) <<< lo)

/-- A word made of fields: (lowest bit, value). -/
def ofFields (n : Nat) (fs : List (Nat × Nat)) : BitVec n :=
  BitVec.ofNat n (fs.foldl (fun a f => a + f.2 <<< f.1) 0)

def b2n (b : Bool) : Nat := if b then 1 else 0

/-- A number as a signed value of `n` bits. -/
def toSigned (n v : Nat) : Int := if 2 ^ (n - 1) ≤ v % 2 ^ n then (v % 2 ^ n : Int) - 2 ^ n else (v % 2 ^ n : Int)

/-- An integer as an unsigned pattern of `n` bits. -/
def ofSigned (n : Nat) (v : Int) : Nat := (v % (2 ^ n : Int)).toNat

def ceilDiv (a b : Nat) : Nat := (a + b - 1) / b

/-! ### Little-endian bytes (R7) -/

/-- The number that the bytes hold, byte 0 least significant. -/
def leNat : List Byte → Nat
  | [] => 0
  | b :: t => b.toNat + 256 * leNat t

/-- The `n` bytes of `v`, byte 0 first. -/
def natLE : Nat → Nat → List Byte
  | 0, _ => []
  | n + 1, v => BitVec.ofNat 8 v :: natLE n (v / 256)

/-- The bytes of a bit vector of `8 * n` bits. -/
def bvLE (n : Nat) (w : BitVec (8 * n)) : List Byte := natLE n w.toNat

/-- The `n` numbers from `lo`. -/
def span (lo n : Nat) : List Nat := (List.range n).map (lo + ·)

/-- The bytes of an ASCII string. -/
def asciiBytes (s : String) : List Byte := s.toList.map fun c => BitVec.ofNat 8 c.toNat

/-- `bs` cut or filled with zeros to `n` bytes. -/
def padTo (n : Nat) (bs : List Byte) : List Byte := (bs ++ List.replicate (n - bs.length) 0).take n

/-- The pieces of `n` elements. The count bounds the recursion. -/
def chunksOf {α : Type} (n : Nat) (fuel : Nat) (l : List α) : List (List α) :=
  match fuel with
  | 0 => []
  | f + 1 => if l.isEmpty then [] else l.take n :: chunksOf n f (l.drop n)

/-- Replace the elements that satisfy `p`. -/
def mapIf {α : Type} (p : α → Bool) (f : α → α) (l : List α) : List α := l.map fun a => if p a then f a else a

/-- Remove the first element that satisfies `p`. -/
def dropFirst {α : Type} (p : α → Bool) : List α → List α
  | [] => []
  | a :: t => if p a then t else a :: dropFirst p t

/-- Update the first element that satisfies `p`. -/
def updFirst {α : Type} (p : α → Bool) (f : α → α) : List α → List α
  | [] => []
  | a :: t => if p a then f a :: t else a :: updFirst p f t

/-- Update the last element that satisfies `p`. -/
def updLast {α : Type} (p : α → Bool) (f : α → α) (l : List α) : List α := (updFirst p f l.reverse).reverse

/-- The element with the least key, the earliest of equals. -/
def minBy? {α : Type} (key : α → Int) : List α → Option α
  | [] => none
  | a :: t =>
    match minBy? key t with
    | none => some a
    | some b => if key b < key a then some b else some a

/-- CRC-32C (R336): polynomial 0x1EDC_6F41 reflected, initial value all ones, final complement. -/
def crcBit (c : BitVec 32) : BitVec 32 := if c.getLsbD 0 then (c >>> 1) ^^^ 0x82F63B78#32 else c >>> 1

def crcByte (c : BitVec 32) (b : Byte) : BitVec 32 :=
  crcBit (crcBit (crcBit (crcBit (crcBit (crcBit (crcBit (crcBit (c ^^^ b.setWidth 32))))))))

def crc32c (bs : List Byte) : BitVec 32 := ~~~(bs.foldl crcByte 0xFFFFFFFF#32)

end Machine
end Sys2Proof
end

