-- ==== Sys2Proof/Config.lean ====
section
/-!
DEFINITION. What the manual leaves open and what it takes from published standards: constants with no value that a proof
could see. Each is named in the assumption log.
-/
namespace Sys2Proof.Config

/-- The sequence of free values: the model's `fresh` counter picks the place (log 8). -/
opaque freeWord : Nat → BitVec 64

/-- A free truth value (log 8). -/
opaque freeBool : Nat → Bool

/-- The byte at offset `a` of a core memory whose contents are undefined since run `n` (R80, R226; log 7). -/
opaque freeByte : (n a : Nat) → BitVec 8

/-- SHAKE256 with 256 bits of output, of a byte string (R453, R469; a published standard, log 6). -/
opaque shake256 : List (BitVec 8) → BitVec 256

/-- Whether an ML-DSA-65 signature verifies: public key, message, context string, signature (R471, R479; log 6). -/
opaque mldsaVerify : (key msg ctx sig : List (BitVec 8)) → Bool

/-- The WRAP fuse: the 256-bit key that wraps the device's private key, read by the security engine alone (R469; log 6). -/
opaque wrapFuse : BitVec 256

/-- The device's private key as manufacture writes it, wrapped, at 0x1E_0000 of the MRAM: 8 KiB (R470; log 6). -/
opaque wrappedKey : List (BitVec 8)

/-- The bytes of the reserved MRAM region 0x1E_4000 to 0x1F_FEFF (R470; log 6). -/
opaque mramReserved : List (BitVec 8)

/-- A private key taken out of its wrapping (R469, R474; log 6). -/
opaque unwrapKey : (wrap : BitVec 256) → (wrapped : List (BitVec 8)) → List (BitVec 8)

/-- An ML-DSA-65 signature: private key, message, context string (R474, R476; log 6). -/
opaque mldsaSignWith : (key msg ctx : List (BitVec 8)) → List (BitVec 8)

/-- The ML-DSA-65 signature of a message under the device identity key: the key that `wrappedKey` holds under `wrapFuse` (R469, R474, R476). -/
def mldsaSign (msg ctx : List (BitVec 8)) : List (BitVec 8) := mldsaSignWith (unwrapKey wrapFuse wrappedKey) msg ctx

/-- A value of the physical random source (R480; log 6). -/
opaque challenge : Nat → BitVec 256

/-- Fuse contents at manufacture (R469; log 6). -/
opaque keyHash : Nat → BitVec 256
opaque dbgKeyHash : BitVec 256
opaque romDigest : BitVec 256

/-- The FRU area's bytes that manufacture fixes (R467; log 6). -/
opaque fruSerial : List (BitVec 8)
opaque fruDate : BitVec 16
opaque fruMac : BitVec 48

/-- The device certificate (R470, R474; log 6). -/
opaque certificate : List (BitVec 8)

/-- Flits of replies that a link holds before the chip stops to accept requests (R342; log 36). -/
opaque replyFlits : Nat

/-- A function's value that the interval search of the vector functions has not settled (R209, R251; log 20). -/
opaque unsettled : (f : Nat) → (x : BitVec 64) → BitVec 64

/-- How long control core `core` sleeps after its n-th instruction since READY, in control cycles (R483; log 8). -/
opaque slept : (core n : Nat) → BitVec 64

/-- Whether the n-th frame that a port receives since READY carries a VLAN tag, and how long one is whose command does not say it (R482; log 54). -/
opaque frameTagged : (port n : Nat) → Bool
opaque frameLength : (port n : Nat) → Nat

/-- The firmware image that manufacture writes into slot 0 (R470, R471; log 6). -/
opaque factoryFw : List (Nat × BitVec 8)

end Sys2Proof.Config
end

