-- ==== Sys2Proof/Machine/State.lean ====
section
/-!
DEFINITION. The state of the part as plain data, the reasons a command can stop, and the state at READY (R12).
-/
namespace Sys2Proof.Machine

/-- Why the machine stops with a fault. -/
inductive Fault where
  /-- Raised by a command that names a stack, channel or die sensor the part does not have (R4). Safe: the part has no
  such unit, so the command cannot arise. -/
  | noSuchUnit
  deriving DecidableEq, Repr

/-- Why a command is refused. -/
inductive Refusal where
  /-- Raised by the dispatch arm of a command that has no meaning yet. Safe: nothing is claimed of it. -/
  | notModelled (mnemonic : String)
  deriving DecidableEq, Repr

/-! ### Counters, waits and wakes (R178 to R196) -/

/-- Who waits on a counter (R181, R184). -/
inductive Waiter where
  | control (core : Nat)
  | engine (core eng : Nat)
  | prefetch (slice slot entry : Nat)
  | start (slot : Nat)
  deriving DecidableEq, Repr

/-- A registered watch (R184); `polling` marks a watcher without an entry (R185); `ticks` is the
timeout it started with (R187, R196). -/
structure Watch where
  ctr     : Nat
  target  : Word
  who     : Waiter
  polling : Bool
  ticks   : Nat
  deriving DecidableEq, Repr

/-- A signal that has left its source and not reached its counter (R182, R195); `die` is the base die that it left from (R20). -/
structure Sig where
  ctr  : Nat
  inc  : Nat
  slot : Option Nat
  core : Option Nat
  die  : Nat
  deriving DecidableEq, Repr

/-- A wake on its way to its waiter, with the value it reports (R184, R188). -/
structure WakeUp where
  who   : Waiter
  value : Word
  deriving DecidableEq, Repr

structure Sync where
  counters : Map Word
  watches  : List Watch
  inflight : List Sig
  wakes    : List WakeUp
  deriving DecidableEq, Repr

/-! ### A core (R124, R145, R172) -/

/-- An engine instruction in an issue queue with the registers that ISSUE copied (R140, R244, R310). `woken` says that its one reading
is behind it and it may run; `alt` that it runs on its cheaper path (R61); `descs` are the page descriptors that walks have brought it, by
page (R295); `checked` that it has passed the checks of R176, which are made once; `flight` is its number once it is in flight. -/
structure EInstr where
  raw    : BitVec 128
  addr   : BitVec 48
  g      : Map Word
  d      : Map (BitVec 256)
  asleep : Bool
  woken  : Bool
  alt    : Bool
  descs  : Map (BitVec 128)
  checked : Bool
  flight : Nat
  deriving DecidableEq, Repr

/-- An engine instruction that has left its queue and not completed (R172, R174): `writes` are the bytes that it writes, by location,
address and length (R173), and `old` what they held when it started, by `locKey` (R137, R175); `stored` are those of them that the control core has
stored to since, of which `old` holds what the engine wrote (R136, R137). `late` are the bytes that it has still to read (R173), and `id` its number among
the instructions that the core has started. -/
structure Flying where
  id       : Nat
  addr     : BitVec 48
  op       : BitVec 8
  sctr     : Nat
  sinc     : Nat
  accepted : Bool
  reads    : Nat
  grants   : Nat
  zero     : Bool
  writes   : List (Nat × Nat × Nat)
  old      : Map Byte
  stored   : List Nat
  late     : List (Nat × Nat × Nat)
  deriving DecidableEq, Repr

/-- A line of the instruction cache (R145). -/
structure ICLine where
  set  : Nat
  way  : Nat
  line : Nat
  data : List Byte
  deriving DecidableEq, Repr

/-- Where a load's data goes (R134, R138, R139, R141). -/
inductive LoadDest where
  | g (r : Nat) (size : Nat) (signed : Bool)
  | d (r : Nat)
  deriving DecidableEq, Repr

/-- An outstanding plane load (R146). `value` is the data as the slice read it, little-endian; none while the line is
held (R93). `amo` marks an immediate atomic. -/
structure Load where
  addr  : Nat
  at'   : Nat
  amo   : Bool
  size  : Nat
  dest  : LoadDest
  value : Option (BitVec 256)
  deriving DecidableEq, Repr

/-- A SIGNAL that waits for earlier stores to be accepted (R141). -/
structure PendSig where
  ctr    : Nat
  inc    : Nat
  stores : Nat
  deriving DecidableEq, Repr

/-- What the control core is doing (R143, R184, R193). -/
inductive Activity where
  | idle
  | running
  | atBase
  | waiting (ctr : Nat) (target : Word) (gd : Nat) (pc : BitVec 48)
  | draining (mask : BitVec 5) (pc : BitVec 48)
  | ended
  | stopped
  deriving DecidableEq, Repr

/-- The retained P of the last fused pair (R233): `pages` pages of its key block, 0 for an MMF; `summary` says that they are summaries
(R298, R302). `causal` is the KMMF's CAUSAL bit. -/
structure PBuf where
  rows    : List (List (BitVec 16))
  factors : List (BitVec 32)
  pfmt    : BitVec 8
  k       : Nat
  pages   : Nat
  summary : Bool
  causal  : Bool
  gi      : Word
  limits  : Word
  deriving DecidableEq, Repr

/-- A look-aside or walker-cache translation (R294). -/
structure Trans where
  slot   : Nat
  future : Nat
  layer  : Nat
  page   : Nat
  desc   : BitVec 128
  deriving DecidableEq, Repr

/-- The debug state of a core (R491 to R496). -/
structure DbgCore where
  state    : BitVec 3
  cause    : BitVec 4
  bp       : BitVec 3
  request  : Option (BitVec 4)
  skipOnce : Bool
  stepping : Bool
  resumeWait : Bool
  deriving DecidableEq, Repr

/-- `broken` lists the engines that have stopped at an instruction that failed (R113, R176); `issues` counts the instructions that the control core
has issued since READY (R483). -/
structure Core where
  slot     : Option Nat
  rank     : Nat
  act      : Activity
  based    : Bool
  g        : Map Word
  p        : BitVec 8
  pc       : BitVec 48
  d        : Map (BitVec 256)
  icache   : List ICLine
  icPlru   : Map (BitVec 3)
  icReqs   : List Nat
  stq      : List Nat
  loads    : List Load
  sigs     : List PendSig
  queues   : Map (List EInstr)
  flying   : Map (List Flying)
  held     : Map Nat
  broken   : List Nat
  scratch  : Map Byte
  acc      : Map Byte
  undef    : Nat
  pbuf     : Option PBuf
  kmmSum   : Bool
  lab      : List Trans
  issues   : Nat
  started  : Nat
  dbg      : DbgCore
  deriving DecidableEq, Repr

/-! ### Commands, commit and the Husk (R72 to R123) -/

/-- The command states of R87; `closing` is the end of Committing, or a command that has ended and whose completion
record is not yet written. -/
inductive Phase where
  | admitted
  | ready
  | running
  | committing
  | closing
  deriving DecidableEq, Repr

/-- STATUS of a completion record (R119). -/
inductive Status where
  | committed
  | aborted
  | failed
  deriving DecidableEq, Repr

/-- What follows a kill (R105). -/
inductive AfterKill where
  | rerun
  | retry
  | abort
  | fail
  deriving DecidableEq, Repr

/-- An output-list entry (R86): kind 0 WRITE, 1 REDUCE, 2 FLIP. -/
structure OutEntry where
  kind  : Nat
  addr  : Nat
  bytes : Nat
  deriving DecidableEq, Repr

/-- A schedule named by an annex (R85). -/
structure SchedRef where
  slice : Nat
  w     : Nat
  count : Nat
  first : Nat
  deriving DecidableEq, Repr

/-- The annex and output list as read once (R85). -/
structure Annex where
  privFirst : Nat
  privCount : Nat
  outs      : List OutEntry
  stage     : List Nat
  scheds    : List SchedRef
  deriving DecidableEq, Repr

/-- A staged delta (R48): `op` is the RED code of R154, `bytes` the element's width. -/
structure Delta where
  addr    : Nat
  bytes   : Nat
  op      : Nat
  contrib : Nat
  core    : Nat
  eng     : Nat
  value   : BitVec 64
  deriving DecidableEq, Repr

/-- Staged egress (R93): to a peer plane, or to host memory under a key. `core`, `at'`, `flight` and `reg` name the copy instruction that
sends it and the register of its destination's descriptor; `lines` gives, line by line, the slice in which it is staged. -/
structure Egress where
  host    : Bool
  core    : Option Nat
  reg     : Nat
  at'     : Nat
  flight  : Nat
  dest    : Nat
  addr    : Nat
  data    : List Byte
  lines   : List Nat
  sctr    : Nat
  sinc    : Nat
  granted : Bool
  deriving DecidableEq, Repr

/-- What a page command holds while it runs (R281, R284, R292). -/
structure PageWork where
  locks  : List (Nat × Bool)
  frames : List Nat
  refs   : List (Nat × Int)
  links  : List (Nat × Nat)
  deriving DecidableEq, Repr

/-- A command in an in-flight slot (R73, R87, R89, R91, R94, R113). `qcfg` and `qcomp` are its queue's registers at its admission (R76), `thru`
the lines that it has staged by non-allocating transfers only (R43), `promised` the cores that a pre-emption has freed for it (R111), and
`endNo` its place in the order of ending (R120). `unpaid` is the part of its charge that its queue's deficit has not borne yet (R108), `redo` marks a
command that a mode change's drain has killed (R115), and `aborts` holds the abort messages on their way, each with whether the commit request and
whether the fail message left before it (R113). -/
structure Cmd where
  record   : BitVec 512
  queue    : Nat
  ring     : Nat
  order    : Nat
  phase    : Phase
  lead     : Nat
  members  : Nat
  runs     : Nat
  retries  : Nat
  status   : Option Status
  failed   : Bool
  decided  : Bool
  tooLate  : Bool
  lapsed   : Bool
  clamped  : Bool
  fallback : Bool
  summary  : Bool
  missed   : Bool
  errIdx   : Option (BitVec 32)
  charge   : Word
  unpaid   : Nat
  commitNo : Word
  annex    : Option Annex
  epochAt  : BitVec 32
  modeAt   : BitVec 8
  csets    : BitVec 48
  ways     : BitVec 16
  grantNo  : Nat
  cores    : List Nat
  based    : Bool
  stage    : List Nat
  staged   : Map Byte
  deltas   : List Delta
  egress   : List Egress
  sums     : Map Nat
  done     : List Nat
  work     : Bool
  fin      : Bool
  reqSent  : Bool
  failSent : Bool
  aborts   : List (Bool × Bool)
  kill     : Option AfterKill
  units    : List (Nat × Nat)
  retrying : Bool
  lost     : Option (Nat × Nat)
  page     : PageWork
  view     : List Byte
  qcfg     : Word
  qcomp    : Word
  thru     : List Nat
  promised : List Nat
  redo     : Bool
  endNo    : Option Nat
  deriving DecidableEq, Repr

/-- The round of the commit under way (R95). -/
inductive Round where
  | applying
  | releasing
  deriving DecidableEq, Repr

/-- The commit the sequencer processes (R95, R502). -/
structure Commit where
  slots    : List Nat
  number   : Word
  round    : Round
  todo     : List Nat
  answered : List Nat
  deriving DecidableEq, Repr

/-- A work queue's positions, and the joint set whose members are still to come (R89; R73, R75, R109, R112, R119, R393, R394). -/
structure Queue where
  head     : BitVec 32
  tail     : BitVec 32
  deficit  : Int
  marks    : List (BitVec 32)
  records  : Nat
  expected : BitVec 32
  ctseq    : BitVec 32
  joinLeft : Nat
  joinLead : Nat
  joinEnd  : Option (Status × Option (BitVec 32))
  deriving DecidableEq, Repr

/-- A host or peer write message that waits for the sequencer to finish the commit under way (R97, R502). `psn` is that of its first packet. -/
inductive WaitWrite where
  | host (qp : Nat) (psn : BitVec 24) (va : Nat) (data : List Byte)
  | send (qp : Nat) (psn : BitVec 24) (data : List Byte)
  | peer (m : Msg)
  deriving DecidableEq, Repr

/-- A mode change in progress (R115, R116). -/
structure ModeChange where
  slot      : Nat
  epoch     : BitVec 32
  shadow    : BitVec 64
  split     : Bool
  confirmed : List (Nat × Nat)
  deriving DecidableEq, Repr

structure Dispatch where
  queues  : Map Queue
  slots   : Map Cmd
  nextRR  : Nat
  orders  : Nat
  grants  : Nat
  ends    : Nat
  lastNo  : Word
  current : Option Commit
  waiting : List WaitWrite
  epoch   : BitVec 32
  phase   : BitVec 2
  change  : Option ModeChange
  deriving DecidableEq, Repr

/-! ### Memory (R28 to R71) -/

/-- A line of the Sheaf cache (R42, R43). -/
structure CLine where
  slice : Nat
  set   : Nat
  way   : Nat
  line  : Nat
  dirty : Bool
  deriving DecidableEq, Repr

/-- Who asked for a line: a control core or an engine of the command with the instruction's address, a schedule entry, another
unit of a command, or no command. -/
inductive Asker where
  | control (core at' : Nat)
  | engine (core eng at' : Nat)
  | entry (slice i : Nat)
  | cmd
  | system
  deriving DecidableEq, Repr

/-- A line requested from its channel (R43, R50); `ahead` says that it is fetched ahead, so that no command's access meets what is in it (R401). -/
structure FillReq where
  line   : Nat
  ways   : BitVec 16
  urgent : Bool
  slot   : Option Nat
  asker  : Asker
  ahead  : Bool
  deriving DecidableEq, Repr

/-- A schedule that a runner works through (R57). -/
structure Sched where
  slice  : Nat
  slot   : Nat
  w      : Nat
  count  : Nat
  first  : Nat
  next   : Nat
  flying : List Nat
  urgent : List Nat
  deriving DecidableEq, Repr

/-- A distributor instance (R305, R306). -/
structure Distributor where
  owner  : Option Nat
  posted : Nat
  items  : List (Nat × BitVec 128)
  deriving DecidableEq, Repr

/-- A walker-cache entry, the older first in its set (R294). -/
structure WEntry where
  cluster : Nat
  trans   : Trans
  frame   : Nat
  deriving DecidableEq, Repr

structure Memory where
  plane   : Map Byte
  poison  : List Nat
  cache   : List CLine
  plru    : Map (BitVec 16)
  fills   : List FillReq
  entries : Map (BitVec 256)
  scheds  : List Sched
  dists   : Map Distributor
  wcache  : List WEntry
  deriving DecidableEq, Repr

/-! ### Links, peer memory and collectives (R332 to R375) -/

/-- A flit in a replay buffer, with the message it belongs to (R337, R338). -/
structure TFlit where
  flit : Flit
  mid  : Nat
  deriving DecidableEq, Repr

/-- A message being sent on a link (R338, R346). -/
structure LMsg where
  mid : Nat
  sub : Bool
  msg : Msg
  deriving DecidableEq, Repr

/-- A link end. `await` and `tell` say that the exchange over a link that went down still has to come from the far end, and to be sent to it
(R338). `turn` is the virtual channel whose turn it is and `sent` the flits it has sent in it (R343). -/
structure Link where
  state    : BitVec 3
  fails    : BitVec 8
  peer     : BitVec 16
  txSeq    : BitVec 16
  rxNext   : BitVec 16
  rxLast   : Option (BitVec 16)
  nakDue   : Bool
  gotOne   : Bool
  training : Bool
  doneSent : Bool
  replays  : Nat
  replay   : List TFlit
  waiting  : List TFlit
  msgs     : List LMsg
  used     : Map Nat
  owed     : Map Nat
  parts    : Map (List Byte)
  await    : Bool
  tell     : Bool
  turn     : Nat
  sent     : Nat
  deriving DecidableEq, Repr

/-- Who a remote read serves (R351, R389). -/
inductive ReadFor where
  | engine (core : Nat)
  | copy (slot : Nat)
  | prefetch (slice slot entry : Nat)
  deriving DecidableEq, Repr

/-- A remote source being read: `left` lists the requests outstanding, oldest first, and `todo` those not yet sent, each an address and
a length (R351, R389). `dest` is the peer chip, or the key of host memory. -/
structure Transfer where
  who  : ReadFor
  slot : Nat
  host : Bool
  dest : Nat
  left : List (Nat × Nat)
  todo : List (Nat × Nat)
  buf  : Map Byte
  ins  : Option EInstr
  deriving DecidableEq, Repr

/-- A reservation given to a peer, or a write sent and not acknowledged (R352, R353). -/
structure Reservation where
  chip  : Nat
  addr  : Nat
  lines : Nat
  deriving DecidableEq, Repr

structure Unacked where
  dst     : Nat
  msg     : Msg
  resends : Nat
  slot    : Nat
  deriving DecidableEq, Repr

/-- A registered group (R354, R355, R356), with the counts that have come for a collective not yet granted (R357): GSEQ, rank, count. -/
structure Group where
  entry   : BitVec 512
  members : List Nat
  next    : BitVec 32
  early   : List (BitVec 32 × Nat × Nat)
  deriving DecidableEq, Repr

/-- A run of bytes that a step of a collective moves: the other rank, the offset in the instance's vector, the length, and the offset in this
member's working bytes (R357, R364). -/
structure CMove where
  rank : Nat
  wire : Nat
  len  : Nat
  at'  : Nat
  deriving DecidableEq, Repr

/-- One step of a collective's plan (R364, R365): what is sent, what is received, and whether the received bytes are combined. -/
structure CStep where
  sends   : List CMove
  recvs   : List CMove
  combine : Bool
  deriving DecidableEq, Repr

/-- A piece: the other rank, its offset in the vector, its bytes (R357). -/
structure CPiece where
  rank : Nat
  off  : Nat
  data : List Byte
  deriving DecidableEq, Repr

/-- A slot of a group's window and the piece in it (R354, R357): the sending rank, the piece's offset in the vector, its length. -/
structure CSlot where
  slot : Nat
  rank : Nat
  off  : Nat
  len  : Nat
  deriving DecidableEq, Repr

/-- A collective instance (R358, R359, R371): the steps still to come, the moves that the present step still waits for, the pieces still to
send and the slots of the window that hold one, the counts and this member's send counts (R366), and the credits: `credits` held of each rank, `unret` used and not
returned, `srcs` the sources of the present step, `fresh` where a step has changed them, `granted` the slots that each source holds, `owed` the returns due to it. -/
structure Inst where
  slot    : Nat
  group   : Nat
  gseq    : BitVec 32
  desc    : BitVec 512
  bundle  : List (Nat × Nat × Nat)
  plan    : List CStep
  vec     : Map Byte
  waits   : List CMove
  combine : Bool
  out     : List CPiece
  window  : List CSlot
  counts  : Map Nat
  sends   : List Nat
  counted : Bool
  started : Bool
  inStep  : Bool
  wrote   : Bool
  credits : Map Nat
  unret   : Map Nat
  srcs    : List Nat
  fresh   : Bool
  granted : Map Nat
  owed    : Map Nat
  deriving DecidableEq, Repr

/-- A management request forwarded over VC3, with the header of its datagram (R395). -/
structure Forwarded where
  tag  : BitVec 32
  port : Nat
  src  : Source
  hdr  : BitVec 128
  deriving DecidableEq, Repr

/-- A message that waits to be taken, and the link and lane whose buffer its last flit fills (R342). -/
structure Arrival where
  msg : Msg
  via : Option (Nat × Nat)
  deriving DecidableEq, Repr

/-- The links and what goes over them. `heldReqs` are peer requests held on a line and `readWaits` peer reads that wait for the lines listed (R43, R99,
R351); `vc3Sent` counts the VC3 messages that may be unapplied at a chip, and `vc3Held` are those that wait for one to be applied (R346). -/
structure Fabric where
  links     : Map Link
  mids      : Nat
  inbox     : List Arrival
  mseqOut   : Map Nat
  mseqIn    : Map Nat
  reorder   : List Msg
  transfers : List Transfer
  given     : List Reservation
  unacked   : List Unacked
  queued    : List Unacked
  heldReqs  : List Msg
  vc3Held   : List Msg
  vc3Sent   : Map Nat
  readWaits : List (Msg × List Nat)
  groups    : Map Group
  regGroup  : Option Nat
  marks     : List (Nat × BitVec 32 × Nat)
  insts     : List Inst
  forwarded : List Forwarded
  tags      : BitVec 32
  deriving DecidableEq, Repr

/-! ### Ethernet (R378 to R399) -/

/-- A packet or request the part has sent on a queue pair and keeps until it is acknowledged (R383); `msg` is the PSN of its message's first. -/
structure Packet where
  psn  : BitVec 24
  msg  : BitVec 24
  read : Bool
  slot : Option Nat
  rkey : BitVec 32
  va   : Word
  data : List Byte
  len  : Nat
  deriving DecidableEq, Repr

/-- The first packets of an RDMA WRITE message that the receive buffer has taken (R386): the PSN of the first, the address, the length of the whole
message, and the bytes so far. -/
structure PartMsg where
  psn  : BitVec 24
  va   : Nat
  len  : Nat
  data : List Byte
  deriving DecidableEq, Repr

/-- A queue pair (R380, R383): what it keeps, of which the newest `unsent` have not left yet, the resends since the last progress, whether it waits
out an RNR delay, and by how much its injection rate is below line rate, in units of 2^-32 of it; `seqNak` says that a gap in what it receives has
been answered already, `part` what it holds of a message, and `marked` that a CNP has left for it. -/
structure Qp where
  kept    : List Packet
  unsent  : Nat
  retries : Nat
  rnr     : Bool
  slow    : Nat
  seqNak  : Bool
  part    : Option PartMsg
  marked  : Bool
  deriving DecidableEq, Repr

/-- A host READ held on a locked line (R99, R387), or that waits for the lines listed (R43). -/
structure HeldRead where
  qp  : Nat
  psn : BitVec 24
  va  : Nat
  len : Nat
  wait : Option (List Nat)
  deriving DecidableEq, Repr

/-- A management source (R395): the least recently used first. -/
structure MgmtSource where
  port : Nat
  src  : Source
  next : BitVec 32
  hdr  : BitVec 128
  body : List Byte
  deriving DecidableEq, Repr

/-- A management read that waits for a snapshot (R395, R484): from the source of a datagram, or from another chip under its tag. -/
structure Ask where
  far  : Option (Nat × BitVec 32)
  port : Nat
  src  : Source
  hdr  : BitVec 128
  offs : List Nat
  deriving DecidableEq, Repr

/-- A completion datagram not yet acknowledged (R394). -/
structure Completion where
  port  : Nat
  queue : Nat
  hdr   : BitVec 128
  body  : List Byte
  deriving DecidableEq, Repr

/-! ### What has left the part -/

/-- What encloses the content of a frame that a port sends (R379, R381, R399): the MACs, the VLAN identifier and priority of its tag, the addresses
with the traffic class, the UDP ports, and the remote queue pair of a RoCEv2 packet. `port` is the port that it leaves by. -/
structure Wire where
  port   : Nat
  dmac   : BitVec 48
  smac   : BitVec 48
  tag    : Option (BitVec 12 × BitVec 3)
  dip    : BitVec 128
  sip    : BitVec 128
  tclass : BitVec 8
  dport  : BitVec 16
  sport  : BitVec 16
  dqpn   : BitVec 24
  deriving DecidableEq, Repr

/-- Something the part has sent. -/
inductive Sent where
  | fct (w : Wire) (port : Nat) (target : Source) (hdr : BitVec 128) (body : List Byte)
  | rdmaAck (w : Wire) (qp : Nat) (psn : BitVec 24)
  /-- kind: 0 sequence error, 1 RNR, 2 remote access error, 3 invalid request. -/
  | rdmaNak (w : Wire) (qp : Nat) (kind : Nat) (psn : BitVec 24)
  | rdmaReadResp (w : Wire) (qp : Nat) (data : List Byte)
  | rdma (w : Wire) (qp : Nat) (p : Packet)
  | cnp (w : Wire) (qp : Nat)
  | pause (port : Nat)
  | arpReply (w : Wire) (port : Nat) (mac : BitVec 48) (ip : BitVec 32)
  | advert (w : Wire) (port : Nat) (mac : BitVec 48) (ip : BitVec 128)
  | flit (link : Nat) (f : Flit)
  | mgmt (hdr : BitVec 256) (data : List Byte)
  | i2c (data : List Byte)
  deriving DecidableEq, Repr

/-- `paused` holds the paused priorities of a port and `stalled` the frames that wait for them (R380); `resent` the retransmissions since its last record (R397). -/
structure Ether where
  qps     : Map Qp
  paused  : Map (BitVec 8)
  resent  : Map Nat
  held    : List HeldRead
  sources : List MgmtSource
  asks    : List Ask
  comps   : List Completion
  stalled : List (Nat × Sent)
  deriving DecidableEq, Repr

/-! ### Errors, module, settings, security, debug (R400 to R499) -/

/-- A targeted test under way (R409, R410, R412): the index of the record that started it, the SELFTEST commands that wait on
it, whether it returns a fenced unit, and whether an error has been found in the unit meanwhile. -/
structure UnitTest where
  cls   : Nat
  unit  : Nat
  start : BitVec 32
  slots : List Nat
  back  : Bool
  wasUp : Bool
  bad   : Bool
  deriving DecidableEq, Repr

structure ErrLog where
  head    : Nat
  tail    : Nat
  written : Nat
  recs    : Map (BitVec 256)
  deriving DecidableEq, Repr

/-- What a detector of R400 guards: an 8-byte word of a scratchpad, a 4-byte entry of an accumulator store, a P buffer, a register (file 0 g,
1 p, 2 d), an entry of an issue queue, a line of an instruction cache; a committed or a staged line of the Sheaf, a line on its way over a
bridge; the logic of a unit that is never fenced. -/
inductive Cell where
  | scratch (core off : Nat)
  | acc (core off : Nat)
  | pbuf (core : Nat)
  | reg (core file n : Nat)
  | entry (core eng i : Nat)
  | icache (core line : Nat)
  | sheaf (line : Nat)
  | staged (slot line : Nat)
  | bridge (slice line : Nat)
  | logic (cls unit : Nat)
  deriving DecidableEq, Repr

/-- An error that the next read of a cell finds (R400; log 50): `bad` says that it cannot be corrected. -/
structure Upset where
  cell : Cell
  bad  : Bool
  deriving DecidableEq, Repr

structure Faults where
  log       : ErrLog
  alert     : Bool
  faulted   : Bool
  coreFence : List Nat
  chanFence : List Nat
  tests     : List UnitTest
  passes    : Map Nat
  ceCounts  : Map Nat
  upsets    : List Upset
  deriving DecidableEq, Repr

/-- A settings image in the MRAM (R453): `intact` says that its DIGEST matches. -/
structure Image where
  seq     : Word
  magic   : BitVec 32
  version : BitVec 8
  count   : Nat
  entries : List (BitVec 128)
  intact  : Bool
  deriving DecidableEq, Repr

/-- The settings store (R452 to R468). -/
structure Mram where
  imageA   : Image
  imageB   : Image
  loaded   : BitVec 2
  loadSeq  : Word
  loadTag  : Word
  clamps   : Nat
  report   : List (BitVec 256)
  storing  : Option Nat
  readImage : Option (List (BitVec 128))
  locked   : Bool
  deriving DecidableEq, Repr

/-- The security engine (R469 to R481). -/
structure Security where
  svn       : Nat
  key0Rev   : Bool
  fw0       : Map Byte
  fw1       : Map Byte
  bootSlot  : BitVec 1
  keySlot   : BitVec 1
  fallback  : Bool
  runSvn    : Nat
  runVer    : Word
  mreg      : Map (BitVec 256)
  attData   : BitVec 256
  attBusy   : Option (List Byte)
  reports   : BitVec 32
  attBuf    : List Byte
  fwBusy    : Option (List Byte)
  fwSrc     : Nat × Nat
  fwResult  : BitVec 8
  perm      : BitVec 32
  dbgResult : BitVec 8
  dbgBusy   : Bool
  challenge : Nat
  token     : Map Byte
  deriving DecidableEq, Repr

/-- The module: pins, power, thermal state and start-up (R423 to R451). -/
structure Module where
  inputOk    : Bool
  pwrEn      : Bool
  resetN     : Bool
  readyPin   : Bool
  tripN      : Bool
  modIdPin   : BitVec 3
  modId      : BitVec 3
  stage      : BitVec 4
  fail       : BitVec 8
  lastTrip   : BitVec 2
  inFault    : Bool
  latched    : Bool
  coolant    : Bool
  coolIn     : BitVec 16
  coolOut    : BitVec 16
  dieWarn    : Bool
  capStep    : Nat
  capHeld    : Nat
  capHigh    : Nat
  samples    : List Nat
  warnStep   : Nat
  warnHigh   : Nat
  stackHigh  : Map Nat
  teleIndex  : Byte
  teleSet    : List Byte
  fruIndex   : Byte
  deriving DecidableEq, Repr

/-- The snapshot's progress (R484, R485). -/
inductive SnapPhase where
  | idle
  | hold
  | latched
  deriving DecidableEq, Repr

structure Debug where
  snap      : SnapPhase
  snapWaits : Bool
  snapSeq   : BitVec 32
  snapNo    : Word
  copies    : Map Word
  view      : Map Word
  snapFree  : Nat
  sentAt    : Nat
  deriving DecidableEq, Repr

/-! ### The whole state -/

/-- The state of the part, the queue of commands waiting, and the model's own `fresh` and `sent`. `regs` holds the
management register words that software or the settings store writes, keyed by offset; `live` the words that the part
counts or samples and a snapshot copies (R484). -/
structure State where
  pending : List Instr
  fresh   : Nat
  sent    : List Sent
  regs    : Map Word
  live    : Map Word
  mem     : Memory
  sync    : Sync
  cores   : Map Core
  disp    : Dispatch
  fab     : Fabric
  eth     : Ether
  flt     : Faults
  mram    : Mram
  sec     : Security
  mod     : Module
  dbg     : Debug
  deriving DecidableEq, Repr

/-! ### The state at READY -/

def DbgCore.reset : DbgCore :=
  { state := 0, cause := 0, bp := 0, request := none, skipOnce := false, stepping := false,
    resumeWait := false }

/-- An idle core (R80, R124). -/
def Core.reset : Core :=
  { slot := none, rank := 0, act := .idle, based := false, g := [], p := 0, pc := 0, d := [], icache := [], icPlru := [],
    icReqs := [], stq := [], loads := [], sigs := [], queues := [], flying := [], held := [], broken := [], scratch := [], acc := [],
    undef := 0, pbuf := none, kmmSum := false, lab := [], issues := 0, started := 0, dbg := DbgCore.reset }

def Queue.reset : Queue :=
  { head := 0, tail := 0, deficit := 0, marks := [], records := 0, expected := 0, ctseq := 0, joinLeft := 0,
    joinLead := 0, joinEnd := none }

def Dispatch.reset : Dispatch :=
  { queues := [], slots := [], nextRR := 0, orders := 0, grants := 0, ends := 0, lastNo := 0, current := none,
    waiting := [], epoch := 1,
    phase := 0, change := none }

def Memory.reset : Memory :=
  { plane := [], poison := [], cache := [], plru := [], fills := [], entries := [], scheds := [], dists := [],
    wcache := [] }

def Sync.reset : Sync := { counters := [], watches := [], inflight := [], wakes := [] }

/-- A link of an unused axis (R332). -/
def Link.reset : Link :=
  { state := 0, fails := 0, peer := 0, txSeq := 0, rxNext := 0, rxLast := none, nakDue := false, gotOne := false,
    training := false, doneSent := false, replays := 0, replay := [], waiting := [], msgs := [], used := [], owed := [], parts := [],
    await := false, tell := false, turn := 3, sent := 255 }

def Distributor.reset : Distributor := { owner := none, posted := 0, items := [] }

def Fabric.reset : Fabric :=
  { links := [], mids := 0, inbox := [], mseqOut := [], mseqIn := [], reorder := [], transfers := [], given := [],
    unacked := [], queued := [], heldReqs := [], vc3Held := [], vc3Sent := [], readWaits := [], groups := [], regGroup := none, marks := [], insts := [], forwarded := [], tags := 0 }

def Qp.reset : Qp := { kept := [], unsent := 0, retries := 0, rnr := false, slow := 0, seqNak := false, part := none, marked := false }

def Ether.reset : Ether := { qps := [], paused := [], resent := [], held := [], sources := [], asks := [], comps := [], stalled := [] }

def ErrLog.reset : ErrLog := { head := 0, tail := 0, written := 0, recs := [] }

def Faults.reset : Faults :=
  { log := ErrLog.reset, alert := false, faulted := false, coreFence := [], chanFence := [], tests := [], passes := [],
    ceCounts := [], upsets := [] }

/-- Image A at READY: valid, with no entries (log 4). -/
def Image.reset : Image :=
  { seq := 1, magic := 0x53455431, version := 1, count := 0, entries := [], intact := true }

/-- A slot of the settings store that holds no image (R459). -/
def Image.none : Image := { seq := 0, magic := 0, version := 0, count := 0, entries := [], intact := false }

def Mram.reset : Mram :=
  { imageA := Image.reset, imageB := Image.none, loaded := 0, loadSeq := 1, loadTag := 0, clamps := 0, report := [],
    storing := Option.none, readImage := Option.none, locked := false }

def Security.reset : Security :=
  { svn := 0, key0Rev := false, fw0 := Config.factoryFw, fw1 := [], bootSlot := 0, keySlot := 0, fallback := false,
    runSvn := 0, runVer := 0, mreg := [], attData := 0, attBusy := none, reports := 0, attBuf := [], fwBusy := none, fwSrc := (0, 0),
    fwResult := 0, perm := 0, dbgResult := 0, dbgBusy := false, challenge := 0, token := [] }

def Module.reset : Module :=
  { inputOk := true, pwrEn := true, resetN := true, readyPin := true, tripN := true, modIdPin := 0, modId := 0,
    stage := 8, fail := 0, lastTrip := 0, inFault := false, latched := false, coolant := false, coolIn := 0, coolOut := 0,
    dieWarn := false, capStep := 0, capHeld := 0, capHigh := 0, samples := [], warnStep := 0, warnHigh := 0,
    stackHigh := [], teleIndex := 0, teleSet := [], fruIndex := 0 }

def Debug.reset : Debug :=
  { snap := .idle, snapWaits := false, snapSeq := 0, snapNo := 0, copies := [], view := [], snapFree := 0, sentAt := 0 }

/-- The part once READY is asserted (R12), with the default settings of R456. -/
def State.reset : State :=
  { pending := [], fresh := 0, sent := [], regs := [], live := [], mem := Memory.reset, sync := Sync.reset, cores := [],
    disp := Dispatch.reset, fab := Fabric.reset, eth := Ether.reset, flt := Faults.reset, mram := Mram.reset,
    sec := Security.reset, mod := Module.reset, dbg := Debug.reset }

end Sys2Proof.Machine
end

