-- ==== Sys2Proof/Machine/Registers.lean ====
section
/-!
DEFINITION. The table of the management registers: for each 64-bit word of management space its fields, their access, range
and default (R1, R71, R75, R123, R196, R216, R278, R375, R399, R420, R451, R456, R468, R481, R499), and the reading of the
words that software or the settings store writes.
-/
namespace Sys2Proof.Machine

/-- Access of a field (R9's table). -/
inductive Acc where
  | ro
  | rw
  | wo
  | w1c
  | rwl
  deriving DecidableEq, Repr

/-- How a value is checked (R460): any value, a range that clamps, or an encoding whose other values are reserved. Only the
settings of R456 and QCOMP.CRING_LOG2 (R76) carry a check here; every other field is stored as written and judged by the unit
that reads it (R11). -/
inductive Chk where
  | any
  | range (lo hi : Nat)
  | enc (lo hi : Nat)
  deriving DecidableEq, Repr

/-- When a setting takes effect (R456); `never` marks a field that is no setting. -/
inductive Applies where
  | never
  | start
  | epoch
  | write
  deriving DecidableEq, Repr

/-- A field of a register word. -/
structure RField where
  lo   : Nat
  len  : Nat
  acc  : Acc
  chk  : Chk
  dflt : Nat
  app  : Applies
  deriving DecidableEq, Repr

def fRo (lo len : Nat) : RField := ⟨lo, len, .ro, .any, 0, .never⟩
def fRw (lo len : Nat) : RField := ⟨lo, len, .rw, .any, 0, .never⟩
def fRwC (lo len : Nat) (c : Chk) : RField := ⟨lo, len, .rw, c, 0, .never⟩
def fWo (lo len : Nat) : RField := ⟨lo, len, .wo, .any, 0, .never⟩
def fW1c (lo len : Nat) : RField := ⟨lo, len, .w1c, .any, 0, .never⟩
/-- A setting that a management write changes. -/
def fSet (lo len : Nat) (c : Chk) (d : Nat) : RField := ⟨lo, len, .rw, c, d, .write⟩
/-- A setting that only the load changes. -/
def fStart (lo len : Nat) (c : Chk) (d : Nat) : RField := ⟨lo, len, .ro, c, d, .start⟩
/-- A setting that the load and a mode change set. -/
def fEpoch (lo len : Nat) (c : Chk) (d : Nat) : RField := ⟨lo, len, .ro, c, d, .epoch⟩

/-! ### Offsets in management space -/

def mArith : Nat := 0x10
def mPwrCfg : Nat := 0x1000
def mPwrStat : Nat := 0x1008
def mSscCfg : Nat := 0x1010
def mModStat : Nat := 0x1018
def mModCfg : Nat := 0x1020
def mDieTemp (i : Nat) : Nat := 0x1100 + 8 * i
def mQcfg (q : Nat) : Nat := 0x10000 + 64 * q
def mQring (q : Nat) : Nat := 0x10008 + 64 * q
def mQtail (q : Nat) : Nat := 0x10010 + 64 * q
def mQhead (q : Nat) : Nat := 0x10018 + 64 * q
def mQcomp (q : Nat) : Nat := 0x10020 + 64 * q
def mQcompVa (q : Nat) : Nat := 0x10028 + 64 * q
def mQacct (q : Nat) : Nat := 0x10030 + 64 * q
def mQctl (q : Nat) : Nat := 0x10038 + 64 * q
def mSched : Nat := 0x18000
def mTimeout : Nat := 0x18008
def mSyncCfg : Nat := 0x18010
def mEpochCur : Nat := 0x18100
def mEpochPend : Nat := 0x18108
def mSlots : Nat := 0x18200
/-- Queue counter k of queue q (R499): 0 SP_SHEAF, 1 NEAR_HBM, 2 FAR_HBM, 3 PEER_OUT, 4 PEER_IN, 5 HOST_OUT, 6 HOST_IN,
7 MISSES, 8 COMMITS, 9 KILLS. -/
def mQcnt (q k : Nat) : Nat := 0x20000 + 128 * q + 8 * k
def mSheaf : Nat := 0x40000
def mCset (i : Nat) : Nat := 0x40100 + 8 * i
def mTherm : Nat := 0x40400
def mStackTemp (i : Nat) : Nat := 0x40500 + 8 * i
def mQuad (i : Nat) : Nat := 0x40600 + 8 * i
def mQpart (q : Nat) : Nat := 0x41000 + 8 * q
def mKvCtl : Nat := 0x44000
def mKvFut : Nat := 0x44008
def mKvSess : Nat := 0x44010
def mKvFrame : Nat := 0x44018
def mKvClass (c : Nat) : Nat := 0x44100 + 8 * c
/-- Word w of KV_POOL[i]: 0 BASE, 1 control, 2 RING, 3 TAKEN, 4 RETURNED. -/
def mKvPool (i w : Nat) : Nat := 0x45000 + 64 * i + 8 * w
def mLinkStat (l : Nat) : Nat := 0x80000 + 4096 * l
def mLinkErr (l : Nat) : Nat := 0x80008 + 4096 * l
def mLinkCtl (l : Nat) : Nat := 0x80010 + 4096 * l
/-- Link counter k of link l: TX_VC0 to TX_VC3, then RX_VC0 to RX_VC3. -/
def mLinkCnt (l k : Nat) : Nat := 0x80100 + 4096 * l + 8 * k
def mTorus : Nat := 0xA0000
def mVcWeight : Nat := 0xA0010
def mDetour (p : Nat) : Nat := 0xA0100 + 8 * p
def mGroupTbl : Nat := 0xA0200
def mGroupReg : Nat := 0xA0208
def mGroupStat : Nat := 0xA0210
def mCollStat : Nat := 0xA0218
/-- Word w of ETH_PORT[e]: 0 MAC, 1 flags and IPV4, 2 and 3 IPV6, 4 LINK and DROPS. -/
def mEth (e w : Nat) : Nat := 0x100000 + 256 * e + 8 * w
/-- Port counter k: TX_BYTES, RX_BYTES, TX_FRAMES, RX_FRAMES. -/
def mEthCnt (e k : Nat) : Nat := 0x100040 + 256 * e + 8 * k
def mFct : Nat := 0x101000
def mFctAllow (i : Nat) : Nat := 0x101010 + 16 * i
def mCqIp (e : Nat) : Nat := 0x101060 + 32 * e
def mCqMac (e : Nat) : Nat := 0x101070 + 32 * e
def mQp (n w : Nat) : Nat := 0x110000 + 64 * n + 8 * w
def mPkey (k w : Nat) : Nat := 0x120000 + 32 * k + 8 * w
def mHkey (k w : Nat) : Nat := 0x140000 + 32 * k + 8 * w
def mErrHead : Nat := 0x200000
def mErrTail : Nat := 0x200008
def mErrStat : Nat := 0x200010
def mErrCfg : Nat := 0x200018
def mChipStat : Nat := 0x200020
def mCoreFence (w : Nat) : Nat := 0x200100 + 8 * w
def mChanFence (w : Nat) : Nat := 0x200200 + 8 * w
def mEccCnt (r : Nat) : Nat := 0x200300 + 8 * r
def mErrLog : Nat := 0x210000
def mSetStat : Nat := 0x300000
def mSetSeq (i : Nat) : Nat := 0x300008 + 8 * i
def mSetTag : Nat := 0x300018
def mSecStat : Nat := 0x400000
def mFwSrc : Nat := 0x400008
def mFwCtl : Nat := 0x400010
def mFwStat : Nat := 0x400018
def mAttCtl : Nat := 0x400020
def mAttStat : Nat := 0x400028
def mAttData : Nat := 0x400040
def mMreg : Nat := 0x400100
def mDbgCtl : Nat := 0x400200
def mDbgStat : Nat := 0x400208
def mDbgChallenge : Nat := 0x400220
def mAttBuf : Nat := 0x401000
def mDbgToken : Nat := 0x402000
def mCert : Nat := 0x404000
def mCoreDbg (c : Nat) : Nat := 0x800000 + 4096 * c
/-- Word w of watch point i. -/
def mWatch (i w : Nat) : Nat := 0xC00000 + 256 * i + 8 * w
def mSnapCtl : Nat := 0xD00000
def mSnapStat : Nat := 0xD00008
def mSnapCommit : Nat := 0xD00010
def mSysHbm : Nat := 0xD00018
def mDbgGlobal : Nat := 0xD00100
def mDbgFab : Nat := 0xD00108
/-- Core counter k: PORT_IN, PORT_OUT, NEAR_HBM, FAR_HBM, CYC, MX_BUSY, AWN_BUSY, VEC_BUSY, CPY_BUSY, CC_ISSUE, CC_SLEEP. -/
def mCcnt (c k : Nat) : Nat := 0xD80000 + 128 * c + 8 * k
def mView (n : Nat) : Nat := 0xE00000 + 8 * n

/-- The size of management space (R29). -/
def mgmtSize : Nat := 0x1000000

/-- The index and the byte offset within the element of an array of `count` elements, `stride` bytes apart. -/
def arrAt (off base stride count : Nat) : Option (Nat × Nat) :=
  if base ≤ off ∧ off < base + stride * count then some ((off - base) / stride, (off - base) % stride) else none

/-! ### The fields of each block -/

def regFieldsQueue (w : Nat) : Option (List RField) :=
  if w = 0x00 then some [fSet 48 16 (.range 1 65535) 1, fSet 32 16 .any 0, fSet 20 4 (.range 0 10) 4, fSet 17 1 .any 1,
    fSet 16 1 .any 0, fSet 15 1 .any 0, fSet 0 11 (.range 1 1024) 64]
  else if w = 0x08 then some [fSet 6 42 .any 0]
  else if w = 0x10 then some [fRw 0 32]
  else if w = 0x18 then some [fRo 0 32]
  else if w = 0x20 then some [fRw 32 32, fRw 22 10, fRwC 18 4 (.range 0 10)]
  else if w = 0x28 then some [fRw 0 64]
  else if w = 0x30 then some [fRo 0 64]
  else if w = 0x38 then some [fWo 32 32, fWo 2 1, fWo 1 1]
  else none

def regFieldsKvPool (w : Nat) : Option (List RField) :=
  if w = 0x00 then some [fRw 0 64]
  else if w = 0x08 then some [fRw 63 1, fRw 61 2, fRw 56 5, fRw 28 28, fRw 0 28]
  else if w = 0x10 then some [fRw 0 48]
  else if w = 0x18 ∨ w = 0x20 then some [fRo 0 64]
  else if w = 0x28 ∨ w = 0x30 ∨ w = 0x38 then some []
  else none

def regFieldsLink (w : Nat) : Option (List RField) :=
  if w = 0x00 then some [fRo 48 16, fRo 32 8, fRo 0 3]
  else if w = 0x08 then some [fRo 32 32, fRo 0 32]
  else if w = 0x10 then some [fRw 0 1]
  else if 0x100 ≤ w ∧ w < 0x140 then some [fRo 0 64]
  else none

def regFieldsEth (w : Nat) : Option (List RField) :=
  if w = 0x00 then some [fSet 48 12 (.range 0 4094) 0, fSet 0 48 .any 0]
  else if w = 0x08 then some [fSet 63 1 .any 0, fSet 60 3 .any 0, fSet 59 1 .any 0, fSet 56 3 .any 3, fSet 0 32 .any 0]
  else if w = 0x10 ∨ w = 0x18 then some [fSet 0 64 .any 0]
  else if w = 0x20 then some [fRo 62 2, fRo 0 32]
  else if 0x40 ≤ w ∧ w < 0x60 then some [fRo 0 64]
  else none

def regFieldsFct (w : Nat) : Option (List RField) :=
  if w = 0x00 then some [fSet 48 16 (.range 1 65535) 100, fSet 32 16 (.range 1 65535) 1000]
  else if w = 0x10 ∨ w = 0x18 then some [fSet 0 64 .any (2 ^ 64 - 1)]
  else if 0x20 ≤ w ∧ w < 0x50 then some [fSet 0 64 .any 0]
  else if w = 0x60 ∨ w = 0x68 ∨ w = 0x80 ∨ w = 0x88 then some [fSet 0 64 .any 0]
  else if w = 0x70 ∨ w = 0x90 then some [fSet 48 16 .any 61607, fSet 0 48 .any 0]
  else none

def regFieldsQp (w : Nat) : Option (List RField) :=
  if w = 0x00 then some [fRw 62 2, fRw 61 1, fRw 58 3, fRw 48 8, fRw 24 24, fRw 19 5, fRw 16 3]
  else if w = 0x08 then some [fRw 40 24, fRw 16 24]
  else if w = 0x10 then some [fRw 0 48]
  else if w = 0x18 ∨ w = 0x20 then some [fRw 0 64]
  else if w = 0x28 then some [fRw 48 16, fRw 0 48]
  else if w = 0x30 then some [fRw 48 16, fRw 43 5, fRw 39 4]
  else if w = 0x38 then some [fRo 0 32]
  else none

def regFieldsKey (host : Bool) (w : Nat) : Option (List RField) :=
  if w = 0x00 then
    if host then some [fRw 63 1, fRw 62 1, fRw 61 1, fRw 32 10, fRw 0 32]
    else some [fRw 63 1, fRw 62 1, fRw 61 1, fRw 60 1, fRw 32 10, fRw 12 20]
  else if w = 0x08 ∨ w = 0x10 then some [fRw 0 (if host then 64 else 48)]
  else if w = 0x18 then some []
  else none

def regFieldsSec (w : Nat) : Option (List RField) :=
  if w = 0x00 then some [fRo 56 8, fRo 40 16, fRo 6 1, fRo 5 1, fRo 4 1, fRo 0 1]
  else if w = 0x08 then some [fRw 56 8, fRw 0 48]
  else if w = 0x10 then some [fWo 0 2]
  else if w = 0x18 then some [fRo 56 8, fRo 0 1]
  else if w = 0x20 then some [fWo 0 2]
  else if w = 0x28 then some [fRo 32 32, fRo 0 1]
  else if 0x40 ≤ w ∧ w < 0x60 then some [fRw 0 64]
  else if 0x100 ≤ w ∧ w < 0x200 then some [fRo 0 64]
  else if w = 0x200 then some [fWo 1 1, fWo 0 1]
  else if w = 0x208 then some [fRo 32 32, fRo 8 8, fRo 0 1]
  else if 0x220 ≤ w ∧ w < 0x240 then some [fRo 0 64]
  else if 0x1000 ≤ w ∧ w < 0x2000 then some [fRo 0 64]
  else if 0x2000 ≤ w ∧ w < 0x4000 then some [fWo 0 64]
  else if 0x4000 ≤ w ∧ w < 0x6000 then some [fRo 0 64]
  else none

def regFieldsCoreDbg (w : Nat) : Option (List RField) :=
  if w = 0x000 then some [fWo 3 1, fWo 2 1, fWo 1 1]
  else if w = 0x008 then some [fRo 56 4, fRo 53 3, fRo 48 3, fRo 0 48]
  else if w = 0x010 then some [fRo 0 40]
  else if 0x040 ≤ w ∧ w < 0x080 then some [fRw 63 1, fRw 61 2, fRw 48 12, fRw 2 46]
  else if 0x100 ≤ w ∧ w < 0x200 then some [fRw 0 64]
  else if w = 0x200 then some [fRw 0 8]
  else if 0x400 ≤ w ∧ w < 0x800 then some [fRw 0 64]
  else none

/-- Bits of a watch point that R499 does not show are reserved. -/
def regFieldsWatch (w : Nat) : Option (List RField) :=
  if w = 0x00 then some [fRw 63 1, fRw 61 2, fRw 60 1, fRw 59 1, fRw 40 8, fRw 32 8]
  else if w = 0x08 then some [fRw 0 48]
  else if w = 0x10 then some [fRw 0 19]
  else if w = 0x18 ∨ w = 0x20 then some [fRw 0 64]
  else if 0x40 ≤ w ∧ w < 0x60 then some [fRo 0 64]
  else if w = 0x60 ∨ w = 0x68 then some [fRo 32 32, fRo 0 32]
  else if w = 0x70 ∨ w = 0x78 then some [fRo 0 64]
  else if w = 0x80 then some [fRo 63 1, fRo 0 32]
  else some []

def regFieldsFault (w : Nat) : Option (List RField) :=
  if w = 0x00 then some [fRo 0 32]
  else if w = 0x08 then some [fRw 0 32]
  else if w = 0x10 then some [fRo 32 32, fRo 0 32]
  else if w = 0x18 then some [fSet 48 16 .any 16, fSet 40 8 .any 3, fSet 32 8 (.range 1 255) 24]
  else if w = 0x20 then some [fRo 16 16, fW1c 1 1, fRo 0 1]
  else if 0x100 ≤ w ∧ w < 0x180 ∨ 0x200 ≤ w ∧ w < 0x230 ∨ 0x300 ≤ w ∧ w < 0x340 then some [fRo 0 64]
  else if 0x10000 ≤ w ∧ w < 0x18000 then some [fRo 0 64]
  else none

/-- The registers that stand alone. -/
def regFieldsSingle (off : Nat) : Option (List RField) :=
  if off = 0x0 then some [fRo 0 64]
  else if off = mArith then some [fEpoch 6 2 (.enc 1 2) 1, fEpoch 3 3 (.enc 1 4) 1]
  else if off = mPwrCfg then some [fEpoch 48 16 .any 3800, fEpoch 40 2 (.enc 1 3) 1]
  else if off = mPwrStat then some [fRo 48 16, fRo 32 16, fRo 16 16, fRo 15 1, fRo 8 6, fRo 0 6]
  else if off = mSscCfg then some [fStart 4 4 (.range 0 10) 6, fStart 0 4 (.range 0 10) 6]
  else if off = mModStat then some [fRo 48 16, fRo 32 16, fRo 29 3, fRo 16 8, fRo 12 4, fW1c 4 1, fRo 3 1, fRo 1 2]
  else if off = mModCfg then some [fSet 56 8 (.range 85 105) 100, fStart 48 8 (.range 0 100) 20]
  else if off = mSched then some [fSet 48 16 .any 16, fSet 32 16 .any 64, fSet 2 2 .any 2, fSet 0 1 .any 1]
  else if off = mTimeout then some [fSet 48 16 (.range 1 65535) 1024, fSet 32 16 (.range 1 65535) 2000,
    fSet 16 16 (.range 1 65535) 100]
  else if off = mSyncCfg then some [fSet 48 16 (.range 1 65535) 2442]
  else if off = mEpochCur then some [fRo 0 32]
  else if off = mEpochPend then some [fRo 32 2, fRo 0 32]
  else if off = mSlots then some [fRo 32 14, fRo 0 14]
  else if off = mSheaf then some [⟨12, 4, .ro, .any, 8, .never⟩, fEpoch 0 3 (.enc 1 4) 2]
  else if off = mTherm then some [fStart 8 4 (.range 1 4) 2, fStart 0 8 (.range 70 95) 85]
  else if off = mKvCtl then some [fRo 1 1, fRw 0 1]
  else if off = mKvFut then some [fRw 36 20, fRw 0 36]
  else if off = mKvSess then some [fRw 36 14, fRw 0 36]
  else if off = mKvFrame then some [fRw 36 28, fRw 0 36]
  else if off = mTorus then some [fStart 28 4 .any 0, fStart 24 4 .any 0, fStart 20 4 .any 0, fStart 16 4 .any 0,
    fStart 0 16 .any 0]
  else if off = mVcWeight then some [fEpoch 16 8 (.range 1 255) 8, fEpoch 8 8 (.range 1 255) 64,
    fEpoch 0 8 (.range 1 255) 128]
  else if off = mGroupTbl then some [fRw 12 36]
  else if off = mGroupReg then some [fWo 16 1, fWo 0 12]
  else if off = mGroupStat then some [fRo 16 1, fRo 8 8]
  else if off = mCollStat then some [fRo 0 9]
  else if off = mSetStat then some [fRo 48 16, fRo 16 16, fRo 7 1, fRo 6 1, fRo 5 1, fRo 0 2]
  else if off = mSetSeq 0 ∨ off = mSetSeq 1 then some [fRo 0 64]
  else if off = mSetTag then some [⟨0, 64, .rwl, .any, 0, .write⟩]
  else if off = mSnapCtl then some [fWo 0 1]
  else if off = mSnapStat then some [fRo 32 32, fRo 0 1]
  else if off = mSnapCommit ∨ off = mSysHbm then some [fRo 0 64]
  else if off = mDbgGlobal then some [fWo 2 1, fWo 1 1, fWo 0 1]
  else if off = mDbgFab then some [fRw 48 2, fRw 0 48]
  else none

/-- The fields of the word at offset `off`; none where no register lies, as at an offset that is not a multiple of 8 (R454). -/
def regFields (off : Nat) : Option (List RField) :=
  if off % 8 ≠ 0 then none
  else match regFieldsSingle off with
  | some fs => some fs
  | none =>
    if let some _ := arrAt off 0x1100 8 16 then some [fRo 0 12]
    else if let some (_, w) := arrAt off 0x10000 64 256 then regFieldsQueue w
    else if let some (_, w) := arrAt off 0x20000 128 256 then (if w < 0x50 then some [fRo 0 64] else none)
    else if let some _ := arrAt off 0x40100 8 48 then
      some [fStart 8 1 .any 0, fStart 4 3 (.enc 0 4) 3, fStart 0 3 (.enc 0 4) 2]
    else if let some _ := arrAt off 0x40500 8 12 then some [fRo 31 1, fRo 28 3, fRo 0 12]
    else if let some _ := arrAt off 0x40600 8 4 then some [fRo 0 3]
    else if let some _ := arrAt off 0x41000 8 256 then some [fSet 48 16 .any 0xFF, fSet 0 48 .any (2 ^ 48 - 1)]
    else if let some _ := arrAt off 0x44100 8 16 then some [fRw 54 6, fRw 48 6, fRw 42 6, fRw 37 5,
      fRw 29 8, fRw 22 7, fRw 21 1, fRw 17 4, fRw 14 3, fRw 0 1]
    else if let some (_, w) := arrAt off 0x45000 64 64 then regFieldsKvPool w
    else if let some (_, w) := arrAt off 0x80000 4096 32 then regFieldsLink w
    else if let some _ := arrAt off 0xA0100 8 8 then some [fSet 12 3 (.enc 0 4) 0, fSet 0 12 .any 0]
    else if let some (_, w) := arrAt off 0x100000 256 2 then regFieldsEth w
    else if let some (_, w) := arrAt off 0x101000 256 1 then regFieldsFct w
    else if let some (_, w) := arrAt off 0x110000 64 1024 then regFieldsQp w
    else if let some (_, w) := arrAt off 0x120000 32 4096 then regFieldsKey false w
    else if let some (_, w) := arrAt off 0x140000 32 4096 then regFieldsKey true w
    else if let some (_, w) := arrAt off 0x200000 0x20000 1 then regFieldsFault w
    else if let some (_, w) := arrAt off 0x400000 0x6000 1 then regFieldsSec w
    else if let some (_, w) := arrAt off 0x800000 4096 1024 then regFieldsCoreDbg w
    else if let some (_, w) := arrAt off 0xC00000 256 64 then regFieldsWatch w
    else if let some (_, w) := arrAt off 0xD80000 128 1024 then (if w < 0x58 then some [fRo 0 64] else none)
    else if let some _ := arrAt off 0xE00000 8 65536 then some [fRo 0 64]
    else none

/-- The default of a word (R12, R456): the default of every field. The MAC address of port e is the FRU base address plus e. -/
def regDefault (off : Nat) : Word :=
  if off = mEth 0 0 then Config.fruMac.setWidth 64
  else if off = mEth 1 0 then (Config.fruMac + 1).setWidth 64
  else
    match regFields off with
    | none => 0
    | some fs => ofFields 64 (fs.map fun f => (f.lo, f.dflt))

/-- The word at offset `off` as software and the settings store left it. -/
def regGet (s : State) (off : Nat) : Word := Map.get regDefault s.regs off

def regSet (s : State) (off : Nat) (v : Word) : State := { s with regs := Map.set regDefault s.regs off v }

/-- A field of a register word. -/
def cfg (s : State) (off lo len : Nat) : Nat := fld (regGet s off) lo len

def cfgBit (s : State) (off i : Nat) : Bool := bit (regGet s off) i

def cfgSet (s : State) (off lo len v : Nat) : State := regSet s off (setFld (regGet s off) lo len v)

/-- The counts and samples that a snapshot copies (R484), 0 at READY. -/
def liveGet (s : State) (off : Nat) : Word := Map.get (fun _ => 0) s.live off

def liveSet (s : State) (off : Nat) (v : Word) : State := { s with live := Map.set (fun _ => 0) s.live off v }

/-- Add to a counter that wraps (R482). -/
def liveAdd (s : State) (off n : Nat) : State := liveSet s off (liveGet s off + BitVec.ofNat 64 n)

/-- Add to a field of a counter word that saturates. -/
def liveSat (s : State) (off lo len n : Nat) : State :=
  liveSet s off (setFld (liveGet s off) lo len (Nat.min (fld (liveGet s off) lo len + n) (2 ^ len - 1)))

end Sys2Proof.Machine
end

