-- ==== Sys2Proof/Machine/Topology.lean ====
section
/-!
DEFINITION. Where units and bytes lie: numbering (R4), the address map (R29), the split (R35), pinned slices (R36), channels and
interleave (R52), home slices (R41) and the numbers of the torus (R332, R333).
-/
namespace Sys2Proof.Machine

/-! ### Units (R4) -/

def coreCount : Nat := 1024
def clusterOf (core : Nat) : Nat := core / 32
def dieOf (core : Nat) : Nat := core / 128
def quadOfDie (die : Nat) : Nat := die / 2

/-- The base dies that send a message on its way from base die s to base die t, one for each bridge (R19). -/
def hops (s t : Nat) : List Nat :=
  match (t + 8 - s) % 8 with
  | 0 => []
  | 2 => [s, (s + 1) % 8]
  | 3 => [s, (s + 4) % 8]
  | 5 => [s, (s + 4) % 8]
  | 6 => [s, (s + 7) % 8]
  | _ => [s]
def quadOfCluster (cl : Nat) : Nat := cl / 8

/-! ### The split (R35) -/

/-- P, the pinned GiB of the split in force. -/
def pinnedGib (s : State) : Nat := cfg s mSheaf 0 3

/-- Cache ways per slice under split P. -/
def cacheWays (p : Nat) : Nat := 4 * (4 - p)

/-- U, the pinned share of a slice in bytes. -/
def pinnedShare (p : Nat) : Nat := (4 * p - 1) * 0x2000000

def pinnedBase : Nat := 0x010000000000
def hbmSize : Nat := 0x009000000000
def mgmtBase : Nat := 0x00FF00000000
def scratchBase : Nat := 0x020000000000
def scratchSize : Nat := 0x100000
def accSize : Nat := 0x40000

/-- What a plane address names (R29). -/
inductive Region where
  | hbm
  | pinned
  | mgmt
  | scratch
  | none
  deriving DecidableEq, Repr

/-- The region of a plane address under split P. -/
def regionP (p a : Nat) : Region :=
  if a < hbmSize then .hbm
  else if pinnedBase ≤ a ∧ a < pinnedBase + 8 * pinnedShare p then .pinned
  else if mgmtBase ≤ a ∧ a < mgmtBase + mgmtSize then .mgmt
  else if scratchBase ≤ a ∧ a < scratchBase + 1024 * scratchSize then .scratch
  else .none

def region (s : State) (a : Nat) : Region := regionP (pinnedGib s) a

/-- The whole range lies in the mapped pinned window. -/
def inPinned (s : State) (a n : Nat) : Bool :=
  decide (pinnedBase ≤ a ∧ a + n ≤ pinnedBase + 8 * pinnedShare (pinnedGib s))

/-- The whole range lies in the HBM plane. -/
def inHbm (a n : Nat) : Bool := decide (a + n ≤ hbmSize)

/-- The whole range lies in the pinned window or in the HBM plane. -/
def inPlane (s : State) (a n : Nat) : Bool := inPinned s a n || inHbm a n

/-! ### HBM channels (R51, R52) -/

def groupSets (code : Nat) : Nat :=
  match code with
  | 0 => 1
  | 1 => 2
  | 2 => 4
  | 3 => 12
  | _ => 48

def granBytes (code : Nat) : Nat := 256 * 4 ^ code

/-- Channel and channel offset of an HBM plane address (R52). -/
def hbmDecode (s : State) (a : Nat) : Nat × Nat :=
  let s0 := a / 0x300000000
  let k := groupSets (cfg s (mCset s0) 4 3)
  let g0 := s0 - s0 % k
  let o := a - g0 * 0x300000000
  let gran := granBytes (cfg s (mCset s0) 0 3)
  let n := o / gran
  (8 * g0 + n % (8 * k), n / (8 * k) * gran + o % gran)

def channelOf (s : State) (a : Nat) : Nat := (hbmDecode s a).1
def setOfChannel (ch : Nat) : Nat := ch / 8
def stackOfChannel (ch : Nat) : Nat := ch / 32

/-- The home base die, and so the home slice, of a channel (R16, R41). -/
def homeOfChannel (ch : Nat) : Nat :=
  let st := ch / 32
  let q := st / 3
  if st % 3 = 0 then 2 * q
  else if st % 3 = 1 ∧ ch % 32 < 16 then 2 * q
  else 2 * q + 1

/-- The position of a channel among the 48 of its slice (R42). -/
def channelPos (ch : Nat) : Nat := ch % 48

/-- The cache set of an HBM line (R42). -/
def cacheSet (s : State) (line : Nat) : Nat :=
  let d := hbmDecode s line
  ((d.2 / 64) % 524288) ^^^ (8192 * channelPos d.1)

/-- The slice that holds a line of the plane (R36, R41). -/
def sliceOf (s : State) (a : Nat) : Nat :=
  if a < hbmSize then homeOfChannel (channelOf s a)
  else (a - pinnedBase) / pinnedShare (pinnedGib s) % 8

/-- The slice of a chip counter (R178). -/
def sliceOfCounter (n : Nat) : Nat := (n - 0xC000) % 8

/-! ### Lines -/

def lineOf (a : Nat) : Nat := a - a % 64

/-- The lines that a range touches. -/
def linesOf (a n : Nat) : List Nat :=
  if n = 0 then [] else (List.range ((a + n - 1) / 64 - a / 64 + 1)).map fun i => 64 * (a / 64 + i)

/-- Two ranges share a byte. -/
def overlap (a n b m : Nat) : Bool := decide (a < b + m ∧ b < a + n ∧ 0 < n ∧ 0 < m)

/-! ### Chips (R332, R333, R345) -/

/-- This chip's own number. -/
def chipNo (s : State) : Nat := cfg s mTorus 0 16

/-- Size of torus axis a. -/
def axisSize (s : State) (a : Nat) : Nat := cfg s mTorus (16 + 4 * a) 4 + 1

/-- Coordinate of a chip on axis a. -/
def coord (chip a : Nat) : Nat := chip / 16 ^ a % 16

/-- The chip at the far end of port p (R333). -/
def neighbour (s : State) (p : Nat) : Nat :=
  let a := p / 2
  let n := axisSize s a
  let k := coord (chipNo s) a
  let k' := if p % 2 = 0 then (k + 1) % n else (k + n - 1) % n
  chipNo s - k * 16 ^ a + k' * 16 ^ a

end Sys2Proof.Machine
end

