-- ==== Sys2Proof/Machine/Ops.lean ====
section
/-!
DEFINITION. The named operations over the state: plane bytes, counters with their watches and wakes, the units' records, free
values, and what leaves the part.
-/
namespace Sys2Proof.Machine

/-! ### Free values (log 8) -/

/-- Move to the next place of the free sequence. -/
def State.tick (s : State) : State := { s with fresh := s.fresh + 1 }

/-- The free word at the present place, lane `i`. -/
def freeAt (s : State) (i : Nat) : Word := Config.freeWord (1024 * s.fresh + i)

/-- The free truth value at the present place. -/
def freeBit (s : State) : Bool := Config.freeBool s.fresh

/-! ### What leaves the part (log 9) -/

def send (s : State) (m : Sent) : State := { s with sent := m :: s.sent }

/-! ### Units -/

def coreOf (s : State) (c : Nat) : Core := Map.get (fun _ => Core.reset) s.cores c
def setCore (s : State) (c : Nat) (k : Core) : State := { s with cores := Map.put s.cores c k }
def updCore (s : State) (c : Nat) (f : Core → Core) : State := setCore s c (f (coreOf s c))

/-- Change several cores alike. -/
def updCores (s : State) (cs : List Nat) (f : Nat → Core → Core) : State :=
  cs.foldl (fun s c => updCore s c (f c)) s

def queueOf (s : State) (q : Nat) : Queue := Map.get (fun _ => Queue.reset) s.disp.queues q
def updQueue (s : State) (q : Nat) (f : Queue → Queue) : State :=
  { s with disp := { s.disp with queues := Map.put s.disp.queues q (f (queueOf s q)) } }

def cmdOf (s : State) (k : Nat) : Option Cmd := Map.find? s.disp.slots k
def setCmd (s : State) (k : Nat) (c : Cmd) : State :=
  { s with disp := { s.disp with slots := Map.put s.disp.slots k c } }
def updCmd (s : State) (k : Nat) (f : Cmd → Cmd) : State :=
  match cmdOf s k with
  | none => s
  | some c => setCmd s k (f c)
/-- Change several commands alike. -/
def updCmds (s : State) (ks : List Nat) (f : Nat → Cmd → Cmd) : State :=
  ks.foldl (fun s k => updCmd s k (f k)) s
def freeSlot (s : State) (k : Nat) : State :=
  { s with disp := { s.disp with slots := Map.erase s.disp.slots k } }

def linkOf (s : State) (l : Nat) : Link := Map.get (fun _ => Link.reset) s.fab.links l
def updLink (s : State) (l : Nat) (f : Link → Link) : State :=
  { s with fab := { s.fab with links := Map.put s.fab.links l (f (linkOf s l)) } }

def qpOf (s : State) (n : Nat) : Qp := Map.get (fun _ => Qp.reset) s.eth.qps n
def updQp (s : State) (n : Nat) (f : Qp → Qp) : State :=
  { s with eth := { s.eth with qps := Map.put s.eth.qps n (f (qpOf s n)) } }

/-! ### Fields of a command record (R77) -/

def Cmd.kind (c : Cmd) : Nat := fld c.record 0 8
def Cmd.strict (c : Cmd) : Bool := bit c.record 8
def Cmd.rtc (c : Cmd) : Bool := bit c.record 9
def Cmd.ordered (c : Cmd) : Bool := bit c.record 10
def Cmd.sigOnEnd (c : Cmd) : Bool := bit c.record 11
def Cmd.doneCtr (c : Cmd) : Nat := fld c.record 16 16
def Cmd.doneInc (c : Cmd) : Nat := fld c.record 32 4
def Cmd.startEn (c : Cmd) : Bool := bit c.record 36
def Cmd.join (c : Cmd) : Nat := fld c.record 40 4
def Cmd.startCtr (c : Cmd) : Nat := fld c.record 48 16
def Cmd.seq (c : Cmd) : Nat := fld c.record 64 32
def Cmd.epoch (c : Cmd) : Nat := fld c.record 96 32
def Cmd.startTarget (c : Cmd) : Nat := fld c.record 128 64

/-- The command is running or committing (R123, R88). -/
def Cmd.active (c : Cmd) : Bool := c.phase = .running || c.phase = .committing

/-- Running or committing as R87 counts it: a committed command commits until its completion record is handed over (R88, R123). -/
def Cmd.occupies (c : Cmd) : Bool := c.active || (c.phase = .closing && c.status = some .committed)

/-- The members of a command's joint set in their slots (R89). -/
def jointSet (s : State) (k : Nat) : List Nat :=
  match cmdOf s k with
  | none => []
  | some c => (s.disp.slots.filter fun e => e.2.lead = c.lead).map (·.1)

/-! ### Plane memory (R29, R444; log 7) -/

def planeDefault (_ : Nat) : Byte := 0

/-- The canonical form of plane memory: addresses strictly rising, and no entry equal to what an unlisted address reads as. -/
abbrev Memory.wf (m : Memory) : Prop := Map.canonical planeDefault m.plane

/-- The committed byte at plane address `a`: HBM plane or pinned window. -/
def planeByte (s : State) (a : Nat) : Byte := Map.get planeDefault s.mem.plane a

def planeRead (s : State) (a n : Nat) : List Byte := (span a n).map (planeByte s)

def planeNat (s : State) (a n : Nat) : Nat := leNat (planeRead s a n)

/-- Write committed bytes. -/
def planeWrite (s : State) (a : Nat) (bs : List Byte) : State :=
  { s with mem := { s.mem with plane := Map.setRun planeDefault s.mem.plane a bs } }

def isPoisoned (s : State) (a : Nat) : Bool := s.mem.poison.contains (lineOf a)

/-- The first poisoned line of a range (R407). -/
def poisonIn (s : State) (a n : Nat) : Option Nat := (linesOf a n).find? fun l => s.mem.poison.contains l

def poison (s : State) (a : Nat) : State :=
  if isPoisoned s a then s else { s with mem := { s.mem with poison := lineOf a :: s.mem.poison } }

def unpoison (s : State) (a : Nat) : State :=
  { s with mem := { s.mem with poison := s.mem.poison.filter (· != lineOf a) } }

/-- Write committed bytes as a host or peer write message does: a line covered whole loses its poison mark (R406). -/
def planeWriteMsg (s : State) (a : Nat) (bs : List Byte) : State :=
  let s := planeWrite s a bs
  { s with mem := { s.mem with poison := s.mem.poison.filter fun l => !(a ≤ l && l + 64 ≤ a + bs.length) } }

/-! ### Sight of staged lines (R91) -/

/-- A byte as the command in slot `k` and its joint set see it: the members' staged bytes before the committed one. -/
def seenByte (s : State) (k a : Nat) : Byte :=
  let staged := (jointSet s k).findSome? fun m => (cmdOf s m).bind fun c => Map.find? c.staged a
  staged.getD (planeByte s a)

def seenRead (s : State) (k a n : Nat) : List Byte := (span a n).map (seenByte s k)

/-- A byte that the command has not written and whose line is poisoned (R406). -/
def seenPoison (s : State) (k a n : Nat) : Option Nat :=
  ((span a n).find? fun b => isPoisoned s b && !((jointSet s k).any fun m =>
    ((cmdOf s m).bind fun c => Map.find? c.staged b).isSome)).map lineOf

/-- The lines of a range that the set has not staged whole as far as the range goes: a read of the range needs them from memory (R91, R406). -/
def neededLines (s : State) (k a n : Nat) : List Nat :=
  (linesOf a n).filter fun l => (span l 64).any fun b => decide (a ≤ b ∧ b < a + n) && !((jointSet s k).any fun m =>
    ((cmdOf s m).bind fun c => Map.find? c.staged b).isSome)

/-- Output ranges of a command: (kind, address, bytes). A COPY, REPORT or VIEW_READ destination stands in the list as a WRITE
range (R81, R466, R498). -/
def Cmd.ranges (c : Cmd) : List (Nat × Nat × Nat) :=
  match c.annex with
  | none => []
  | some a => a.outs.filterMap fun o => if o.kind = 2 then none else some (o.kind, o.addr, o.bytes)

def Cmd.writeRanges (c : Cmd) : List (Nat × Nat) :=
  c.ranges.filterMap fun r => if r.1 = 0 then some r.2 else none

def Cmd.reduceRanges (c : Cmd) : List (Nat × Nat) :=
  c.ranges.filterMap fun r => if r.1 = 1 then some r.2 else none

/-- Ranges that the command holds under WRITE locks: its WRITE ranges, and the 4 KiB pages that a page command writes (R92, R284). -/
def Cmd.lockRanges (c : Cmd) : List (Nat × Nat) :=
  c.writeRanges ++ c.page.locks.filterMap fun p => if p.2 then none else some (4096 * p.1, 4096)

/-- The slices whose WRITE ranges the commit under way has already released (R95). -/
def released (s : State) (k b : Nat) : Bool :=
  match s.disp.current with
  | none => false
  | some m => m.slots.contains k && m.round = .releasing && !m.todo.contains b

/-- A line that lies in a WRITE range of a running or committing command outside the set `own` (R93). -/
def lockedLine (s : State) (own : List Nat) (l : Nat) : Bool :=
  s.disp.slots.any fun e => e.2.active && !own.contains e.1 && !released s e.1 (sliceOf s l) &&
    e.2.lockRanges.any fun r => overlap r.1 r.2 l 64

/-- The first locked line of a range. -/
def lockIn (s : State) (own : List Nat) (a n : Nat) : Option Nat := (linesOf a n).find? (lockedLine s own)

/-- Locks of other commands forbid the set `own` a lock on a 4 KiB page (R88, R284). -/
def lockClash (s : State) (own : List Nat) (page : Nat) (reduce : Bool) : Bool :=
  (linesOf (4096 * page) 4096).any (lockedLine s own) ||
    (!reduce && s.disp.slots.any fun e => e.2.active && !own.contains e.1 &&
      (e.2.reduceRanges.any (fun r => overlap r.1 r.2 (4096 * page) 4096) || e.2.page.locks.contains (page, true)))

/-! ### Counters (R178 to R184) -/

def ctrGet (s : State) (n : Nat) : Word := Map.get (fun _ => 0) s.sync.counters n

/-- Who is woken by a counter at value `v`: the registered watches that it satisfies (R184). -/
def wokenBy (n : Nat) (v : Word) (w : Watch) : Bool := w.ctr = n && !w.polling && decide (w.target.toNat ≤ v.toNat)

/-- The deadline of an entry of a schedule is reached (R60): its remaining requests are urgent. -/
def markUrgent (slice slot entry : Nat) (s : State) : State :=
  { s with mem := { s.mem with
      fills := mapIf (fun f => f.slot = some slot && f.asker = .entry slice entry) (fun f => { f with urgent := true })
        s.mem.fills,
      scheds := mapIf (fun r => r.slice = slice && r.slot = slot) (fun r => { r with urgent := entry :: r.urgent })
        s.mem.scheds } }

/-- A satisfied watch fires with value `v`: a core's waiter is sent its wake, a runner marks its entry, and the dispatcher reads
START_CTR again when it looks for ready commands (R184, R60). -/
def fireWatch (v : Word) (s : State) (w : Waiter) : State :=
  match w with
  | .prefetch b k i => markUrgent b k i s
  | .start _ => s
  | _ => { s with sync := { s.sync with wakes := s.sync.wakes ++ [{ who := w, value := v }] } }

/-- Add to a counter, stopping at the largest value (R179), and send the wakes (R184). -/
def ctrAdd (s : State) (n inc : Nat) : State :=
  let v : Word := BitVec.ofNat 64 (Nat.min ((ctrGet s n).toNat + inc) (2 ^ 64 - 1))
  let hit := s.sync.watches.filter (wokenBy n v)
  let s := { s with sync := { s.sync with
      counters := Map.set (fun _ => 0) s.sync.counters n v,
      watches := s.sync.watches.filter fun w => !wokenBy n v w } }
  (hit.map (·.who)).foldl (fireWatch v) s

/-- A waiter that stands in a core's own place: it has an entry of its own (R185). -/
def ownEntry (n : Nat) (w : Waiter) : Bool :=
  match w with
  | .control c => n / 48 = c && n < 0xC000
  | .engine c _ => n / 48 = c && n < 0xC000
  | _ => false

/-- Free watch entries at the home of counter `n` (R185). -/
def watchRoom (s : State) (n : Nat) : Bool :=
  if n < 0xC000 then
    decide ((s.sync.watches.filter fun w => w.ctr / 48 = n / 48 && w.ctr < 0xC000 && !w.polling &&
      !ownEntry w.ctr w.who).length < 16)
  else
    decide ((s.sync.watches.filter fun w => 0xC000 ≤ w.ctr && sliceOfCounter w.ctr = sliceOfCounter n &&
      !w.polling).length < 4096)

/-- Register a watch, or poll where the home has no free entry (R184, R185). -/
def watchAdd (s : State) (n : Nat) (t : Word) (who : Waiter) : State :=
  let poll := !(ownEntry n who || watchRoom s n)
  let w : Watch := { ctr := n, target := t, who := who, polling := poll, ticks := cfg s mSyncCfg 48 16 * 4096 }
  { s with sync := { s.sync with watches := s.sync.watches ++ [w] } }

/-- Drop the watches and wakes of a waiter. -/
def watchDrop (s : State) (p : Waiter → Bool) : State :=
  { s with sync := { s.sync with
      watches := s.sync.watches.filter fun w => !p w.who,
      wakes := s.sync.wakes.filter fun w => !p w.who } }

def Waiter.ofCore (c : Nat) (w : Waiter) : Bool :=
  match w with
  | .control k => k = c
  | .engine k _ => k = c
  | _ => false

/-- The counter `v` satisfies a wait for `t` (R184). -/
def satisfied (v t : Word) : Bool := decide (t.toNat ≤ v.toNat)

/-- A counter is internal to the command in slot `k`: a counter of a core of its joint set, or of its private range (R94). -/
def isInternal (s : State) (k n : Nat) : Bool :=
  (jointSet s k).any fun m =>
    match cmdOf s m with
    | none => false
    | some c =>
      if n < 0xC000 then c.cores.contains (n / 48)
      else match c.annex with
        | none => false
        | some a => decide (a.privFirst ≤ n ∧ n < a.privFirst + a.privCount)

/-- A signal leaves base die `die` for counter `n` of this chip (R195, R20). -/
def signalOut (s : State) (n inc : Nat) (slot core : Option Nat) (die : Nat) : State :=
  { s with sync := { s.sync with
      inflight := s.sync.inflight ++ [{ ctr := n, inc := inc, slot := slot, core := core, die := die }] } }

/-- The base die of a counter's home (R178). -/
def ctrDie (n : Nat) : Nat := if n < 0xC000 then dieOf (n / 48) else sliceOfCounter n

/-- The signal crosses the cross-die network: its counter is not of the core that sent it (R186). -/
def Sig.crosses (g : Sig) : Bool := !(decide (g.ctr < 0xC000) && g.core = some (g.ctr / 48))

/-- Messages of one path arrive in the order in which they were sent (R20). -/
def Sig.sharesPath (g h : Sig) : Bool := g.crosses && h.crosses && g.die = h.die && ctrDie g.ctr = ctrDie h.ctr

/-- Add to a command's external sums (R94). -/
def sumAdd (m : Map Nat) (n inc : Nat) : Map Nat := Map.put m n (Map.get (fun _ => 0) m n + inc)

/-! ### Topology of commands -/

def inRangeOf (a : Option Annex) (n : Nat) : Bool :=
  match a with
  | none => false
  | some x => decide (x.privFirst ≤ n ∧ n < x.privFirst + x.privCount)

/-- The command that runs on a core. -/
def cmdOnCore (s : State) (c : Nat) : Option Nat := (coreOf s c).slot

/-- Bytes cross a core's Sheaf port (R15, R482); `out` is toward the Sheaf. -/
def countPort (s : State) (core n : Nat) (out : Bool) : State :=
  let s := liveAdd s (mCcnt core (b2n out)) n
  match (cmdOnCore s core).bind (cmdOf s) with
  | some c => liveAdd s (mQcnt c.queue 0) n
  | none => s

/-- Fenced units (R415). -/
def coreFenced (s : State) (c : Nat) : Bool := s.flt.coreFence.contains c
def chanFenced (s : State) (ch : Nat) : Bool := s.flt.chanFence.contains ch

/-- A unit is under test; a Sheaf line (class 3) goes by its address (R409). -/
def underTest (s : State) (cls unit : Nat) : Bool := s.flt.tests.any fun t => t.cls = cls && t.unit = unit

end Sys2Proof.Machine
end

