-- ==== Sys2Proof/Machine/Records.lean ====
section
/-!
DEFINITION. Error records and the error log (R121, R122, R418, R419), the reports of adjusted settings (R461), and the completion
record (R119).
-/
namespace Sys2Proof.Machine

/-! ### Error codes (R122) -/

def eShapeOver : Nat := 0x01
def eDescInvalid : Nat := 0x02
def eWaitTimeout : Nat := 0x03
def eEccCorrected : Nat := 0x04
def eEccUncorrected : Nat := 0x05
def eResidue : Nat := 0x06
def eLinkReplay : Nat := 0x07
def eLinkDown : Nat := 0x08
def eUnitFenced : Nat := 0x09
def eDeadlineMiss : Nat := 0x0A
def eAbortTooLate : Nat := 0x0C
def ePageFault : Nat := 0x0D
def eRefUnderflow : Nat := 0x0E
def eGroupMismatch : Nat := 0x0F
def eCountMismatch : Nat := 0x10
def eThermal : Nat := 0x11
def eClamped : Nat := 0x12
def eBreakpoint : Nat := 0x13
def eEpochStale : Nat := 0x14

/-- The class of a code (R122): 0 notice, 1 command, 2 unit. -/
def codeClass (c : Nat) : Nat :=
  if c = eEccCorrected ∨ c = eLinkReplay ∨ c = eDeadlineMiss ∨ c = eAbortTooLate ∨ c = eThermal ∨ c = eClamped ∨
    c = eBreakpoint then 0
  else if c = eEccUncorrected ∨ c = eResidue ∨ c = eLinkDown ∨ c = eUnitFenced then 2
  else 1

/-- What a record says. `slot` none gives NOCMD = 1. -/
structure ErrRec where
  code    : Nat
  unitCls : Nat
  unit    : Nat
  slot    : Option Nat
  object  : Nat
  detail  : Nat
  deriving DecidableEq, Repr

/-- The 256-bit record (R121). -/
def recBits (s : State) (r : ErrRec) (cont : Bool) (index : Nat) : BitVec 256 :=
  let who := r.slot.bind fun k => (cmdOf s k).map fun c => (k, c)
  let base := [(0, r.code), (8, codeClass r.code), (18, b2n cont), (40, r.unitCls), (48, r.unit), (64, index),
    (128, r.object % 2 ^ 64), (192, r.detail % 2 ^ 64)]
  match who with
  | none => ofFields 256 ((17, 1) :: base)
  | some (k, c) => ofFields 256 ([(19, k), (32, c.queue), (96, c.seq)] ++ base)

/-- LOG_INDEX runs modulo 2^32 - 1 (R418). -/
def logMod : Nat := 2 ^ 32 - 1

def logDist (h t : Nat) : Nat := (h + logMod - t) % logMod

def logEntry (s : State) (i : Nat) : BitVec 256 := Map.get (fun _ => 0) s.flt.log.recs (i % 1024)

/-- Advance TAIL past whole pairs until `n` records fit (R418); the count of records overwritten. -/
def logMakeRoom (s : State) (n : Nat) (fuel tail : Nat) : Nat × Nat :=
  match fuel with
  | 0 => (tail, 0)
  | f + 1 =>
    if logDist s.flt.log.head tail + n ≤ 1024 then (tail, 0)
    else
      let k := if bit (logEntry s tail) 18 then 2 else 1
      let r := logMakeRoom s n f ((tail + k) % logMod)
      (r.1, r.2 + k)

def setAlert (s : State) : State := { s with flt := { s.flt with alert := true } }

/-- The first record that names a command gives its ERROR_INDEX (R119). -/
def noteIndex (s : State) (slot : Option Nat) (i : Nat) : State :=
  match slot with
  | none => s
  | some k => updCmd s k fun c => { c with errIdx := some (c.errIdx.getD (BitVec.ofNat 32 i)) }

/-- Append records that belong together: one, or a pair (R418). -/
def logAppend (s : State) (rs : List ErrRec) : State :=
  let n := rs.length
  let l := s.flt.log
  let cls := (rs.map fun r => codeClass r.code).foldl Nat.max 0
  if logDist l.head l.tail + n > 1024 ∧ cls = 0 then
    setAlert (liveSat s mErrStat 32 32 n)
  else
    let room := logMakeRoom s n 1024 l.tail
    let idx := (List.range n).map fun i => (l.head + i) % logMod
    let recs := (rs.zip idx).zipIdx.foldl
      (fun m e => Map.set (fun _ => 0) m (e.1.2 % 1024) (recBits s e.1.1 (e.2 + 1 < n) e.1.2)) l.recs
    let s1 := { s with flt := { s.flt with log :=
      { head := (l.head + n) % logMod, tail := room.1, written := l.written + n, recs := recs } } }
    let s2 := if room.2 = 0 then s1 else setAlert (liveSat s1 mErrStat 0 32 room.2)
    let s3 := if cls = 2 then setAlert s2 else s2
    match rs, idx with
    | r :: _, i :: _ => noteIndex s3 r.slot i
    | _, _ => s3

/-- Write one record. -/
def logRec (s : State) (r : ErrRec) : State := logAppend s [r]

/-- The LOG_INDEX that the next record takes. -/
def nextIndex (s : State) : Nat := s.flt.log.head

/-! ### SETTINGS_CLAMPED pairs (R461) -/

/-- Where a setting was written from (R461). -/
inductive Origin where
  | load
  | mgmt
  | mode (slot : Nat)
  | storeCheck (slot : Nat)
  | grant (slot : Nat)
  deriving DecidableEq, Repr

def Origin.code : Origin → Nat
  | .load => 0
  | .mgmt => 1
  | .mode _ => 2
  | .storeCheck _ => 3
  | .grant _ => 4

/-- An image is checked, as at a load (R458, R462). -/
def Origin.ofImage : Origin → Bool
  | .load => true
  | .storeCheck _ => true
  | _ => false

/-- The command a report carries: that of a MODE command, and of the RTC report (R110, R461). -/
def Origin.slot : Origin → Option Nat
  | .mode k => some k
  | .grant k => some k
  | _ => none

/-- The command whose completion shows CLAMPED (R119, R461). -/
def Origin.clampSlot : Origin → Option Nat
  | .mode k => some k
  | .storeCheck k => some k
  | _ => none

/-- The first record's DETAIL (R461). -/
def clampDetail (reason off lo len : Nat) : Nat := (ofFields 64 [(56, reason), (48, lo), (40, len), (0, off)]).toNat

/-- The pair of records of one adjustment: requested and applied value of a field of the register at `off`. -/
def clampRecs (o : Origin) (reason off lo len req app : Nat) : List ErrRec :=
  [{ code := eClamped, unitCls := 8, unit := 0, slot := o.slot, object := req, detail := clampDetail reason off lo len },
   { code := eClamped, unitCls := 8, unit := 0, slot := o.slot, object := app, detail := o.code * 2 ^ 56 }]

/-- The command's completion shows CLAMPED. -/
def markClamped (o : Origin) (s : State) : State :=
  match o.clampSlot with
  | none => s
  | some k => updCmd s k fun c => { c with clamped := true }

/-- The load counts the adjustment and keeps it for REPORT. -/
def countClamp (o : Origin) (d req app : Nat) (s : State) : State :=
  if o = .load then
    { s with mram := { s.mram with
        clamps := s.mram.clamps + 1,
        report := if s.mram.report.length < 1024 then
            s.mram.report ++ [ofFields 256 [(0, d), (128, app % 2 ^ 64), (192, req % 2 ^ 64)]] else s.mram.report } }
  else s

/-- Report one adjustment. -/
def reportClamp (s : State) (o : Origin) (reason off lo len req app : Nat) : State :=
  countClamp o (clampDetail reason off lo len) req app (markClamped o (logAppend s (clampRecs o reason off lo len req app)))

/-- A refused register write (reason 0x06): bit 0, width 64, the value written and the value kept. -/
def reportRefused (s : State) (off : Nat) (req : Word) (kept : Word) : State :=
  reportClamp s .mgmt 0x06 off 0 64 req.toNat kept.toNat

/-! ### Common records -/

/-- A record of the module or a stack that concerns no command (R70, R437). -/
def thermalRec (s : State) (reason obj : Nat) : State :=
  logRec s { code := eThermal, unitCls := 0, unit := 0, slot := none, object := obj, detail := reason * 2 ^ 56 }

/-- A link record (R340). -/
def linkRec (s : State) (code reason l obj : Nat) : State :=
  logRec s { code := code, unitCls := 5, unit := l, slot := none, object := obj, detail := reason * 2 ^ 56 }

/-- An Ethernet record (R397). -/
def ethRec (s : State) (code reason e : Nat) (slot : Option Nat) (obj : Nat) : State :=
  logRec s { code := code, unitCls := 6, unit := e, slot := slot, object := obj, detail := reason * 2 ^ 56 }

/-- A DESC_INVALID record of the dispatcher (R501). -/
def dispRec (s : State) (slot : Option Nat) (reason obj low : Nat) : State :=
  logRec s { code := eDescInvalid, unitCls := 7, unit := 0, slot := slot, object := obj,
             detail := reason * 2 ^ 56 + low % 2 ^ 16 }

/-! ### The completion record (R119) -/

def Status.code : Status → Nat
  | .committed => 0
  | .aborted => 1
  | .failed => 2

/-- The 32 bytes of a completion record; `i` counts the queue's records. -/
def completionBits (_s : State) (k : Nat) (c : Cmd) (i : Nat) : BitVec 256 :=
  let size := 2 ^ (fld c.qcomp 18 4 + 6)
  ofFields 256 [(0, 1 - i / size % 2), (12, (c.status.getD .failed).code), (16, b2n c.fallback), (17, b2n c.summary),
    (18, b2n c.tooLate), (19, b2n c.lapsed), (20, b2n c.clamped), (24, Nat.min c.runs 255), (32, c.kind), (40, c.queue),
    (48, k), (64, (c.errIdx.getD 0xFFFFFFFF#32).toNat), (96, c.seq), (128, c.commitNo.toNat), (192, c.charge.toNat)]

end Sys2Proof.Machine
end

