-- ==== Sys2Proof/Machine/Kill.lean ====
section
/-!
DEFINITION. How commands end and how they are killed (R104, R105, R107, R113, R372): the shared operations that every family uses.
-/
namespace Sys2Proof.Machine

/-- The command runs, it has not failed, and no kill has reached it. -/
def live (s : State) (k : Nat) : Bool :=
  match cmdOf s k with
  | none => false
  | some c => c.phase = .running && c.kill.isNone && !c.failSent

/-- The slots whose commands belong to the set of lead order `l`. -/
def setSlots (s : State) (l : Nat) : List Nat := (s.disp.slots.filter fun e => e.2.lead = l).map (·.1)

/-- A command of the set is a COLLECTIVE (R372). -/
def setHasCollective (s : State) (k : Nat) : Bool :=
  (jointSet s k).any fun m => match cmdOf s m with
    | none => false
    | some c => c.kind = 3

/-- RTC_MAX of the command's queue at its admission (R76, R110). -/
def Cmd.rtcMax (c : Cmd) : Nat := fld c.qcfg 32 16

/-- The command, or a member of its set, is protected by RTC (R105, R110): it is marked, its queue's RTC_MAX is not 0, and it
has not lapsed. -/
def rtcProtected (s : State) (k : Nat) : Bool :=
  (jointSet s k).any fun m => match cmdOf s m with
    | none => false
    | some c => c.rtc && c.rtcMax != 0 && !c.lapsed

/-- Take the cores, watches, schedules and staging of a command away from it, as its run leaves nothing behind (R104). -/
def dropRun (c : Cmd) : Cmd :=
  { c with staged := [], deltas := [], egress := [], sums := [], done := [], cores := [], based := false,
           stage := [], work := false, fin := false, reqSent := false, thru := [], promised := [],
           page := { locks := [], frames := [], refs := [], links := [] }, view := [] }

/-- A core that is handed back (R104, R106). The counters and the instruction cache of the core stay; a held halt request
stays; its memories are undefined at the next run (R80, log 7). -/
def idleCore (k : Core) : Core :=
  { k with slot := none, rank := 0, act := .idle, based := false, stq := [], loads := [], sigs := [], queues := [],
           flying := [], held := [], broken := [], icReqs := [], pbuf := none, kmmSum := false, lab := [],
           dbg := { k.dbg with state := 0, cause := 0, bp := 0, skipOnce := false, stepping := false, resumeWait := false } }

/-- A core that a kill has stopped: its instructions in progress are abandoned (R104 step 1). -/
def stopCore (k : Core) : Core :=
  { k with act := .stopped, stq := [], loads := [], sigs := [], queues := [], flying := [], held := [], broken := [], icReqs := [],
           dbg := { k.dbg with state := 0 } }

/-- The waiters of a command: its cores' and its schedules' (R104). -/
def waiterOf (cores : List Nat) (k : Nat) (w : Waiter) : Bool :=
  match w with
  | .control c => cores.contains c
  | .engine c _ => cores.contains c
  | .prefetch _ m _ => m = k
  | .start m => m = k

/-- The unit of a core that has failed stops, and waits for the kill to reach it (R113): its control core, whose earlier loads still return
(R147), or an engine. -/
def breakUnit (c : Nat) (eng : Option Nat) (s : State) : State :=
  updCore s c fun k => match eng with
    | none => { k with act := .stopped, icReqs := [] }
    | some e => { k with broken := e :: k.broken.filter (· != e), held := Map.erase k.held e }

/-- A queue's deficit, clamped to ±2^47 (R109). -/
def clampDeficit (d : Int) : Int := max (-(2 ^ 47)) (min (2 ^ 47) d)

/-- A queue's deficit bears `n` engine cycles (R108). -/
def payQueue (s : State) (q n : Nat) : State := updQueue s q fun u => { u with deficit := clampDeficit (u.deficit - n) }

/-- End a command that holds nothing (R87, R107): its queue's deficit bears the rest of its charge (R108), its status is set, it takes its place in the order of ending (R120), the SIG_ON_END
increment is applied, and its completion record may be written. An aborted command writes no error record: no rule calls for one of code
ABORTED (R122; DESIGN CHOICE, log 48). -/
def endOne (st : Status) (s : State) (k : Nat) : State :=
  match cmdOf s k with
  | none => s
  | some c =>
    if c.phase = .closing then s
    else
      let s := payQueue s c.queue c.unpaid
      let s := setCmd s k { dropRun c with
        status := some st, phase := .closing, kill := none, decided := true, unpaid := 0, endNo := some s.disp.ends }
      let s := { s with disp := { s.disp with ends := s.disp.ends + 1 } }
      let s := watchDrop s (waiterOf [] k)
      if st ≠ .committed ∧ c.sigOnEnd ∧ c.doneInc ≠ 0 then ctrAdd s c.doneCtr c.doneInc else s

/-- The first error index of a set (R89). -/
def setIndex (s : State) (ks : List Nat) : Option (BitVec 32) :=
  (ks.filterMap fun k => (cmdOf s k).bind (·.errIdx)).head?

/-- End the whole joint set of `k`; members still to be admitted end at their admission (R89). -/
def endSet (st : Status) (s : State) (k : Nat) : State :=
  match cmdOf s k with
  | none => s
  | some c =>
    let ks := jointSet s k
    let idx := setIndex s ks
    let s := updCmds s ks fun _ m => if st = .failed then { m with errIdx := m.errIdx.or idx } else m
    let s := ks.foldl (endOne st) s
    let q := queueOf s c.queue
    if q.joinLead = c.lead ∧ 0 < q.joinLeft then
      updQueue s c.queue fun q => { q with joinEnd := some (st, if st = .failed then idx else none) }
    else s

/-- What follows the kill of a command for the reason `why` (R105, R113): an abort or a failure outlasts any other reason, and a command
whose fail message is out is not re-run. -/
def Cmd.killWhy (c : Cmd) (why : AfterKill) : AfterKill :=
  match c.kill, why with
  | some .abort, _ => .abort
  | _, .abort => .abort
  | some .fail, _ => .fail
  | _, w => if c.failSent then .fail else w

/-- Begin the kill of the joint set of `k` (R104): engines and control cores stop, waits end, schedules drop. -/
def startKill (why : AfterKill) (s : State) (k : Nat) : State :=
  let ks := jointSet s k
  let cores := ks.flatMap fun m => ((cmdOf s m).map (·.cores)).getD []
  let s := updCmds s ks fun _ c => { c with kill := some (c.killWhy why) }
  let s := updCores s cores fun _ => stopCore
  let s := { s with sync := { s.sync with
      watches := s.sync.watches.filter fun w => !ks.any fun m => waiterOf cores m w.who,
      wakes := s.sync.wakes.filter fun w => !ks.any fun m => waiterOf cores m w.who } }
  { s with
    mem := { s.mem with
      scheds := s.mem.scheds.filter fun r => !ks.contains r.slot,
      fills := mapIf (fun f => ks.any fun m => f.slot = some m) (fun f => { f with asker := .system }) s.mem.fills },
    fab := { s.fab with transfers := s.fab.transfers.filter fun t => !ks.contains t.slot } }

/-- A command fails in a way that ends it FAILED (R105, R113): a running one sends its fail message, with which its kill begins; until then its
other cores go on (R149, R188). One that holds nothing ends at once. A decided command is left alone. The record is the caller's. -/
def failCmd (s : State) (k : Nat) : State :=
  match cmdOf s k with
  | none => s
  | some c =>
    if c.phase = .closing ∨ c.decided then s
    else if c.phase = .running then
      updCmds s (jointSet s k) fun _ m => { m with failSent := true }
    else endSet .failed s k

/-- Write a record and fail its command. -/
def failWith (s : State) (k : Nat) (r : ErrRec) : State := failCmd (logRec s r) k

/-- The dispatcher finds a command invalid (R501). -/
def failDisp (s : State) (k reason obj low : Nat) : State := failCmd (dispRec s (some k) reason obj low) k

/-- An error in the work of a command (R404, R105): killed and re-run after the targeted test, unless the commit is decided;
a set with a COLLECTIVE ends FAILED (R372). -/
def errorKill (s : State) (k cls unit : Nat) : State :=
  match cmdOf s k with
  | none => s
  | some c =>
    if c.decided ∨ c.phase ≠ .running then s
    else if setHasCollective s k then failCmd s k
    else startKill .retry (updCmds s (jointSet s k) fun _ m => { m with units := (cls, unit) :: m.units }) k

/-- The bit numbers of R401's and R404's ENG field: 0 for the control core, otherwise ENG + 1. -/
def whoCode (eng : Option Nat) : Nat :=
  match eng with
  | none => 0
  | some e => e + 1

/-- A reader meets a poisoned line (R407): the command fails with reason 0xB7, with no test and no re-run. -/
def failPoison (s : State) (k line : Nat) (eng : Option Nat) (at' : Nat) : State :=
  failWith s k { code := eEccUncorrected, unitCls := 3, unit := sliceOf s line, slot := some k, object := line,
                 detail := 0xB7 * 2 ^ 56 + whoCode eng * 2 ^ 48 + at' % 2 ^ 48 }

/-- A command whose request maps to a fenced unit (R415, R416). -/
def failFenced (s : State) (k cls unit : Nat) : State :=
  failWith s k { code := eUnitFenced, unitCls := cls, unit := unit, slot := some k, object := 0, detail := 0xC4 * 2 ^ 56 }

/-- The hold record of R189. -/
def holdRec (core : Nat) (eng : Option Nat) (k addr at' : Nat) : ErrRec :=
  { code := eWaitTimeout, unitCls := 1, unit := core, slot := some k, object := addr,
    detail := 0x41 * 2 ^ 56 + whoCode eng * 2 ^ 48 + at' % 2 ^ 48 }

end Sys2Proof.Machine
end

