-- ==== Sys2Proof/Machine/Faults.lean ====
section
/-!
DEFINITION. Errors, targeted tests, fences, the faulted chip (R400 to R419), and the end of a participant's work with its poison
check (R406).
-/
namespace Sys2Proof.Machine

/-! ### A participant is done (R95, R143, R406) -/

/-- The addresses of the selectors that the command's commit flips (R86). -/
def Cmd.flips (c : Cmd) : List Nat := (((c.annex.map (·.outs)).getD []).filter fun o => o.kind = 2).map (·.addr)

/-- The command writes bytes of the line at its commit. -/
def Cmd.writesLine (c : Cmd) (l : Nat) : Bool :=
  (c.staged.map (·.1) ++ c.deltas.map (·.addr) ++ c.flips).any fun a => lineOf a = l

/-- A poisoned line that a set writes and does not cover whole with staged bytes (R406): staged bytes of several members join in one line, and a
line staged whole clears the mark before the deltas and FLIPs of the set meet it. -/
def partialPoison (s : State) (ks : List Nat) : Option (Nat × Nat) :=
  let cs := ks.filterMap fun k => (cmdOf s k).map fun c => (k, c)
  let whole := fun l => (span l 64).all fun b => cs.any fun x => (Map.find? x.2.staged b).isSome
  s.mem.poison.findSome? fun l =>
    if whole l then none else (cs.find? fun x => x.2.writesLine l).map fun x => (x.1, l)

/-- A fenced channel that holds the target of a staged line, a delta or a FLIP of the command (R415). -/
def stagedFenced (s : State) (c : Cmd) : Option Nat :=
  (((c.staged.map (·.1) ++ c.deltas.map (·.addr) ++ c.flips).filter (· < hbmSize)).map (channelOf s)).find? fun ch => chanFenced s ch

/-- The first member of a set whose targets a fence has taken, with the channel. -/
def setFenced (s : State) (ks : List Nat) : Option (Nat × Nat) :=
  ks.findSome? fun m => (cmdOf s m).bind fun c => (stagedFenced s c).map fun ch => (m, ch)

/-- The work of the command in slot `k` has ended. When that of its whole set has, the Husk checks the poisoned targets and the
commit request is sent. -/
def finish (s : State) (k : Nat) : State :=
  match cmdOf s k with
  | none => s
  | some c =>
    if c.phase ≠ .running ∨ c.kill.isSome ∨ c.failSent then s
    else
      let s := setCmd s k { c with fin := true }
      let ks := jointSet s k
      if ks.all fun m => ((cmdOf s m).map (·.fin)).getD true then
        match setFenced s ks with
        | some (m, ch) => failFenced s m 4 ch
        | none =>
          match partialPoison s ks with
          | some (m, l) => failPoison s m l none 0
          | none => updCmds s ks fun _ c => { c with reqSent := true }
      else s

/-! ### The faulted chip (R414) -/

/-- A command of a faulted chip (R414, R416). -/
def faultCmd (idx : Nat) (s : State) (k : Nat) : State :=
  match cmdOf s k with
  | none => s
  | some c =>
    if c.phase = .closing ∨ c.decided ∨ c.failSent then s
    else failWith s k { code := eUnitFenced, unitCls := 0, unit := 0, slot := some k, object := idx, detail := 0xC5 * 2 ^ 56 }

/-- The chip becomes faulted: records, kills, ends. `idx` is the LOG_INDEX of the error's record, or all ones. -/
def chipFault (s : State) (cls unit idx : Nat) : State :=
  if s.flt.faulted then s
  else
    let s := { s with flt := { s.flt with faulted := true, alert := true } }
    let s := logRec s { code := eUnitFenced, unitCls := cls, unit := unit, slot := none, object := idx, detail := 0xC5 * 2 ^ 56 }
    ((s.disp.slots.filter fun e => !e.2.decided).map (·.1)).foldl (faultCmd idx) s

/-! ### Fences (R411, R415, R416) -/

/-- Discard the cached lines of a channel (R415). -/
def dropChannel (s : State) (ch : Nat) : State :=
  { s with mem := { s.mem with
      cache := s.mem.cache.filter fun l => channelOf s l.line != ch,
      fills := s.mem.fills.filter fun f => channelOf s f.line != ch } }

/-- Put a unit out of service. A link of an unused axis stays off (R332). -/
def fenceBit (s : State) (cls unit : Nat) : State :=
  if cls = 1 then { s with flt := { s.flt with coreFence := unit :: s.flt.coreFence.filter (· != unit) } }
  else if cls = 4 then
    dropChannel { s with flt := { s.flt with chanFence := unit :: s.flt.chanFence.filter (· != unit) } } unit
  else if cls = 5 then updLink s unit fun l => if l.state = 0 then l else { l with state := 4 }
  else s

/-- A command whose unit is fenced ends FAILED: one that has a request to it, or a SELFTEST whose test failed (R412, R415, R416). -/
def selfFail (cls unit : Nat) (s : State) (k : Nat) : State := failFenced s k cls unit

/-- Commands whose requests to a channel are under way. -/
def fillers (s : State) (ch : Nat) : List Nat :=
  (((s.mem.fills.filter fun f => channelOf s f.line = ch && f.asker != .system).filterMap (·.slot)).filter fun k =>
    ((cmdOf s k).map fun c => !c.decided).getD false).eraseDups

/-- Commands that wait for a unit learn that it is lost. -/
def unitLost (s : State) (cls unit : Nat) : State :=
  updCmds s (s.disp.slots.map (·.1)) fun _ c =>
    if c.units.contains (cls, unit) then { c with units := c.units.filter (· != (cls, unit)), lost := some (cls, unit) } else c

/-- Fence a unit and write its record (R416). The commands that wait for it learn of it. -/
def fenceUnit (s : State) (cls unit reason obj : Nat) : State :=
  let ks := if cls = 4 then fillers s unit else []
  let s := logRec (fenceBit s cls unit) { code := eUnitFenced, unitCls := cls, unit := unit, slot := none, object := obj, detail := reason * 2 ^ 56 }
  unitLost (ks.foldl (selfFail cls unit) s) cls unit

/-- A unit is fenced. -/
def isFenced (s : State) (cls unit : Nat) : Bool :=
  if cls = 1 then coreFenced s unit
  else if cls = 4 then chanFenced s unit
  else if cls = 5 then (linkOf s unit).state = 4
  else false

/-! ### Tests (R409 to R413) -/

def unitKey (cls unit : Nat) : Nat := cls * 2 ^ 48 + unit

/-- The test of a unit is under way: that of a core begins once no command runs on it (R409, R413). -/
def testRuns (s : State) (cls unit : Nat) : Bool := cls != 1 || (cmdOnCore s unit).isNone

/-- Start or join the test of a unit (R410), which an error fails that is found during it; `err` tells a test after an error from one that was requested. A unit whose pass
count has reached STRIKES is fenced at its next error without a test (R411). A Sheaf line, whose number is its address, is never fenced. A link
of an unused axis stays off (R332). -/
def startTest (s : State) (cls unit idx : Nat) (err : Bool) (slots : List Nat) (back : Bool) : State :=
  let strikes := cfg s mErrCfg 40 8
  if underTest s cls unit then
    let join : UnitTest → UnitTest := fun t =>
      { t with slots := t.slots ++ slots, bad := t.bad || (err && testRuns s cls unit), back := t.back || back }
    { s with flt := { s.flt with tests := mapIf (fun t => t.cls = cls && t.unit = unit) join s.flt.tests } }
  else if err ∧ cls ≠ 3 ∧ 0 < strikes ∧ strikes ≤ Map.get (fun _ => 0) s.flt.passes (unitKey cls unit) then
    fenceUnit s cls unit 0xC2 idx
  else
    let up := cls = 5 && (linkOf s unit).state = 2
    let s := { s with flt := { s.flt with tests := s.flt.tests ++
      [{ cls := cls, unit := unit, start := BitVec.ofNat 32 idx, slots := slots, back := back, wasUp := up, bad := false }] } }
    if cls = 5 then updLink s unit fun l => if l.state = 0 then l else { l with state := 1 } else s

/-- A test that the host or a corrected count requests (R402, R412, R413): a command that runs on the core without protection is
killed and re-run once the core is back in service. RTC or a COLLECTIVE protects no command from a test by the host, whose `slots` name its commands,
while the core is halted (R496). -/
def requestTest (s : State) (cls unit : Nat) (slots : List Nat) (back : Bool) : State :=
  let s := startTest s cls unit 0xFFFFFFFF false slots back
  if cls = 1 then
    match cmdOnCore s unit with
    | none => s
    | some k =>
      match cmdOf s k with
      | none => s
      | some c =>
        let halted := !slots.isEmpty && ((coreOf s unit).dbg.state = 2 || (coreOf s unit).dbg.state = 3)
        if (!halted && (rtcProtected s k || setHasCollective s k)) ∨ c.decided ∨ c.phase ≠ .running ∨ c.kill.isSome ∨ c.failSent then s
        else startKill .rerun (updCmds s (jointSet s k) fun _ m => { m with units := (1, unit) :: m.units }) k
  else s

/-- A correction brings the unit's count up by one, and to CE_LIMIT the unit to its test (R402). -/
def countUnit (s : State) (cls unit : Nat) (line : Option Nat) : State :=
  let key := unitKey cls unit
  let n := Map.get (fun _ => 0) s.flt.ceCounts key + 1
  let lim := cfg s mErrCfg 48 16
  if 0 < lim ∧ lim ≤ n then
    let s := { s with flt := { s.flt with ceCounts := Map.erase s.flt.ceCounts key } }
    if cls = 3 then
      match line with
      | some l => requestTest s 3 l [] false
      | none => s
    else requestTest s cls unit [] false
  else { s with flt := { s.flt with ceCounts := Map.put s.flt.ceCounts key n } }

/-- Where the free bit of `s` says so, a record: at most one in 1 ms is written (R402). -/
def logMaybe (s : State) (r : ErrRec) : State := if freeBit s then logRec s.tick r else s.tick

/-- Count a correction (R402): ECC_CNT, at most one record in 1 ms, the unit's count, and a test at CE_LIMIT. A slice is tested by the line corrected,
where there is one. -/
def corrected (s : State) (cls unit reason obj det : Nat) (slot line : Option Nat) : State :=
  countUnit (logMaybe (liveSat s (mEccCnt (reason - 0xB0)) 0 64 1)
    { code := eEccCorrected, unitCls := cls, unit := unit, slot := slot, object := obj, detail := reason * 2 ^ 56 + det % 2 ^ 56 }) cls unit line

/-- A command whose units have all left their tests (R105, R417): one that lost a unit ends FAILED with UNIT_FENCED, one whose
retries are used up ends FAILED, any other may be granted again. -/
def afterTests (s : State) (k : Nat) : State :=
  match cmdOf s k with
  | none => s
  | some c =>
    if c.phase ≠ .ready ∨ c.kill.isSome ∨ !c.units.isEmpty then s
    else
      match c.lost with
      | some (cls, u) => failFenced s k cls u
      | none =>
        if c.retrying then
          if cfg s mSched 2 2 ≤ c.retries then endSet .failed s k
          else updCmds s (jointSet s k) fun _ m => { m with retrying := false, retries := m.retries + 1 }
        else s

/-- Write zero over every line of a channel (R412). -/
def zeroChannel (s : State) (ch : Nat) : State :=
  { s with mem := { s.mem with
      plane := s.mem.plane.filter fun e => !(decide (e.1 < hbmSize) && channelOf s e.1 = ch),
      poison := s.mem.poison.filter fun l => !(decide (l < hbmSize) && channelOf s l = ch) } }

/-- Return a fenced unit to service (R412). -/
def unfence (s : State) (cls unit : Nat) : State :=
  if cls = 1 then { s with flt := { s.flt with coreFence := s.flt.coreFence.filter (· != unit) } }
  else if cls = 4 then zeroChannel { s with flt := { s.flt with chanFence := s.flt.chanFence.filter (· != unit) } } unit
  else s

/-- A link is back from its test: one that is disabled stays down (R375), one that was up before and has not gone down since is up again, and any other
goes on training. -/
def linkBack (s : State) (t : UnitTest) : State :=
  updLink s t.unit fun l =>
    if l.state ≠ 1 then l
    else if cfgBit s (mLinkCtl t.unit) 0 then { l with state := 3 }
    else if t.wasUp && !l.await then { l with state := 2 } else l

/-- The test of a unit ends (R409, R411). -/
def endTest (s : State) (t : UnitTest) (pass : Bool) : State :=
  let s := { s with flt := { s.flt with tests := s.flt.tests.filter fun u => !(u.cls = t.cls && u.unit = t.unit) } }
  let s := if t.cls = 1 then
      updCore s.tick t.unit fun k => { k with scratch := [], acc := [], undef := 1024 * s.fresh + t.unit, pbuf := none }
    else s
  if pass ∧ !t.bad then
    let n := Map.get (fun _ => 0) s.flt.passes (unitKey t.cls t.unit) + 1
    let s := { s with flt := { s.flt with passes := Map.put s.flt.passes (unitKey t.cls t.unit) n } }
    let s := if t.cls = 5 then linkBack s t else s
    let s := if t.back then unfence s t.cls t.unit else s
    let s := t.slots.foldl finish s
    let ks := (s.disp.slots.filter fun e => e.2.units.contains (t.cls, t.unit)).map (·.1)
    let s := updCmds s ks fun _ c => { c with units := c.units.filter (· != (t.cls, t.unit)) }
    ks.foldl afterTests s
  else if t.cls = 3 then chipFault s 3 (sliceOf s t.unit) t.start.toNat
  else
    let ks := (s.disp.slots.filter fun e => e.2.units.contains (t.cls, t.unit)).map (·.1)
    let s := fenceUnit s t.cls t.unit 0xC0 t.start.toNat
    let s := t.slots.foldl (selfFail t.cls t.unit) s
    ks.foldl afterTests s

/-! ### Errors in committed memory (R403, R405, R406) -/

/-- The line is in the Sheaf cache. -/
def cachedLine (s : State) (l : Nat) : Option CLine := s.mem.cache.find? fun c => c.line = l

/-- An uncorrectable HBM line enters its home slice poisoned, and the channel test starts (R406). Where the slice holds the line already, that copy
is what readers see and it stays good (DESIGN CHOICE, log 50). `eng` is ENG + 1 of the engine that read, or 0. -/
def hbmUncorrectable (s : State) (l eng : Nat) (slot : Option Nat) : State :=
  let d := hbmDecode s l
  let idx := nextIndex s
  let s := logRec s { code := eEccUncorrected, unitCls := 4, unit := d.1, slot := slot, object := l,
                      detail := 0xB3 * 2 ^ 56 + eng * 2 ^ 48 + d.2 % 2 ^ 48 }
  startTest (if (cachedLine s l).isSome then s else poison s l) 4 d.1 idx true [] false

/-- An uncorrectable Sheaf line (R405): a clean cache line is fetched again, which counts as a correction of its slice (R402); any other is
poisoned. The test is that of the line. `det` is DETAIL[55:0] of the record. -/
def sheafUncorrectable (s : State) (l det : Nat) (slot : Option Nat) : State :=
  let b := sliceOf s l
  let idx := nextIndex s
  let bad := logRec s { code := eEccUncorrected, unitCls := 3, unit := b, slot := slot, object := l, detail := 0xB2 * 2 ^ 56 + det }
  match cachedLine s l with
  | some c =>
    if c.dirty then startTest (poison bad l) 3 l idx true [] false
    else
      let t := corrected { s with mem := { s.mem with cache := s.mem.cache.filter (· != c) } } 3 b 0xB2 l det slot none
      startTest t 3 l (if nextIndex t = idx then 0xFFFFFFFF else idx) true [] false
  | none => startTest (poison bad l) 3 l idx true [] false

/-- The system area (R405, R414): a line past the mapped pinned window in the window's range stands for it. -/
def systemLine (s : State) (a : Nat) : Bool :=
  decide (pinnedBase + 8 * pinnedShare (pinnedGib s) ≤ a ∧ a < pinnedBase + 0x100000000)

/-- A line under a region lock, of a WRITE or a REDUCE range or of a page command (R92, R284). -/
def regionLocked (s : State) (l : Nat) : Bool :=
  s.disp.slots.any fun e => e.2.active && !released s e.1 (sliceOf s l) &&
    (e.2.lockRanges.any (fun r => overlap r.1 r.2 l 64) || e.2.reduceRanges.any (fun r => overlap r.1 r.2 l 64) ||
      e.2.page.locks.any fun p => overlap (4096 * p.1) 4096 l 64)

/-! ### Errors that a read finds (R400, R401, R404; log 50) -/

/-- Who reads: the command, its core and engine, and the address for DETAIL[47:0]; a line that is fetched ahead is no command's access (R401). -/
structure Reader where
  slot  : Nat
  core  : Nat
  eng   : Option Nat
  at'   : Nat
  ahead : Bool
  deriving DecidableEq, Repr

/-- The command that a reader's record names, if any (R401). -/
def Reader.named (r : Reader) : Option Nat := if r.ahead then none else some r.slot

/-- DETAIL[55:0] of a reader's record. -/
def Reader.det (r : Reader) : Nat := whoCode r.eng * 2 ^ 48 + r.at' % 2 ^ 48

/-- An uncorrectable error in the work of a command (R404): its record, the kill, and the test of the unit that holds the state. The engine or
control core that read completes nothing further. -/
def workError (s : State) (r : Reader) (cls unit test reason obj : Nat) : State :=
  let idx := nextIndex s
  let s := logRec s { code := eEccUncorrected, unitCls := cls, unit := unit, slot := some r.slot, object := obj,
                      detail := reason * 2 ^ 56 + r.det }
  startTest (breakUnit r.core r.eng (errorKill s r.slot cls test)) cls test idx true [] false

/-- A core's own state is wrong where `bad`, or has been corrected. The reader goes on in the second case alone. -/
def coreFlaw (s : State) (r : Reader) (bad : Bool) (reason obj : Nat) : State × Bool :=
  if bad then (workError s r 1 r.core r.core reason obj, false)
  else (corrected s 1 r.core reason obj r.det (some r.slot) none, true)

/-- A line meets an error on a bridge that base die `b` sends over (R18, R400): the machine goes on where it is corrected. -/
def bridgeFlaw (s : State) (slot : Option Nat) (det b l : Nat) (bad : Bool) : State :=
  if bad then
    let idx := nextIndex s
    let s := logRec s { code := eEccUncorrected, unitCls := 3, unit := b, slot := slot, object := l, detail := 0xB6 * 2 ^ 56 + det }
    chipFault s 3 b idx
  else corrected s 3 b 0xB6 l det slot none

/-- An error in the system area, at the line that stands for it (R405, R414). -/
def areaFlaw (s : State) (slot : Option Nat) (det l : Nat) (bad : Bool) : State :=
  let b := l / 64 % 8
  if bad then
    let idx := nextIndex s
    chipFault (logRec s { code := eEccUncorrected, unitCls := 3, unit := b, slot := slot, object := l, detail := 0xB2 * 2 ^ 56 + det }) 3 b idx
  else corrected s 3 b 0xB2 l det slot (some l)

/-- A read of a line in the Sheaf finds an error there (R405). -/
def sheafFlaw (s : State) (slot : Option Nat) (det l : Nat) (bad : Bool) : State :=
  if systemLine s l then areaFlaw s slot det l bad
  else if bad then sheafUncorrectable s l det slot else corrected s 3 (sliceOf s l) 0xB2 l det slot (some l)

/-- A reader meets an error, by what the cell holds (R400); one in a staged line lies in the work of the command that holds it (R404). Whether the
reader goes on. -/
def meetUpset (s : State) (r : Reader) (u : Upset) : State × Bool :=
  match u.cell with
  | .scratch _ off => coreFlaw s r u.bad 0xB0 off
  | .acc _ off => coreFlaw s r u.bad 0xB1 off
  | .pbuf _ => coreFlaw s r u.bad 0xB1 0
  | .reg _ file n => coreFlaw s r true 0xB5 (file * 2 ^ 56 + n)
  | .entry _ _ i => coreFlaw s r true 0xB5 (3 * 2 ^ 56 + i)
  | .icache c l =>
    (corrected (updCore s c fun k => { k with icache := k.icache.filter fun x => x.line != l }) 1 c 0xB4 l r.det (some r.slot) none, false)
  | .sheaf l => (sheafFlaw s r.named r.det l u.bad, !(u.bad && systemLine s l))
  | .staged k l =>
    if u.bad then (workError s { r with slot := k } 3 (sliceOf s l) l 0xB2 l, false)
    else (corrected s 3 (sliceOf s l) 0xB2 l r.det (some k) (some l), true)
  | .bridge b l => (bridgeFlaw s r.named r.det b l u.bad, !u.bad)
  | .logic _ _ => (s, true)

/-- A reader reads the cells that `p` names: what they hold is found, one after the other, until the reader stops. -/
def readCells (s : State) (r : Reader) (p : Cell → Bool) : State × Bool :=
  (s.flt.upsets.filter fun u => p u.cell).foldl (fun x u =>
    if x.2 then meetUpset { x.1 with flt := { x.1.flt with upsets := dropFirst (· = u) x.1.flt.upsets } } r u else x) (s, true)

/-- The command in slot m, of the set of the reader's, has staged bytes of the line (R91). -/
def stagedBy (s : State) (k m l : Nat) : Bool :=
  (jointSet s k).contains m && ((cmdOf s m).map fun c => c.staged.any fun e => lineOf e.1 = l).getD false

/-- The cells of lines of the plane, as a command on a core reads them: the committed line, the lines that its set has staged, and the bridges on the way
from the line's home slice (R18, R19, R91). -/
def lineCells (s : State) (k core : Nat) (ls : List Nat) : Cell → Bool
  | .sheaf l => ls.contains l
  | .staged m l => ls.contains l && stagedBy s k m l
  | .bridge b l => ls.contains l && (hops (sliceOf s l) (dieOf core)).contains b
  | _ => false

/-- The cells that a write of lines meets on its way to their home slices (R18, R19). -/
def writeCells (s : State) (core : Nat) (ls : List Nat) : Cell → Bool
  | .bridge b l => ls.contains l && (hops (dieOf core) (sliceOf s l)).contains b
  | _ => false

/-- The cells of a delta line that a command merges a further delta into (R48, R405). -/
def deltaCells (k : Nat) (ls : List Nat) : Cell → Bool
  | .staged m l => m = k && ls.contains l
  | _ => false

/-- An error in a staged line that a unit without an engine reads: it lies in the work of the command that holds it (R404). -/
def stagedFlaw (s : State) (k l : Nat) (bad : Bool) : State :=
  if bad then
    let idx := nextIndex s
    let s := logRec s { code := eEccUncorrected, unitCls := 3, unit := sliceOf s l, slot := some k, object := l, detail := 0xB2 * 2 ^ 56 }
    startTest (errorKill s k 3 l) 3 l idx true [] false
  else corrected s 3 (sliceOf s l) 0xB2 l 0 (some k) (some l)

/-- An access by a port or a slice's own machine, of lines read to or written from base die `die`, meets errors in the Sheaf and on the bridges (R400,
R401); one for a command reads what the command's set has staged (R91). -/
def systemAccess (s : State) (slot : Option Nat) (die : Nat) (reads : Bool) (ls : List Nat) : State :=
  let mine : Cell → Bool := fun x => match x with
    | .sheaf l => reads && ls.contains l
    | .staged m l => reads && ls.contains l && (slot.map fun k => stagedBy s k m l).getD false
    | .bridge b l => ls.contains l && (if reads then hops (sliceOf s l) die else hops die (sliceOf s l)).contains b
    | _ => false
  (s.flt.upsets.filter fun u => mine u.cell).foldl (fun s u =>
    let s := { s with flt := { s.flt with upsets := dropFirst (· = u) s.flt.upsets } }
    match u.cell with
    | .sheaf l => sheafFlaw s slot 0 l u.bad
    | .staged m l => stagedFlaw s m l u.bad
    | .bridge b l => bridgeFlaw s slot 0 b l u.bad
    | _ => s) s

/-- A read by a port or a slice's own machine on base die `die`. -/
def systemRead (s : State) (slot : Option Nat) (die : Nat) (ls : List Nat) : State := systemAccess s slot die true ls

/-! ### The system area (R37, R405, R414; log 50) -/

/-- The line past the mapped pinned window that stands for the system area of slice b at `off`. -/
def areaLine (s : State) (b off : Nat) : Nat := pinnedBase + 8 * pinnedShare (pinnedGib s) + 512 * (off / 64) + 64 * b

/-- Offsets in a slice's system area (R37): of a chip counter, a distributor's item and a schedule entry. -/
def areaCtr (n : Nat) : Nat := 8 * ((n - 0xC000) / 8)
def areaItem (i : Nat) : Nat := 0x4000 + 16 * i
def areaEntry (i : Nat) : Nat := 0x40000 + 32 * i

/-- A read of the system area of slice b finds what lies there: an uncorrectable error makes the chip faulted. Whether the reader goes on. `det` is
DETAIL[55:0] of the record. -/
def areaRead (s : State) (slot : Option Nat) (det b off : Nat) : State × Bool :=
  let l := areaLine s b off
  (s.flt.upsets.filter fun u => u.cell = .sheaf l).foldl (fun x u =>
    (areaFlaw { x.1 with flt := { x.1.flt with upsets := dropFirst (· = u) x.1.flt.upsets } } slot det l u.bad, x.2 && !u.bad)) (s, true)

/-- A reading of a counter: a chip counter lies in the system area of its slice. -/
def ctrRead (s : State) (slot : Option Nat) (det n : Nat) : State × Bool :=
  if n < 0xC000 then (s, true) else areaRead s slot det (sliceOfCounter n) (areaCtr n)

/-- SCRUB (R403): the scrub reads a line, in its channel or in its slice. A line under a region lock, a staged
line and a line with staged deltas are not read; a fenced channel is skipped, and a unit under test holds the request (R409). -/
def execScrub (x : ScrubLine) (flaw : Flaw) (s : State) : Host.Outcome State Fault Refusal :=
  let l := lineOf x.a.toNat
  let staged := s.disp.slots.any fun e => (e.2.staged.map (·.1) ++ e.2.deltas.map (·.addr)).any fun b => lineOf b = l
  let hbmRead := decide (l < hbmSize) && x.hbm
  let absent := decide (l < hbmSize) && !x.hbm && (cachedLine s l).isNone
  if systemLine s l then .next (if underTest s 3 l ∨ flaw = .clean then s else areaFlaw s none 0 l (flaw = .uncorrected))
  else if !inPlane s l 64 ∨ absent ∨ regionLocked s l ∨ staged ∨ (decide (l < hbmSize) && chanFenced s (channelOf s l)) ∨
    underTest s 3 l ∨ (hbmRead && underTest s 4 (channelOf s l)) then .next s
  else
    let s := if hbmRead then liveAdd s mSysHbm 64 else s
    match flaw with
    | .clean => .next s
    | .corrected =>
      let d := hbmDecode s l
      if hbmRead then .next (corrected s 4 d.1 0xB3 l d.2 none none)
      else .next (corrected s 3 (sliceOf s l) 0xB2 l 0 none (some l))
    | .uncorrected =>
      if isPoisoned s l then .next s
      else if hbmRead then .next (hbmUncorrectable s l 0 none)
      else .next (sheafUncorrectable s l 0 none)

/-- An uncorrectable error in the logic of a unit that is never fenced makes the chip faulted (R414). -/
def logicFault (s : State) : State :=
  match s.flt.upsets.find? fun u => match u.cell with | .logic _ _ => u.bad | _ => false with
  | none => s
  | some u =>
    let s := { s with flt := { s.flt with upsets := dropFirst (· = u) s.flt.upsets } }
    match u.cell with
    | .logic cls unit => chipFault s cls unit 0xFFFFFFFF
    | _ => s

/-! ### The log's registers (R418, R419) -/

/-- ERRLOG_TAIL is written: the applied value (R418). -/
def tailApplied (s : State) (v : Nat) : Nat :=
  let h := s.flt.log.head
  let oldest := if 1024 ≤ s.flt.log.written then (h + logMod - 1024) % logMod else 0
  let back := logDist h (v % logMod)
  if 2 ^ 31 ≤ back then h
  else if back ≤ logDist h oldest then v % logMod
  else oldest

def errlogTailWrite (s : State) (v : Word) : State :=
  let req := fld v 0 32
  let app := tailApplied s req
  let s := { s with flt := { s.flt with log := { s.flt.log with tail := app } } }
  if app = req then s else reportClamp s .mgmt 0x04 mErrTail 0 32 req app

/-- ERRLOG_TAIL_WRITE (R418); the reserved upper half is reported (R10). -/
def execErrlogTailWrite (v : Word) (s : State) : Host.Outcome State Fault Refusal :=
  .next (errlogTailWrite (if fld v 32 32 = 0 then s else reportClamp s .mgmt 0x05 mErrTail 32 32 (fld v 32 32) 0) v)

def alertClear (s : State) : State := { s with flt := { s.flt with alert := false } }

/-- ALERT_CLEAR (R419). -/
def execAlertClear (s : State) : Host.Outcome State Fault Refusal := .next (alertClear s)

end Sys2Proof.Machine
end

