-- ==== Sys2Proof/Machine/Staging.lean ====
section
/-!
DEFINITION. What a running command stages (R91 to R94): written lines, egress, external signal sums, their limits and their
faults. The members of a joint set count as one command (R89).
-/
namespace Sys2Proof.Machine

/-- The distinct lines (address / 64) of a staged map. -/
def distinctLines (m : Map Byte) : List Nat := (m.map fun e => e.1 / 64).eraseDups

/-- The distinct delta lines (R48, R91): target line, contributor, core, engine. -/
def deltaLines (ds : List Delta) : List (Nat × Nat × Nat × Nat) :=
  (ds.map fun d => (d.addr / 64, d.contrib, d.core, d.eng)).eraseDups

/-- Lines of a command's egress staged in slice `b` (R93). -/
def egressCount (c : Cmd) (b : Nat) : Nat := (c.egress.map fun e => (e.lines.filter (· = b)).length).sum

/-- Units of 64 KiB reserved for a command's set in slice `b`, and lines staged there. -/
def setStage (s : State) (k b : Nat) : Nat :=
  ((jointSet s k).map fun m => ((cmdOf s m).map fun c => c.stage.getD b 0).getD 0).sum

/-- The lines that the set has staged in slice `b`: the distinct lines that its members have written, its delta lines and its egress (R91). -/
def setStaged (s : State) (k b : Nat) : Nat :=
  let cs := (jointSet s k).filterMap (cmdOf s)
  (((cs.flatMap fun c => distinctLines c.staged).eraseDups).filter fun l => sliceOf s (64 * l) = b).length
  + (((cs.flatMap fun c => deltaLines c.deltas).eraseDups).filter fun d => sliceOf s (64 * d.1) = b).length
  + (cs.map fun c => egressCount c b).sum

/-- The first slice in which the set has staged more than its reservation. -/
def stageOver (s : State) (k : Nat) : Option Nat :=
  (List.range 8).find? fun b => decide (1024 * setStage s k b < setStaged s k b)

/-- SHAPE_OVER at staging (R91): `obj` is the line, or the destination of egress. The unit of `core` that staged it stops. -/
def failStage (s : State) (k b obj : Nat) (eng : Option Nat) (core : Option Nat := none) : State :=
  let s := failWith s k { code := eShapeOver, unitCls := 3, unit := b, slot := some k, object := obj,
                          detail := 0x24 * 2 ^ 56 + whoCode eng * 2 ^ 48 + setStage s k b % 2 ^ 16 }
  match core with
  | none => s
  | some c => breakUnit c eng s

/-- The first line of a list, in its order, that is one line too many for its slice (R91): `new` holds the lines before it that are new, and
`old` those that the set holds already. -/
def firstOver (s : State) (k : Nat) (old : List Nat) : (new ls : List Nat) → Option Nat
  | _, [] => none
  | new, l :: t =>
    if old.contains l || new.contains l then firstOver s k old new t
    else
      let b := sliceOf s l
      if 1024 * setStage s k b < setStaged s k b + (new.filter fun x => sliceOf s x = b).length + 1 then some l
      else firstOver s k old (l :: new) t

/-- The line at which a write of these lines overruns (R91). -/
def overLine (s : State) (k : Nat) (ls : List Nat) : Nat :=
  (firstOver s k (((jointSet s k).filterMap (cmdOf s)).flatMap fun c => (distinctLines c.staged).map (64 * ·)) [] ls).getD (ls.headD 0)

/-- The range touches the KV frame table, which no command writes (R277). -/
def inFrameTable (s : State) (a n : Nat) : Bool :=
  cfgBit s mKvCtl 0 && overlap a n (4096 * cfg s mKvFrame 0 36) (16 * cfg s mKvFrame 36 28)

/-- The range lies in WRITE ranges of the set (R92). -/
def inWrite (s : State) (k a n : Nat) : Bool :=
  !inFrameTable s a n && (linesOf a n).all fun l => (jointSet s k).any fun m => ((cmdOf s m).map fun c =>
    c.writeRanges.any fun r => decide (r.1 ≤ l ∧ l + 64 ≤ r.1 + r.2)).getD false

/-- The element lies in a WRITE or REDUCE range of the set (R92). -/
def inReduce (s : State) (k a n : Nat) : Bool :=
  !inFrameTable s a n && (linesOf a n).all fun l => (jointSet s k).any fun m => ((cmdOf s m).map fun c =>
    c.ranges.any fun r => decide (r.2.1 ≤ l ∧ l + 64 ≤ r.2.1 + r.2.2)).getD false

/-- This chip's global address of a plane address. -/
def globalOf (s : State) (a : Nat) : Nat := chipNo s * 2 ^ 48 + a

/-- The lines of `ls` that a set has staged by non-allocating transfers only, once `k` writes them (R43): a line that an ordinary write has
staged does not join them, and an ordinary write takes its lines out (DESIGN CHOICE, log 10). -/
def thruAfter (c : Cmd) (thru : Bool) (ls : List Nat) : List Nat :=
  if thru then c.thru ++ ls.filter fun l => !c.thru.contains l && !(distinctLines c.staged).contains (l / 64)
  else c.thru.filter fun l => !ls.contains l

/-- Put staged bytes in place; the set holds one staged copy of a byte, the latest (R91). `thru` marks a non-allocating transfer (R43). -/
def stagePut (s : State) (k a : Nat) (bs : List Byte) (thru : Bool := false) : State :=
  updCmds s (jointSet s k) fun m c =>
    if m = k then { c with staged := Map.putRun c.staged a bs, thru := thruAfter c thru (linesOf a bs.length) }
    else { c with staged := Map.clear c.staged a (a + bs.length) }

/-- Stage bytes of the command in slot `k`. A write that overruns a reservation stages nothing and fails the command; its unit stops. -/
def stageBytes (s : State) (k a : Nat) (bs : List Byte) (eng : Option Nat) (core : Option Nat := none) (thru : Bool := false) : State :=
  let t := stagePut s k a bs thru
  match stageOver t k with
  | none => t
  | some _ =>
    let l := overLine s k (linesOf a bs.length)
    failStage s k (sliceOf s l) (globalOf s l) eng core

/-- Stage several pieces in order. -/
def stageAll (s : State) (k : Nat) (ps : List (Nat × List Byte)) (eng : Option Nat) (core : Option Nat := none) (thru : Bool := false) :
    State :=
  let t := ps.foldl (fun s p => stagePut s k p.1 p.2 thru) s
  match stageOver t k with
  | none => t
  | some _ =>
    let l := overLine s k (ps.flatMap fun p => linesOf p.1 p.2.length)
    failStage s k (sliceOf s l) (globalOf s l) eng core

/-- How many lines of an egress, whose slices stand in order, find room: `room` is what the set has left in each slice (R91, R93). -/
def egressFit : (room ls : List Nat) → Nat
  | _, [] => 0
  | room, b :: t => if room.getD b 0 = 0 then 0 else 1 + egressFit (room.set b (room.getD b 0 - 1)) t

/-- The slice in which an egress overruns, and the address of that line's destination (R91). -/
def egressOver (s : State) (k : Nat) (e : Egress) : Nat × Nat :=
  let i := egressFit ((List.range 8).map fun b => 1024 * setStage s k b - setStaged s k b) e.lines
  (e.lines.getD i 0, (if e.host then 0 else e.dest * 2 ^ 48) + e.addr + 64 * i)

/-- Lines per slice of a range of this chip's plane, for egress staged with its source (R93). -/
def linesBySlice (s : State) (a n : Nat) : List (Nat × Nat) :=
  let ls := linesOf a n
  ((List.range 8).map fun b => (b, (ls.filter fun l => sliceOf s l = b).length)).filter fun e => e.2 != 0

/-- The distinct external counters that a set has signalled (R92): those of this chip, and those of peers, whose signals ride in its write messages
(R94, R191). A counter goes with its chip. -/
def extCounters (s : State) (k : Nat) : List (Nat × Nat) :=
  (((jointSet s k).filterMap (cmdOf s)).flatMap fun c => c.sums.map (fun e => (chipNo s, e.1)) ++
    (c.egress.filter fun e => !e.host && e.sinc != 0).map fun e => (e.dest, e.sctr)).eraseDups

/-- More external counters than 1,024 fail the command (R92); the unit that signalled counter n stops. -/
def counterLimit (s t : State) (k n : Nat) (core eng : Option Nat) : State :=
  if 1024 < (extCounters t k).length then
    let s := failWith s k { code := eShapeOver, unitCls := 7, unit := 0, slot := some k, object := n,
                            detail := 0x24 * 2 ^ 56 + whoCode eng * 2 ^ 48 }
    match core with
    | none => s
    | some c => breakUnit c eng s
  else t

/-- Stage egress (R93); the signal that a peer's write message carries counts among the external ones (R92). -/
def stageEgress (s : State) (k : Nat) (e : Egress) (eng : Option Nat) (core : Option Nat := none) : State :=
  let t := updCmd s k fun c => { c with egress := c.egress ++ [e] }
  match stageOver t k with
  | none => if e.host || e.sinc = 0 then t else counterLimit s t k e.sctr core eng
  | some _ =>
    let x := egressOver s k e
    failStage s k x.1 x.2 eng core

/-- A signal crosses its core's Sheaf port where its counter is a chip counter: one line slot (R15; log 11). -/
def portSignal (s : State) (n : Nat) (core : Option Nat) : State :=
  match core with
  | some c => if n < 0xC000 then s else countPort s c 64 true
  | none => s

/-- A signal of the command in slot `k` (R94): an internal one leaves base die `die` for its counter, an external one joins the sums that the
commit applies. More than 1,024 external counters fail the command (R92), and the unit that signalled stops. -/
def signalOf (s : State) (k n inc : Nat) (core eng : Option Nat) (die : Nat := 0) : State :=
  if inc = 0 then s
  else
    let s := portSignal s n core
    if isInternal s k n then signalOut s n inc (some k) core ((core.map dieOf).getD die)
    else
      counterLimit s (updCmd s k fun c => { c with sums := sumAdd c.sums n inc }) k n core eng

/-- A mask CSETS lets an address be reached: HBM in the channel sets of the mask, and whatever lies outside HBM (R64). -/
def inCsets (s : State) (m : BitVec 48) (a : Nat) : Bool := decide (hbmSize ≤ a) || bit m (setOfChannel (channelOf s a))

/-- The masks of the command (R64): it may reach the channel set of an HBM address. -/
def csetOk (s : State) (k a : Nat) : Bool :=
  match cmdOf s k with
  | none => true
  | some c => inCsets s c.csets a

/-- A line of a range that the dispatcher may not read, or have flipped, for a command of queue q before its grant: the mask is the one that a grant would
give it (R64, R65). -/
def queueBars (s : State) (q a n : Nat) : Option Nat := (linesOf a n).find? fun l => !inCsets s (BitVec.ofNat 48 (cfg s (mQpart q) 0 48)) l

/-- Every line of a range lies in a channel set that the command may reach. -/
def csetBad (s : State) (k a n : Nat) : Option Nat := (linesOf a n).find? fun l => !csetOk s k l

/-- A line of the range whose channel is fenced (R415). -/
def fencedIn (s : State) (a n : Nat) : Option Nat :=
  (linesOf a n).find? fun l => decide (l < hbmSize) && chanFenced s (channelOf s l)

/-- A line of the range is under test, or its channel is: its requests are held (R409). -/
def heldByTest (s : State) (a n : Nat) : Bool :=
  (linesOf a n).any fun l => underTest s 3 l || (decide (l < hbmSize) && underTest s 4 (channelOf s l))

/-- The range is held for the command: locked by another, or its channel is under test (R93, R409). -/
def heldFor (s : State) (k a n : Nat) : Bool := (lockIn s (jointSet s k) a n).isSome || heldByTest s a n

end Sys2Proof.Machine
end

