-- ==== Sys2Proof/Machine/Sheaf.lean ====
section
/-!
DEFINITION. The Sheaf cache over the HBM plane (R41 to R45), the lines requested from the channels (R50), and the byte counters of
the ports and the channels (R482).
-/
namespace Sys2Proof.Machine

/-! ### Tree pseudo-LRU (log 10) -/

/-- The mask allows a way among the `n` from `lo`. -/
def anyWay (mask : BitVec 16) (lo n : Nat) : Bool := (List.range n).any fun i => bit mask (lo + i)

/-- The way that the tree of `2 ^ levels` leaves picks: a node's bit 1 points right; a side that the mask closes is avoided. -/
def plruWalk {n : Nat} (bits : BitVec n) (mask : BitVec 16) : (levels node lo : Nat) → Nat
  | 0, _, lo => lo
  | d + 1, node, lo =>
    let h := 2 ^ d
    let right := if !anyWay mask lo h then true else if !anyWay mask (lo + h) h then false else bit bits node
    plruWalk bits mask d (2 * node + b2n right) (if right then lo + h else lo)

/-- The bits after a use of `way`: every node on its path points away from it. -/
def plruTouch {n : Nat} (bits : BitVec n) (way : Nat) : (levels node : Nat) → BitVec n
  | 0, _ => bits
  | d + 1, node =>
    let right := way / 2 ^ d % 2
    plruTouch (setFld bits node 1 (1 - right)) way d (2 * node + right)

def setKey (slice set : Nat) : Nat := slice * 524288 + set

def cacheBits (s : State) (slice set : Nat) : BitVec 16 := Map.get (fun _ => 0) s.mem.plru (setKey slice set)

def cacheTouch (s : State) (slice set way : Nat) : State :=
  { s with mem := { s.mem with
      plru := Map.set (fun _ => 0) s.mem.plru (setKey slice set) (plruTouch (cacheBits s slice set) way 4 1) } }

/-! ### Byte counters (R482) -/

/-- Count HBM bytes: for a core's request, for a runner of the quadrant given, or for a commit, which moves them from the home
slice and so near (log 11). -/
def countHbm (s : State) (slot core quad : Option Nat) (ch n : Nat) : State :=
  let q := stackOfChannel ch / 3
  let near : Bool := match core, quad with
    | some c, _ => decide (quadOfDie (dieOf c) = q)
    | none, some r => decide (r = q)
    | none, none => true
  let s := match core with
    | some c => liveAdd s (mCcnt c (if near then 2 else 3)) n
    | none => s
  match slot.bind (cmdOf s) with
  | some c => liveAdd s (mQcnt c.queue (if near then 1 else 2)) n
  | none => liveAdd s mSysHbm n

/-- Count for a queue. -/
def countQueue (s : State) (k cnt n : Nat) : State :=
  match cmdOf s k with
  | some c => liveAdd s (mQcnt c.queue cnt) n
  | none => s

/-! ### Allocation, eviction and write-back (R43, R45) -/

/-- A dirty line is read to be written back to its own channel: no command's access finds what is wrong with it (R401). -/
def readBack (s : State) (v : CLine) : State := if v.dirty then systemRead s none v.slice [v.line] else s

/-- Drop a line from the cache; a dirty one is written back to its own channel, which a fenced channel skips (R45, R415). -/
def evict (s : State) (slot core quad : Option Nat) (v : CLine) : State :=
  let s := readBack s v
  let s := { s with mem := { s.mem with cache := s.mem.cache.filter (· != v) } }
  let ch := channelOf s v.line
  if v.dirty && !chanFenced s ch then countHbm s slot core quad ch 64 else s

/-- Bring a line into its home slice's cache under a way mask, or use it where it is resident (R43). -/
def allocate (s : State) (slot core quad : Option Nat) (line : Nat) (ways : BitVec 16) (dirty : Bool) : State :=
  let b := sliceOf s line
  let st := cacheSet s line
  match cachedLine s line with
  | some c =>
    cacheTouch { s with mem := { s.mem with
      cache := mapIf (· = c) (fun c => { c with dirty := c.dirty || dirty }) s.mem.cache } } b st c.way
  | none =>
    if ways = 0 then (if dirty then countHbm s slot core quad (channelOf s line) 64 else s)
    else
      let w := plruWalk (cacheBits s b st) ways 4 1 0
      let s := match s.mem.cache.find? fun c => c.slice = b && c.set = st && c.way = w with
        | some v => evict s slot core quad v
        | none => s
      let s := { s with mem := { s.mem with
        cache := { slice := b, set := st, way := w, line := line, dirty := dirty } :: s.mem.cache } }
      cacheTouch s b st w

/-- The cache ways in which the command may allocate (R43, R65). -/
def wayMask (s : State) (k : Nat) : BitVec 16 :=
  match cmdOf s k with
  | none => 0
  | some c => c.ways &&& BitVec.ofNat 16 (2 ^ cacheWays (pinnedGib s) - 1)

/-- A unit of the command reads lines: resident ones are used, the others are requested from their channels (R43). -/
def sheafAccess (s : State) (slot : Option Nat) (asker : Asker) (lines : List Nat) (nonalloc : Bool) (ahead : Bool := false) : State :=
  let ways := match slot with
    | some k => if nonalloc then 0 else wayMask s k
    | none => 0
  lines.foldl (fun s l =>
    if hbmSize ≤ l then s
    else match cachedLine s l with
      | some c => cacheTouch s c.slice c.set c.way
      | none =>
        if s.mem.fills.any fun f => f.line = l && f.asker = asker then s
        else { s with mem := { s.mem with fills := s.mem.fills ++
          [{ line := l, ways := ways, urgent := false, slot := slot, asker := asker, ahead := ahead }] } }) s

/-- Lines that an asker still waits for. -/
def awaits (s : State) (p : FillReq → Bool) : Bool := s.mem.fills.any p

def Asker.ofControl (c : Nat) : Asker → Bool
  | .control k _ => k = c
  | _ => false

def Asker.ofEngine (c e at' : Nat) : Asker → Bool
  | .engine k g a => k = c && g = e && a = at'
  | _ => false

def Asker.core : Asker → Option Nat
  | .control c _ => some c
  | .engine c _ _ => some c
  | _ => none

def Asker.quad : Asker → Option Nat
  | .entry b _ => some (quadOfDie b)
  | _ => none

/-- ENG + 1 of the engine that asks, or 0 (R401). -/
def Asker.engCode : Asker → Nat
  | .engine _ e _ => e + 1
  | _ => 0

/-- A schedule entry in slice b's system area (R37, R55). -/
def entryCount : Nat := 122880
def entryOf (s : State) (b i : Nat) : BitVec 256 := Map.get (fun _ => 0) s.mem.entries (b * entryCount + i)
def entryKind (e : BitVec 256) : Nat := fld e 40 4

/-- The asker meets a poisoned line (R407), where it has taken its data as the request went out: a load or an atomic, an engine's instruction in flight, a
COPY. Any other meets the mark when it reads. A command that is decided no longer reads. -/
def askerPoison (l : Nat) (s : State) (f : FillReq) : State :=
  if ((f.slot.bind (cmdOf s)).map (·.decided)).getD false then s
  else match f.slot, f.asker with
  | some k, .control c a =>
    if (coreOf s c).loads.any fun x => x.at' = a && lineOf x.addr = l && x.value.isSome then breakUnit c none (failPoison s k l none a) else s
  | some k, .engine c e a => breakUnit c (some e) (failPoison s k l (some e) a)
  | some k, .cmd => failPoison s k l none 0
  | _, _ => s

/-! ### The transit buffer and the channels (R39, R54) -/

/-- Lines of a slice's transit buffer (R39). -/
def transitLines : Nat := 2048

/-- The lines in the transit buffer of slice b: those requested without allocation, the oldest 2,048 of them; the others wait for room
(R39). -/
def transit (s : State) (b : Nat) : List Nat :=
  (((s.mem.fills.filter fun f => f.ways = 0 && sliceOf s f.line = b).map (·.line)).eraseDups).take transitLines

/-- A request that its channel may serve: an allocating one, or one that has its place in the transit buffer. -/
def FillReq.placed (s : State) (f : FillReq) : Bool := f.ways != 0 || (transit s (sliceOf s f.line)).contains f.line

/-- The request that a channel serves next: the oldest urgent one, else the oldest (R54). The bursts of R54 are timing (log 3). -/
def channelNext (s : State) (ch : Nat) : Option FillReq :=
  let q := s.mem.fills.filter fun f => channelOf s f.line = ch && f.placed s
  match q.find? (·.urgent) with
  | some f => some f
  | none => q.head?

/-- The command whose access finds what a fill brings: none where the line is fetched ahead (R401). -/
def FillReq.named (f : FillReq) : Option Nat := if f.ahead then none else f.slot

/-- The line `l`, which the requests `f :: reqs` wait for, arrives in its home slice (R43, R50, R406): it is allocated under the mask of the first request
that allocates. What the read found in it is counted to the first requester (R401). -/
def fillLine (s : State) (l : Nat) (f : FillReq) (reqs : List FillReq) (flaw : Flaw) : State :=
  let ch := channelOf s l
  let s := countHbm s f.slot f.asker.core f.asker.quad ch 64
  let s := { s with mem := { s.mem with fills := s.mem.fills.filter fun g => g.line != l } }
  let s := match flaw with
    | .clean => s
    | .corrected => corrected s 4 ch 0xB3 l (f.asker.engCode * 2 ^ 48 + (hbmDecode s l).2 % 2 ^ 48) f.named none
    | .uncorrected => if isPoisoned s l then s else hbmUncorrectable s l f.asker.engCode f.named
  let g := (List.find? (fun g : FillReq => g.ways != 0) (f :: reqs)).getD f
  let s := allocate s g.slot g.asker.core g.asker.quad l g.ways false
  if isPoisoned s l then (f :: reqs).foldl (askerPoison l) s else s

end Sys2Proof.Machine
end

