-- ==== Sys2Proof/Machine/KvTables.lean ====
section
/-!
DEFINITION. The tables of sessions, futures, pages and frames (R269 to R282), frames that are taken and returned, read pins, and the
walker cache (R294, R295).
-/
namespace Sys2Proof.Machine

/-! ### Registers (R278) -/

/-- KV tables are in use: enabled, and not being initialised (R279). -/
def kvOn (s : State) : Bool := cfgBit s mKvCtl 0 && !cfgBit s mKvCtl 1

def futCount (s : State) : Nat := cfg s mKvFut 36 20 + 1
def sessCount (s : State) : Nat := cfg s mKvSess 36 14 + 1
def frameCount (s : State) : Nat := cfg s mKvFrame 36 28
def futAt (s : State) (f : Nat) : Nat := 4096 * cfg s mKvFut 0 36 + 16 * f
def sessAt (s : State) (n : Nat) : Nat := 4096 * cfg s mKvSess 0 36 + 8 * n
def frameAt (s : State) (n : Nat) : Nat := 4096 * cfg s mKvFrame 0 36 + 16 * n

/-- A frame number that names no frame. -/
def noFrame : Nat := 0x0FFFFFFF

/-- A class's word: its fields (R270). -/
def clsWord (s : State) (c : Nat) : Word := regGet s (mKvClass c)
def clsValid (w : Word) : Bool := bit w 0
def clsPagePool (w : Word) : Nat := fld w 54 6
def clsSumPool (w : Word) : Nat := fld w 48 6
def clsLeafPool (w : Word) : Nat := fld w 42 6
def clsL1 (w : Word) : Nat := fld w 37 5
def clsLayers (w : Word) : Nat := fld w 29 8
def clsKvh (w : Word) : Nat := fld w 22 7
def clsHd (w : Word) : Nat := if bit w 21 then 128 else 64
def clsFmt (w : Word) : Nat := fld w 17 4
def clsZ (w : Word) : Nat := 2 ^ (12 + fld w 14 3)
/-- Bytes of an element. -/
def clsEl (w : Word) : Nat := if clsFmt w = 0x07 then 2 else 1

def poolOn (s : State) (i : Nat) : Bool := cfgBit s (mKvPool i 1) 63
def poolTier (s : State) (i : Nat) : Nat := cfg s (mKvPool i 1) 61 2
def poolLog2 (s : State) (i : Nat) : Nat := cfg s (mKvPool i 1) 56 5
def poolCount (s : State) (i : Nat) : Nat := cfg s (mKvPool i 1) 28 28
def poolFirst (s : State) (i : Nat) : Nat := cfg s (mKvPool i 1) 0 28
def poolRing (s : State) (i : Nat) : Nat := cfg s (mKvPool i 2) 0 48

/-- The LOCATOR of a frame of pool i. -/
def frameLoc (s : State) (i n : Nat) : Nat := cfg s (mKvPool i 0) 0 64 + (n - poolFirst s i) * 2 ^ poolLog2 s i

/-! ### Entries (R273 to R277) -/

def futRoot (e : BitVec 128) : Nat := fld e 80 48
def futSession (e : BitVec 128) : Nat := fld e 66 14
def futState (e : BitVec 128) : Nat := fld e 64 2
def futLength (e : BitVec 128) : Nat := fld e 32 32
def sessClass (e : Word) : Nat := fld e 0 4
def sessFutures (e : Word) : Nat := fld e 16 20
def descLocator (d : BitVec 128) : Nat := fld d 64 64
def descFrame (d : BitVec 128) : Nat := fld d 36 28
def descSum (d : BitVec 128) : Nat := fld d 8 28
def descValid (d : BitVec 128) : Nat := fld d 3 5
def descSealed (d : BitVec 128) : Bool := bit d 2
def descTier (d : BitVec 128) : Nat := fld d 0 2
def descAbsent : BitVec 128 := ofFields 128 [(36, noFrame)]
def framePool (e : BitVec 128) : Nat := fld e 58 6
def frameKind (e : BitVec 128) : Nat := fld e 56 2
def frameState (e : BitVec 128) : Nat := fld e 54 2
def framePins (e : BitVec 128) : Nat := fld e 32 17
def frameRef (e : BitVec 128) : Nat := fld e 0 32
def frameLink (e : BitVec 128) : Nat := fld e 100 28

/-- The lowest bit of the spans that is not zero: a reserved field of a table entry (R10). -/
def entryBad (n v : Nat) (spans : List (Nat × Nat)) : Option Nat :=
  (spans.flatMap fun p => (span p.1 p.2).filter fun b => bit (BitVec.ofNat n v) b).head?

def futBad (v : Nat) : Option Nat := entryBad 128 v [(20, 12)]
def sessBad (v : Nat) : Option Nat := entryBad 64 v [(4, 12), (36, 28)]
def l1Bad (v : Nat) : Option Nat := entryBad 64 v [(0, 36)]

/-- A present descriptor with VALID above 16 (R276), or with bits of a plane address that must be zero. -/
def descWrong (v : Nat) : Option Nat :=
  let d : BitVec 128 := BitVec.ofNat 128 v
  if descFrame d = noFrame then none
  else if 16 < descValid d then some 3
  else if descTier d < 2 then entryBad 128 v [(112, 16)]
  else none

def fFree : Nat := 0
def fLive : Nat := 1
def fDraining : Nat := 2
def fHeld : Nat := 3

/-- The number at plane addresses as the command in slot `k` sees it. -/
def seenNat (s : State) (k a n : Nat) : Nat := leNat (seenRead s k a n)

/-- A frame's entry, which no command stages (R277). -/
def frameEntry (s : State) (n : Nat) : BitVec 128 := BitVec.ofNat 128 (planeNat s (frameAt s n) 16)
def setFrame (s : State) (n : Nat) (e : BitVec 128) : State := planeWrite s (frameAt s n) (natLE 16 e.toNat)
def updFrame (s : State) (n lo len v : Nat) : State := setFrame s n (setFld (frameEntry s n) lo len v)

/-- Plane address of a frame of a tier-0 pool. -/
def frameAddr (s : State) (n : Nat) : Nat := frameLoc s (framePool (frameEntry s n)) n % 2 ^ 48

/-- Address of the level-1 entry of layer l and leaf index i. -/
def l1At (root : Nat) (cls : Word) (l i : Nat) : Nat := root + 8 * (l * 2 ^ clsL1 cls + i)

/-! ### Takes and returns (R279, R281) -/

def poolFree (s : State) (i : Nat) : Nat :=
  poolCount s i + (liveGet s (mKvPool i 4)).toNat - (liveGet s (mKvPool i 3)).toNat

/-- Take a frame of pool i: it becomes HELD with its kind. -/
def takeFrame (s : State) (i kind : Nat) : Option (Nat × State) :=
  if !poolOn s i ∨ poolFree s i = 0 then none
  else
    let n := planeNat s (poolRing s i + 4 * ((liveGet s (mKvPool i 3)).toNat % poolCount s i)) 4
    let s := liveAdd s (mKvPool i 3) 1
    some (n, updFrame (updFrame s n 54 2 fHeld) n 56 2 kind)

/-- Return a frame to its pool: its entry reads as at initialisation. -/
def returnFrame (s : State) (n : Nat) : State :=
  let i := framePool (frameEntry s n)
  let s := setFrame s n (ofFields 128 [(58, i), (100, noFrame)])
  let at' := poolRing s i + 4 * ((liveGet s (mKvPool i 4)).toNat % max 1 (poolCount s i))
  liveAdd (planeWrite s at' (natLE 4 n)) (mKvPool i 4) 1

/-- A frame becomes FREE: a page's summary frame is returned with it (R281). -/
def freeFrame (s : State) (n : Nat) : State :=
  let e := frameEntry s n
  let s := if frameKind e = 0 ∧ frameLink e ≠ noFrame then returnFrame s (frameLink e) else s
  returnFrame s n

/-! ### Read pins (R282, R294) -/

def pinFrame (s : State) (n : Nat) : State := updFrame s n 32 17 (framePins (frameEntry s n) + 1)

/-- A pin is released; the last one frees a DRAINING frame. -/
def unpinFrame (s : State) (n : Nat) : State :=
  let s := updFrame s n 32 17 (framePins (frameEntry s n) - 1)
  let e := frameEntry s n
  if frameState e = fDraining ∧ framePins e = 0 then freeFrame s n else s

/-- Set of the walker cache. -/
def walkSet (t : Trans) : Nat := (t.future + 16 * t.layer + 4096 * t.page) % 256

/-- The same page of the same command. -/
def Trans.sameTag (t u : Trans) : Bool := t.slot = u.slot && t.future = u.future && t.layer = u.layer && t.page = u.page

/-- An entry leaves the walker cache, its look-aside copies with it. -/
def evictWalk (s : State) (w : WEntry) : State :=
  let s := { s with mem := { s.mem with wcache := s.mem.wcache.filter (· != w) } }
  let s := updCores s (span (32 * w.cluster) 32) fun _ k =>
    { k with lab := k.lab.filter fun t => !t.sameTag w.trans }
  unpinFrame s w.frame

/-- A translation enters a core's look-aside buffer of 32 entries, the least recently used first. -/
def labAdd (k : Core) (t : Trans) : Core :=
  let l := k.lab.filter fun u => !u.sameTag t
  { k with lab := l.drop (l.length - 31) ++ [t] }

/-- A pinned translation enters the walker cache: 8 ways, the oldest leaves (log 24). -/
def walkAdd (s : State) (cluster : Nat) (t : Trans) : State :=
  let mine := s.mem.wcache.filter fun w => w.cluster = cluster && walkSet w.trans = walkSet t
  let s := match mine with
    | w :: _ => if 8 ≤ mine.length then evictWalk s w else s
    | [] => s
  { s with mem := { s.mem with wcache := s.mem.wcache ++ [{ cluster := cluster, trans := t, frame := descFrame t.desc }] } }

/-- A command ends: its entries leave the walker caches (R282). -/
def dropWalks (s : State) (k : Nat) : State := (s.mem.wcache.filter fun w => w.trans.slot = k).foldl evictWalk s

/-! ### The walk (R295) -/

/-- What a walk finds. -/
inductive Walked where
  | fault (reason : Nat)
  | held (a : Nat)
  | lost (line : Nat)
  | bad (b : Nat)
  | absent
  | found (d : BitVec 128)
  deriving DecidableEq, Repr

/-- A table entry of `n` bytes as the command sees it, unless its line is locked by another command, its data is lost, or `wrong` gives the bit
of an invalid value (R11). -/
def tableRead (s : State) (k a n : Nat) (wrong : Nat → Option Nat) (go : Nat → Walked) : Walked :=
  if heldFor s k a n then .held (lineOf a)
  else match seenPoison s k a n, wrong (seenNat s k a n) with
    | some l, _ => .lost l
    | none, some b => .bad b
    | none, none => go (seenNat s k a n)

/-- A frame that the command may read: LIVE, or taken by a member of its set. -/
def readable (s : State) (k n : Nat) : Bool :=
  let st := frameState (frameEntry s n)
  st = fLive || (st = fHeld && (jointSet s k).any fun m => ((cmdOf s m).map fun c => c.page.frames.contains n).getD false)

/-- The tables from future f to the descriptor of page p, without the pin. -/
def walkTables (s : State) (k f l p : Nat) : Walked :=
  if !kvOn s then .fault 0x64
  else if futCount s ≤ f then .fault 0x65
  else tableRead s k (futAt s f) 16 futBad fun v =>
    let fe : BitVec 128 := BitVec.ofNat 128 v
    if futState fe ≠ 1 then .fault 0x60
    else tableRead s k (sessAt s (futSession fe)) 8 sessBad fun v =>
      let cls := clsWord s (sessClass (BitVec.ofNat 64 v))
      if !clsValid cls then .fault 0x64
      else if clsLayers cls ≤ l ∨ 2 ^ clsL1 cls ≤ p / 256 then .absent
      else tableRead s k (l1At (futRoot fe) cls l (p / 256)) 8 l1Bad fun v =>
        let leaf := v / 2 ^ 36
        if leaf = noFrame then .absent
        else tableRead s k (frameAddr s leaf + 16 * (p % 256)) 16 descWrong fun v =>
          let d : BitVec 128 := BitVec.ofNat 128 v
          if descFrame d = noFrame then .absent
          else if readable s k (descFrame d) then .found d
          else .fault 0x66

/-- How many table lines a walk reads, by what it finds (R295). -/
def walkLines (s : State) (k f l p : Nat) : Nat :=
  let fe : BitVec 128 := BitVec.ofNat 128 (seenNat s k (futAt s f) 16)
  let cls := clsWord s (sessClass (BitVec.ofNat 64 (seenNat s k (sessAt s (futSession fe)) 8)))
  if !kvOn s ∨ futCount s ≤ f then 0
  else if futState fe ≠ 1 then 1
  else if !clsValid cls ∨ clsLayers cls ≤ l ∨ 2 ^ clsL1 cls ≤ p / 256 then 2
  else if seenNat s k (l1At (futRoot fe) cls l (p / 256)) 8 / 2 ^ 36 = noFrame then 3
  else 4

/-- The class of a LIVE future as the command sees it. -/
def futClass (s : State) (k f : Nat) : Option Word :=
  let fe : BitVec 128 := BitVec.ofNat 128 (seenNat s k (futAt s f) 16)
  if !kvOn s ∨ futCount s ≤ f ∨ futState fe ≠ 1 then none
  else some (clsWord s (sessClass (BitVec.ofNat 64 (seenNat s k (sessAt s (futSession fe)) 8))))

end Sys2Proof.Machine
end

