-- ==== Sys2Proof/Machine/Flags.lean ====
section
/-!
DEFINITION. What sets a predicate register of a control core (R131): the part has no other flags.
-/
namespace Sys2Proof.Machine

/-- COND of CMP and CMPI (R131). -/
def condFn (c : Nat) (a b : Word) : Bool :=
  match c with
  | 0 => a = b
  | 1 => a != b
  | 2 => decide (a.toInt < b.toInt)
  | 3 => decide (b.toInt ≤ a.toInt)
  | 4 => decide (a.toNat < b.toNat)
  | _ => decide (b.toNat ≤ a.toNat)

/-- PFN of PLOG (R131). -/
def plogFn (f : Nat) (a b : Bool) (g : Word) : Bool :=
  match f with
  | 0 => a && b
  | 1 => a || b
  | 2 => a != b
  | 3 => a && !b
  | 4 => !a
  | 5 => g != 0
  | 6 => true
  | _ => false

end Sys2Proof.Machine
end

