-- ==== Sys2Proof/Machine/Float.lean ====
section
/-!
DEFINITION. Element formats (R197 to R199), exact values, rounding and conversion (R203 to R208), and the accumulation chain
(R202).
-/
namespace Sys2Proof.Machine

/-! ### Formats (R197) -/

/-- A floating-point format: exponent bits, mantissa bits, bias, the magnitude pattern of its largest finite value, whether it has
infinities, and its canonical NaN if it has one (R205). -/
structure FFmt where
  eb   : Nat
  mb   : Nat
  bias : Nat
  top  : Nat
  inf  : Bool
  nan  : Option Nat
  deriving DecidableEq, Repr

def fp4 : FFmt := ⟨2, 1, 1, 0x7, false, none⟩
def fp6e2m3 : FFmt := ⟨2, 3, 1, 0x1F, false, none⟩
def fp6e3m2 : FFmt := ⟨3, 2, 3, 0x1F, false, none⟩
def fp8e4m3 : FFmt := ⟨4, 3, 7, 0x7E, false, some 0x7F⟩
def fp8e5m2 : FFmt := ⟨5, 2, 15, 0x7B, true, some 0x7F⟩
def bf16 : FFmt := ⟨8, 7, 127, 0x7F7F, true, some 0x7FC0⟩
def fp16 : FFmt := ⟨5, 10, 15, 0x7BFF, true, some 0x7E00⟩
def fp32 : FFmt := ⟨8, 23, 127, 0x7F7FFFFF, true, some 0x7FC00000⟩
/-- FP64, in which the watch results are given (R489). -/
def fp64 : FFmt := ⟨11, 52, 1023, 0x7FEFFFFFFFFFFFFF, true, some 0x7FF8000000000000⟩

/-- The floating-point format of a code; none for an integer code. -/
def floatFmt (code : Nat) : Option FFmt :=
  match code with
  | 0x01 => some fp4
  | 0x02 => some fp6e2m3
  | 0x03 => some fp6e3m2
  | 0x05 => some fp8e4m3
  | 0x06 => some fp8e5m2
  | 0x07 => some bf16
  | 0x08 => some fp16
  | 0x09 => some fp32
  | _ => none

/-- Element width in bits. -/
def fmtBits (code : Nat) : Nat :=
  match code with
  | 0x00 => 4
  | 0x01 => 4
  | 0x02 => 6
  | 0x03 => 6
  | 0x04 => 8
  | 0x05 => 8
  | 0x06 => 8
  | 0x07 => 16
  | 0x08 => 16
  | 0x09 => 32
  | 0x0A => 32
  | 0x0B => 64
  | _ => 0

def isFloat (code : Nat) : Bool := (floatFmt code).isSome

/-- FP32, BF16 and FP16, which DENORM governs (R204). -/
def flushes (code : Nat) : Bool := code = 0x07 || code = 0x08 || code = 0x09

/-! ### Exact values -/

/-- A value: `fin neg m e` is ±m × 2^e with m > 0. -/
inductive FVal where
  | nan
  | inf (neg : Bool)
  | zero (neg : Bool)
  | fin (neg : Bool) (m : Nat) (e : Int)
  deriving DecidableEq, Repr

/-- The value of a dyadic integer pair; a zero is +0 unless `neg`. -/
def FVal.ofInt (neg : Bool) (v : Int) (e : Int) : FVal :=
  if v = 0 then .zero neg else .fin (decide (v < 0)) v.natAbs e

/-- The bits of a format as a value (R198). -/
def FFmt.value (f : FFmt) (w : Nat) : FVal :=
  let mag := w % 2 ^ (f.eb + f.mb)
  let neg := w / 2 ^ (f.eb + f.mb) % 2 = 1
  let e := mag / 2 ^ f.mb
  let m := mag % 2 ^ f.mb
  if f.inf ∧ e = 2 ^ f.eb - 1 then (if m = 0 then .inf neg else .nan)
  else if f.top < mag then .nan
  else if mag = 0 then .zero neg
  else if e = 0 then .fin neg m (1 - (f.bias : Int) - f.mb)
  else .fin neg (2 ^ f.mb + m) ((e : Int) - f.bias - f.mb)

/-- A subnormal pattern. -/
def FFmt.subnormal (f : FFmt) (w : Nat) : Bool :=
  w % 2 ^ (f.eb + f.mb) != 0 && w / 2 ^ f.mb % 2 ^ f.eb == 0

/-- Read an element under a DENORM setting (R198, R204): 2 flushes. -/
def readElem (denorm code w : Nat) : FVal :=
  match floatFmt code with
  | some f =>
    if denorm = 2 ∧ flushes code ∧ f.subnormal w then .zero (w / 2 ^ (f.eb + f.mb) % 2 = 1) else f.value w
  | none => FVal.ofInt false (toSigned (fmtBits code) w) 0

def FVal.neg : FVal → FVal
  | .nan => .nan
  | .inf s => .inf (!s)
  | .zero s => .zero (!s)
  | .fin s m e => .fin (!s) m e

def FVal.abs : FVal → FVal
  | .nan => .nan
  | .inf _ => .inf false
  | .zero _ => .zero false
  | .fin _ m e => .fin false m e

def FVal.isNeg : FVal → Bool
  | .nan => false
  | .inf s => s
  | .zero s => s
  | .fin s _ _ => s

/-- The significand as a signed number. -/
def signedSig (s : Bool) (m : Nat) : Int := if s then -(m : Int) else m

/-- Multiply by 2^k exactly (R199). -/
def FVal.scale (v : FVal) (k : Int) : FVal :=
  match v with
  | .fin s m e => .fin s m (e + k)
  | v => v

/-- The exact product (R201). -/
def FVal.mul (a b : FVal) : FVal :=
  match a, b with
  | .nan, _ => .nan
  | _, .nan => .nan
  | .inf _, .zero _ => .nan
  | .zero _, .inf _ => .nan
  | .inf s, y => .inf (s != y.isNeg)
  | x, .inf t => .inf (x.isNeg != t)
  | .zero s, y => .zero (s != y.isNeg)
  | x, .zero t => .zero (x.isNeg != t)
  | .fin s m e, .fin t n f => .fin (s != t) (m * n) (e + f)

/-- The exact sum (R203). `down` gives the sign of an exact zero sum of unlike signs: −0 under rounding toward −∞. -/
def FVal.addD (down : Bool) (a b : FVal) : FVal :=
  match a, b with
  | .nan, _ => .nan
  | _, .nan => .nan
  | .inf s, .inf t => if s = t then .inf s else .nan
  | .inf s, _ => .inf s
  | _, .inf t => .inf t
  | .zero s, .zero t => if s = t then .zero s else .zero down
  | .zero _, y => y
  | x, .zero _ => x
  | .fin s m e, .fin t n f =>
    let lo := min e f
    FVal.ofInt down (signedSig s m * 2 ^ (e - lo).toNat + signedSig t n * 2 ^ (f - lo).toNat) lo

/-- The exact sum as the chain forms it (R203). -/
def FVal.add (a b : FVal) : FVal := FVal.addD false a b

/-- Order of two values that are not NaN: −1, 0 or 1, with −0 equal to +0. -/
def FVal.cmp (a b : FVal) : Int :=
  match a, b with
  | .inf s, .inf t => if s = t then 0 else if s then -1 else 1
  | .inf s, _ => if s then -1 else 1
  | _, .inf t => if t then 1 else -1
  | x, y =>
    match FVal.addD false x y.neg with
    | .fin s _ _ => if s then -1 else 1
    | _ => 0

/-- Floor of log2 of a positive number. -/
def log2 (n : Nat) : Nat := Nat.log2 n

/-! ### Rounding (R206, R208) -/

inductive RMode where
  | rne
  | rz
  | rup
  | rdn
  /-- Stochastic, with the 24 bits G of R208. -/
  | stoch (g : Nat)
  deriving DecidableEq, Repr

/-- Whether a magnitude with remainder `r / 2^n`, plus something below it where `sticky`, moves away from zero. `odd` is the last
bit kept. -/
def roundsUp (rm : RMode) (neg odd : Bool) (r n : Nat) (sticky : Bool) : Bool :=
  if r = 0 ∧ !sticky then false
  else match rm with
    | .rne =>
      let half := 2 ^ n
      if 2 * r < half then false
      else if half < 2 * r then true
      else sticky || odd
    | .rz => false
    | .rup => !neg
    | .rdn => neg
    | .stoch g => decide (g < r * 2 ^ 24 / 2 ^ n)

/-- Round m × 2^e (and a little more where `sticky`) to a multiple of 2^q. -/
def roundMul (rm : RMode) (neg : Bool) (m : Nat) (e q : Int) (sticky : Bool) : Nat :=
  if q ≤ e then m * 2 ^ (e - q).toNat
  else
    let n := (q - e).toNat
    let k := m / 2 ^ n
    k + b2n (roundsUp rm neg (k % 2 = 1) (m % 2 ^ n) n sticky)

/-- The magnitude pattern of a rounded finite value, before the test of range (R207). -/
def FFmt.magnitude (f : FFmt) (rm : RMode) (neg : Bool) (m : Nat) (e : Int) (sticky : Bool) : Nat :=
  let emin : Int := 1 - (f.bias : Int) - f.mb
  let q := max emin ((log2 m : Int) + e - f.mb)
  let k := roundMul rm neg m e q sticky
  ((q - emin).toNat) * 2 ^ f.mb + k

/-- A pattern with its sign. -/
def FFmt.signed (f : FFmt) (neg : Bool) (mag : Nat) : Nat := b2n neg * 2 ^ (f.eb + f.mb) + mag

/-- The pattern of infinity. -/
def FFmt.infPat (f : FFmt) : Nat := (2 ^ f.eb - 1) * 2 ^ f.mb

/-- What a magnitude above the largest finite becomes (R207). -/
def FFmt.overflow (f : FFmt) (rm : RMode) (sat neg : Bool) : Nat :=
  if !f.inf ∨ sat then f.top
  else match rm with
    | .rz => f.top
    | .rup => if neg then f.top else f.infPat
    | .rdn => if neg then f.infPat else f.top
    | _ => f.infPat

/-- Round and encode a value (R205 to R207). -/
def FFmt.encode (f : FFmt) (rm : RMode) (sat : Bool) (v : FVal) (sticky : Bool) : Nat :=
  match v with
  | .nan => f.nan.getD 0
  | .inf s => f.signed s (if f.inf ∧ !sat then f.infPat else f.top)
  | .zero s => f.signed s 0
  | .fin s m e =>
    let p := f.magnitude rm s m e sticky
    f.signed s (if f.top < p then f.overflow rm sat s else p)

/-- Round and encode into an integer format of `n` bits (R207). -/
def encodeInt (n : Nat) (rm : RMode) (v : FVal) (sticky : Bool) : Nat :=
  let top : Int := 2 ^ (n - 1) - 1
  let bot : Int := -(2 ^ (n - 1))
  match v with
  | .nan => 0
  | .inf s => ofSigned n (if s then bot else top)
  | .zero _ => 0
  | .fin s m e =>
    let k := signedSig s (roundMul rm s m e 0 sticky)
    ofSigned n (max bot (min top k))

/-- The result of an operation as the bits of a format, with the flush of R204. `sticky` says that the exact magnitude lies a
little above the one given. -/
def writeElemS (denorm code : Nat) (rm : RMode) (sat : Bool) (v : FVal) (sticky : Bool) : Nat :=
  match floatFmt code with
  | none => encodeInt (fmtBits code) rm v sticky
  | some f =>
    let w := f.encode rm sat v sticky
    if denorm = 2 ∧ flushes code ∧ f.subnormal w then f.signed (w / 2 ^ (f.eb + f.mb) % 2 = 1) 0 else w

/-- The result of an exact operation. -/
def writeElem (denorm code : Nat) (rm : RMode) (sat : Bool) (v : FVal) : Nat := writeElemS denorm code rm sat v false

/-- FP32 rounding to nearest even, as the chain, the Husk, the atomics and the collectives do it. -/
def fp32Rne (denorm : Nat) (v : FVal) : Nat := writeElem denorm 0x09 .rne false v

/-- FP32 add of two patterns (R48, R138). -/
def fp32Add (denorm a b : Nat) : Nat := fp32Rne denorm ((readElem denorm 0x09 a).add (readElem denorm 0x09 b))

/-! ### The chain (R202) -/

/-- One step of the chain: the sum is formed exactly and rounded once. -/
def chainStep (denorm : Nat) (s : Nat) (p : FVal) : Nat := fp32Rne denorm ((fp32.value s).add p)

/-- The chain over the products, lane 0 first. -/
def chain (denorm start : Nat) (ps : List FVal) : Nat := ps.foldl (chainStep denorm) start

/-- The fresh start of a chain: −0. -/
def chainFresh : Nat := 0x80000000

/-- The rounding mode that an RM code selects under the ROUND setting (R206); none where it is reserved. -/
def roundMode (round rm g : Nat) : Option RMode :=
  match rm with
  | 0 => some (match round with | 2 => .rz | 3 => .rup | 4 => .rdn | _ => .rne)
  | 1 => some .rne
  | 2 => some .rz
  | 3 => some .rup
  | 4 => some .rdn
  | 5 => some (.stoch g)
  | _ => none

end Sys2Proof.Machine
end

