-- ==== Sys2Proof/Machine/Settings.lean ====
section
/-!
DEFINITION. Range checks and reports of register writes (R53, R65, R71, R76, R332, R434, R460, R461), the settings images
(R453 to R459), and the commands STORE and REPORT (R462 to R466).
-/
namespace Sys2Proof.Machine

/-! ### One field (R460) -/

/-- Requested value to (applied value, reason); reason 0 where nothing was adjusted. -/
def checkField (c : Chk) (prev req : Nat) : Nat × Nat :=
  match c with
  | .any => (req, 0)
  | .range lo hi => if req < lo then (lo, 0x01) else if hi < req then (hi, 0x02) else (req, 0)
  | .enc lo hi => if req < lo ∨ hi < req then (prev, 0x03) else (req, 0)

/-- Write one field of a word with its check and report. -/
def putField (o : Origin) (off : Nat) (f : RField) (req : Nat) (s : State) : State :=
  let prev := if o.ofImage then f.dflt else cfg s off f.lo f.len
  let r := checkField f.chk prev req
  let s := cfgSet s off f.lo f.len r.1
  if r.2 = 0 then s else reportClamp s o r.2 off f.lo f.len req r.1

/-- The fields that a write from `o` may change. -/
def writable (s : State) (o : Origin) (f : RField) : Bool :=
  match o with
  | .mgmt => f.acc = .rw || (f.acc = .rwl && !s.mram.locked)
  | _ => f.app != .never

/-- The spans of a word that no field covers, lowest first. -/
def gapsFrom (at' : Nat) : List RField → List (Nat × Nat)
  | [] => if at' < 64 then [(at', 64 - at')] else []
  | f :: t => (if at' < f.lo then [(at', f.lo - at')] else []) ++ gapsFrom (f.lo + f.len) t

def reservedSpans (fs : List RField) : List (Nat × Nat) := gapsFrom 0 fs.reverse

/-- Report non-zero reserved bits, one pair for each span (R10, R461). -/
def reportReserved (o : Origin) (off : Nat) (fs : List RField) (v : Word) (s : State) : State :=
  (reservedSpans fs).foldl (fun s g =>
    if fld v g.1 g.2 = 0 then s else reportClamp s o 0x05 off g.1 g.2 (fld v g.1 g.2) 0) s

/-- At a load, bits of derived fields are reported when they are neither zero nor the derived value (R458). -/
def reportDerived (o : Origin) (off : Nat) (fs : List RField) (v : Word) (s : State) : State :=
  (fs.filter fun f => f.app = .never).foldl (fun s f =>
    let d := if off = mSheaf ∧ f.lo = 12 then cacheWays (pinnedGib s) else cfg s off f.lo f.len
    if fld v f.lo f.len = 0 ∨ fld v f.lo f.len = d then s
    else reportClamp s o 0x05 off f.lo f.len (fld v f.lo f.len) d) s

/-! ### Rules across fields -/

/-- Replace a field by the value that another field or register imposes, with its report. -/
def fixField (o : Origin) (reason off lo len app : Nat) (s : State) : State :=
  let cur := cfg s off lo len
  if cur = app then s else reportClamp (cfgSet s off lo len app) o reason off lo len cur app

/-- QPART.WAYS under the split (R65). -/
def fixWays (o : Origin) (q : Nat) (s : State) : State :=
  fixField o 0x04 (mQpart q) 48 16 (cfg s (mQpart q) 48 16 % 2 ^ cacheWays (pinnedGib s)) s

/-- MAX_ADMIT under the completion ring (R76). -/
def fixAdmit (o : Origin) (q : Nat) (s : State) : State :=
  let size := 2 ^ (cfg s (mQcomp q) 18 4 + 6)
  if cfg s (mQcfg q) 17 1 = 0 ∧ size < cfg s (mQcfg q) 0 11 then fixField o 0x04 (mQcfg q) 0 11 size s else s

/-- Bytes of a submission ring (R72). -/
def ringBytes (s : State) (q : Nat) : Nat := 64 * 2 ^ (cfg s (mQcfg q) 20 4 + 6)
def ringBase (s : State) (q : Nat) : Nat := 64 * cfg s (mQring q) 6 42

/-- ENABLE falls where the ring does not lie wholly in the mapped pinned window (R76). -/
def fixRing (o : Origin) (q : Nat) (s : State) : State :=
  if cfgBit s (mQcfg q) 15 ∧ !inPinned s (ringBase s q) (ringBytes s q) then fixField o 0x04 (mQcfg q) 15 1 0 s else s

/-- Coordinates below their axis sizes (R332). -/
def fixTorus (o : Origin) (s : State) : State :=
  let cn := cfg s mTorus 0 16
  let app := ((List.range 4).map fun a => Nat.min (coord cn a) (cfg s mTorus (16 + 4 * a) 4) * 16 ^ a).sum
  fixField o 0x04 mTorus 0 16 app s

/-- The range of CAP_LIMIT in a mode (R434). -/
def capRange (mode : Nat) : Nat × Nat := if mode = 3 then (1000, 4000) else (1000, 3800)

def fixCap (o : Origin) (s : State) : State :=
  let r := capRange (cfg s mPwrCfg 40 2)
  let lim := cfg s mPwrCfg 48 16
  if lim < r.1 then fixField o 0x01 mPwrCfg 48 16 r.1 s
  else if r.2 < lim then fixField o 0x02 mPwrCfg 48 16 r.2 s
  else s

/-- The rules that a write of the word at `off` brings with it. -/
def fixAcross (o : Origin) (off : Nat) (s : State) : State :=
  if off = mTorus then fixTorus o s
  else if off = mPwrCfg then fixCap o s
  else
    match arrAt off 0x10000 64 256 with
    | some (q, w) =>
      if w = 0x00 then fixRing o q (fixAdmit o q s)
      else if w = 0x08 then fixRing o q s
      else if w = 0x20 then fixAdmit o q s
      else s
    | none =>
      match arrAt off 0x41000 8 256 with
      | some (q, _) => fixWays o q s
      | none => s

/-- Write a whole register word from `o`: its fields in the map's order, its reserved bits, then the rules across fields. -/
def putWord (o : Origin) (off : Nat) (v : Word) (s : State) : State :=
  match regFields off with
  | none => s
  | some fs =>
    let s := (fs.filter (writable s o)).foldl (fun s f => putField o off f (fld v f.lo f.len) s) s
    let s := reportReserved o off fs v s
    let s := if o = .mgmt then s else reportDerived o off fs v s
    fixAcross o off s

/-! ### The settings (R456) -/

/-- The offsets of the settings, ascending. -/
def settingOffsets : List Nat :=
  [mArith, mPwrCfg, mSscCfg, mModCfg] ++ (List.range 256).flatMap (fun q => [mQcfg q, mQring q]) ++
  [mSched, mTimeout, mSyncCfg, mSheaf] ++ (List.range 48).map mCset ++ [mTherm] ++ (List.range 256).map mQpart ++
  [mTorus, mVcWeight] ++ (List.range 8).map mDetour ++
  (List.range 2).flatMap (fun e => (List.range 4).map (mEth e)) ++
  [mFct] ++ (List.range 8).map (fun i => mFctAllow 0 + 8 * i) ++ [mCqIp 0, mCqIp 0 + 8, mCqMac 0, mCqIp 1, mCqIp 1 + 8, mCqMac 1] ++
  [mErrCfg, mSetTag]

/-- The word names a setting. -/
def isSetting (off : Nat) : Bool :=
  match regFields off with
  | none => false
  | some fs => fs.any fun f => f.app != .never

/-- The setting fields of a word, all others zero (R462). -/
def settingValue (s : State) (off : Nat) : Word :=
  match regFields off with
  | none => 0
  | some fs => ofFields 64 ((fs.filter fun f => f.app != .never).map fun f => (f.lo, cfg s off f.lo f.len))

/-- An image entry (R454). -/
def imageEntry (off : Nat) (v : Word) : BitVec 128 := ofFields 128 [(0, off), (64, v.toNat)]
def entryOff (e : BitVec 128) : Nat := fld e 0 24
def entryVal (e : BitVec 128) : Word := BitVec.ofNat 64 (fld e 64 64)

/-- The image that STORE captures from the part (R462). -/
def captureImage (s : State) : List (BitVec 128) := settingOffsets.map fun off => imageEntry off (settingValue s off)

/-- Every setting at its default (R458 step 2). -/
def defaultSettings (s : State) : State :=
  { s with regs := s.regs.filter fun e => !isSetting e.1 }

/-- The default WAYS of every queue under the split in force (R456, R458 step 3). -/
def defaultWays (s : State) : State :=
  (List.range 256).foldl (fun s q => cfgSet s (mQpart q) 48 16 (2 ^ cacheWays (pinnedGib s) - 1)) s

/-- CACHE_WAYS is derived (R35, R456). -/
def deriveWays (s : State) : State := cfgSet s mSheaf 12 4 (cacheWays (pinnedGib s))

/-- The set whose values set `i` takes (R53): the aligned start of a group that reaches over it, or the aligned start of the
group it asks for. -/
def groupLead (s : State) (i : Nat) : Nat :=
  let k := groupSets (cfg s (mCset i) 4 3)
  let covers := fun j =>
    let kj := groupSets (cfg s (mCset j) 4 3)
    decide (i < j + kj ∧ j % kj = 0)
  match (List.range i).find? covers with
  | some j => j
  | none => i - i % k

/-- A set whose group disagrees with, or is not aligned to, its lowest set takes that set's values (R53). The copied size may
again be misaligned, so the rule is applied until it holds; each round makes the group smaller. -/
def fixGroup (o : Origin) (fuel : Nat) (s : State) (i : Nat) : State :=
  match fuel with
  | 0 => s
  | f + 1 =>
    let j := groupLead s i
    if j = i then s
    else
      let s := fixField o 0x04 (mCset i) 4 3 (cfg s (mCset j) 4 3) s
      let s := fixField o 0x04 (mCset i) 0 3 (cfg s (mCset j) 0 3) s
      fixGroup o f s i

/-- At most eight privileged sets: the lowest are kept (R71). -/
def fixPriv (o : Origin) (s : State) (i : Nat) : State :=
  let n := ((List.range i).filter fun j => cfgBit s (mCset j) 8).length
  if cfgBit s (mCset i) 8 ∧ 8 ≤ n then fixField o 0x08 (mCset i) 8 1 0 s else s

/-- Sort entries by offset, the later of equal offsets after the earlier. -/
def insertEntry (e : BitVec 128) : List (BitVec 128) → List (BitVec 128)
  | [] => [e]
  | x :: t => if entryOff e < entryOff x then e :: x :: t else x :: insertEntry e t

def sortEntries (es : List (BitVec 128)) : List (BitVec 128) := es.foldl (fun l e => insertEntry e l) []

/-- Apply one entry of an image (R458). Non-zero bits of the entry's own reserved field are ignored and reported, as its bits [63:24]
(DESIGN CHOICE, log 52). -/
def applyEntry (o : Origin) (s : State) (e : BitVec 128) : State :=
  if isSetting (entryOff e) then
    let s := putWord o (entryOff e) (entryVal e) s
    if fld e 24 40 = 0 then s else reportClamp s o 0x05 (entryOff e) 24 40 (fld e 24 40) 0
  else reportClamp s o 0x07 (entryOff e) 0 64 (entryVal e).toNat 0

/-- Apply an image to the defaults in the order of R458 steps 2 to 4. -/
def applyImage (o : Origin) (es : List (BitVec 128)) (s : State) : State :=
  let s := defaultSettings s
  let s := (es.filter fun e => entryOff e = mSheaf).foldl (applyEntry o) s
  let s := defaultWays (deriveWays s)
  let s := (sortEntries (es.filter fun e => entryOff e != mSheaf)).foldl (applyEntry o) s
  let s := (List.range 48).foldl (fixGroup o 5) s
  (List.range 48).foldl (fixPriv o) s

/-! ### Images (R453, R455) -/

def Image.valid (i : Image) : Bool :=
  i.intact && i.magic = 0x53455431#32 && i.version = 0x01#8 && decide (i.count ≤ 16380)

/-- The active image (R455): 0 A, 1 B, 2 none. -/
def activeImage (m : Mram) : Nat :=
  match m.imageA.valid, m.imageB.valid with
  | true, true => if m.imageA.seq.toNat < m.imageB.seq.toNat then 1 else 0
  | true, false => 0
  | false, true => 1
  | false, false => 2

def imageOf (m : Mram) (i : Nat) : Image := if i = 0 then m.imageA else m.imageB

def setImage (m : Mram) (i : Nat) (x : Image) : Mram :=
  if i = 0 then { m with imageA := x } else { m with imageB := x }

/-- The slot that STORE writes: the inactive one, image A where none is valid (R459, R462). -/
def storeSlot (m : Mram) : Nat := if activeImage m = 0 then 1 else 0

/-- The SEQ of the next image (R459, R463). -/
def nextSeq (m : Mram) : Word := if activeImage m = 2 then 1 else (imageOf m (activeImage m)).seq + 1

/-- The header and entries of an image as bytes, DIGEST zero (R453). -/
def imageBytes (i : Image) : List Byte :=
  natLE 64 ((ofFields 512 [(0, i.version.toNat), (8, i.magic.toNat), (40, i.count), (192, i.seq.toNat)]).toNat) ++
  (i.entries.take i.count).flatMap fun e => natLE 16 e.toNat

def imageDigest (i : Image) : BitVec 256 := Config.shake256 (imageBytes i)

/-- The operand block of a SETTINGS command (R84). -/
def Cmd.setAddr (c : Cmd) : Nat := fld c.record 256 48
def Cmd.setOp (c : Cmd) : Nat := fld c.record 192 8
def Cmd.newEpoch (c : Cmd) : Nat := fld c.record 224 32

/-- A STORE is running (R468). -/
def storeRuns (s : State) : Bool :=
  s.disp.slots.any fun e => e.2.kind = 7 && e.2.setOp = 2 && (e.2.phase = .running || e.2.phase = .committing)

/-- SET_STAT as read (R468). -/
def setStatWord (s : State) : Word :=
  let m := s.mram
  let a := activeImage m
  ofFields 64 [(0, a), (5, b2n m.imageA.valid), (6, b2n m.imageB.valid), (7, b2n (storeRuns s)),
    (16, if a = 2 then 0 else (imageOf m a).count % 65536), (48, Nat.min m.clamps 65535)]

/-- SET_SEQ[i] as read (R468). -/
def setSeqWord (s : State) (i : Nat) : Word := if (imageOf s.mram i).valid then (imageOf s.mram i).seq else 0

/-! ### STORE and REPORT -/

/-- The command in slot `k` is a running command of this kind that has not begun its work and has not failed. -/
def atWork (s : State) (k kind : Nat) : Option Cmd :=
  match cmdOf s k with
  | none => none
  | some c => if c.phase = .running ∧ c.kind = kind ∧ c.work = false ∧ c.kill = none ∧ c.failSent = false then some c else none

def begun (s : State) (k : Nat) : State := updCmd s k fun c => { c with work := true }

/-- The image that a STORE with ADDR ≠ 0 names, as committed (R462); none where it is not admissible. -/
def namedImage (s : State) (a : Nat) : Option (List (BitVec 128)) :=
  let h : BitVec 512 := BitVec.ofNat 512 (planeNat s a 64)
  let n := fld h 40 16
  if a % 64 = 0 ∧ inPinned s a 64 ∧ fld h 56 136 = 0 ∧ fld h 0 8 = 1 ∧ fld h 8 32 = 0x53455431 ∧ n ≤ 16380 ∧ inPinned s a (64 + 16 * n) then
    some ((List.range n).map fun i => BitVec.ofNat 128 (planeNat s (a + 64 + 16 * i) 16))
  else none

/-- The record of MRAM that does not read back as it was written: the command's, with the MRAM offset of the image (R401, R463; DESIGN
CHOICE, log 52). -/
def mramRec (k i : Nat) : ErrRec :=
  { code := eEccUncorrected, unitCls := 8, unit := 0, slot := some k, object := 0x40000 * i, detail := 0xB8 * 2 ^ 56 }

/-- STORE up to its commit request (R462, R463 steps 1 to 3): the inactive header is zeroed and the entries are written, checked
as a load would check them, with every other register as reset leaves it, and read back. `ok` says whether the read-back agrees. -/
def store (s : State) (k : Nat) (es : List (BitVec 128)) (ok : Bool) : State :=
  let i := storeSlot s.mram
  let blank : Image := { seq := 0, magic := 0, version := 0, count := es.length, entries := es, intact := false }
  let s := { s with mram := { setImage s.mram i blank with storing := some k } }
  let t := applyImage (.storeCheck k) es { s with regs := [] }
  let s := { t with regs := s.regs }
  let s := begun s k
  if ok then finish s k
  else failWith { s with mram := { s.mram with storing := none } } k (mramRec k i)

/-- Bytes of the image at `a`, as its header gives them. -/
def namedBytes (s : State) (a : Nat) : Nat := 64 + 16 * Nat.min (fld (BitVec.ofNat 512 (planeNat s a 64)) 40 16) 16380

/-- STORE: the SETTINGS STORE in slot k runs (R462, R463). Its image is read as committed, so a locked line of it is waited for. -/
def execStore (k : SlotId) (ok : Bool) (s : State) : Host.Outcome State Fault Refusal :=
  match atWork s k.toNat 0x07 with
  | none => .next s
  | some c =>
    if c.setOp ≠ 2 then .next s
    else if c.setAddr = 0 then .next (store s k.toNat (s.mram.readImage.getD (captureImage s)) ok)
    else if heldFor s k.toNat c.setAddr 64 ∨ heldFor s k.toNat c.setAddr (namedBytes s c.setAddr) then .next s
    else match namedImage s c.setAddr with
      | none => .next (failDisp s k.toNat 0x33 c.setAddr 256)
      | some es => .next (store s k.toNat es ok)

/-- The command commits: the header is written and the image becomes the active one (R463 steps 4 and 5, R465). A free value says whether one
of the three writes of the header reads back as written; where none does, the header is zero again, the earlier image stays active and
ERROR_INDEX names the record, with SET_TAG as it was, since no label is stored (DESIGN CHOICE, log 52). -/
def storeCommit (s : State) (k : Nat) : State :=
  if s.mram.storing = some k then
    let i := storeSlot s.mram
    let x := imageOf s.mram i
    let n : Image := { seq := nextSeq s.mram, magic := 0x53455431, version := 1, count := x.entries.length,
                       entries := x.entries, intact := true }
    let t := s.tick
    if freeBit s then
      let t := { t with mram := { setImage t.mram i n with storing := none, readImage := none, locked := true } }
      regSet t mSetTag (((n.entries.reverse.find? fun e => entryOff e = mSetTag).map entryVal).getD 0)
    else logRec { t with mram := { t.mram with storing := none, readImage := none } } (mramRec k i)
  else s

/-- The bytes of the clamping report (R466). -/
def reportBytes (s : State) : List Byte :=
  let m := s.mram
  natLE 32 ((ofFields 256 [(0, m.loaded.toNat), (16, m.clamps % 65536), (32, m.report.length), (128, m.loadTag.toNat),
    (192, m.loadSeq.toNat)]).toNat) ++ m.report.flatMap fun e => natLE 32 e.toNat

/-- REPORT: the SETTINGS REPORT in slot k writes the clamping report of the last load to ADDR (R466). -/
def execReport (k : SlotId) (s : State) : Host.Outcome State Fault Refusal :=
  match atWork s k.toNat 0x07 with
  | none => .next s
  | some c =>
    if c.setOp ≠ 3 then .next s
    else
      let s := begun s k.toNat
      let s := stageBytes s k.toNat c.setAddr (reportBytes s) none
      .next (finish s k.toNat)

end Sys2Proof.Machine
end

