-- ==== Sys2Proof/Machine/Dispatcher.lean ====
section
/-!
DEFINITION. Work queues from the doorbell to a ready command: QTAIL (R74), aborts (R112), admission (R73, R78, R89, R90), the annex and
the output list (R85, R86), readiness (R87), and the charges and limits of running commands (R108, R110). Grants are in Grant.lean.
-/
namespace Sys2Proof.Machine

/-! ### The doorbell (R72, R74) -/

def ringSize (s : State) (q : Nat) : Nat := 2 ^ (cfg s (mQcfg q) 20 4 + 6)

/-- Records between HEAD and TAIL. -/
def ringLoad (s : State) (q : Nat) : Nat := ((queueOf s q).tail - (queueOf s q).head).toNat

/-- The plane address of a record's ring entry. -/
def ringEntry (s : State) (q : Nat) (i : BitVec 32) : Nat := ringBase s q + 64 * (i.toNat % ringSize s q)

/-- QTAIL[q] is written (R74). -/
def qtailWrite (s : State) (q : Nat) (v : Word) : State :=
  let t : BitVec 32 := BitVec.ofNat 32 (fld v 0 32)
  let s := reportReserved .mgmt (mQtail q) [fRw 0 32] v s
  if ringSize s q < (t - (queueOf s q).head).toNat then dispRec s none 0x31 v.toNat q
  else updQueue s q fun k => { k with tail := t }

/-- QTAIL_WRITE (R72, R74). -/
def execQtailWrite (q : QueueId) (v : Word) (s : State) : Host.Outcome State Fault Refusal := .next (qtailWrite s q.toNat v)

/-! ### Aborts (R112) -/

/-- The abort of one admitted command, with its set. -/
def abortCmd (s : State) (k : Nat) : State :=
  match cmdOf s k with
  | none => s
  | some c =>
    if c.phase = .admitted ∨ c.phase = .ready then endSet .aborted s k
    else updCmds s (jointSet s k) fun _ c => { c with aborts := c.aborts ++ [(c.reqSent, c.failSent)] }

/-- The records between HEAD and TAIL, as positions. -/
def waitingRecords (s : State) (q : Nat) : List (BitVec 32) :=
  (List.range (ringLoad s q)).map fun i => (queueOf s q).head + BitVec.ofNat 32 i

/-- Of several commands, the first of each joint set: one abort ends a whole set (R112). -/
def leaders (s : State) (ks : List Nat) : List Nat :=
  ks.foldl (fun l k => if l.any fun m => (jointSet s m).contains k then l else l ++ [k]) []

/-- Abort what matches in queue q: admitted commands and waiting records. -/
def abortMatching (s : State) (q : Nat) (seq : Option (BitVec 32)) : State :=
  let hit := fun n : Nat => match seq with
    | none => true
    | some v => decide (v.toNat = n)
  let cmds := (s.disp.slots.filter fun e => e.2.queue = q && hit e.2.seq).map (·.1)
  let recs := (waitingRecords s q).filter fun i => hit (planeNat s (ringEntry s q i + 8) 4)
  let s := updQueue s q fun k => { k with marks := (k.marks ++ recs).eraseDups }
  match cmds, recs, seq with
  | [], [], some v =>
    logRec s { code := eAbortTooLate, unitCls := 7, unit := 0, slot := none, object := v.toNat, detail := 0x38 * 2 ^ 56 + q }
  | _, _, _ => (leaders s cmds).foldl abortCmd s

/-- ABORT_ONE (R112). -/
def execAbortOne (q : QueueId) (seq : BitVec 32) (s : State) : Host.Outcome State Fault Refusal :=
  .next (abortMatching s q.toNat (some seq))

/-- ABORT_ALL (R112). -/
def execAbortAll (q : QueueId) (s : State) : Host.Outcome State Fault Refusal := .next (abortMatching s q.toNat none)

/-! ### Checks of a record at admission (R78, R501) -/

/-- The lowest non-zero bit of a reserved span. -/
def spanBad {n : Nat} (w : BitVec n) (lo len : Nat) : List Nat :=
  ((List.range len).find? fun i => bit w (lo + i)).toList.map (lo + ·)

/-- A defined field in a state that its range forbids gives its lowest bit. -/
def fieldBad (lo : Nat) (bad : Bool) : List Nat := if bad then [lo] else []

def least (l : List Nat) : Option Nat := minBy? (fun n : Nat => (n : Int)) l

/-- UNIT numbers of a SELFTEST (R412). -/
def unitLimit (cls : Nat) : Nat := if cls = 1 then 1024 else if cls = 4 then 384 else if cls = 5 then 32 else 0

/-- The offending bits of a record's body (R78 to R84, R285, R286, R291, R412, R498). All bits of a NOP's body are taken as reserved, as R78
gives it none (DESIGN CHOICE, log 48). -/
def bodyBad (r : BitVec 512) : List Nat :=
  match fld r 0 8 with
  | 0x00 => spanBad r 192 320
  | 0x01 => spanBad r 411 5 ++ spanBad r 384 16 ++ spanBad r 192 48 ++ fieldBad 416 (fld r 416 32 == 0) ++
      fieldBad 405 (fld r 405 6 == 0 || decide (32 < fld r 405 6)) ++
      fieldBad 400 (decide (32 < fld r 400 5 + fld r 405 6))
  | 0x02 => spanBad r 444 4 ++ spanBad r 416 14 ++ spanBad r 192 64
  | 0x03 => spanBad r 372 12 ++ spanBad r 192 168
  | 0x04 => spanBad r 192 189 ++ fieldBad 407 (fld r 407 17 == 0 || decide (65536 < fld r 407 17))
  | 0x05 => spanBad r 192 117 ++ fieldBad 380 (decide (1 < fld r 380 2)) ++
      fieldBad 383 (fld r 380 2 == 0 && decide (4096 < fld r 383 13)) ++ fieldBad 309 (fld r 380 2 == 1 && fld r 309 27 == 0)
  | 0x06 => spanBad r 192 224 ++ fieldBad 427 (fld r 427 17 == 0 || decide (65536 < fld r 427 17))
  | 0x07 => spanBad r 304 208 ++ spanBad r 200 24 ++ fieldBad 192 (fld r 192 8 == 0 || decide (3 < fld r 192 8))
  | 0x08 => spanBad r 256 256 ++ spanBad r 192 32 ++ fieldBad 248 (fld r 248 8 == 0 || decide (3 < fld r 248 8)) ++
      fieldBad 240 (unitLimit (fld r 240 8) == 0) ++
      fieldBad 224 (unitLimit (fld r 240 8) != 0 && decide (unitLimit (fld r 240 8) ≤ fld r 224 16))
  | 0x09 => fieldBad 336 (fld r 336 8 == 0 || decide (2 < fld r 336 8))
  | _ => [0]

/-- The first offending bit of a record, if any. -/
def recordBad (r : BitVec 512) : Option Nat := least (spanBad r 12 4 ++ spanBad r 37 3 ++ spanBad r 44 4 ++ bodyBad r)

/-! ### Records of the dispatcher -/

/-- EPOCH_STALE (R118). -/
def epochRec (s : State) (k reason cls unit obj : Nat) : State :=
  logRec s { code := eEpochStale, unitCls := cls, unit := unit, slot := some k, object := obj,
             detail := reason * 2 ^ 56 + s.disp.epoch.toNat }

def failEpoch (s : State) (k reason : Nat) : State :=
  match cmdOf s k with
  | none => s
  | some c => failCmd (epochRec s k reason 7 0 c.epoch) k

/-- GROUP_MISMATCH and COUNT_MISMATCH (R374). -/
def groupRec (s : State) (k code reason gseq group chip low : Nat) : State :=
  logRec s { code := code, unitCls := 0, unit := 0, slot := some k,
             object := gseq % 2 ^ 32 * 2 ^ 32 + group % 4096 * 65536 + chip % 65536, detail := reason * 2 ^ 56 + low % 2 ^ 32 }

def Cmd.group (c : Cmd) : Nat := fld c.record 360 12
def Cmd.gseq (c : Cmd) : Nat := fld c.record 384 32

/-! ### The mode block (R114, R117) -/

def Cmd.isMode (c : Cmd) : Bool := c.kind = 7 && c.setOp = 1

/-- The mode block of a MODE command, as committed. -/
def modeBlock (s : State) (c : Cmd) : BitVec 64 := BitVec.ofNat 64 (planeNat s c.setAddr 8)

/-- The MODE command changes PINNED_GIB (R117); a reserved encoding, which fails the command (R114), changes nothing. -/
def splitChange (s : State) (k : Nat) (c : Cmd) : Bool :=
  let p := fld (modeBlock s c) 0 3
  let asks := p != 0 && decide (p < 5) && p != pinnedGib s
  c.isMode && match s.disp.change with
    | some m => if m.slot = k then m.split else asks
    | none => asks

/-- Admission is stopped: the chip is faulted (R414), or a MODE command that changes the split is ready (R117). -/
def admissionStopped (s : State) : Bool :=
  s.flt.faulted || s.disp.slots.any fun e =>
    (e.2.phase = .ready || e.2.phase = .running || e.2.phase = .committing) && splitChange s e.1 e.2

/-! ### Admission (R73) -/

def slotCount : Nat := 8192

/-- The in-flight slot that an admitted record takes: R73 says only that it takes one, and the model takes the lowest-numbered free one (DESIGN CHOICE,
log 53). -/
def lowestFree (s : State) : Option Nat := (List.range slotCount).find? fun k => (cmdOf s k).isNone

def admittedOf (s : State) (q : Nat) : Nat := (s.disp.slots.filter fun e => e.2.queue = q).length

/-- Queue q has a record that may be admitted; a record in a locked line is held (R93). -/
def canAdmit (s : State) (q : Nat) : Bool :=
  cfgBit s (mQcfg q) 15 && (queueOf s q).head != (queueOf s q).tail &&
    decide (admittedOf s q < cfg s (mQcfg q) 0 11) && (lockIn s [] (ringEntry s q (queueOf s q).head) 64).isNone

/-- The queue whose turn it is. -/
def nextQueue (s : State) : Option Nat := ((List.range 256).map fun i => (s.disp.nextRR + i) % 256).find? (canAdmit s)

/-- The bits of a line whose data is lost (R406). -/
def lostBits (s : State) : BitVec 512 := ofFields 512 ((List.range 8).map fun i => (64 * i, (freeAt s i).toNat))

/-- The record at the head of queue q. -/
def headRecord (s : State) (q : Nat) : BitVec 512 :=
  let a := ringEntry s q (queueOf s q).head
  if isPoisoned s a then lostBits s else BitVec.ofNat 512 (planeNat s a 64)

/-- A command that has just taken its slot, with its queue's registers as they are (R76). -/
def newCmd (r : BitVec 512) (q ring order lead members : Nat) (qcfg qcomp : Word) : Cmd :=
  { record := r, queue := q, ring := ring, order := order, phase := .admitted, lead := lead, members := members, runs := 0,
    retries := 0, status := none, failed := false, decided := false, tooLate := false, lapsed := false, clamped := false,
    fallback := false, summary := false, missed := false, errIdx := none, charge := 0, unpaid := 0, commitNo := 0, annex := none,
    epochAt := 0, modeAt := 0, csets := 0, ways := 0, grantNo := 0, cores := [], based := false, stage := [], staged := [],
    deltas := [], egress := [], sums := [], done := [], work := false, fin := false, reqSent := false, failSent := false,
    aborts := [], kill := none, units := [], retrying := false, lost := none,
    page := { locks := [], frames := [], refs := [], links := [] }, view := [], qcfg := qcfg, qcomp := qcomp, thru := [], promised := [], redo := false,
    endNo := none }

/-- What admission finds out about the record in slot k (R78, R89, R90, R112, R356). -/
def admitOutcome (s : State) (k : Nat) (marked member : Bool) (dead : Option (Status × Option (BitVec 32))) : State :=
  match cmdOf s k with
  | none => s
  | some c =>
    match dead with
    | some (st, idx) => endOne st (updCmd s k fun m => { m with errIdx := idx }) k
    | none =>
      if marked then endSet .aborted s k
      else
        match recordBad c.record with
        | some b => failDisp s k 0x32 c.ring b
        | none =>
          if member ∧ c.join ≠ 0 then failDisp s k 0x32 c.ring 40
          else if c.epoch ≠ 0xFFFFFFFF ∧ c.epoch < s.disp.epoch.toNat then failEpoch s k 0x20
          else if c.kind = 3 ∧ (Map.find? s.fab.groups c.group).isNone then
            failCmd (groupRec s k eGroupMismatch 0x83 c.gseq c.group (chipNo s) 0) k
          else s

/-- Admit the record at the head of queue q into slot k. -/
def admitRecord (s : State) (q k : Nat) : State :=
  let qu := queueOf s q
  let r := headRecord s q
  let n := s.disp.orders
  let member := decide (0 < qu.joinLeft)
  let j := fld r 40 4
  let c := newCmd r q (ringEntry s q qu.head) n (if member then qu.joinLead else n) (j + 1) (regGet s (mQcfg q)) (regGet s (mQcomp q))
  let marked := qu.marks.contains qu.head
  let dead := if member then qu.joinEnd else none
  let left := if member then qu.joinLeft - 1 else j
  let s := setCmd s.tick k c
  let s := { s with disp := { s.disp with orders := n + 1, nextRR := (q + 1) % 256 } }
  let s := updQueue s q fun u => { u with
    head := u.head + 1, marks := u.marks.filter (· != u.head), joinLeft := left, joinLead := c.lead,
    joinEnd := if 0 < left then dead else none }
  admitOutcome s k marked member dead

/-- ADMIT (R73, R78, R89, R90). -/
def execAdmit (s : State) : Host.Outcome State Fault Refusal :=
  if admissionStopped s then .next s
  else
    match nextQueue s, lowestFree s with
    | some q, some k => .next (admitRecord s q k)
    | _, _ => .next s

/-! ### The annex and the output list (R85, R86) -/

/-- ANNEX of a record and its bit number; kinds without one have none. -/
def Cmd.annexField (c : Cmd) : Nat × Nat :=
  if c.kind = 1 then (fld c.record 336 48, 336)
  else if c.kind = 2 ∨ c.kind = 3 ∨ c.kind = 4 ∨ c.kind = 5 ∨ c.kind = 6 ∨ c.kind = 9 then (fld c.record 464 48, 464)
  else (0, 464)

/-- The offending bits of an annex. A schedule's range is tested whether or not its valid bit is set, and a private range where PRIV_COUNT is not
0 (the second DESIGN CHOICE, log 48). An OUT_LIST that is misaligned, that lies outside the plane, or that the queue's CSETS do not reach (R64) stands in
neither list of R501; it fails the command as the annex does, at bit 640 (DESIGN CHOICE, log 53). The sum of STAGE is tested at dispatch (R91). -/
def annexBad (s : State) (q : Nat) (a : BitVec 1024) : Option Nat :=
  let outs := fld a 688 7
  least (spanBad a 736 288 ++ spanBad a 695 9 ++
    ((List.range 8).flatMap fun b => spanBad a (64 * b + 42) 21 ++
      fieldBad (64 * b) (decide (entryCount < fld a (64 * b) 17 + fld a (64 * b + 17) 17)) ++
      fieldBad (512 + 16 * b) (decide (448 < fld a (512 + 16 * b) 16))) ++
    fieldBad 704 (fld a 720 16 != 0 && (decide (fld a 704 16 < 0xC000) || decide (65536 < fld a 704 16 + fld a 720 16))) ++
    fieldBad 688 (decide (64 < outs)) ++
    fieldBad 640 (outs != 0 && (fld a 640 48 % 16 != 0 || !inPlane s (fld a 640 48) (16 * outs) ||
      (queueBars s q (fld a 640 48) (16 * outs)).isSome)))

def annexOf (a : BitVec 1024) (outs : List OutEntry) : Annex :=
  { privFirst := fld a 704 16, privCount := fld a 720 16, outs := outs,
    stage := (List.range 8).map fun b => fld a (512 + 16 * b) 16,
    scheds := (List.range 8).filterMap fun b =>
      if bit a (64 * b + 63) then
        some { slice := b, w := fld a (64 * b + 34) 8, count := fld a (64 * b + 17) 17, first := fld a (64 * b) 17 }
      else none }

/-- The offending bit of an output-list entry (R86); no FLIP may write the KV frame table (R277). -/
def outBad (s : State) (e : BitVec 128) : Option Nat :=
  let kind := fld e 64 2
  let addr := fld e 0 48
  let pages := fld e 96 21
  least (spanBad e 117 11 ++ spanBad e 66 30 ++ spanBad e 48 16 ++ fieldBad 64 (kind == 3) ++
    fieldBad 96 (decide (kind < 2) && (pages == 0 || decide (1048576 < pages))) ++
    fieldBad 0 (if kind = 2 then addr % 8 != 0 || !inPlane s addr 8 || inFrameTable s addr 8
                else decide (kind < 2) && (addr % 4096 != 0 || !inPlane s addr (4096 * pages))))

def outOf (e : BitVec 128) : OutEntry :=
  { kind := fld e 64 2, addr := fld e 0 48, bytes := if fld e 64 2 = 2 then 8 else 4096 * fld e 96 21 }

/-- What reading the annex gives: the copies, a wait for a locked line, or a failure (reason, OBJECT, bit). -/
inductive AnnexRead where
  | ok (a : Option Annex)
  | held
  | bad (reason obj low : Nat)
  deriving DecidableEq, Repr

/-- Read the annex and its output list as committed (R85). What the dispatcher does with a poisoned line of them no rule says: the stored bytes
are read (DESIGN CHOICE, log 48). -/
def readAnnex (s : State) (k : Nat) (c : Cmd) : AnnexRead :=
  let (addr, fbit) := c.annexField
  if addr = 0 then .ok none
  else if addr % 64 ≠ 0 ∨ !inPinned s addr 128 then .bad 0x33 addr fbit
  else if (lockIn s (jointSet s k) addr 128).isSome then .held
  else
    let a : BitVec 1024 := BitVec.ofNat 1024 (planeNat s addr 128)
    match annexBad s c.queue a with
    | some b => .bad 0x34 addr b
    | none =>
      let n := fld a 688 7
      let list := fld a 640 48
      if (lockIn s (jointSet s k) list (16 * n)).isSome then .held
      else
        let es := (List.range n).map fun i => (list + 16 * i, BitVec.ofNat 128 (planeNat s (list + 16 * i) 16))
        match es.findSome? fun e => (outBad s e.2).map fun b => (e.1, b) with
        | some (obj, b) => .bad 0x35 obj b
        | none => .ok (some (annexOf a (es.map fun e => outOf e.2)))

/-! ### Addresses that a record names (R81, R501 reason 0x33) -/

/-- The ends of a COPY (R81). -/
def Cmd.bytes (c : Cmd) : Nat := fld c.record 384 32
def Cmd.src (c : Cmd) : Nat := fld c.record 256 64
def Cmd.dst (c : Cmd) : Nat := fld c.record 320 64
def Cmd.srcHost (c : Cmd) : Bool := bit c.record 441
def Cmd.dstHost (c : Cmd) : Bool := bit c.record 442
def Cmd.anyCore (c : Cmd) : Bool :=
  if c.kind = 2 then bit c.record 440 else if c.kind = 4 then bit c.record 391
  else if c.kind = 5 then bit c.record 379 else if c.kind = 6 then bit c.record 426 else false

/-- A global address of this chip (R30). -/
def isLocal (s : State) (g : Nat) : Bool := g / 2 ^ 48 = chipNo s

def planePart (g : Nat) : Nat := g % 2 ^ 48

/-- A range that R31 may allow in a peer's plane, whose split is the peer's own matter. -/
def peerOk (a n : Nat) : Bool := inHbm a n || decide (pinnedBase ≤ a ∧ a + n ≤ pinnedBase + 0x100000000)

/-- Where a COPY end lies outside what R31 allows. -/
def endBad (s : State) (host : Bool) (g n : Nat) : Bool :=
  if host then false
  else if isLocal s g then !inPlane s (planePart g) n
  else !peerOk (planePart g) n

/-- A destination of a command as a WRITE range of whole 4 KiB pages (R81, R86). -/
def writeRange (a n : Nat) : OutEntry :=
  let lo := a - a % 4096
  { kind := 0, addr := lo, bytes := ceilDiv (a + n - lo) 4096 * 4096 }

/-- The first fault among the addresses that the record names: (reason, OBJECT, bit). A COPY with neither end on this chip reports SRC at its bit,
and a mode block lies on 8 bytes in the HBM plane or the pinned window (DESIGN CHOICE, log 48). -/
def addressBad (s : State) (c : Cmd) : Option (Nat × Nat × Nat) :=
  let r := c.record
  match c.kind with
  | 0x01 =>
    if fld r 240 48 % 4 ≠ 0 ∨ !inPlane s (fld r 240 48) 4 then some (0x33, fld r 240 48, 240)
    else if !inPlane s (fld r 288 48) 1 then some (0x33, fld r 288 48, 288)
    else none
  | 0x02 =>
    let onChip := fun host g => !host && isLocal s g
    if !onChip c.srcHost c.src && !onChip c.dstHost c.dst then some (0x33, c.src, 256)
    else if c.bytes % 64 ≠ 0 then some (0x32, c.ring, 384)
    else if endBad s c.srcHost c.src c.bytes then some (0x33, c.src, 256)
    else if endBad s c.dstHost c.dst c.bytes then some (0x33, c.dst, 320)
    else none
  | 0x03 => if !inPinned s (fld r 416 48) 64 then some (0x33, fld r 416 48, 416) else none
  | 0x05 =>
    if fld r 380 2 = 0 ∧ (fld r 416 48 % 64 ≠ 0 ∨ !inPinned s (fld r 416 48) 1) then some (0x33, fld r 416 48, 416) else none
  | 0x07 =>
    if c.setOp = 1 ∧ (c.setAddr % 8 ≠ 0 ∨ !inPlane s c.setAddr 8) then some (0x33, c.setAddr, 256)
    else if c.setOp = 3 ∧ (c.setAddr % 64 ≠ 0 ∨ !inPinned s c.setAddr (reportBytes s).length) then some (0x33, c.setAddr, 256)
    else none
  | _ => none

/-- The range that a COPY, REPORT or VIEW_READ writes (R81, R466, R498). -/
def Cmd.destRange (s : State) (c : Cmd) : List OutEntry :=
  if c.kind = 2 ∧ !c.dstHost ∧ isLocal s c.dst ∧ c.bytes ≠ 0 then [writeRange (planePart c.dst) c.bytes]
  else if c.kind = 7 ∧ c.setOp = 3 then [writeRange c.setAddr (reportBytes s).length]
  else if c.kind = 9 ∧ fld c.record 336 8 = 1 ∧ fld c.record 384 32 ≠ 0 then
    [writeRange (fld c.record 416 48) (fld c.record 384 32)]
  else []

def noAnnex : Annex := { privFirst := 0, privCount := 0, outs := [], stage := [], scheds := [] }

/-! ### Readiness (R87, R90) -/

/-- Every member of the set of k is admitted. -/
def setWhole (s : State) (c : Cmd) : Bool :=
  !((queueOf s c.queue).joinLead = c.lead && decide (0 < (queueOf s c.queue).joinLeft))

/-- An older command of the queue, outside the set, has not ended (R87). -/
def olderLeft (s : State) (c : Cmd) : Bool :=
  s.disp.slots.any fun e => e.2.queue = c.queue && decide (e.2.order < c.order) && e.2.lead != c.lead

/-- The start counter allows the command; an unsatisfied reading registers the dispatcher's watch (R77, R184). -/
def startReady (s : State) (c : Cmd) : Bool :=
  !c.startEn || satisfied (ctrGet s c.startCtr) (BitVec.ofNat 64 c.startTarget)

def startWatch (s : State) (k : Nat) (c : Cmd) : State :=
  if s.sync.watches.any fun w => w.who = .start k then s
  else watchAdd s c.startCtr (BitVec.ofNat 64 c.startTarget) (.start k)

/-- The command becomes ready with its copies of the annex. -/
def becomeReady (s : State) (k : Nat) (c : Cmd) (a : Option Annex) : State :=
  let dest := c.destRange s
  let ax := match a, dest with
    | none, [] => none
    | none, d => some { noAnnex with outs := d }
    | some a, d => some { a with outs := a.outs ++ d }
  let s := watchDrop s fun w => w = .start k
  updCmd s k fun c => { c with phase := .ready, annex := ax, stage := (a.map (·.stage)).getD [] }

/-- COMMAND_READY (R85, R87, R90). -/
def execCommandReady (k : SlotId) (s : State) : Host.Outcome State Fault Refusal :=
  match cmdOf s k.toNat with
  | none => .next s
  | some c =>
    if c.phase ≠ .admitted then .next s
    else if c.epoch ≠ 0xFFFFFFFF ∧ c.epoch ≠ s.disp.epoch.toNat then .next s
    else if !startReady s c then .next (startWatch s k.toNat c)
    else if (c.ordered && olderLeft s c) ∨ !setWhole s c then .next s
    else
      match addressBad s c with
      | some (reason, obj, low) => .next (failDisp s k.toNat reason obj low)
      | none =>
        match readAnnex s k.toNat c with
        | .held => .next s
        | .bad reason obj low => .next (failDisp s k.toNat reason obj low)
        | .ok a => .next (becomeReady s k.toNat c a)

/-- EPOCH_WAIT_TIMEOUT (R90). -/
def execEpochWaitTimeout (k : SlotId) (s : State) : Host.Outcome State Fault Refusal :=
  match cmdOf s k.toNat with
  | none => .next s
  | some c =>
    if c.phase = .admitted ∧ c.epoch ≠ 0xFFFFFFFF ∧ s.disp.epoch.toNat < c.epoch then .next (failEpoch s k.toNat 0x21)
    else .next s

/-! ### Charges (R108, R109, R110) -/

/-- Charge engine cycles to a command and to its queue's account. -/
def accrue (s : State) (k n : Nat) : State :=
  match cmdOf s k with
  | none => s
  | some c => liveAdd (updCmd s k fun c => { c with charge := c.charge + BitVec.ofNat 64 n }) (mQacct c.queue) n

/-- A charge that the deficit bears once steps of 65,536 are full, and for the rest when the command ends (R108). -/
def chargeCmd (s : State) (k n : Nat) : State :=
  match cmdOf s k with
  | none => s
  | some c =>
    let s := updCmd (accrue s k n) k fun c => { c with unpaid := (c.unpaid + n) % 65536 }
    payQueue s c.queue ((c.unpaid + n) / 65536 * 65536)

/-- What a run that ends has been charged below a step of 65,536 cycles: a free value, as the model has no clock (R108, log 8). -/
def chargeRest (s : State) (k : Nat) : State :=
  match cmdOf s k with
  | none => s
  | some c => if c.cores.isEmpty then s else (chargeCmd s k ((freeAt s 0).toNat % 65536)).tick

/-- DEFICIT_CHARGE (R108): a step of 65,536 cycles. -/
def execDeficitCharge (k : SlotId) (s : State) : Host.Outcome State Fault Refusal :=
  match cmdOf s k.toNat with
  | none => .next s
  | some c => if c.active ∧ !c.cores.isEmpty then .next (payQueue (accrue s k.toNat 65536) c.queue 65536) else .next s

/-- RTC_LAPSED (R110). -/
def execRtcLapsed (k : SlotId) (s : State) : Host.Outcome State Fault Refusal :=
  match cmdOf s k.toNat with
  | none => .next s
  | some c =>
    if c.phase = .running ∧ c.rtc ∧ c.rtcMax ≠ 0 then
      .next (updCmd s k.toNat fun c => { c with lapsed := true })
    else .next s

/-- NOP (R78): it commits at once. -/
def execNop (k : SlotId) (s : State) : Host.Outcome State Fault Refusal :=
  match atWork s k.toNat 0x00 with
  | none => .next s
  | some _ => .next (finish (begun s k.toNat) k.toNat)

end Sys2Proof.Machine
end

