-- ==== Sys2Proof/Machine/ModeEpoch.lean ====
section
/-!
DEFINITION. Mode epochs (R114 to R118, R38, R417).
-/
namespace Sys2Proof.Machine

/-! ### The mode block (R114) -/

/-- The offending bit of a mode block. -/
def modeBad (b : BitVec 64) : Option Nat :=
  least (spanBad b 42 6 ++ spanBad b 8 8 ++ fieldBad 6 (fld b 6 2 == 3) ++ fieldBad 3 (decide (4 < fld b 3 3)) ++
    fieldBad 0 (decide (4 < fld b 0 3)))

/-- Range-check CAP_LIMIT against the mode that will be in force (R114, R434, R460). -/
def modeCap (s : State) (k : Nat) (b : BitVec 64) : State × BitVec 64 :=
  let req := fld b 48 16
  let m := if fld b 40 2 = 0 then cfg s mPwrCfg 40 2 else fld b 40 2
  let r := capRange m
  if req = 0 then (s, b)
  else if req < r.1 then (reportClamp s (.mode k) 0x01 mPwrCfg 48 16 req r.1, setFld b 48 16 r.1)
  else if r.2 < req then (reportClamp s (.mode k) 0x02 mPwrCfg 48 16 req r.2, setFld b 48 16 r.2)
  else (s, b)

/-- The change under way is that of slot k. -/
def setChange (s : State) (phase : Nat) (m : Option ModeChange) : State :=
  { s with disp := { s.disp with phase := BitVec.ofNat 2 phase, change := m } }

/-- MODE (R114, R115): the block is read as committed and the drain begins. A block that the CSETS do not reach fails under 0x33 (R64; DESIGN CHOICE,
log 53). -/
def execMode (k : SlotId) (s : State) : Host.Outcome State Fault Refusal :=
  match atWork s k.toNat 0x07 with
  | none => .next s
  | some c =>
    if c.setOp ≠ 1 ∨ heldFor s k.toNat c.setAddr 8 then .next s
    else
      let b := modeBlock s c
      if (csetBad s k.toNat c.setAddr 8).isSome then .next (failDisp s k.toNat 0x33 c.setAddr 256)
      else if let some l := fencedIn s c.setAddr 8 then .next (failFenced s k.toNat 4 (channelOf s l))
      else match poisonIn s c.setAddr 8, modeBad b with
      | some l, _ => .next (failPoison s k.toNat l none 0)
      | none, some i => .next (failDisp s k.toNat 0x36 c.setAddr i)
      | none, none =>
        if c.newEpoch ≠ (s.disp.epoch + 1).toNat then .next (failDisp s k.toNat 0x32 c.ring 224)
        else
          let split := splitChange s k.toNat c
          let r := modeCap (begun s k.toNat) k.toNat b
          .next (setChange r.1 1 (some { slot := k.toNat, epoch := BitVec.ofNat 32 c.newEpoch, shadow := r.2,
                                         split := split, confirmed := [] }))

/-- No other command runs or commits, and none that the drain has killed has still to be re-run (R115). -/
def drained (s : State) (k : Nat) : Bool :=
  s.disp.slots.all fun e => (jointSet s k).contains e.1 ||
    (e.2.phase = .admitted || (e.2.phase = .ready && !e.2.redo))

/-- Write back a dirty line and keep it, now clean (R38, R116); the slice reads it, and may find an error in it (R400, R401). -/
def cleanLine (k : Nat) (s : State) (c : CLine) : State :=
  if c.dirty then
    let s := readBack s c
    let s := { s with mem := { s.mem with cache := mapIf (· = c) (fun c => { c with dirty := false }) s.mem.cache } }
    if chanFenced s (channelOf s c.line) then s else countHbm s (some k) none none (channelOf s c.line) 64
  else s

/-- PREPARE (R115): the units hold the new values in shadow, and the departing cache ways are written back. -/
def execPrepare (s : State) : Host.Outcome State Fault Refusal :=
  match s.disp.change with
  | none => .next s
  | some m =>
    if s.disp.phase ≠ 1#2 ∨ !drained s m.slot then .next s
    else
      let s := setChange s 2 (some m)
      if m.split then
        let ways := cacheWays (fld m.shadow 0 3)
        .next ((s.mem.cache.filter fun c => decide (ways ≤ c.way)).foldl (cleanLine m.slot) s)
      else .next s

/-- The units that confirm a mode change, in ascending class and number: clusters, slices, channels and links in service, the
dispatcher with the commit sequencer, and the management processor (R116, R417; log 12). -/
def modeUnits (s : State) : List (Nat × Nat) :=
  (List.range 32).map (fun u => (2, u)) ++ (List.range 8).map (fun u => (3, u)) ++
  ((List.range 384).filter fun c => !isFenced s 4 c).map (fun u => (4, u)) ++
  ((List.range 32).filter fun l => !isFenced s 5 l).map (fun u => (5, u)) ++ [(7, 0), (8, 0)]

/-- A unit is under test: it confirms when the test ends. A cluster is, while one of its cores is; a slice, while one of its lines is (R417). -/
def unitInTest (s : State) (cls unit : Nat) : Bool :=
  s.flt.tests.any fun t =>
    match cls with
    | 2 => t.cls = 1 && t.unit / 32 = unit
    | 3 => t.cls = 3 && sliceOf s t.unit = unit
    | _ => t.cls = cls && t.unit = unit

/-- UNIT_CONFIRM (R115, R417). -/
def execUnitConfirm (cls : BitVec 4) (unit : BitVec 16) (s : State) : Host.Outcome State Fault Refusal :=
  match s.disp.change with
  | none => .next s
  | some m =>
    let u := (cls.toNat, unit.toNat)
    if s.disp.phase = 2#2 ∧ (modeUnits s).contains u ∧ !m.confirmed.contains u ∧ !unitInTest s u.1 u.2 then
      .next (setChange s 2 (some { m with confirmed := m.confirmed ++ [u] }))
    else .next s

/-! ### Publish (R115, R117) -/

/-- A field of the block moves into effect; 0 leaves it unchanged. -/
def publishField (b : BitVec 64) (s : State) (f : Nat × Nat × Nat × Nat) : State :=
  if fld b f.1 f.2.1 = 0 then s else cfgSet s f.2.2.1 f.2.2.2 f.2.1 (fld b f.1 f.2.1)

/-- (bit and width in the block, register, bit in the register). -/
def publishFields : List (Nat × Nat × Nat × Nat) :=
  [(6, 2, mArith, 6), (3, 3, mArith, 3), (16, 8, mVcWeight, 0), (24, 8, mVcWeight, 8), (32, 8, mVcWeight, 16),
   (40, 2, mPwrCfg, 40), (48, 16, mPwrCfg, 48), (0, 3, mSheaf, 0)]

/-- The records written and not admitted are dropped (R117). -/
def dropRecords (s : State) (q : Nat) : State :=
  let n := ringLoad s q
  if n = 0 then s
  else
    let s := updQueue s q fun u => { u with tail := u.head, marks := [], joinLeft := u.joinLeft - n }
    dispRec s none 0x30 (q * 2 ^ 32 + n) 0

/-- A watch whose region leaves the mapped window is disabled (R487). -/
def closeWatch (s : State) (i : Nat) : State :=
  if cfgBit s (mWatch i 0) 63 ∧ !inPinned s (cfg s (mWatch i 1) 0 48) (64 * cfg s (mWatch i 2) 0 19) then
    cfgSet s (mWatch i 0) 63 1 0
  else s

/-- What a change of split discards and checks again (R38, R65, R117, R355, R487). R38 writes back the dirty lines of the ways that leave the cache
and invalidates every line; a dirty line in a way that stays is written back too (DESIGN CHOICE, log 48). A fill under way places its line in a way that is
still one of the cache, or in none (R65). -/
def publishSplit (s : State) (k : Nat) : State :=
  let s := (s.mem.cache.filter (·.dirty)).foldl (cleanLine k) s
  let s := { s with mem := { s.mem with
      cache := [], wcache := [],
      fills := s.mem.fills.map fun f => { f with ways := f.ways &&& BitVec.ofNat 16 (2 ^ cacheWays (pinnedGib s) - 1) },
      plane := s.mem.plane.filter fun e => decide (e.1 < hbmSize),
      poison := s.mem.poison.filter fun l => decide (l < hbmSize) } }
  let s := (List.range 256).foldl (fun s q => fixRing (.mode k) q (dropRecords s q)) s
  let s := (List.range 256).foldl (fun s q => fixWays (.mode k) q s) (deriveWays s)
  let s := regSet s mKvCtl 0
  let s := { s with fab := { s.fab with groups := [] } }
  (List.range 64).foldl closeWatch s

/-- A command built for an epoch that the publish leaves behind (R90). -/
def epochPassed (s : State) (k : Nat) : State :=
  match cmdOf s k with
  | none => s
  | some c =>
    if (c.phase = .admitted ∨ c.phase = .ready) ∧ c.epoch ≠ 0xFFFFFFFF ∧ c.epoch < s.disp.epoch.toNat then failEpoch s k 0x23
    else s

/-- PUBLISH (R115): every unit has confirmed, the shadow values take effect and dispatch resumes. -/
def execPublish (s : State) : Host.Outcome State Fault Refusal :=
  match s.disp.change with
  | none => .next s
  | some m =>
    if s.disp.phase ≠ 2#2 ∨ !(modeUnits s).all (m.confirmed.contains ·) ∨ !live s m.slot then .next s
    else
      let s := publishFields.foldl (publishField m.shadow) s
      let s := fixCap (.mode m.slot) s
      let s := if m.split then publishSplit s m.slot else s
      let s := { s with disp := { s.disp with epoch := m.epoch, phase := 0 } }
      let s := (s.disp.slots.map (·.1)).foldl epochPassed s
      .next (finish s m.slot)

/-- The change is cancelled: shadow values are discarded (R116). -/
def cancelMode (s : State) (ks : List Nat) : State :=
  match s.disp.change with
  | none => s
  | some m => if ks.contains m.slot then setChange s 0 none else s

/-- MODE_TIMEOUT (R116, R118). -/
def execModeTimeout (s : State) : Host.Outcome State Fault Refusal :=
  match s.disp.change with
  | none => .next s
  | some m =>
    match (modeUnits s).find? fun u => !m.confirmed.contains u with
    | none => .next s
    | some u =>
      if s.disp.phase ≠ 2#2 then .next s
      else
        let s := epochRec s m.slot 0x22 u.1 u.2 m.epoch.toNat
        .next (failCmd (cancelMode s [m.slot]) m.slot)

end Sys2Proof.Machine
end

