-- ==== Sys2Proof/Machine/Links.lean ====
section
/-!
DEFINITION. Peer links: flits, acknowledgement and replay (R336, R337), retrains and links that go down (R338, R340), virtual channels and
credits (R341 to R344), routing, detours and drops (R345 to R349), and the header of messages (R350).
-/
namespace Sys2Proof
open Machine

/-! ### Messages (R350) -/

def Msg.dst (m : Msg) : Nat := fld m.hdr 240 16
def Msg.src (m : Msg) : Nat := fld m.hdr 224 16
def Msg.kind (m : Msg) : Nat := fld m.hdr 216 8
def Msg.mseq (m : Msg) : Nat := fld m.hdr 200 16
def Msg.status (m : Msg) : Nat := fld m.hdr 196 4
def Msg.sinc (m : Msg) : Nat := fld m.hdr 192 4
def Msg.sctr (m : Msg) : Nat := fld m.hdr 176 16
def Msg.dtr (m : Msg) : Nat := fld m.hdr 164 12
def Msg.dtrn (m : Msg) : Nat := fld m.hdr 161 3
def Msg.len64 (m : Msg) : Nat := fld m.hdr 136 25
def Msg.addr (m : Msg) : Nat := fld m.hdr 0 48
/-- Bytes that a request or its data covers. -/
def Msg.span (m : Msg) : Nat := 64 * m.len64

/-- The bytes of a message: header and payload. -/
def Msg.bytes (m : Msg) : List Byte := natLE 32 m.hdr.toNat ++ m.data

def Msg.ofBytes (bs : List Byte) : Msg := { hdr := BitVec.ofNat 256 (leNat (bs.take 32)), data := bs.drop 32 }

namespace Machine

/-- The virtual channel and class of a message kind. -/
def vcOf (kind : Nat) : Nat × Bool :=
  if 0x20 ≤ kind then (3, false)
  else if 0x10 ≤ kind then (1, false)
  else (2, kind = 0x02 || kind = 0x04 || kind = 0x06)

/-- A message from this chip with its kind-specific fields. `len` is LEN64, which a request gives without data. -/
def mkMsg (s : State) (dst kind len : Nat) (fs : List (Nat × Nat)) (data : List Byte) : Msg :=
  { hdr := ofFields 256 ([(240, dst % 65536), (224, chipNo s), (216, kind), (136, len)] ++ fs),
    data := padTo (64 * ceilDiv data.length 64) data }

/-! ### Flits as bytes (R336) -/

end Machine

/-- Bytes 0 to 251 of a flit, which its CRC covers; reserved bits and the payload past its length are zero (log 36). -/
def Flit.body (f : Flit) : List Byte :=
  natLE 2 f.fseq.toNat ++
  [BitVec.ofNat 8 (f.vc.toNat * 64 + b2n f.sub * 32 + b2n f.cls * 16 + b2n f.som * 8 + b2n f.eom * 4 + b2n f.ctrl * 2),
   BitVec.ofNat 8 (f.data.length - 1)] ++
  natLE 2 f.ackSeq.toNat ++
  [BitVec.ofNat 8 (b2n f.ackV * 128 + b2n f.nak * 64),
   BitVec.ofNat 8 (f.cvc.toNat * 64 + b2n f.csub * 32 + b2n f.ccls * 16 + f.cred.toNat)] ++
  natLE 4 0 ++ padTo 240 (f.data.take 240)

/-- The 256 bytes of a flit (R336). -/
def Flit.bytes (f : Flit) : List Byte := f.body ++ natLE 4 f.crc.toNat

/-- The flit's CRC is correct. -/
def Flit.crcOk (f : Flit) : Bool := f.crc == Machine.crc32c f.body

/-- The flit with its CRC as the sender computes it. -/
def Flit.seal (f : Flit) : Flit := { f with crc := Machine.crc32c f.body }

namespace Machine

/-! ### Sending flits -/

def laneKey (vc : Nat) (cls sub : Bool) : Nat := vc * 4 + b2n cls * 2 + b2n sub

/-- Flits of receive buffer per lane (R341). -/
def laneDepth (vc : Nat) : Nat := if vc = 3 then 32 else 64

/-- Bytes 4 to 7 of a flit as the link now has them, and the link after it (R336, R337, R342). -/
def refresh (k : Link) (f : Flit) : Flit × Link :=
  let owed := List.find? (fun e : Nat × Nat => decide (0 < e.2)) k.owed
  let key := (owed.map (·.1)).getD 0
  let n := Nat.min ((owed.map (·.2)).getD 0) 15
  (Flit.seal { f with
      ackSeq := k.rxLast.getD 0, ackV := k.rxLast.isSome, nak := k.nakDue, cvc := BitVec.ofNat 2 (key / 4),
      ccls := key / 2 % 2 = 1, csub := key % 2 = 1, cred := BitVec.ofNat 4 n },
   { k with nakDue := false, owed := if n = 0 then k.owed else Map.set (fun _ => 0) k.owed key ((owed.map (·.2)).getD 0 - n) })

/-- Put a flit on the fibre. -/
def putFlit (s : State) (l : Nat) (f : Flit) : State :=
  let r := refresh (linkOf s l) f
  send (updLink s l fun _ => r.2) (.flit l r.1)

def ctrlFlit (k : Link) (bytes : List Byte) : Flit :=
  { fseq := k.txSeq, vc := 0, sub := false, cls := false, som := false, eom := false, ctrl := true, ackSeq := 0, ackV := false,
    nak := false, cvc := 0, csub := false, ccls := false, cred := 0, data := bytes, crc := 0 }

/-- Send a control flit with its payload from byte 12. -/
def sendCtrl (s : State) (l : Nat) (bytes : List Byte) : State :=
  liveAdd (putFlit s l (ctrlFlit (linkOf s l) bytes)) (mLinkCnt l 0) 256

/-- Send again every unacknowledged flit, in order (R337). -/
def resendAll (s : State) (l : Nat) : State :=
  (linkOf s l).replay.foldl (fun s t => putFlit s l t.flit) s

/-- The link may send data flits now. -/
def Link.open (k : Link) : Bool := k.state = 2 && !k.training && !k.await && decide (k.replay.length < 256)

/-- The first waiting flit of a channel that holds a credit (R342). -/
def nextFlit (k : Link) (vc : Nat) : Option TFlit :=
  k.waiting.find? fun t => t.flit.vc.toNat = vc &&
    decide (Map.get (fun _ => 0) k.used (laneKey vc t.flit.cls t.flit.sub) < laneDepth vc)

/-- Send a waiting flit, which spends a credit and one flit of its channel's turn. -/
def sendFlit (s : State) (l : Nat) (t : TFlit) : State :=
  let k := linkOf s l
  let f := { t.flit with fseq := k.txSeq }
  let key := laneKey f.vc.toNat f.cls f.sub
  let s := updLink s l fun k => { k with
    txSeq := k.txSeq + 1, waiting := dropFirst (· = t) k.waiting, replay := k.replay ++ [{ t with flit := f }],
    used := Map.put k.used key (Map.get (fun _ => 0) k.used key + 1), sent := k.sent + 1 }
  liveAdd (putFlit s l f) (mLinkCnt l f.vc.toNat) 256

/-- The flit that goes next in the turn under way, where its weight has flits left (R343). -/
def turnFlit (s : State) (k : Link) : Option TFlit :=
  if k.sent < cfg s mVcWeight (8 * (k.turn - 1)) 8 then nextFlit k k.turn else none

/-- The weighted arbitration (R343), from the turn where it stood; `fuel` bounds it. A channel that holds nothing it may send gives up the rest of
its turn. -/
def pumpTurns (l : Nat) : Nat → State → State
  | 0, s => s
  | f + 1, s =>
    let k := linkOf s l
    if !k.open ∨ ((List.range 3).all fun v => (nextFlit k (v + 1)).isNone) then s
    else match turnFlit s k with
      | some t => pumpTurns l f (sendFlit s l t)
      | none => pumpTurns l f (updLink s l fun k => { k with turn := k.turn % 3 + 1, sent := 0 })

/-- Send what may be sent: at most 256 flits are unacknowledged, and three turns end between two of them. -/
def pump (s : State) (l : Nat) : State := pumpTurns l 1024 s

/-! ### Messages onto links (R345 to R349) -/

/-- The output port of a destination chip; none for this chip (R345). -/
def nextPort (s : State) (dst : Nat) : Option Nat :=
  (List.range 4).findSome? fun a =>
    let n := axisSize s a
    let d := (coord dst a + n - coord (chipNo s) a) % n
    if d = 0 then none else some (if 2 * d ≤ n then 2 * a else 2 * a + 1)

def portLinks (p : Nat) : List Nat := (List.range 4).map (4 * p + ·)

/-- The link of a port that takes the message (R346): the up link with the fewest flits queued, or one that is training. -/
def linkFor (s : State) (p : Nat) : Option Nat :=
  let up := (portLinks p).filter fun l => (linkOf s l).state = 2
  let ls := if up.isEmpty then (portLinks p).filter fun l => (linkOf s l).state = 1 else up
  minBy? (fun l => ((linkOf s l).waiting.length : Int)) ls

/-- The hop out of port p crosses the dateline of its axis (R344). -/
def crosses (s : State) (p : Nat) : Bool :=
  let k := coord (chipNo s) (p / 2)
  if p % 2 = 0 then k = axisSize s (p / 2) - 1 else k = 0

/-- The sub-lane of the hop out of port p (R344, R348). -/
def subLane (s : State) (inp : Option Nat) (sub detour : Bool) (p : Nat) : Bool :=
  if detour then true
  else
    let keep := match inp with
      | some q => q / 2 = p / 2 && sub
      | none => false
    keep || crosses s p

/-- A message with no live route is dropped (R349, R340). -/
def dropMsg (s : State) (p : Nat) (m : Msg) : State :=
  let s1 := s.tick
  if freeBit s then linkRec s1 eLinkDown 0x96 (4 * p) (m.kind * 2 ^ 56 + m.dst) else s1

/-- The flits of a message. -/
def flitsOf (m : Msg) (sub : Bool) (mid : Nat) : List TFlit :=
  let cs := chunksOf 240 (m.bytes.length + 1) m.bytes
  let v := vcOf m.kind
  cs.zipIdx.map fun e =>
    { mid := mid,
      flit := { fseq := 0, vc := BitVec.ofNat 2 v.1, sub := sub, cls := v.2, som := e.2 = 0, eom := e.2 + 1 = cs.length,
                ctrl := false, ackSeq := 0, ackV := false, nak := false, cvc := 0, csub := false, ccls := false, cred := 0,
                data := e.1, crc := 0 } }

/-- Queue a message on a link. -/
def queueOn (s : State) (l : Nat) (m : Msg) (sub : Bool) : State :=
  let mid := s.fab.mids
  let s := { s with fab := { s.fab with mids := mid + 1 } }
  let s := updLink s l fun k => { k with
    waiting := k.waiting ++ flitsOf m sub mid, msgs := k.msgs ++ [{ mid := mid, sub := sub, msg := m }] }
  pump s l

/-- Send a message out of a port, or drop it. -/
def outPort (s : State) (p : Nat) (m : Msg) (sub : Bool) : State :=
  match linkFor s p with
  | some l => queueOn s l m sub
  | none => dropMsg s p m

/-- Route a message that came in at `inp` on a sub-lane, or starts here (R345, R348). -/
def routeMsg (s : State) (m : Msg) (inp : Option Nat) (sub : Bool) : State :=
  if 4 < m.dtrn then s
  else if 0 < m.dtrn then
    let p := m.dtr % 8
    let m := { m with hdr := setFld (setFld m.hdr 164 12 (m.dtr / 8)) 161 3 (m.dtrn - 1) }
    outPort s p m true
  else
    match nextPort s m.dst with
    | none => { s with fab := { s.fab with inbox := s.fab.inbox ++ [{ msg := m, via := none }] } }
    | some p =>
      let n := cfg s (mDetour p) 12 3
      if (linkFor s p).isNone ∧ 0 < n then
        let ports := cfg s (mDetour p) 0 12
        let m := { m with hdr := setFld (setFld m.hdr 164 12 (ports / 8)) 161 3 (n - 1) }
        outPort s (ports % 8) m true
      else outPort s p m (subLane s inp sub false p)

/-- Number a WRITE or a VC3 message (R346). -/
def numberMsg (s : State) (m : Msg) : State × Msg :=
  let v := (vcOf m.kind).1
  if m.kind = 0x05 ∨ v = 3 then
    let key := m.dst * 4 + v
    let n := Map.get (fun _ => 0) s.fab.mseqOut key
    ({ s with fab := { s.fab with mseqOut := Map.put s.fab.mseqOut key ((n + 1) % 65536) } },
     { m with hdr := setFld m.hdr 200 16 n })
  else (s, m)

/-- A message leaves this chip with its number. -/
def launchMsg (s : State) (m : Msg) : State :=
  let r := numberMsg s m
  routeMsg r.1 r.2 none false

def vc3Count (s : State) (dst : Nat) : Nat := Map.get (fun _ => 0) s.fab.vc3Sent dst

/-- VC3 messages of which one more is unapplied at chip `dst`, at most 512. -/
def vc3Add (s : State) (dst : Nat) : State :=
  { s with fab := { s.fab with vc3Sent := Map.put s.fab.vc3Sent dst (min 512 (vc3Count s dst + 1)) } }

/-- Send a message from this chip. At most 512 VC3 messages are unapplied at one chip (R346): no answer tells their source when one is applied, so
whether one of 512 has been is a free value, and one more waits its turn (DESIGN CHOICE, log 38). -/
def sendMsg (s : State) (m : Msg) : State :=
  if m.kind < 0x20 then launchMsg s m
  else if s.fab.vc3Held.any fun x => x.dst = m.dst then { s with fab := { s.fab with vc3Held := s.fab.vc3Held ++ [m] } }
  else if vc3Count s m.dst < 512 then launchMsg (vc3Add s m.dst) m
  else if freeBit s then launchMsg s.tick m
  else { s.tick with fab := { s.fab with vc3Held := s.fab.vc3Held ++ [m] } }

/-- While the block idles, the oldest VC3 message that waits may leave (R346). -/
def vc3Pump (s : State) : State :=
  match s.fab.vc3Held with
  | [] => s
  | m :: rest => if freeBit s then launchMsg { s.tick with fab := { s.fab with vc3Held := rest } } m else s.tick

/-- A credit of a lane is owed to the far end (R342). -/
def oweCredit (key : Nat) (k : Link) : Link := { k with owed := Map.put k.owed key (Map.get (fun _ => 0) k.owed key + 1) }

/-- Take a message out of the inbox. Its last flit leaves its buffer, and an idle flit takes the credit back (R342). -/
def takeMsg (s : State) (m : Msg) : State :=
  match s.fab.inbox.find? fun e => e.msg = m with
  | none => s
  | some e =>
    let s := { s with fab := { s.fab with inbox := dropFirst (· = e) s.fab.inbox } }
    match e.via with
    | none => s
    | some v =>
      let s := updLink s v.1 (oweCredit v.2)
      if (linkOf s v.1).state = 2 then sendCtrl s v.1 [0] else s

/-- The message is addressed to this chip, and no detour takes it on (R348). -/
def forUs (s : State) (m : Msg) : Bool := m.dst = chipNo s && m.dtrn = 0

/-- Flits of replies that wait on a link. -/
def repliesWaiting (k : Link) : Nat := (k.waiting.filter fun t => t.flit.vc = 2 && t.flit.cls).length

/-- The reply to a request can be buffered (R342). How many flits of replies a chip buffers is open (Config.replyFlits; log 36). -/
def replyRoom (s : State) (m : Msg) : Bool :=
  match (nextPort s m.src).bind (linkFor s) with
  | none => true
  | some l => repliesWaiting (linkOf s l) = 0 || decide (repliesWaiting (linkOf s l) < Config.replyFlits)

/-! ### Links that go down (R338, R340) -/

/-- Messages of a link that still hold a flit there. -/
def openMsgs (k : Link) : List LMsg :=
  k.msgs.filter fun g => (k.replay ++ k.waiting).any fun t => t.mid = g.mid

/-- A port is down: no link of it is up or training. -/
def portDown (s : State) (p : Nat) : Bool := (linkFor s p).isNone

/-- The messages held on a port whose last link has gone are dropped (R338). -/
def dropPort (s : State) (p : Nat) : State :=
  (portLinks p).foldl (fun s l =>
    let ms := openMsgs (linkOf s l)
    let s := updLink s l fun k => { k with replay := [], waiting := [], msgs := [], parts := [], await := false, tell := false }
    ms.foldl (fun s g => dropMsg s p g.msg) s) s

/-- The last accepted FSEQ as a link reports it. Before the first data flit it is the number before that one's (DEDUCED, log 13): a report of 0 would
acknowledge a flit that has not come. -/
def Link.accepted (k : Link) : BitVec 16 := k.rxNext - 1

/-- Send the down exchange of link `l` on link `j` of its port. -/
def tellDown (s : State) (j l : Nat) : State :=
  let s := updLink s l fun k => { k with tell := false }
  sendCtrl s j (3 :: BitVec.ofNat 8 (l % 4) :: natLE 2 (linkOf s l).accepted.toNat)

/-- The handover of a link that has left service: the exchange goes over an up link of its port, or waits until one is up, or the port is down and
what it holds is dropped. -/
def handover (s : State) (l : Nat) : State :=
  let s := updLink s l fun k => { k with await := true, tell := true }
  match (portLinks (l / 4)).find? fun j => (linkOf s j).state = 2 with
  | some j => tellDown s j l
  | none => if portDown s (l / 4) then dropPort s (l / 4) else s

/-- A link leaves service: what it delivered in part is discarded, what it holds goes over to the other links or falls with the port (R338), and then reason
0x94 starts the test of its lane group (R340, R410). A link that goes down in its test does not come back up with it. -/
def linkDown (s : State) (l reason obj : Nat) : State :=
  let s := updLink s l fun k => { k with state := 3, training := false, doneSent := false, parts := [] }
  let idx := nextIndex s
  let s := { s with flt := { s.flt with tests := mapIf (fun t => t.cls = 5 && t.unit = l) (fun t => { t with wasUp := false }) s.flt.tests } }
  let s := handover (linkRec s eLinkDown reason l obj) l
  if reason = 0x94 then startTest s 5 l idx true [] false else s

/-- A link that has been fenced: what it holds moves to the other links of its port, or is dropped with the port (R338, R415). -/
def leaveFenced (s : State) (l : Nat) : State :=
  if (linkOf s l).state ≠ 4 then s
  else
    let s := updLink s l fun k => { k with training := false, doneSent := false, parts := [] }
    if portDown s (l / 4) then dropPort s (l / 4) else if (linkOf s l).await then s else handover s l

/-- An acknowledgement up to `n`: those flits leave the replay buffer (R337). -/
def ackTo (k : Link) (n : BitVec 16) : Link :=
  if k.replay.any fun t => t.flit.fseq = n then
    let rest := (k.replay.dropWhile fun t => t.flit.fseq != n).drop 1
    let k := { k with replay := rest }
    { k with msgs := k.msgs.filter fun g => (k.replay ++ k.waiting).any fun t => t.mid = g.mid }
  else k

/-- DOWN_EXCHANGE (R338): the far end gives the last flit it accepted on the downed link; what it did not accept whole is sent
again on a surviving link. -/
def downExchange (s : State) (l : Nat) (f : Flit) : State :=
  let d := l / 4 * 4 + (f.data.getD 1 0).toNat % 4
  let runs := ((linkOf s d).state = 2 ∨ (linkOf s d).state = 1) ∧ !(linkOf s d).await
  let s := if runs then linkDown s d 0x94 (linkOf s d).accepted.toNat else s
  let s := updLink s d fun k => ackTo k (BitVec.ofNat 16 (leNat ((f.data.drop 2).take 2)))
  let ms := openMsgs (linkOf s d)
  let s := updLink s d fun k => { k with replay := [], waiting := [], msgs := [], await := false }
  ms.foldl (fun s g => outPort s (l / 4) g.msg g.sub) s

/-! ### Receiving flits -/

/-- Bytes 4 to 7 of a flit whose CRC is right: acknowledgement and credits, then whatever they let go (log 13). -/
def takeAcks (s : State) (l : Nat) (f : Flit) : State :=
  let key := laneKey f.cvc.toNat f.ccls f.csub
  let s := updLink s l fun k =>
    let k := if f.ackV then ackTo k f.ackSeq else k
    if f.cred = 0 then k
    else { k with used := Map.set (fun _ => 0) k.used key (Map.get (fun _ => 0) k.used key - f.cred.toNat) }
  s

/-- Count a replay, and write its record at most once in 1 ms (R340). `obj` is the OBJECT of a retrain's record; any other gives the replays since
the link's last record. -/
def replayed (s : State) (l reason : Nat) (obj : Option Nat) : State :=
  let c := b2n !(linkOf s l).replay.isEmpty
  let s := liveSat s (mLinkErr l) 32 32 c
  let n := (linkOf s l).replays + c
  let s1 := s.tick
  if freeBit s then linkRec (updLink s1 l fun k => { k with replays := 0 }) eLinkReplay reason l (obj.getD n)
  else updLink s1 l fun k => { k with replays := n }

/-- A NAK makes the sender replay (R337). -/
def takeNak (s : State) (l : Nat) (f : Flit) : State :=
  if f.nak ∧ !(linkOf s l).training ∧ !(linkOf s l).await ∧ !(linkOf s l).replay.isEmpty then replayed (resendAll s l) l 0x90 none else s

/-- A discarded data flit (R337). -/
def discard (s : State) (l : Nat) : State :=
  updLink s l fun k => { k with nakDue := k.nakDue || k.gotOne, gotOne := false }

/-- A kind that R350 defines. -/
def kindDefined (kind : Nat) : Bool :=
  decide ((1 ≤ kind ∧ kind ≤ 7) ∨ (0x10 ≤ kind ∧ kind ≤ 0x13) ∨ (0x20 ≤ kind ∧ kind ≤ 0x22))

/-- A whole message has come: it waits in the inbox, or is discarded at its destination where its kind is reserved (R350). One with a reserved number of
detour ports is discarded where it is read (R11; DESIGN CHOICE, log 36). -/
def arrive (s : State) (l key : Nat) (m : Msg) : State :=
  if (forUs s m ∧ !kindDefined m.kind) ∨ 4 < m.dtrn then updLink s l (oweCredit key)
  else { s with fab := { s.fab with inbox := s.fab.inbox ++ [{ msg := m, via := some (l, key) }] } }

/-- An accepted data flit: its bytes join its message, and a whole message waits in the inbox. Which moment a flit leaves its buffer is open: here the
last flit of a message leaves when the message is taken, any other when its bytes join the message (DESIGN CHOICE, log 13). -/
def acceptFlit (s : State) (l : Nat) (f : Flit) : State :=
  let key := laneKey f.vc.toNat f.cls f.sub
  let bs := (if f.som then [] else Map.get (fun _ => []) (linkOf s l).parts key) ++ f.data
  let s := updLink s l fun k => { k with
    rxNext := k.rxNext + 1, rxLast := some f.fseq, gotOne := true,
    parts := if f.eom then Map.erase k.parts key else Map.put k.parts key bs }
  let s := liveAdd s (mLinkCnt l (4 + f.vc.toNat)) 256
  if f.eom then arrive s l key (Msg.ofBytes bs) else updLink s l (oweCredit key)

/-- DATA_FLIT (R336, R337, R342). One with a reserved LEN is rejected: it is discarded, and none of its fields is taken (R11; DESIGN CHOICE, log 36). -/
def execDataFlit (l : LinkId) (f : Flit) (s : State) : Host.Outcome State Fault Refusal :=
  let i := l.toNat
  if (linkOf s i).state ≠ 2 ∨ f.ctrl then .next s
  else if !f.crcOk then .next (sendCtrl (discard (liveSat s (mLinkErr i) 0 32 1) i) i [0])
  else if 240 < f.data.length then .next (sendCtrl (discard s i) i [0])
  else
    let s := takeNak (takeAcks s i f) i f
    let s := if f.fseq = (linkOf s i).rxNext then acceptFlit s i f else discard s i
    .next (sendCtrl (pump s i) i [0])

/-- A control flit with a right CRC, on a link that runs. -/
def ctrlOk (s : State) (l : Nat) (f : Flit) (kind : Nat) : Bool :=
  (linkOf s l).state = 2 && f.ctrl && (f.data.getD 0 0).toNat = kind

/-- What every control flit brings; one whose CRC is wrong is discarded and counted. -/
def ctrlIn (s : State) (l : Nat) (f : Flit) (g : State → State) : State :=
  if !f.crcOk then liveSat s (mLinkErr l) 0 32 1
  else pump (g (takeNak (takeAcks (liveAdd s (mLinkCnt l 4) 256) l f) l f)) l

/-- IDLE (R336, R337). -/
def execIdle (l : LinkId) (f : Flit) (s : State) : Host.Outcome State Fault Refusal :=
  if ctrlOk s l.toNat f 0 then .next (ctrlIn s l.toNat f id) else .next s

/-- The two bytes of the last accepted FSEQ that a retrain-done flit carries. -/
def doneBytes (k : Link) : List Byte := 2 :: natLE 2 k.accepted.toNat

/-- RETRAIN_REQUEST (R338): data flits stop, and this end gives its last accepted FSEQ. -/
def execRetrainRequest (l : LinkId) (f : Flit) (s : State) : Host.Outcome State Fault Refusal :=
  if ctrlOk s l.toNat f 1 then
    .next (ctrlIn s l.toNat f fun s =>
      let s := updLink s l.toNat fun k => { k with training := true, doneSent := true }
      sendCtrl s l.toNat (doneBytes (linkOf s l.toNat)))
  else .next s

/-- The retrain succeeds: the sender replays from the point that the far end gave (R338). -/
def retrainDone (s : State) (l : Nat) (f : Flit) : State :=
  let k := linkOf s l
  if !k.training then s
  else
    let s := if k.doneSent then s else sendCtrl s l (doneBytes k)
    let n := k.fails.toNat
    let s := updLink s l fun k => { ackTo k (BitVec.ofNat 16 (leNat ((f.data.drop 1).take 2))) with
      training := false, doneSent := false, fails := 0 }
    replayed (resendAll s l) l 0x92 (some n)

/-- RETRAIN_DONE (R338). -/
def execRetrainDone (l : LinkId) (f : Flit) (s : State) : Host.Outcome State Fault Refusal :=
  if ctrlOk s l.toNat f 2 then .next (ctrlIn s l.toNat f fun s => retrainDone s l.toNat f) else .next s

/-- DOWN_EXCHANGE (R338). -/
def execDownExchange (l : LinkId) (f : Flit) (s : State) : Host.Outcome State Fault Refusal :=
  if ctrlOk s l.toNat f 3 then .next (ctrlIn s l.toNat f fun s => downExchange s l.toNat f) else .next s

/-- REPLAY_TIMEOUT (R337). -/
def execReplayTimeout (l : LinkId) (s : State) : Host.Outcome State Fault Refusal :=
  let k := linkOf s l.toNat
  if k.state = 2 ∧ !k.training ∧ !k.await ∧ !k.replay.isEmpty then .next (replayed (resendAll s l.toNat) l.toNat 0x91 none) else .next s

/-- RETRAIN_START (R338). -/
def execRetrainStart (l : LinkId) (s : State) : Host.Outcome State Fault Refusal :=
  let k := linkOf s l.toNat
  if k.state = 2 ∧ !k.training ∧ !k.await ∧ !k.replay.isEmpty then
    .next (sendCtrl (updLink s l.toNat fun k => { k with training := true, doneSent := false }) l.toNat [1])
  else .next s

/-- RETRAIN_ATTEMPT_TIMEOUT (R338): the next attempt starts, or after three the link goes down and its test starts (R340). -/
def execRetrainAttemptTimeout (l : LinkId) (s : State) : Host.Outcome State Fault Refusal :=
  let i := l.toNat
  let k := linkOf s i
  if k.state ≠ 2 ∨ !k.training then .next s
  else
    let n := k.fails.toNat + 1
    let s := updLink s i fun k => { k with fails := BitVec.ofNat 8 n, doneSent := false }
    if n < 3 then .next (sendCtrl s i [1])
    else .next (linkDown s i 0x94 k.accepted.toNat)

/-! ### Link control and training (R334, R375) -/

def linkDisable (s : State) (l : Nat) : State :=
  let s := regSet s (mLinkCtl l) 1
  let st := (linkOf s l).state
  if st = 1 ∨ st = 2 ∨ st = 5 then linkDown s l 0x95 0 else s

def linkEnable (s : State) (l : Nat) : State :=
  let s := regSet s (mLinkCtl l) 0
  let st := (linkOf s l).state
  if st = 3 ∨ st = 5 then updLink s l fun k => { k with state := 1 } else s

/-- LINK_DISABLE (R340, R375). -/
def execLinkDisable (l : LinkId) (s : State) : Host.Outcome State Fault Refusal := .next (linkDisable s l.toNat)

/-- LINK_ENABLE (R375). -/
def execLinkEnable (l : LinkId) (s : State) : Host.Outcome State Fault Refusal := .next (linkEnable s l.toNat)

/-- The exchanges that waited for a link of the port to be up are sent on it (R338). -/
def tellOwed (s : State) (l : Nat) : State :=
  ((portLinks (l / 4)).filter fun j => (linkOf s j).tell).foldl (fun s j => tellDown s l j) s

/-- A trained link begins anew: sequence numbers at 0, every credit held. Its data flits wait while the exchange over its last life is open. -/
def newLife (s : State) (l : Nat) : State :=
  let s := { s with fab := { s.fab with
    inbox := mapIf (fun e => (e.via.map (·.1)) = some l) (fun e => { e with via := none }) s.fab.inbox } }
  updLink s l fun k => { k with
    fails := 0, txSeq := 0, rxNext := 0, rxLast := none, nakDue := false, gotOne := false, training := false, doneSent := false,
    used := [], owed := [], parts := [] }

/-- A link with a wrong peer never runs: what waits on it goes over the other links of its port, or falls with the port (R338). -/
def leaveWrong (s : State) (l : Nat) : State :=
  if portDown s (l / 4) then dropPort s (l / 4)
  else if (linkOf s l).await then s
  else
    let ms := openMsgs (linkOf s l)
    ms.foldl (fun s g => outPort s (l / 4) g.msg g.sub) (updLink s l fun k => { k with replay := [], waiting := [], msgs := [] })

/-- LINK_TRAINED (R334, R444). -/
def execLinkTrained (l : LinkId) (peer : BitVec 16) (port : BitVec 2) (s : State) : Host.Outcome State Fault Refusal :=
  let i := l.toNat
  if (linkOf s i).state ≠ 1 ∨ underTest s 5 i ∨ cfgBit s (mLinkCtl i) 0 then .next s
  else
    let want := neighbour s (i / 4)
    if peer.toNat = want ∧ port.toNat = i % 4 then
      .next (pump (newLife (tellOwed (updLink s i fun k => { k with state := 2, peer := peer }) i) i) i)
    else
      let s := updLink s i fun k => { k with state := 5, peer := peer }
      .next (leaveWrong (linkRec s eLinkDown 0x93 i (want * 65536 + peer.toNat)) i)

/-- FORWARD (R347): a message for another chip goes on. -/
def execForward (p : PortId) (sub : Bool) (m : Msg) (s : State) : Host.Outcome State Fault Refusal :=
  if forUs s m then .next s else .next (routeMsg (takeMsg s m) m (some p.toNat) sub)

end Machine
end Sys2Proof
end

