-- ==== Sys2Proof/Machine/Halts.lean ====
section
/-!
DEFINITION. Halting a core and letting it go (R491 to R497): the shared operations of breakpoints, host halts and DEBUG messages.
-/
namespace Sys2Proof.Machine

/-- The engines of a core hold no instruction and have completed all (R142, R493). -/
def enginesIdle (k : Core) : Bool := (k.queues.all fun e => e.2.isEmpty) && (k.flying.all fun e => e.2.isEmpty) && k.broken.isEmpty

/-- Record of a halt; causes 1, 2, 4 and 5 write one (R495). -/
def haltRec (s : State) (c cause j : Nat) : State :=
  let k := coreOf s c
  let reason := if cause = 1 then 0xF0 else if cause = 2 then 0xF1 else if cause = 4 then 0xF3 else 0xF6
  logRec s { code := eBreakpoint, unitCls := 1, unit := c, slot := k.slot, object := k.pc.toNat,
             detail := reason * 2 ^ 56 + (if cause = 1 then j else 0) * 2 ^ 48 }

/-- Halt a core: a sleeping WAIT or DRAIN is abandoned as if not issued; the core drains (R492, R493). A core that is halted
already takes no further cause. One that runs no LAUNCH yet holds the request to its next LAUNCH; the first of several stands (DESIGN CHOICE,
log 53). -/
def haltCore (s : State) (c cause j : Nat) : State :=
  let k := coreOf s c
  if k.act = .idle then updCore s c fun k => { k with dbg := { k.dbg with request := k.dbg.request.or (some (BitVec.ofNat 4 cause)) } }
  else if k.dbg.state ≠ 1 then s
  else
    let act : Activity := match k.act with
      | .waiting _ _ _ _ => .running
      | .draining _ _ => .running
      | a => a
    let s := watchDrop s fun w => w = .control c
    let s := updCore s c fun k => { k with act := act, dbg := { k.dbg with
      state := 2, cause := BitVec.ofNat 4 cause, bp := BitVec.ofNat 3 (if cause = 1 then j else 0), stepping := false } }
    if cause = 3 then s else haltRec s c cause j

/-- The other cores of the command (R492, cause 4). -/
def siblings (s : State) (c : Nat) : List Nat :=
  match (coreOf s c).slot with
  | none => []
  | some k => ((jointSet s k).flatMap fun m => ((cmdOf s m).map fun x => if x.kind = 1 then x.cores else []).getD []).filter (· != c)

/-- A DEBUG message to each chip that DBG_FAB lists (R497): OP 1 HALT_ALL, 2 RESUME_ALL. -/
def sendDebug (s : State) (op : Nat) : State :=
  (List.range (cfg s mDbgFab 48 2)).foldl (fun s i =>
    let tag := s.fab.tags
    let s := { s with fab := { s.fab with tags := tag + 1 } }
    sendMsg s (mkMsg s (cfg s mDbgFab (16 * i) 16) 0x22 0 [(96, tag.toNat), (88, op)] [])) s

/-- A breakpoint hit (R491, R492, R497). -/
def hitBreakpoint (s : State) (c j scope : Nat) : State :=
  let s := haltCore s c 1 j
  let s := if 1 ≤ scope then (siblings s c).foldl (fun s o => haltCore s o 4 0) s else s
  if scope = 2 then sendDebug s 1 else s

/-- BP[j] of core c. -/
def bpWord (s : State) (c j : Nat) : Word := regGet s (mCoreDbg c + 0x40 + 8 * j)

/-- The breakpoints that match the PC, the lowest first (R491). -/
def bpHits (s : State) (c : Nat) (pc : BitVec 48) : List Nat :=
  (List.range 8).filter fun j => bit (bpWord s c j) 63 && fld (bpWord s c j) 2 46 == pc.toNat / 4

/-- The lowest breakpoint that matches the PC. -/
def bpMatch (s : State) (c : Nat) (pc : BitVec 48) : Option Nat := (bpHits s c pc).head?

def bpSkip (s : State) (c j : Nat) : Nat := fld (bpWord s c j) 48 12

/-- Each of several breakpoints acts by its own SKIP (R491): one that is not 0 falls by 1. -/
def bpPass (s : State) (c : Nat) (js : List Nat) : State :=
  (js.filter fun j => bpSkip s c j != 0).foldl (fun s j =>
    regSet s (mCoreDbg c + 0x40 + 8 * j) (setFld (bpWord s c j) 48 12 (bpSkip s c j - 1))) s

/-- Those of several breakpoints that halt the core, their SKIP being 0. -/
def bpStops (s : State) (c : Nat) (js : List Nat) : List Nat := js.filter fun j => bpSkip s c j = 0

/-- The widest SCOPE of several breakpoints. -/
def bpScope (s : State) (c : Nat) (js : List Nat) : Nat := (js.map fun j => fld (bpWord s c j) 61 2).foldl max 0

/-- Let a halted core go on (R494): its first instruction is not compared. -/
def resumeCore (s : State) (c : Nat) (step : Bool) : State :=
  let k := coreOf s c
  if k.dbg.state = 2 ∨ k.dbg.state = 3 then
    updCore s c fun k => { k with dbg := { k.dbg with state := 1, cause := 0, bp := 0, skipOnce := true, stepping := step } }
  else s

/-- RESUME while a DEBUG command names the core is held (R496). -/
def debugNames (s : State) (c : Nat) : Bool :=
  s.disp.slots.any fun e => e.2.kind = 9 && e.2.active && fld e.2.record 354 10 == c

/-- The cores that run a LAUNCH, or are granted one (log 53). -/
def launchCores (s : State) : List Nat :=
  s.disp.slots.flatMap fun e => if e.2.kind = 1 ∧ e.2.phase = .running then e.2.cores else []

/-- Every core that runs a LAUNCH halts (R497, R499). -/
def haltAll (s : State) (cause : Nat) : State := (launchCores s).foldl (fun s c => haltCore s c cause 0) s

end Sys2Proof.Machine
end

