-- ==== Sys2Proof/Machine/Control.lean ====
section
/-!
DEFINITION. The control core (R124 to R149): fetch, decode, every instruction, its exceptions, and the events at its ports
(R145, R146, R193, R500).
-/
namespace Sys2Proof.Machine

/-! ### Registers (R124) -/

def gGet (k : Core) (r : Nat) : Word := if r = 0 then 0 else Map.get (fun _ => 0) k.g r
/-- g0 discards writes. -/
def gSet (k : Core) (r : Nat) (v : Word) : Core := if r = 0 then k else { k with g := Map.set (fun _ => 0) k.g r v }
def dGet (k : Core) (r : Nat) : BitVec 256 := Map.get (fun _ => 0) k.d r
def dSet (k : Core) (r : Nat) (v : BitVec 256) : Core := { k with d := Map.set (fun _ => 0) k.d r v }
def pGet (k : Core) (r : Nat) : Bool := bit k.p r
def pSet (k : Core) (r : Nat) (v : Bool) : Core := { k with p := setFld k.p r 1 (b2n v) }
def advance (k : Core) (n : Nat) : Core := { k with pc := k.pc + BitVec.ofNat 48 n }

/-! ### The core's own memories (R80; log 7) -/

/-- A byte of the scratchpad, undefined until it is written. -/
def scratchByte (k : Core) (a : Nat) : Byte := (Map.find? k.scratch a).getD (Config.freeByte k.undef a)
def scratchRead (k : Core) (a n : Nat) : List Byte := (span a n).map (scratchByte k)
def scratchWrite (k : Core) (a : Nat) (bs : List Byte) : Core := { k with scratch := Map.putRun k.scratch a bs }
/-- A byte of the accumulator store. -/
def accByte (k : Core) (a : Nat) : Byte := (Map.find? k.acc a).getD (Config.freeByte k.undef (scratchSize + a))
def accRead (k : Core) (a n : Nat) : List Byte := (span a n).map (accByte k)
def accWrite (k : Core) (a : Nat) (bs : List Byte) : Core := { k with acc := Map.putRun k.acc a bs }

/-- A byte's place among all the locations that a core's engines reach: scratchpad, accumulator store, plane. -/
def locKey (loc a : Nat) : Nat := if loc = 0 then a else if loc = 3 then scratchSize + a else 2 ^ 48 + a

/-- What a byte held before an instruction in flight wrote it; `own` is the engine that asks, which its own instructions do not hide from
(R173), or none for the control core, whose loads follow its own stores (R136). -/
def oldByte (k : Core) (own : Option Nat) (key : Nat) : Option Byte :=
  k.flying.findSome? fun e => if own = some e.1 then none else e.2.findSome? fun f =>
    if own = none ∧ f.stored.contains key then none else Map.find? f.old key

/-- A byte as a reader without order sees it: where an instruction in flight writes it, its old value or its new one (R137, R175; log 19). -/
def inFlight (s : State) (k : Core) (own : Option Nat) (key : Nat) (new : Byte) : Byte :=
  match oldByte k own key with
  | none => new
  | some b => if Config.freeBool (s.fresh + key) then b else new

/-- The control core stores to bytes that an instruction in flight has written: they hold its value from then on, or, to a reader without order,
the engine's (R136, R137). `cur` gives what they hold. -/
def storeOver (k : Core) (cur : Nat → Byte) (loc a n : Nat) : Core :=
  let put : Flying → Nat → Flying := fun f x =>
    if (Map.find? f.old (locKey loc x)).isSome && !f.stored.contains (locKey loc x) then
      { f with old := Map.put f.old (locKey loc x) (cur x), stored := locKey loc x :: f.stored }
    else f
  { k with flying := k.flying.map fun e => (e.1, e.2.map fun f => (span a n).foldl put f) }

/-! ### Fields of an instruction (R125, R126) -/

def ccOp (w : BitVec 32) : Nat := fld w 22 6
def ccGd (w : BitVec 32) : Nat := fld w 17 5
def ccGa (w : BitVec 32) : Nat := fld w 12 5
def ccGb (w : BitVec 32) : Nat := fld w 7 5
def ccFn (w : BitVec 32) : Nat := fld w 0 7
def ccImm (w : BitVec 32) : Nat := fld w 0 12
/-- IMM12 sign-extended to 64 bits (R130). -/
def ccSimm (w : BitVec 32) : Word := BitVec.ofInt 64 (toSigned 12 (ccImm w))

/-- Opcodes of R127. -/
def ccKnown (op : Nat) : Bool :=
  decide (op ≤ 0x0A) || [0x10, 0x11, 0x12, 0x18, 0x19, 0x1A, 0x20, 0x21, 0x22, 0x23, 0x28, 0x29, 0x2A, 0x2B, 0x2C, 0x2D,
    0x2F].contains op

/-- The predicate of the instruction is true (R125, R128). -/
def ccTrue (k : Core) (w : BitVec 32) : Bool := !bit w 31 || pGet k (fld w 28 3)

/-- A reserved encoding in the word (R125 to R144); `raw` is the engine instruction of an ISSUE. -/
def ccBad (w : BitVec 32) (raw : BitVec 128) : Bool :=
  let fn := ccFn w
  (!bit w 31 && fld w 28 3 != 0) || match ccOp w with
  | 0x00 => decide (0x14 < fn) || (decide (0x13 ≤ fn) && ccGb w != 0)
  | 0x01 => false
  | 0x02 => false
  | 0x03 => false
  | 0x04 => false
  | 0x05 => fld w 10 2 == 3 || fld w 6 4 != 0
  | 0x06 => false
  | 0x07 => bit w 16
  | 0x08 => fld w 17 2 != 0 || fld w 4 3 != 0 || decide (5 < fld w 0 4)
  | 0x09 => decide (5 < fld w 15 4)
  | 0x0A => fld w 0 5 != 0 || (fld w 10 3 != 5 && fld w 5 5 != 0)
  | 0x10 => false
  | 0x11 => false
  | 0x12 => ccGb w != 0 || fn != 0
  | 0x18 => fld w 9 3 == 7
  | 0x19 => decide (3 < fld w 9 3)
  | 0x1A => fld w 2 2 == 3 || fld w 0 2 != 0 || (fld w 2 2 == 2 && fld w 4 3 != 0)
  | 0x20 => fld w 9 3 != 0
  | 0x21 => fld w 9 3 != 0
  | 0x22 => fld w 2 5 != 0 || ccGb w != 0
  | 0x23 => fld w 2 5 != 0 || ccGb w != 0
  | 0x28 => fld w 0 22 != 0 || decide (4 < fld raw 116 4)
  | 0x29 => fn != 0
  | 0x2A => fld w 0 4 == 0 || fld w 4 3 != 0 || ccGd w != 0 || ccGb w != 0
  | 0x2B => fn != 0 || ccGb w != 0
  | 0x2C => fld w 0 5 == 0 || fld w 5 2 != 0 || ccGd w != 0 || ccGa w != 0 || ccGb w != 0
  | 0x2D => decide (6 < ccImm w) || ccGa w != 0
  | 0x2F => fld w 0 22 != 0
  | _ => true

/-! ### Fetch (R145) -/

/-- The control core of a command as a reader of its own state and of the plane (R401). -/
def ccReader (s : State) (c slot : Nat) : Reader := { slot := slot, core := c, eng := none, at' := (coreOf s c).pc.toNat, ahead := false }

def icLineOf (a : Nat) : Nat := a - a % 128

/-- The word at a plane address, where its line is in the instruction cache. -/
def icWord (k : Core) (a : Nat) : Option (BitVec 32) :=
  (k.icache.find? fun l => l.line = icLineOf a).map fun l => BitVec.ofNat 32 (leNat ((l.data.drop (a % 128)).take 4))

/-- An address that instruction fetch may reach (R31, R64, R145). -/
def fetchable (s : State) (slot a : Nat) : Bool := inPlane s a 4 && csetOk s slot a

/-- Ask for a line of the instruction cache; `ahead` marks the next line, which is fetched ahead (R145, R401). -/
def icAsk (s : State) (c slot line : Nat) (ahead : Bool) : State :=
  let k := coreOf s c
  if (k.icache.any fun l => l.line = line) || k.icReqs.contains line then s
  else
    let s := updCore s c fun k => { k with icReqs := k.icReqs ++ [line] }
    sheafAccess s (some slot) (.control c k.pc.toNat) (linesOf line 128) false ahead

/-- An exception (R147, R148): its record, and the failure of the command; the core stops. A decided command writes none (R149). -/
def ccExc (s : State) (c slot cause obj : Nat) : State :=
  match cmdOf s slot with
  | none => s
  | some m =>
    if m.decided then s
    else breakUnit c none (failWith s slot { code := eDescInvalid, unitCls := 1, unit := c, slot := some slot, object := obj,
                                             detail := cause * 2 ^ 56 + (coreOf s c).pc.toNat })

/-- The line of an address misses: it and the next one are requested, or the fetch fails. A next line that fetch may not reach, or whose channel is
fenced, is not requested (R145; DESIGN CHOICE, log 53). -/
def icMiss (s : State) (c slot a : Nat) : State :=
  if !fetchable s slot a then ccExc s c slot 0x04 a
  else match fencedIn s (icLineOf a) 128 with
    | some l => breakUnit c none (failFenced s slot 4 (channelOf s l))
    | none =>
      let s := icAsk s c slot (icLineOf a) false
      let n := icLineOf a + 128
      if fetchable s slot n && (fencedIn s n 128).isNone then icAsk s c slot n true else s

/-- A hit uses the line (R145). -/
def icUse (k : Core) (a : Nat) : Core :=
  match k.icache.find? fun l => l.line = icLineOf a with
  | none => k
  | some l =>
    let bits : BitVec 4 := (Map.get (fun _ => (0 : BitVec 3)) k.icPlru l.set).setWidth 4 <<< (1 : Nat)
    let used : BitVec 3 := ((plruTouch bits l.way 2 1) >>> (1 : Nat)).setWidth 3
    { k with icPlru := Map.set (fun _ => 0) k.icPlru l.set used }

/-- Bring a line into the instruction cache. -/
def icFill (k : Core) (line : Nat) (data : List Byte) : Core :=
  let st := line / 128 % 64
  let bits : BitVec 4 := (Map.get (fun _ => (0 : BitVec 3)) k.icPlru st).setWidth 4 <<< (1 : Nat)
  let w := plruWalk bits 0xF 2 1 0
  icUse { k with icache := { set := st, way := w, line := line, data := data } ::
    k.icache.filter fun l => !(l.set = st && l.way = w) } line

/-- ICACHE_FILL (R145): the line waited for longest arrives. It is read as committed, so that a program does not execute text that
it has stored. A locked line is held (R136). -/
def execIcacheFill (c : CoreId) (s : State) : Host.Outcome State Fault Refusal :=
  let k := coreOf s c.toNat
  match k.icReqs, k.slot with
  | line :: rest, some slot =>
    if (awaits s fun f => f.asker.ofControl c.toNat && icLineOf f.line = line) || heldFor s slot line 128 then .next s
    else match fencedIn s line 128 with
    | some l => .next (breakUnit c.toNat none (failFenced s slot 4 (channelOf s l)))
    | none =>
      let r := readCells s { ccReader s c.toNat slot with ahead := icLineOf k.pc.toNat != line } (lineCells s slot c.toNat (linesOf line 128))
      if !r.2 then .next r.1
      else match poisonIn r.1 line 128 with
      | some l => .next (breakUnit c.toNat none (failPoison r.1 slot l none k.pc.toNat))
      | none =>
        let s := countPort r.1 c.toNat 128 false
        .next (updCore s c.toNat fun k => icFill { k with icReqs := rest } line (planeRead s line 128))
  | _, _ => .next s

/-! ### Issue (R128, R146, R491) -/

/-- The engine instruction that follows an ISSUE. -/
def issueRaw (k : Core) : Option (BitVec 128) :=
  let a := k.pc.toNat
  match icWord k (a + 4), icWord k (a + 8), icWord k (a + 12), icWord k (a + 16) with
  | some w0, some w1, some w2, some w3 => some (w3 ++ w2 ++ w1 ++ w0)
  | _, _, _, _ => none

/-- The first of the words at PC that is not in the instruction cache. -/
def missing (k : Core) : Option Nat :=
  match icWord k k.pc.toNat with
  | none => some k.pc.toNat
  | some w =>
    if ccOp w = 0x28 then ((List.range 5).map fun i => k.pc.toNat + 4 * i).find? fun a => (icWord k a).isNone else none

/-- The registers that the EXT field of an engine instruction names, by engine and opcode: the lowest bits of their g fields, and their
descriptor registers (R229, R244, R298, R310, R325). -/
def extUses (raw : BitVec 128) : List Nat × List Nat :=
  let at' := fun n => fld raw n 5
  match fld raw 116 4, fld raw 120 8 with
  | 0, 0x02 => ([], [at' 57 + 1])
  | 0, 0x10 => ([], [at' 25, at' 25 + 1])
  | 0, 0x11 => ([], [at' 25, at' 25 + 1])
  | 0, 0x18 => ([], [at' 24, at' 24 + 1])
  | 0, 0x20 => ([at' 9], [])
  | 0, 0x30 => ([at' 16], [])
  | 0, 0x31 => ([at' 16], [])
  | 2, 0x09 => ([at' 22, at' 17], [])
  | 2, 0x13 => ([at' 22], [at' 17])
  | 2, 0x17 => ([at' 22, at' 15], [])
  | 2, 0x18 => ([at' 22, at' 10], [at' 17])
  | 2, 0x19 => ([at' 22], [at' 17, at' 12, at' 7])
  | 2, _ => ([at' 22], [])
  | _, _ => ([], [])

/-- General and descriptor registers that an ISSUE copies (R140, R152): those of the operand field, and those that EXT names. An unused field
names register 0 (log 14). -/
def issueUses (raw : BitVec 128) : List Nat × List Nat :=
  let alt := if fld raw 45 2 = 1 ∨ fld raw 45 2 = 2 then [fld raw 47 5] else []
  ([fld raw 103 5, fld raw 40 5, fld raw 35 5] ++ (extUses raw).1,
   [fld raw 62 5, fld raw 57 5, fld raw 52 5] ++ alt ++ (extUses raw).2)

/-- General and descriptor registers that an instruction reads or writes. -/
def ccUses (w : BitVec 32) (raw : BitVec 128) : List Nat × List Nat :=
  match ccOp w with
  | 0x00 => ([ccGd w, ccGa w, ccGb w], [])
  | 0x06 => ([ccGd w], [])
  | 0x07 => ([ccGd w], [])
  | 0x08 => ([ccGa w, ccGb w], [])
  | 0x09 => ([fld w 10 5], [])
  | 0x0A => ([fld w 5 5], [])
  | 0x10 => ([], [])
  | 0x11 => ([31], [])
  | 0x1A => ([ccGd w, ccGa w, ccGb w], [])
  | 0x20 => ([ccGa w], [ccGd w])
  | 0x21 => ([ccGa w], [ccGd w])
  | 0x22 => ([ccGd w], [ccGa w])
  | 0x23 => ([ccGa w], [ccGd w])
  | 0x28 => issueUses raw
  | 0x29 => ([ccGd w, ccGa w, ccGb w], [])
  | 0x2C => ([], [])
  | 0x2F => ([], [])
  | _ => ([ccGd w, ccGa w], [])

/-- A register of the instruction waits for an outstanding load (R146). -/
def regWait (k : Core) (w : BitVec 32) (raw : BitVec 128) : Bool :=
  let u := ccUses w raw
  k.loads.any fun l => match l.dest with
    | .g r _ _ => r != 0 && u.1.contains r
    | .d r => u.2.contains r

/-- Depth of an engine's issue queue (R172). -/
def queueDepth (eng : Nat) : Nat :=
  match eng with
  | 0 => 16
  | 1 => 8
  | 2 => 32
  | 3 => 16
  | _ => 16

def queueOfEng (k : Core) (e : Nat) : List EInstr := Map.get (fun _ => []) k.queues e
def flyingOf (k : Core) (e : Nat) : List Flying := Map.get (fun _ => []) k.flying e

/-- Bytes of a load or store, and its byte address (R134, R139). -/
def ccSize (w : BitVec 32) : Nat := if ccOp w = 0x20 ∨ ccOp w = 0x21 then 32 else 2 ^ (fld w 9 2)
def ccLoc (w : BitVec 32) : Bool := bit w 8
def ccAddr (k : Core) (w : BitVec 32) : Word :=
  if ccOp w = 0x1A then gGet k (ccGa w)
  else gGet k (ccGa w) + BitVec.ofInt 64 (toSigned 8 (fld w 0 8) * (ccSize w : Int))

/-- The counter that a value supplied by core c names (R180). -/
def nameCtr (c v : Nat) : Option Nat :=
  if v < 48 then some (48 * c + v) else if 0xC000 ≤ v ∧ v < 0x10000 then some v else none

/-- A signal of the core's base die is still on its way over the path on which the core reads chip counter n: the reading arrives behind it
(R20). -/
def readBehind (s : State) (c n : Nat) : Bool :=
  decide (0xC000 ≤ n) && s.sync.inflight.any fun g => g.crosses && g.die = dieOf c && ctrDie g.ctr = ctrDie n

/-- The reading of a chip counter crosses the core's Sheaf port: one line slot (R15, R146; log 11). -/
def readPort (s : State) (c n : Nat) : State := if n < 0xC000 then s else countPort s c 64 false

/-- The instruction stalls at issue for want of room or of a register (R140, R146), a counter reading also behind the signals on its path (R20),
and an atomic while its channel is under test (R409). -/
def ccStall (s : State) (c : Nat) (k : Core) (w : BitVec 32) (raw : BitVec 128) : Bool :=
  regWait k w raw || match ccOp w with
  | 0x29 => (nameCtr c (gGet k (ccGa w)).toNat).any (readBehind s c)
  | 0x2B => (nameCtr c (gGet k (ccGa w)).toNat).any (readBehind s c)
  | 0x18 => !ccLoc w && decide (8 ≤ k.loads.length)
  | 0x20 => !ccLoc w && decide (8 ≤ k.loads.length)
  | 0x1A => decide (8 ≤ k.loads.length) || heldByTest s ((ccAddr k w).toNat) 8
  | 0x19 => decide (16 ≤ k.stq.length)
  | 0x21 => decide (16 ≤ k.stq.length)
  | 0x28 => decide (queueDepth (fld raw 116 4) ≤ (queueOfEng k (fld raw 116 4)).length)
  | _ => false

/-- The base point of a run: the first of these with a true predicate (R193). -/
def isBase (op : Nat) : Bool := op = 0x28 || op = 0x2A || op = 0x29 || op = 0x2C || op = 0x2F

/-- The command of the core runs, no kill has reached it, and the core is not halted. -/
def mayIssue (s : State) (k : Core) (slot : Nat) : Bool :=
  k.act = .running && k.dbg.state = 1 && match cmdOf s slot with
    | none => false
    | some m => m.phase = .running && m.kill.isNone

/-- The core halts again after a STEP, once the instruction has issued: one that stops at its base point has not yet (R494, R193). -/
def afterIssue (s : State) (c : Nat) : State :=
  let k := coreOf s c
  if k.dbg.stepping ∧ k.dbg.state = 1 ∧ k.act ≠ .atBase then haltCore s c 3 0 else s

/-- The registers that an instruction reads, as cells with parity (R400, R401); g0 holds nothing. -/
def ccReads (w : BitVec 32) (raw : BitVec 128) : List (Nat × Nat) :=
  let gs := fun l : List Nat => (l.filter (· != 0)).map fun r => (0, r)
  match ccOp w with
  | 0x00 => gs (if 0x13 ≤ ccFn w then [ccGa w] else [ccGa w, ccGb w])
  | 0x06 => []
  | 0x07 => gs [ccGd w]
  | 0x08 => gs [ccGa w, ccGb w]
  | 0x09 => gs [fld w 10 5]
  | 0x0A => if fld w 10 3 = 5 then gs [fld w 5 5] else [(1, fld w 16 3), (1, fld w 13 3)]
  | 0x10 => []
  | 0x11 => []
  | 0x19 => gs [ccGa w, ccGd w]
  | 0x1A => gs (if fld w 4 3 = 7 then [ccGa w, ccGb w, ccGd w] else [ccGa w, ccGb w])
  | 0x21 => gs [ccGa w] ++ [(2, ccGd w)]
  | 0x22 => [(2, ccGa w)]
  | 0x28 => gs (issueUses raw).1 ++ (issueUses raw).2.map fun r => (2, r)
  | 0x29 => gs [ccGa w, ccGb w]
  | 0x2C => []
  | 0x2D => []
  | 0x2F => []
  | _ => gs [ccGa w]

/-- The control core reads registers of its own (R401). -/
def readRegs (s : State) (c slot : Nat) (l : List (Nat × Nat)) : State × Bool :=
  readCells s (ccReader s c slot) fun x => match x with
    | .reg core file n => core = c && l.contains (file, n)
    | _ => false

/-- Issue the instruction `w` at PC, past the comparison with the breakpoints (R128, R193); one that stops at its base point has not issued. -/
def ccIssue (s : State) (c slot : Nat) (w : BitVec 32) (raw : BitVec 128)
    (f : State → Nat → Nat → BitVec 32 → BitVec 128 → State) : State :=
  let k := coreOf s c
  if !ccKnown (ccOp w) ∨ ccBad w raw then ccExc s c slot 0x01 w.toNat
  else
    let r := if bit w 31 then readRegs s c slot [(1, fld w 28 3)] else (s, true)
    if !r.2 then r.1
    else if !ccTrue k w then updCore r.1 c fun k => advance k (if ccOp w = 0x28 then 20 else 4)
    else if isBase (ccOp w) ∧ ((cmdOf r.1 slot).map (·.based)) = some false then
      updCore r.1 c fun k => { k with act := .atBase, based := true, issues := k.issues - 1, dbg := { k.dbg with skipOnce := true } }
    else
      let r := readRegs r.1 c slot (ccReads w raw)
      if r.2 then f r.1 c slot w raw else r.1

/-- One instruction of a control core. `op` is the instruction that the step names; a word with a reserved opcode raises ILLEGAL
whichever is named. -/
def ctl (s : State) (c op : Nat) (f : State → Nat → Nat → BitVec 32 → BitVec 128 → State) : State :=
  let k := coreOf s c
  match k.slot with
  | none => s
  | some slot =>
    if !mayIssue s k slot then s
    else match missing k with
      | some a =>
        if (icWord k k.pc.toNat).isNone || (icWord k k.pc.toNat).map ccOp = some op then icMiss s c slot a else s
      | none =>
        let w := (icWord k k.pc.toNat).getD 0
        let raw := (issueRaw k).getD 0
        if ccKnown (ccOp w) ∧ ccOp w ≠ op then s
        else if ccKnown (ccOp w) && !ccBad w raw && ccTrue k w && ccStall s c k w raw then s
        else
          let s := updCore s c fun k => icUse k k.pc.toNat
          let r := readCells s (ccReader s c slot) fun x => match x with
            | .icache core l => core = c && (l = icLineOf k.pc.toNat || (op = 0x28 && l = icLineOf (k.pc.toNat + 16)))
            | _ => false
          if !r.2 then r.1
          else
          let s := r.1
          let js := if k.dbg.skipOnce then [] else bpHits s c k.pc
          match bpStops s c js with
          | j :: _ => hitBreakpoint (bpPass s c js) c j (bpScope s c (bpStops s c js))
          | [] =>
            let s := updCore (bpPass s c js) c fun k => { k with issues := k.issues + 1, dbg := { k.dbg with skipOnce := false } }
            afterIssue (ccIssue s c slot w raw f) c

/-- An instruction that only changes the core's registers and goes on to the next word. -/
def regOp (g : Core → BitVec 32 → Core) (s : State) (c _slot : Nat) (w : BitVec 32) (_raw : BitVec 128) : State :=
  updCore s c fun k => advance (g k w) 4

/-! ### Integer and predicate instructions (R129 to R131) -/

/-- ALU by FN (R129). -/
def aluFn (fn : Nat) (a b : Word) : Word :=
  let sh := fld b 0 6
  match fn with
  | 0x00 => a + b
  | 0x01 => a - b
  | 0x02 => a &&& b
  | 0x03 => a ||| b
  | 0x04 => a ^^^ b
  | 0x05 => a <<< sh
  | 0x06 => a >>> sh
  | 0x07 => a.sshiftRight sh
  | 0x08 => a * b
  | 0x09 => BitVec.ofNat 64 (a.toNat * b.toNat / 2 ^ 64)
  | 0x0A => BitVec.ofInt 64 (a.toInt * b.toInt / 2 ^ 64)
  | 0x0B => if b = 0 then -1 else a / b
  | 0x0C => if b = 0 then -1 else a.sdiv b
  | 0x0D => if b = 0 then a else a % b
  | 0x0E => if b = 0 then a else a.srem b
  | 0x0F => if a.toInt ≤ b.toInt then a else b
  | 0x10 => if a.toInt ≤ b.toInt then b else a
  | 0x11 => if a.toNat ≤ b.toNat then a else b
  | 0x12 => if a.toNat ≤ b.toNat then b else a
  | 0x13 => BitVec.ofNat 64 (if a = 0 then 64 else 63 - Nat.log2 a.toNat)
  | _ => BitVec.ofNat 64 ((List.range 64).filter fun i => bit a i).length

/-- SHI by kind (R130). -/
def shiFn (kind n : Nat) (a : Word) : Word :=
  if kind = 0 then a <<< n else if kind = 1 then a >>> n else a.sshiftRight n

def immOp (f : Word → Word → Word) (k : Core) (w : BitVec 32) : Core := gSet k (ccGd w) (f (gGet k (ccGa w)) (ccSimm w))

/-- ALU (R129). -/
def execAlu (c : CoreId) (s : State) : Host.Outcome State Fault Refusal :=
  .next (ctl s c.toNat 0x00 (regOp fun k w => gSet k (ccGd w) (aluFn (ccFn w) (gGet k (ccGa w)) (gGet k (ccGb w)))))
/-- ADDI (R130). -/
def execAddi (c : CoreId) (s : State) : Host.Outcome State Fault Refusal := .next (ctl s c.toNat 0x01 (regOp (immOp (· + ·))))
/-- ANDI (R130). -/
def execAndi (c : CoreId) (s : State) : Host.Outcome State Fault Refusal := .next (ctl s c.toNat 0x02 (regOp (immOp (· &&& ·))))
/-- ORI (R130). -/
def execOri (c : CoreId) (s : State) : Host.Outcome State Fault Refusal := .next (ctl s c.toNat 0x03 (regOp (immOp (· ||| ·))))
/-- XORI (R130). -/
def execXori (c : CoreId) (s : State) : Host.Outcome State Fault Refusal := .next (ctl s c.toNat 0x04 (regOp (immOp (· ^^^ ·))))
/-- SHI (R130). -/
def execShi (c : CoreId) (s : State) : Host.Outcome State Fault Refusal :=
  .next (ctl s c.toNat 0x05 (regOp fun k w => gSet k (ccGd w) (shiFn (fld w 10 2) (fld w 0 6) (gGet k (ccGa w)))))
/-- LI (R127). -/
def execLi (c : CoreId) (s : State) : Host.Outcome State Fault Refusal :=
  .next (ctl s c.toNat 0x06 (regOp fun k w => gSet k (ccGd w) (BitVec.ofInt 64 (toSigned 17 (fld w 0 17)))))
/-- LIH (R127). -/
def execLih (c : CoreId) (s : State) : Host.Outcome State Fault Refusal :=
  .next (ctl s c.toNat 0x07 (regOp fun k w =>
    gSet k (ccGd w) ((gGet k (ccGd w) <<< (16 : Nat)) ||| BitVec.ofNat 64 (fld w 0 16))))
/-- CMP (R131). -/
def execCmp (c : CoreId) (s : State) : Host.Outcome State Fault Refusal :=
  .next (ctl s c.toNat 0x08 (regOp fun k w =>
    pSet k (fld w 19 3) (condFn (fld w 0 4) (gGet k (ccGa w)) (gGet k (ccGb w)))))
/-- CMPI (R131). -/
def execCmpi (c : CoreId) (s : State) : Host.Outcome State Fault Refusal :=
  .next (ctl s c.toNat 0x09 (regOp fun k w =>
    pSet k (fld w 19 3) (condFn (fld w 15 4) (gGet k (fld w 10 5)) (BitVec.ofInt 64 (toSigned 10 (fld w 0 10))))))
/-- PLOG (R131). -/
def execPlog (c : CoreId) (s : State) : Host.Outcome State Fault Refusal :=
  .next (ctl s c.toNat 0x0A (regOp fun k w =>
    pSet k (fld w 19 3) (plogFn (fld w 10 3) (pGet k (fld w 16 3)) (pGet k (fld w 13 3)) (gGet k (fld w 5 5)))))

/-! ### Branches (R132) -/

def branchTo (pc : BitVec 48) (w : BitVec 32) : BitVec 48 := pc + BitVec.ofInt 48 (4 * toSigned 22 (fld w 0 22))

/-- BR (R132). -/
def execBr (c : CoreId) (s : State) : Host.Outcome State Fault Refusal :=
  .next (ctl s c.toNat 0x10 fun s c _ w _ => updCore s c fun k => { k with pc := branchTo k.pc w })
/-- CALL (R132). -/
def execCall (c : CoreId) (s : State) : Host.Outcome State Fault Refusal :=
  .next (ctl s c.toNat 0x11 fun s c _ w _ => updCore s c fun k =>
    { gSet k 31 ((k.pc + 4).setWidth 64) with pc := branchTo k.pc w })
/-- JR (R132): a target that is misaligned or above 48 bits raises FETCH at the JR. -/
def execJr (c : CoreId) (s : State) : Host.Outcome State Fault Refusal :=
  .next (ctl s c.toNat 0x12 fun s c slot w _ =>
    let t := gGet (coreOf s c) (ccGa w)
    if fld t 0 2 ≠ 0 ∨ fld t 48 16 ≠ 0 then ccExc s c slot 0x04 t.toNat
    else updCore s c fun k => { gSet k (ccGd w) ((k.pc + 4).setWidth 64) with pc := BitVec.ofNat 48 t.toNat })

/-! ### Loads, stores and atomics (R134 to R139) -/

/-- The address checks of R135: the cause of the exception, if any. -/
def addrCause (s : State) (slot : Nat) (a : Word) (size : Nat) (loc : Bool) : Option Nat :=
  if a.toNat % size ≠ 0 then some 0x03
  else if loc then (if scratchSize ≤ a.toNat then some 0x02 else none)
  else if 2 ^ 48 ≤ a.toNat ∨ !inPlane s a.toNat size ∨ !csetOk s slot a.toNat then some 0x02
  else none

/-- The command's DENORM setting (R216). -/
def denormOf (s : State) (slot : Nat) : Nat := ((cmdOf s slot).map fun m => fld m.modeAt 6 2).getD 1
def roundOf (s : State) (slot : Nat) : Nat := ((cmdOf s slot).map fun m => fld m.modeAt 3 3).getD 1

/-- A plane access meets a fenced channel, an error on its way or in what it reads, or a poisoned line that it would read (R400, R407, R415). A read that is
held meets its line once the line is released (R93, R417). -/
def ccGuard (s : State) (c slot a size : Nat) (reads : Bool) (go : State → State) : State :=
  match fencedIn s a size with
  | some l => breakUnit c none (failFenced s slot 4 (channelOf s l))
  | none =>
    if reads && (lockIn s (jointSet s slot) a size).isSome then go s
    else
      let r := readCells s (ccReader s c slot) (if reads then lineCells s slot c (linesOf a size) else writeCells s c (linesOf a size))
      if !r.2 then r.1
      else if !reads then go r.1
      else match seenPoison r.1 slot a size with
        | some l => breakUnit c none (failPoison r.1 slot l none (coreOf r.1 c).pc.toNat)
        | none => go r.1

/-- Zero- or sign-extend loaded bytes (R134). -/
def extendLoad (size : Nat) (signed : Bool) (v : Nat) : Word :=
  if signed then BitVec.ofInt 64 (toSigned (8 * size) v) else BitVec.ofNat 64 v

/-- Put loaded data into its register. -/
def putLoad (k : Core) (d : LoadDest) (v : BitVec 256) : Core :=
  match d with
  | .g r size signed => gSet k r (extendLoad size signed (v.toNat % 2 ^ (8 * size)))
  | .d r => dSet k r v

/-- A byte of the plane as the control core of `k` sees it. -/
def ccSeen (s : State) (k : Core) (slot a : Nat) : Byte := inFlight s k none (locKey 1 a) (seenByte s slot a)

/-- A load from the plane becomes outstanding; its data is what the slice reads now, unless another command's WRITE range holds the line
(R93, R136). -/
def planeLoad (s : State) (c slot a size : Nat) (d : LoadDest) : State :=
  ccGuard s c slot a size true fun s =>
    let v : Option (BitVec 256) :=
      if (lockIn s (jointSet s slot) a size).isSome then none
      else some (BitVec.ofNat 256 (leNat ((span a size).map (ccSeen s (coreOf s c) slot))))
    let pc := (coreOf s c).pc.toNat
    let s := sheafAccess s (some slot) (.control c pc) (neededLines s slot a size) false
    updCore s c fun k => advance { k with loads := k.loads ++
      [{ addr := a, at' := pc, amo := false, size := size, dest := d, value := v }] } 4

/-- LD and DLD. -/
def ccLoad (s : State) (c slot : Nat) (w : BitVec 32) (d : LoadDest) : State :=
  let k := coreOf s c
  let a := ccAddr k w
  let size := ccSize w
  match addrCause s slot a size (ccLoc w) with
  | some cause => ccExc s c slot cause a.toNat
  | none =>
    if ccLoc w then
      let r := readCells s (ccReader s c slot) fun x => match x with
        | .scratch core off => core = c && overlap (off - off % 8) 8 a.toNat size
        | _ => false
      if !r.2 then r.1
      else updCore r.1 c fun k => advance (putLoad k d (BitVec.ofNat 256 (leNat ((span a.toNat size).map fun x =>
        inFlight s k none (locKey 0 x) (scratchByte k x))))) 4
    else planeLoad s c slot a.toNat size d

/-- LD (R134). -/
def execLd (c : CoreId) (s : State) : Host.Outcome State Fault Refusal :=
  .next (ctl s c.toNat 0x18 fun s c slot w _ => ccLoad s c slot w (.g (ccGd w) (ccSize w) (bit w 11)))

/-- ST and DST: the bytes go to the scratchpad, or into staging with a store-queue entry (R136, R146). -/
def ccStore (s : State) (c slot : Nat) (w : BitVec 32) (bs : List Byte) : State :=
  let a := ccAddr (coreOf s c) w
  match addrCause s slot a bs.length (ccLoc w) with
  | some cause => ccExc s c slot cause a.toNat
  | none =>
    if ccLoc w then
      updCore s c fun k => advance (scratchWrite (storeOver k (scratchByte k) 0 a.toNat bs.length) a.toNat bs) 4
    else if !inWrite s slot a.toNat bs.length then ccExc s c slot 0x05 a.toNat
    else ccGuard s c slot a.toNat bs.length false fun s =>
      let s := updCore s c fun k => storeOver (advance { k with stq := k.stq ++ [a.toNat] } 4) (seenByte s slot) 1 a.toNat bs.length
      stageBytes (countPort s c 64 true) slot a.toNat bs none (some c)

/-- ST (R134). -/
def execSt (c : CoreId) (s : State) : Host.Outcome State Fault Refusal :=
  .next (ctl s c.toNat 0x19 fun s c slot w _ => ccStore s c slot w (natLE (ccSize w) (gGet (coreOf s c) (ccGd w)).toNat))

/-- An immediate atomic's new value (R46, R138): old, operand, expected, all of `n` bits. -/
def amoFn (denorm aop aw n old v exp : Nat) : Nat :=
  if aw = 2 then fp32Add denorm old v
  else match aop with
    | 0 => (old + v) % 2 ^ n
    | 1 => if toSigned n old ≤ toSigned n v then old else v
    | 2 => if toSigned n old ≤ toSigned n v then v else old
    | 3 => Nat.min old v
    | 4 => Nat.max old v
    | 5 => old &&& v
    | 6 => old ||| v
    | _ => if old = exp then v else old

/-- AMO (R46, R47, R138): on a line of the command's own region-locked ranges, which are its WRITE and its REDUCE ranges (R92). -/
def execAmo (c : CoreId) (s : State) : Host.Outcome State Fault Refusal :=
  .next (ctl s c.toNat 0x1A fun s c slot w _ =>
    let k := coreOf s c
    let a := ccAddr k w
    let size := if fld w 2 2 = 1 then 8 else 4
    match addrCause s slot a size false with
    | some cause => ccExc s c slot cause a.toNat
    | none =>
      if !inReduce s slot a.toNat size then ccExc s c slot 0x05 a.toNat
      else ccGuard s c slot a.toNat size true fun s =>
        let n := 8 * size
        let old := leNat (seenRead s slot a.toNat size)
        let new := amoFn (denormOf s slot) (fld w 4 3) (fld w 2 2) n old ((gGet k (ccGb w)).toNat % 2 ^ n)
          ((gGet k (ccGd w)).toNat % 2 ^ n)
        let pc := k.pc.toNat
        let s := sheafAccess s (some slot) (.control c pc) (neededLines s slot a.toNat size) false
        let s := updCore s c fun k => storeOver (advance { k with loads := k.loads ++
          [{ addr := a.toNat, at' := pc, amo := true, size := size, dest := .g (ccGd w) size false,
             value := some (BitVec.ofNat 256 old) }] } 4) (seenByte s slot) 1 a.toNat size
        stageBytes (countPort s c 64 true) slot a.toNat (natLE size new) none (some c))

/-- DLD (R139). -/
def execDld (c : CoreId) (s : State) : Host.Outcome State Fault Refusal :=
  .next (ctl s c.toNat 0x20 fun s c slot w _ => ccLoad s c slot w (.d (ccGd w)))
/-- DST (R139). -/
def execDst (c : CoreId) (s : State) : Host.Outcome State Fault Refusal :=
  .next (ctl s c.toNat 0x21 fun s c slot w _ => ccStore s c slot w (natLE 32 (dGet (coreOf s c) (ccGd w)).toNat))
/-- DRD (R139). -/
def execDrd (c : CoreId) (s : State) : Host.Outcome State Fault Refusal :=
  .next (ctl s c.toNat 0x22 (regOp fun k w =>
    gSet k (ccGd w) (BitVec.ofNat 64 (fld (dGet k (ccGa w)) (64 * fld w 0 2) 64))))
/-- DWR (R139). -/
def execDwr (c : CoreId) (s : State) : Host.Outcome State Fault Refusal :=
  .next (ctl s c.toNat 0x23 (regOp fun k w =>
    dSet k (ccGd w) (setFld (dGet k (ccGd w)) (64 * fld w 0 2) 64 (gGet k (ccGa w)).toNat)))

/-- LOAD_RETURN (R146): the oldest outstanding load returns; a held one waits for the release of its line (R93), or for the end of its
channel's test (R409). -/
def execLoadReturn (c : CoreId) (s : State) : Host.Outcome State Fault Refusal :=
  let k := coreOf s c.toNat
  match k.loads, k.slot with
  | l :: rest, some slot =>
    if awaits s fun f => f.asker = .control c.toNat l.at' && f.line = lineOf l.addr then .next s
    else match fencedIn s l.addr l.size with
    | some x => .next (breakUnit c.toNat none (failFenced s slot 4 (channelOf s x)))
    | none =>
      match l.value with
      | some v =>
        if heldByTest s l.addr l.size then .next s
        else .next (updCore (countPort s c.toNat 64 false) c.toNat fun k => putLoad { k with loads := rest } l.dest v)
      | none =>
        if heldFor s slot l.addr l.size then .next s
        else
          let r := readCells s { slot := slot, core := c.toNat, eng := none, at' := l.at', ahead := false }
            (lineCells s slot c.toNat (linesOf l.addr l.size))
          if !r.2 then .next r.1
          else match seenPoison r.1 slot l.addr l.size with
          | some p => .next (breakUnit c.toNat none (failPoison r.1 slot p none l.at'))
          | none =>
            let s := r.1
            let v : BitVec 256 := BitVec.ofNat 256 (leNat (seenRead s slot l.addr l.size))
            .next (updCore (countPort s c.toNat 64 false) c.toNat fun k => putLoad { k with loads := rest } l.dest v)
  | _, _ => .next s

/-! ### Engine issue and counters (R140 to R144) -/

/-- ISSUE (R140, R172): the registers are copied and the instruction joins its engine's queue. -/
def execIssue (c : CoreId) (s : State) : Host.Outcome State Fault Refusal :=
  .next (ctl s c.toNat 0x28 fun s c _ _ raw => updCore s c fun k =>
    let e : EInstr := { raw := raw, addr := k.pc, g := k.g, d := k.d, asleep := false, woken := false, alt := false, descs := [],
                        checked := false, flight := 0 }
    advance { k with queues := Map.put k.queues (fld raw 116 4) (queueOfEng k (fld raw 116 4) ++ [e]) } 20)

/-- An instruction on the counter that GA names; COUNTER where it names none (R141). WAIT and RDCTR read it. -/
def withCtr (s : State) (c slot : Nat) (w : BitVec 32) (f : State → Nat → State) : State :=
  let a := gGet (coreOf s c) (ccGa w)
  match nameCtr c a.toNat with
  | none => ccExc s c slot 0x06 a.toNat
  | some n =>
    let r := if ccOp w = 0x2A then (s, true) else ctrRead s (some slot) (coreOf s c).pc.toNat n
    if r.2 then f r.1 n else breakUnit c none r.1

/-- WAIT (R141, R184): one reading; an unsatisfied one registers a watch and the control core sleeps. -/
def execWait (c : CoreId) (s : State) : Host.Outcome State Fault Refusal :=
  .next (ctl s c.toNat 0x29 fun s c slot w _ => withCtr s c slot w fun s n =>
    let t := gGet (coreOf s c) (ccGb w)
    let v := ctrGet s n
    let s := readPort s c n
    if satisfied v t then updCore s c fun k => advance (gSet k (ccGd w) v) 4
    else
      let s := updCore s c fun k => { k with act := .waiting n t (ccGd w) k.pc }
      watchAdd s n t (.control c))

/-- SIGNAL (R141): it takes effect once every earlier store of the control core is accepted. -/
def execSignal (c : CoreId) (s : State) : Host.Outcome State Fault Refusal :=
  .next (ctl s c.toNat 0x2A fun s c slot w _ => withCtr s c slot w fun s n =>
    let k := coreOf s c
    let s := updCore s c fun k => advance k 4
    if k.stq.isEmpty then signalOf s slot n (fld w 0 4) (some c) none
    else updCore s c fun k => { k with sigs := k.sigs ++ [{ ctr := n, inc := fld w 0 4, stores := k.stq.length }] })

/-- RDCTR (R141). -/
def execRdctr (c : CoreId) (s : State) : Host.Outcome State Fault Refusal :=
  .next (ctl s c.toNat 0x2B fun s c slot w _ => withCtr s c slot w fun s n =>
    updCore (readPort s c n) c fun k => advance (gSet k (ccGd w) (ctrGet s n)) 4)

/-- The engines that a mask selects hold no instruction, and none of them has failed one (R142). -/
def maskIdle (k : Core) (mask : BitVec 5) : Bool :=
  (List.range 5).all fun e => !bit mask e || ((queueOfEng k e).isEmpty && (flyingOf k e).isEmpty && !k.broken.contains e)

/-- Engine e stops at the instruction at the head of its queue, which has failed and whose entry frees (R172). -/
def stopHead (c e : Nat) (s : State) : State :=
  breakUnit c (some e) (updCore s c fun k => { k with queues := Map.put k.queues e ((queueOfEng k e).drop 1) })

/-- DRAIN (R142). -/
def execDrain (c : CoreId) (s : State) : Host.Outcome State Fault Refusal :=
  .next (ctl s c.toNat 0x2C fun s c _ w _ => updCore s c fun k =>
    let m : BitVec 5 := BitVec.ofNat 5 (fld w 0 5)
    if maskIdle k m then advance k 4 else { k with act := .draining m k.pc })

/-- Special registers (R144). CCYCLES is a free value, as the model has no clock (log 8). -/
def mfsVal (s : State) (c slot n : Nat) : Word :=
  let m : Option Cmd := cmdOf s slot
  match n with
  | 0 => BitVec.ofNat 64 c
  | 1 => BitVec.ofNat 64 (chipNo s)
  | 2 => BitVec.ofNat 64 ((m.map (·.runs)).getD 0)
  | 3 => freeAt s 0
  | 4 => BitVec.ofNat 64 ((m.map Cmd.epochAt).getD 0).toNat
  | 5 => BitVec.ofNat 64 slot
  | _ => BitVec.ofNat 64 ((m.map (·.queue)).getD 0)

/-- MFS (R144). -/
def execMfs (c : CoreId) (s : State) : Host.Outcome State Fault Refusal :=
  .next (ctl s c.toNat 0x2D fun s c slot w _ =>
    updCore s.tick c fun k => advance (gSet k (ccGd w) (mfsVal s c slot (ccImm w))) 4)

/-- END (R143): fetch stops. A line of the instruction cache that is still outstanding arrives all the same (DESIGN CHOICE, log 53). -/
def execEndProg (c : CoreId) (s : State) : Host.Outcome State Fault Refusal :=
  .next (ctl s c.toNat 0x2F fun s c _ _ _ => updCore s c fun k => { advance k 4 with act := .ended })

/-! ### Acceptance, done and base points (R143, R193, R500) -/

/-- Signals whose earlier stores are all accepted take effect, in order (R141). -/
def fireSigs (c slot : Nat) (s : State) : State :=
  let k := coreOf s c
  let due := k.sigs.takeWhile fun p => p.stores = 0
  let s := updCore s c fun k => { k with sigs := k.sigs.drop due.length }
  due.foldl (fun s p => signalOf s slot p.ctr p.inc (some c) none) s

/-- An engine's oldest instruction whose lines are staged and that waits for their acceptance (R174, R500). -/
def acceptEng (k : Core) (e : Nat) : Core :=
  let fl := updFirst (fun f => !f.accepted && f.reads = 0) (fun f => { f with accepted := true }) (flyingOf k e)
  { k with flying := Map.put k.flying e fl }

/-- ACCEPTANCE (R500): to the control core's oldest store, or to the oldest instruction of an engine. -/
def execAcceptance (c : CoreId) (who : BitVec 3) (s : State) : Host.Outcome State Fault Refusal :=
  let k := coreOf s c.toNat
  match k.slot with
  | none => .next s
  | some slot =>
    if who = 0 then
      match k.stq with
      | [] => .next s
      | _ :: rest =>
        let s := updCore s c.toNat fun k => { k with
          stq := rest, sigs := k.sigs.map fun p => { p with stores := p.stores - 1 } }
        .next (fireSigs c.toNat slot s)
    else .next (updCore s c.toNat fun k => acceptEng k (who.toNat - 1))

/-- DONE_REPORT (R143). -/
def execDoneReport (c : CoreId) (s : State) : Host.Outcome State Fault Refusal :=
  let k := coreOf s c.toNat
  match k.slot with
  | none => .next s
  | some slot =>
    match cmdOf s slot with
    | none => .next s
    | some m =>
      if k.act ≠ .ended ∨ !enginesIdle k ∨ !k.stq.isEmpty ∨ !k.sigs.isEmpty ∨ (k.loads.any (·.amo)) ∨
        (s.sync.inflight.any fun g => g.core = some c.toNat && g.slot = some slot) ∨ m.phase ≠ .running ∨ m.kill.isSome ∨
        m.done.contains c.toNat then .next s
      else
        let s := updCmd s slot fun m => { m with done := m.done ++ [c.toNat] }
        if m.cores.all fun x => x = c.toNat || m.done.contains x then .next (finish s slot) else .next s

/-- BASE_POINT (R193): every core of the run of slot k has reached its base point. The members of a joint set run as one (R89). -/
def execBasePoint (k : SlotId) (s : State) : Host.Outcome State Fault Refusal :=
  let ks := jointSet s k.toNat
  let cores := ks.flatMap fun m => ((cmdOf s m).map fun c => if c.kind = 1 then c.cores else []).getD []
  match cmdOf s k.toNat with
  | none => .next s
  | some m =>
    if m.phase = .running ∧ m.kill.isNone ∧ m.based = false ∧ (cores.all fun c => (coreOf s c).act = .atBase) then
      let s := updCmds s ks fun _ c => { c with based := true }
      .next (updCores s cores fun _ k => { k with act := .running })
    else .next s

/-- LAUNCH (R80): each core of the set starts at PROG, with undefined memories of its own. A halt request that the idle core held takes
effect (R492). -/
def launchCore (c : Cmd) (slot n : Nat) (s : State) (p : Nat × Nat) : State :=
  let s := updCore s p.1 fun k =>
    let k := { k with
      act := .running, based := false, p := 0, pc := BitVec.ofNat 48 (fld c.record 240 48), d := [], g := [], scratch := [],
      acc := [], undef := 1024 * s.fresh + p.1, icache := [], icReqs := [], pbuf := none, kmmSum := false, lab := [],
      dbg := { k.dbg with state := 1, cause := 0, bp := 0, skipOnce := false, stepping := false } }
    gSet (gSet (gSet (gSet k 1 (BitVec.ofNat 64 (fld c.record 288 48))) 2 (BitVec.ofNat 64 p.2)) 3 (BitVec.ofNat 64 n)) 4
      (BitVec.ofNat 64 (fld c.record 448 64))
  match (coreOf s p.1).dbg.request with
  | some cause =>
    haltCore (updCore s p.1 fun k => { k with dbg := { k.dbg with request := none } }) p.1 cause.toNat 0
  | none => icMiss s p.1 slot (fld c.record 240 48)

/-- LAUNCH (R80). -/
def execLaunch (k : SlotId) (s : State) : Host.Outcome State Fault Refusal :=
  match atWork s k.toNat 0x01 with
  | none => .next s
  | some c =>
    let s := begun s k.toNat
    .next (c.cores.zipIdx.foldl (launchCore c k.toNat c.cores.length) s).tick

/-- Where `held` keeps the line that a page command waits for (R284), and the page on which it waits for a WRITE lock. -/
def pageHold : Nat := 5
def pageLockHold : Nat := 6

/-- HOLD_TIMEOUT (R93, R136, R189): a held read of the control core or of an engine has outlasted HOLD. A hold for a channel test does
not count (R409). -/
def execHoldTimeout (c : CoreId) (who : BitVec 3) (s : State) : Host.Outcome State Fault Refusal :=
  let k := coreOf s c.toNat
  match k.slot with
  | none => .next s
  | some slot =>
    let own := jointSet s slot
    let locked := fun a n => (lockIn s own a n).isSome
    let decided := ((cmdOf s slot).map (·.decided)).getD true
    if decided then .next s
    else if who = 0 then
      match k.loads.find? fun l => l.value.isNone && locked l.addr l.size, k.icReqs with
      | some l, _ => .next (breakUnit c.toNat none (failWith s slot (holdRec c.toNat none slot l.addr l.at')))
      | none, line :: _ =>
        if locked line 128 then .next (breakUnit c.toNat none (failWith s slot (holdRec c.toNat none slot line k.pc.toNat))) else .next s
      | none, [] =>
        match Map.find? k.held pageHold with
        | some a =>
          if locked a 64 || (Map.find? k.held pageLockHold = some a && lockClash s own (a / 4096) false) then
            .next (failWith s slot (holdRec c.toNat none slot a 0))
          else .next s
        | none => .next s
    else
      let e := who.toNat - 1
      match Map.find? k.held e, (queueOfEng k e).head? with
      | some a, some i =>
        if locked a 64 then .next (stopHead c.toNat e (failWith s slot (holdRec c.toNat (some e) slot a i.addr.toNat))) else .next s
      | some a, none =>
        if locked a 64 then .next (breakUnit c.toNat (some e) (failWith s slot (holdRec c.toNat (some e) slot a 0))) else .next s
      | none, _ => .next s

end Sys2Proof.Machine
end

