-- ==== Sys2Proof/Machine/Functions.lean ====
section
/-!
DEFINITION. The functions of the vector engine (R251), quotients and roots, the gates of R231, and the counter-based generator (R254).
A function's value is bounded in fixed point until its first 128 significant bits are settled; the functions are irrational wherever they
are evaluated so, and the bits below decide no rounding of R206 or R208, into INT64 too (log 20).
-/
namespace Sys2Proof.Machine

/-- An exact value, or (where the second part is true) a value whose magnitude lies strictly between the first part's significand and
the next. -/
abbrev Near := FVal × Bool

def exactly (v : FVal) : Near := (v, false)

/-! ### Fixed point of `w` fraction bits, with errors of a few units in the last place -/

/-- m × 2^e in fixed point, rounded down. -/
def fixOf (w m : Nat) (e : Int) : Nat := if 0 ≤ e + w then m * 2 ^ (e + w).toNat else m / 2 ^ (-(e + w)).toNat

/-- Σ 1 / ((2i+1) q^(2i+1)) for i < n. -/
def atanhInv (w q n : Nat) : Nat := ((List.range n).map fun i => 2 ^ w / ((2 * i + 1) * q ^ (2 * i + 1))).sum

/-- ln 2 = 2 artanh(1/3). -/
def fixLn2 (w : Nat) : Nat := 2 * atanhInv w 3 (w / 3 + 2)

/-- arctan(1/q). -/
def atanInv (w q n : Nat) : Int :=
  ((List.range n).map fun i =>
    let t : Int := (2 ^ w / ((2 * i + 1) * q ^ (2 * i + 1)) : Nat)
    if i % 2 = 0 then t else -t).sum

/-- π / 2 by Machin's formula. -/
def fixHalfPi (w : Nat) : Nat := (8 * atanInv w 5 (w / 4 + 2) - 2 * atanInv w 239 (w / 15 + 2)).toNat

/-- 1 + r/i (1 + r/(i+1) (…)), `n` terms. -/
def expSum (w r : Nat) : (n i : Nat) → Nat
  | 0, _ => 2 ^ w
  | n + 1, i => 2 ^ w + r * expSum w r n (i + 1) / (i * 2 ^ w)

/-- exp of a signed fixed-point number: a number in [1, 2) and a power of two. -/
def expParts (w : Nat) (x : Int) : Nat × Int :=
  let k := x / (fixLn2 w : Int)
  (expSum w (x - k * fixLn2 w).toNat (w / 4) 1, k)

/-- exp(−x) in fixed point. -/
def expNeg (w x : Nat) : Nat :=
  let p := expParts w (-(x : Int))
  p.1 / 2 ^ (-p.2).toNat

/-- Σ y^i / (2i+1) from term i, `n` terms. -/
def logSum (w y : Nat) : (n i : Nat) → Nat
  | 0, _ => 0
  | n + 1, i => 2 ^ w / (2 * i + 1) + y * logSum w y n (i + 1) / 2 ^ w

/-- ln(m × 2^e). -/
def fixLog (w m : Nat) (e : Int) : Int :=
  let l := log2 m
  let z := (m - 2 ^ l) * 2 ^ w / (m + 2 ^ l)
  (2 * z * logSum w (z * z / 2 ^ w) (w / 3 + 2) 0 / 2 ^ w : Nat) + ((l : Int) + e) * fixLn2 w

/-- 1 − y/(i(i+1)) (1 − y/((i+2)(i+3)) (…)), `n` terms. -/
def trigSum (w : Nat) (y : Int) : (n i : Nat) → Int
  | 0, _ => 2 ^ w
  | n + 1, i => 2 ^ w - y * trigSum w y n (i + 2) / ((i * (i + 1) : Nat) * 2 ^ w : Int)

/-- Sine and cosine of r in [0, π/2). -/
def sinCos (w r : Nat) : Int × Int :=
  let y : Int := (r * r / 2 ^ w : Nat)
  (r * trigSum w y (w / 8 + 4) 2 / 2 ^ w, trigSum w y (w / 8 + 4) 1)

/-- Sine and cosine of m × 2^e > 0, its argument reduced exactly enough for any finite input. -/
def fixSinCos (w m : Nat) (e : Int) : Int × Int :=
  let l := w + ((log2 m : Int) + e).toNat + 8
  let p := fixHalfPi l
  let x := fixOf l m e
  let sc := sinCos w (x % p / 2 ^ (l - w))
  match x / p % 4 with
  | 0 => (sc.1, sc.2)
  | 1 => (sc.2, -sc.1)
  | 2 => (-sc.1, -sc.2)
  | _ => (-sc.2, sc.1)

/-- The first 128 significant bits of a value near `a` / 2^w, where they are settled. The error is below 2^24 units. -/
def settle (w : Nat) (a : Int) : Option Near :=
  let m := a.natAbs
  let lo := m - 2 ^ 24
  let hi := m + 2 ^ 24
  let g := log2 lo - 127
  if 2 ^ 128 ≤ lo ∧ lo / 2 ^ g = hi / 2 ^ g then some (.fin (decide (a < 0)) (lo / 2 ^ g) ((g : Int) - w), true) else none

/-- Working precisions, tried in turn. -/
def precisions : List Nat := [768, 1536, 3072]

/-- The value of function `f` at m × 2^e as `go` settles it. -/
def settled (f : Nat) (neg : Bool) (m : Nat) (e : Int) (go : Nat → Option Near) : Near :=
  match precisions.findSome? go with
  | some v => v
  | none => exactly (fp32.value (Config.unsettled f (BitVec.ofInt 64 (signedSig neg m * 4096 + e))).toNat)

/-- Magnitudes from 256 on: exp lies beyond every format and its fraction of R208. -/
def beyond (m : Nat) (e : Int) : Bool := decide (8 ≤ (log2 m : Int) + e)

def hugeVal : Near := (.fin false 1 400, true)
def tinyVal (neg : Bool) : Near := (.fin neg 1 (-400), true)
/-- A little below 1. -/
def nearOne (neg : Bool) : Near := (.fin neg (2 ^ 128 - 1) (-128), true)

/-! ### The functions (R251) -/

/-- EXP. -/
def fnExp (v : FVal) : Near :=
  match v with
  | .nan => exactly .nan
  | .inf true => exactly (.zero false)
  | .inf false => exactly (.inf false)
  | .zero _ => exactly (.fin false 1 0)
  | .fin s m e =>
    if beyond m e then (if s then tinyVal false else hugeVal)
    else settled 2 s m e fun w =>
      let p := expParts w (signedSig s (fixOf w m e))
      (settle w p.1).map fun r => (r.1.scale p.2, r.2)

/-- LOG. -/
def fnLog (v : FVal) : Near :=
  match v with
  | .nan => exactly .nan
  | .inf true => exactly .nan
  | .inf false => exactly (.inf false)
  | .zero _ => exactly (.inf true)
  | .fin true _ _ => exactly .nan
  | .fin false m e =>
    if m = 2 ^ log2 m ∧ (log2 m : Int) + e = 0 then exactly (.zero false)
    else settled 3 false m e fun w => settle w (fixLog w m e)

/-- Integer square root, by its bits from 2^(n-1) down. -/
def isqrt (v : Nat) : (n r : Nat) → Nat
  | 0, r => r
  | n + 1, r => isqrt v n (if (r + 2 ^ n) * (r + 2 ^ n) ≤ v then r + 2 ^ n else r)

/-- SQRT, to more than 160 bits. -/
def fnSqrt (v : FVal) : Near :=
  match v with
  | .nan => exactly .nan
  | .inf true => exactly .nan
  | .inf false => exactly (.inf false)
  | .zero s => exactly (.zero s)
  | .fin true _ _ => exactly .nan
  | .fin false m e =>
    let odd := (e % 2).toNat
    let a := m * 2 ^ (odd + 320)
    let r := isqrt a (log2 a / 2 + 1) 0
    (.fin false r ((e - odd) / 2 - 160), r * r != a)

/-- RSQRT. -/
def fnRsqrt (v : FVal) : Near :=
  match v with
  | .nan => exactly .nan
  | .inf true => exactly .nan
  | .inf false => exactly (.zero false)
  | .zero s => exactly (.inf s)
  | .fin true _ _ => exactly .nan
  | .fin false m e =>
    let odd := (e % 2).toNat
    let n := m * 2 ^ odd
    let p := log2 n + 160
    let a := 2 ^ (2 * p) / n
    let r := isqrt a (log2 a / 2 + 1) 0
    (.fin false r (-(p : Int) - (e - odd) / 2), r * r * n != 2 ^ (2 * p))

/-- SIGMOID. -/
def fnSigmoid (v : FVal) : Near :=
  match v with
  | .nan => exactly .nan
  | .inf true => exactly (.zero false)
  | .inf false => exactly (.fin false 1 0)
  | .zero _ => exactly (.fin false 1 (-1))
  | .fin s m e =>
    if beyond m e then (if s then tinyVal false else nearOne false)
    else settled 6 s m e fun w =>
      let t := expNeg w (fixOf w m e)
      settle w ((if s then t else 2 ^ w) * 2 ^ w / (2 ^ w + t) : Nat)

/-- TANH. -/
def fnTanh (v : FVal) : Near :=
  match v with
  | .nan => exactly .nan
  | .inf s => exactly (.fin s 1 0)
  | .zero s => exactly (.zero s)
  | .fin s m e =>
    if beyond m e then nearOne s
    else settled 7 s m e fun w =>
      let t := expNeg w (2 * fixOf w m e)
      settle w (signedSig s ((2 ^ w - t) * 2 ^ w / (2 ^ w + t)))

/-- SIN. -/
def fnSin (v : FVal) : Near :=
  match v with
  | .nan => exactly .nan
  | .inf _ => exactly .nan
  | .zero s => exactly (.zero s)
  | .fin s m e => settled 8 s m e fun w =>
    let a := (fixSinCos w m e).1
    settle w (if s then -a else a)

/-- COS. -/
def fnCos (v : FVal) : Near :=
  match v with
  | .nan => exactly .nan
  | .inf _ => exactly .nan
  | .zero _ => exactly (.fin false 1 0)
  | .fin s m e => settled 9 s m e fun w => settle w (fixSinCos w m e).2

/-- The quotient. -/
def fnDiv (a b : FVal) : Near :=
  match a, b with
  | .nan, _ => exactly .nan
  | _, .nan => exactly .nan
  | .inf _, .inf _ => exactly .nan
  | .inf s, y => exactly (.inf (s != y.isNeg))
  | x, .inf t => exactly (.zero (x.isNeg != t))
  | .zero _, .zero _ => exactly .nan
  | .zero s, y => exactly (.zero (s != y.isNeg))
  | x, .zero t => exactly (.inf (x.isNeg != t))
  | .fin s m e, .fin t n f =>
    let p := log2 n + 160
    (.fin (s != t) (m * 2 ^ p / n) (e - f - p), m * 2 ^ p % n != 0)

/-! ### Steps in FP32, to nearest even -/

/-- An FP32 pattern as a value under DENORM. -/
def val32 (denorm w : Nat) : FVal := readElem denorm 0x09 w
def rne32 (denorm : Nat) (v : Near) : Nat := writeElemS denorm 0x09 .rne false v.1 v.2
def mul32 (denorm a b : Nat) : Nat := rne32 denorm (exactly ((val32 denorm a).mul (val32 denorm b)))
def add32 (denorm a b : Nat) : Nat := fp32Add denorm a b
def neg32 (a : Nat) : Nat := a ^^^ 0x80000000
def sub32 (denorm a b : Nat) : Nat := rne32 denorm (exactly ((val32 denorm a).add (val32 denorm b).neg))
def fma32 (denorm a b c : Nat) : Nat :=
  rne32 denorm (exactly (((val32 denorm a).mul (val32 denorm b)).add (val32 denorm c)))
def div32 (denorm a b : Nat) : Nat := rne32 denorm (fnDiv (val32 denorm a) (val32 denorm b))
def fun32 (denorm : Nat) (f : FVal → Near) (a : Nat) : Nat := rne32 denorm (f (val32 denorm a))
/-- A value as FP32. -/
def fp32Of (denorm : Nat) (v : FVal) : Nat := rne32 denorm (exactly v)

def one32 : Nat := 0x3F800000

/-- The SiLU gate of R231, x an FP32 pattern. -/
def siluGate (denorm x : Nat) : Nat := mul32 denorm x (fun32 denorm fnSigmoid x)

/-- The GELU gate of R231; 0.7978846 is 0x3F4C422A and 0.044715 is 0x3D372713. -/
def geluGate (denorm x : Nat) : Nat :=
  let cube := mul32 denorm x (mul32 denorm x x)
  let inner := add32 denorm x (mul32 denorm 0x3D372713 cube)
  let t := fun32 denorm fnTanh (mul32 denorm 0x3F4C422A inner)
  mul32 denorm (mul32 denorm 0x3F000000 x) (add32 denorm one32 t)

/-- VFN by F (R251). SILU and GELU are evaluated in FP32. -/
def vecFn (denorm f : Nat) (v : FVal) : Near :=
  match f with
  | 0 => exactly v.abs
  | 1 => exactly v.neg
  | 2 => fnExp v
  | 3 => fnLog v
  | 4 => fnRsqrt v
  | 5 => fnSqrt v
  | 6 => fnSigmoid v
  | 7 => fnTanh v
  | 8 => fnSin v
  | 9 => fnCos v
  | 10 => exactly (val32 denorm (siluGate denorm (fp32Of denorm v)))
  | _ => exactly (val32 denorm (geluGate denorm (fp32Of denorm v)))

/-! ### Minimum and maximum (R249) -/

/-- The larger; NaN where either is; +0 above −0. -/
def FVal.max2 (a b : FVal) : FVal :=
  match a, b with
  | .nan, _ => .nan
  | _, .nan => .nan
  | .zero s, .zero t => .zero (s && t)
  | x, y => if FVal.cmp x y < 0 then y else x

def FVal.min2 (a b : FVal) : FVal :=
  match a, b with
  | .nan, _ => .nan
  | _, .nan => .nan
  | .zero s, .zero t => .zero (s || t)
  | x, y => if FVal.cmp y x < 0 then y else x

/-! ### The generator (R254) -/

def rngRound (p : Word × Word) : Word × Word :=
  let x := p.1 + p.2
  let x := (x ^^^ (x >>> (31 : Nat))) * 0xA54F3C917E2D88C3#64
  let x := (x ^^^ (x >>> (29 : Nat))) * 0x6B83D0F519A742E9#64
  (x ^^^ (x >>> (32 : Nat)), p.2.rotateLeft 23 + 0x8C3E5B17F2A4D061#64)

def rng (key ctr : Word) (stream : Nat) : Word :=
  let y := key ^^^ (BitVec.ofNat 64 stream * 0x3D95E7A10C6B4F27#64)
  (rngRound (rngRound (rngRound (rngRound (ctr, y))))).1

/-- G of R208: bits 23 to 0 of the 32-bit output, stream 0. -/
def stochG (key : Word) (e : Nat) : Nat := fld (rng key (BitVec.ofNat 64 e) 0) 32 24

/-- One draw as FP32 (R255): u in (0, 1], or a normal value. -/
def drawUniform (x : Word) : FVal := .fin false (fld x 40 24 + 1) (-24)

def drawNormal (denorm : Nat) (x : Word) : FVal :=
  let u1 := fp32Of denorm (drawUniform x)
  let u2 := fp32Of denorm (FVal.ofInt false (fld x 16 24) (-24))
  let r := fun32 denorm fnSqrt (mul32 denorm 0xC0000000 (fun32 denorm fnLog u1))
  let th := mul32 denorm 0x40C90FDB u2
  val32 denorm (mul32 denorm r (fun32 denorm fnCos th))

end Sys2Proof.Machine
end

