-- ==== Sys2Proof/Machine/Operands.lean ====
section
/-!
DEFINITION. Operand forms: the fields of an engine instruction (R150 to R156), tensor descriptors (R157 to R164), run-time shapes
(R165), how elements are read (R160 to R162, R170) and written (R170), and reductions (R154, R48).
-/
namespace Sys2Proof.Machine

/-! ### The engine instruction (R150, R152) -/

def EInstr.op (i : EInstr) : Nat := fld i.raw 120 8
def EInstr.eng (i : EInstr) : Nat := fld i.raw 116 4
def EInstr.fmt (i : EInstr) : Nat := fld i.raw 108 8
def EInstr.wreg (i : EInstr) : Nat := fld i.raw 103 5
def EInstr.wctr (i : EInstr) : Nat := fld i.raw 87 16
def EInstr.sctr (i : EInstr) : Nat := fld i.raw 71 16
def EInstr.sinc (i : EInstr) : Nat := fld i.raw 67 4
def EInstr.da (i : EInstr) : Nat := fld i.raw 62 5
def EInstr.db (i : EInstr) : Nat := fld i.raw 57 5
def EInstr.dc (i : EInstr) : Nat := fld i.raw 52 5
def EInstr.dalt (i : EInstr) : Nat := fld i.raw 47 5
def EInstr.altsel (i : EInstr) : Nat := fld i.raw 45 2
def EInstr.gs (i : EInstr) : Nat := fld i.raw 40 5
def EInstr.gi (i : EInstr) : Nat := fld i.raw 35 5
def EInstr.red (i : EInstr) : Nat := fld i.raw 31 4
/-- `len` bits of EXT from bit `lo`. -/
def EInstr.ext (i : EInstr) (lo len : Nat) : Nat := fld i.raw lo len

/-- A g register as ISSUE copied it. -/
def EInstr.gReg (i : EInstr) (r : Nat) : Word := if r = 0 then 0 else Map.get (fun _ => 0) i.g r
def EInstr.dReg (i : EInstr) (r : Nat) : BitVec 256 := Map.get (fun _ => 0) i.d r
/-- The contributor index (R154). -/
def EInstr.contrib (i : EInstr) : Nat := fld (i.gReg i.gi) 0 24
/-- The wait target (R151). -/
def EInstr.target (i : EInstr) : Word := i.gReg i.wreg

/-! ### Formats (R156) -/

/-- A code of R156 that is not reserved. -/
def fmtKnown (f : Nat) : Bool := decide (f < 0x0C) || decide (0x81 ≤ f ∧ f ≤ 0x86)
def isInt (code : Nat) : Bool := code = 0x00 || code = 0x04 || code = 0x0A || code = 0x0B
def wideInt (code : Nat) : Bool := code = 0x0A || code = 0x0B

/-! ### Descriptors (R157) -/

/-- The part that a descriptor plays in an instruction: `x`, `y` and `z` are the further descriptors of some operations. -/
inductive Part where
  | da
  | db
  | dc
  | dalt
  | x
  | y
  | z
  deriving DecidableEq, Repr

/-- A named operand: its part, its role and register in records (R177), its descriptor and its effective extents (R165). -/
structure Opnd where
  part : Part
  role : Nat
  reg  : Nat
  d    : BitVec 256
  ext  : List Nat
  deriving DecidableEq, Repr

def descFmt (d : BitVec 256) : Nat := fld d 120 8
/-- The five extents. -/
def descExt (d : BitVec 256) : List Nat := [fld d 91 13, fld d 78 13, fld d 65 13, fld d 128 13, fld d 141 13]
def descLoc (d : BitVec 256) : Nat := fld d 46 2
def descBase (d : BitVec 256) : Nat := 16 * fld d 0 44
def descPad (d : BitVec 256) : Nat := fld d 48 16
def descCap (d : BitVec 256) : Nat := fld d 104 16
def descMxp (d : BitVec 256) : Nat := fld d 174 18
/-- The byte strides of dimensions 1 to 4. -/
def descStrides (d : BitVec 256) : List Nat := [16 * fld d 192 20, 16 * fld d 212 20, 16 * fld d 232 20, 16 * fld d 154 20]

def Opnd.fmt (o : Opnd) : Nat := descFmt o.d
def Opnd.code (o : Opnd) : Nat := o.fmt % 128
def Opnd.mx (o : Opnd) : Bool := decide (128 ≤ o.fmt)
def Opnd.w (o : Opnd) : Nat := fmtBits o.code
def Opnd.loc (o : Opnd) : Nat := descLoc o.d
def Opnd.base (o : Opnd) : Nat := descBase o.d
/-- Extent k of the descriptor itself. -/
def Opnd.own (o : Opnd) (k : Nat) : Nat := (descExt o.d).getD k 1
/-- Effective extent k. -/
def Opnd.e (o : Opnd) (k : Nat) : Nat := o.ext.getD k 1
/-- Effective extents 1 to 4. -/
def Opnd.outer (o : Opnd) : List Nat := o.ext.drop 1

def ops0 : Opnd := { part := .x, role := 7, reg := 0, d := 0, ext := [0, 0, 0, 0, 0] }

/-- The operand that plays a part. -/
def getOp (ops : List Opnd) (p : Part) : Opnd := (ops.find? fun o => o.part = p).getD ops0

/-- Bytes of the packed row. -/
def rowLen (n w : Nat) : Nat := ceilDiv (n * w) 8

/-- Σ stride × index over dimensions 1 to 4. -/
def dot (st ix : List Nat) : Nat := ((st.zip ix).map fun p => p.1 * p.2).sum

def predAll (l : List Nat) : List Nat := l.map (· - 1)

/-- D of R163. -/
def dataSpan (d : BitVec 256) : Nat :=
  rowLen ((descExt d).getD 0 0) (fmtBits (descFmt d % 128)) + dot (descStrides d) (predAll ((descExt d).drop 1))

/-- Scale bytes of a row (R162). -/
def rowScales (d : BitVec 256) : Nat := ceilDiv ((descExt d).getD 0 0) 32

/-- The footprint (R163). -/
def footprint (d : BitVec 256) : Nat :=
  if (descExt d).contains 0 then 0
  else if descFmt d < 128 then dataSpan d
  else max (dataSpan d) (64 * descMxp d + rowScales d * ((descExt d).drop 1).prod)

/-- The first dimension in which R164 fails; 5 for its MX clause. -/
def overlapDim (d : BitVec 256) : Option Nat :=
  let e := descExt d
  let st := descStrides d
  let spans := (List.range 5).map fun k => rowLen (e.getD 0 0) (fmtBits (descFmt d % 128)) +
    dot (st.take k) (predAll ((e.drop 1).take k))
  match (span 1 4).find? fun k => decide (1 < e.getD k 1) && decide (st.getD (k - 1) 0 < spans.getD (k - 1) 0) with
  | some k => some k
  | none => if 128 ≤ descFmt d ∧ 64 * descMxp d < dataSpan d then some 5 else none

/-! ### Places of elements (R160, R162) -/

/-- The number of a row over the descriptor's own extents. -/
def Opnd.rowNo (o : Opnd) (r : List Nat) : Nat :=
  r.getD 0 0 + o.own 1 * (r.getD 1 0 + o.own 2 * (r.getD 2 0 + o.own 3 * r.getD 3 0))

/-- Byte address of a row. -/
def Opnd.rowAt (o : Opnd) (r : List Nat) : Nat := o.base + dot (descStrides o.d) r

/-- Byte address of the first scale byte of a row. -/
def Opnd.scaleAt (o : Opnd) (r : List Nat) : Nat := o.base + 64 * descMxp o.d + o.rowNo r * rowScales o.d

/-- The element index (R208). -/
def Opnd.index (o : Opnd) (i0 : Nat) (r : List Nat) : Nat := i0 + o.own 0 * o.rowNo r

/-- A row inside the effective extents of dimensions 1 to 4. -/
def Opnd.hasRow (o : Opnd) (r : List Nat) : Bool := (r.zip o.outer).all fun p => decide (p.1 < p.2)

/-- All rows over extents 1 to 4, dimension 1 fastest. -/
def rowsOver (outer : List Nat) : List (List Nat) :=
  (List.range (outer.getD 3 1)).flatMap fun l => (List.range (outer.getD 2 1)).flatMap fun k =>
    (List.range (outer.getD 1 1)).flatMap fun j => (List.range (outer.getD 0 1)).map fun i => [i, j, k, l]

def Opnd.rows (o : Opnd) : List (List Nat) := rowsOver o.outer

/-- Byte ranges of the first `n` elements of a row, scales among them. -/
def Opnd.rowSpans (o : Opnd) (n : Nat) (r : List Nat) : List (Nat × Nat) :=
  if n = 0 then []
  else (o.rowAt r, rowLen n o.w) :: if o.mx then [(o.scaleAt r, ceilDiv n 32)] else []

/-- Ranges with their location: location, first byte, length. -/
def Opnd.located (o : Opnd) (spans : List (Nat × Nat)) : List (Nat × Nat × Nat) := spans.map fun p => (o.loc, p.1, p.2)

/-- Byte ranges of the elements within the effective extents and within `lim`. -/
def Opnd.spansIn (o : Opnd) (lim : List Nat) : List (Nat × Nat) :=
  (rowsOver ((o.outer.zip (lim.drop 1)).map fun p => Nat.min p.1 p.2)).flatMap (o.rowSpans (Nat.min (o.e 0) (lim.getD 0 0)))

def Opnd.spans (o : Opnd) : List (Nat × Nat) := o.spansIn o.ext

/-! ### An instruction at work -/

/-- What an engine works with: the state before it starts, the command's slot, the core, the engine, the instruction, its operands. -/
structure Job where
  s    : State
  k    : Nat
  core : Nat
  eng  : Nat
  i    : EInstr
  ops  : List Opnd

def Job.denorm (j : Job) : Nat := denormOf j.s j.k
/-- The part that the cheaper path replaces is read through DALT. -/
def Job.op (j : Job) (p : Part) : Opnd :=
  if j.i.alt ∧ ((p = .da ∧ j.i.altsel = 1) ∨ (p = .db ∧ j.i.altsel = 2)) then getOp j.ops .dalt else getOp j.ops p

/-- A byte of a location (R158). One that an instruction in flight on another engine of the core writes is its old or its new value (R175). -/
def Job.byte (j : Job) (loc a : Nat) : Byte :=
  let k := coreOf j.s j.core
  inFlight j.s k (some j.eng) (locKey loc a)
    (if loc = 0 then scratchByte k a else if loc = 3 then accByte k a else seenByte j.s j.k a)

/-- `n` bits from bit `b` of byte `a`. -/
def Job.bits (j : Job) (loc a b n : Nat) : Nat :=
  leNat ((span a (ceilDiv (b + n) 8)).map (j.byte loc)) / 2 ^ b % 2 ^ n

/-- The pad element (R161). -/
def Opnd.padBits (o : Opnd) : Nat :=
  let p := descPad o.d
  if o.code = 0x09 then p * 2 ^ 16
  else if wideInt o.code then ofSigned o.w (toSigned 16 p)
  else p % 2 ^ o.w

/-- The stored pattern of an element. -/
def Job.stored (j : Job) (o : Opnd) (i0 : Nat) (r : List Nat) : Nat :=
  j.bits o.loc (o.rowAt r + i0 * o.w / 8) (i0 * o.w % 8) o.w

/-- The pattern that a read of an element gives (R170). -/
def Job.pattern (j : Job) (o : Opnd) (i0 : Nat) (r : List Nat) : Nat :=
  if i0 < o.e 0 ∧ o.hasRow r then j.stored o i0 r else o.padBits

/-- The E8M0 scale of an element (R162). -/
def Job.scale (j : Job) (o : Opnd) (i0 : Nat) (r : List Nat) : Nat :=
  if o.mx ∧ o.hasRow r ∧ 32 * (i0 / 32) < o.e 0 then (j.byte o.loc (o.scaleAt r + i0 / 32)).toNat else 127

/-- A pattern with its scale as a value (R199). -/
def scaledValue (denorm code scale w : Nat) : FVal :=
  if scale = 255 then .nan else (readElem denorm code w).scale ((scale : Int) - 127)

/-- The exact value of an element. -/
def Job.value (j : Job) (o : Opnd) (i0 : Nat) (r : List Nat) : FVal :=
  scaledValue j.denorm o.code (j.scale o i0 r) (j.pattern o i0 r)

/-- An element as FP32 bits. -/
def Job.elem32 (j : Job) (o : Opnd) (i0 : Nat) (r : List Nat) : Nat := fp32Of j.denorm (j.value o i0 r)

/-! ### Writing (R170) -/

/-- The bytes of a row whose first elements take `vals`; the bits behind them keep their value. -/
def Job.rowBytes (j : Job) (o : Opnd) (r : List Nat) (vals : List Nat) : Nat × List Byte :=
  let n := vals.length * o.w
  let body := vals.foldr (fun v a => v % 2 ^ o.w + 2 ^ o.w * a) 0
  let rest := if n % 8 = 0 then 0 else j.bits o.loc (o.rowAt r + n / 8) (n % 8) (8 - n % 8)
  (o.rowAt r, natLE (ceilDiv n 8) (body + rest * 2 ^ n))

/-- The pieces written when each element (i0, row) inside the effective extents takes `f i0 row`. -/
def Job.pieces (j : Job) (o : Opnd) (f : Nat → List Nat → Nat) : List (Nat × List Byte) :=
  o.rows.map fun r => j.rowBytes o r ((List.range (o.e 0)).map fun i0 => f i0 r)

/-- The bytes under the pieces of an instruction in flight as they are before it writes them (R137, R175). -/
def noteOld (j : Job) (loc : Nat) (ps : List (Nat × List Byte)) (s : State) : State :=
  updCore s j.core fun k =>
    let was := fun a => if loc = 0 then scratchByte k a else if loc = 3 then accByte k a else seenByte s j.k a
    let add := fun (m : Map Byte) (p : Nat × List Byte) => (span p.1 p.2.length).foldl (fun m a =>
      if (Map.find? m (locKey loc a)).isSome then m else Map.put m (locKey loc a) (was a)) m
    { k with flying := Map.put k.flying j.eng (updLast (fun f => f.id = j.i.flight) (fun f => { f with old := ps.foldl add f.old })
      (flyingOf k j.eng)) }

/-- Put pieces into a location: a plane write is staged (R91). `thru` marks a non-allocating transfer (R43). -/
def putPieces (j : Job) (loc : Nat) (ps : List (Nat × List Byte)) (s : State) (thru : Bool := false) : State :=
  let s := noteOld j loc ps s
  if loc = 0 then updCore s j.core fun k => ps.foldl (fun k p => scratchWrite k p.1 p.2) k
  else if loc = 3 then updCore s j.core fun k => ps.foldl (fun k p => accWrite k p.1 p.2) k
  else
    let n := (ps.flatMap fun p => linesOf p.1 p.2.length).eraseDups.length
    stageAll (countPort s j.core (64 * n) true) j.k ps (some j.eng) (some j.core) thru

/-! ### Reductions (R46, R48, R154) -/

/-- The operation of a RED code on patterns of `n` bits; FP32 and BF16 add work on FP32 patterns. -/
def redFn (denorm red n a b : Nat) : Nat :=
  match red with
  | 1 => (a + b) % 2 ^ n
  | 2 => if toSigned n a ≤ toSigned n b then a else b
  | 3 => if toSigned n a ≤ toSigned n b then b else a
  | 4 => Nat.min a b
  | 5 => Nat.max a b
  | 6 => a &&& b
  | 7 => a ||| b
  | _ => fp32Add denorm a b

/-- The identity of a reduction. -/
def redId (red n : Nat) : Nat :=
  match red with
  | 1 => 0
  | 2 => 2 ^ (n - 1) - 1
  | 3 => 2 ^ (n - 1)
  | 4 => 2 ^ n - 1
  | 5 => 0
  | 6 => 2 ^ n - 1
  | 7 => 0
  | _ => chainFresh

/-- Fold one contribution into the staged deltas. -/
def foldDelta (denorm : Nat) (d : Delta) (ds : List Delta) : List Delta :=
  let same : Delta → Bool := fun x => x.addr = d.addr && x.bytes = d.bytes && x.contrib = d.contrib && x.core = d.core && x.eng = d.eng && x.op = d.op
  let fn : Nat → Nat := fun a => redFn denorm d.op (8 * d.bytes) a d.value.toNat
  if ds.any same then updFirst same (fun x => { x with value := BitVec.ofNat 64 (fn x.value.toNat) }) ds
  else ds ++ [{ d with value := BitVec.ofNat 64 (fn (redId d.op (8 * d.bytes))) }]

/-- The engine as a reader of what its instruction names (R401). -/
def Job.reader (j : Job) : Reader := { slot := j.k, core := j.core, eng := some j.eng, at' := j.i.addr.toNat, ahead := false }

/-- Contribute patterns of DC's format. A line of deltas that the command holds is read for it, and an error in one lies in its work (R404, R405). -/
def contribute (j : Job) (o : Opnd) (es : List (Nat × Nat)) (s : State) (thru : Bool := false) : State :=
  let mine := (((cmdOf s j.k).map (·.deltas)).getD []).map fun d => lineOf d.addr
  let r := readCells s j.reader (deltaCells j.k ((es.map fun e => lineOf e.1).filter mine.contains))
  if !r.2 then r.1 else
  let s := r.1
  let val : Nat → Nat := fun v => if j.i.red = 9 then v * 2 ^ 16 else v
  let ds := es.map fun e => ({ addr := e.1, bytes := o.w / 8, op := j.i.red, contrib := j.i.contrib, core := j.core, eng := j.eng,
                               value := BitVec.ofNat 64 (val e.2) } : Delta)
  let t := updCmd (countPort s j.core (64 * (es.map fun e => e.1 / 64).eraseDups.length) true) j.k fun c =>
    { c with deltas := ds.foldl (fun l d => foldDelta j.denorm d l) c.deltas, thru := thruAfter c thru (es.map fun e => lineOf e.1).eraseDups }
  match stageOver t j.k with
  | none => t
  | some _ =>
    let old := (deltaLines (((cmdOf s j.k).map (·.deltas)).getD [])).filter fun x => x.2 = (j.i.contrib, j.core, j.eng)
    let l := (firstOver s j.k (old.map fun x => 64 * x.1) [] (es.map fun e => lineOf e.1)).getD 0
    failStage s j.k (sliceOf s l) (globalOf s l) (some j.eng) (some j.core)

/-- Write the elements of DC, or contribute them where RED is not 0 (R250). -/
def putElems (j : Job) (o : Opnd) (f : Nat → List Nat → Nat) (s : State) (thru : Bool := false) : State :=
  if j.i.red = 0 then putPieces j o.loc (j.pieces o f) s thru
  else contribute j o (o.rows.flatMap fun r => (List.range (o.e 0)).map fun i0 => (o.rowAt r + i0 * o.w / 8, f i0 r)) s thru

end Sys2Proof.Machine
end

