-- ==== Sys2Proof/Machine/Engine.lean ====
section
/-!
DEFINITION. How an engine takes the instruction at the head of its queue (R172, R173): the checks of R176 in their order, the one counter
reading of R61, held reads (R93), and completion (R174). Each operation gives its own `Form`.
-/
namespace Sys2Proof.Machine

/-! ### Failed checks (R176, R177) -/

/-- A failed check: code, reason, register, role and value. -/
structure Bad where
  code   : Nat
  reason : Nat
  reg    : Nat
  role   : Nat
  value  : Nat
  deriving DecidableEq, Repr

/-- Check 1: a bit of the instruction. -/
def badBit (b : Nat) : Bad := ⟨eDescInvalid, 0x01, 0, 7, b⟩
/-- A DESC_INVALID that concerns an operand. -/
def badOp (reason : Nat) (o : Opnd) (v : Nat) : Bad := ⟨eDescInvalid, reason, o.reg, o.role, v⟩
/-- A SHAPE_OVER that concerns an operand. -/
def badShape (reason : Nat) (o : Opnd) (v : Nat) : Bad := ⟨eShapeOver, reason, o.reg, o.role, v⟩
/-- A check that passes unless `c`. -/
def failIf (c : Bool) (b : Bad) : Option Bad := if c then some b else none
/-- Extents that must agree, at check 7. -/
def mustAgree (o : Opnd) (dim : Nat) (ok : Bool) : Option Bad := failIf (!ok) (badOp 0x07 o dim)
/-- An effective extent that must not exceed a limit, at check 6. -/
def mustFit (o : Opnd) (dim lim : Nat) : Option Bad := failIf (decide (lim < o.e dim)) (badShape 0x22 o (dim * 2 ^ 48 + o.e dim))

/-- The first failure. -/
def firstBad (l : List (Option Bad)) : Option Bad := l.findSome? id

/-- The lowest bit of a reserved field of the instruction that is not zero. -/
def spanBit (i : EInstr) (lo len : Nat) : Option Nat := (spanBad i.raw lo len).head?

/-- A defined field in a reserved state. -/
def encBit (lo : Nat) (bad : Bool) : Option Nat := if bad then some lo else none

/-- Where an operand may lie (R159): scratchpad, accumulator store, pinned window, HBM plane. -/
structure LocRule where
  scr : Bool
  acc : Bool
  pin : Bool
  hbm : Bool
  deriving DecidableEq, Repr

def locOperand : LocRule := ⟨true, false, true, false⟩
def locVector : LocRule := ⟨true, true, true, false⟩
def locAcc : LocRule := ⟨false, true, false, false⟩
def locReduce : LocRule := ⟨false, false, true, true⟩
def locCopy : LocRule := ⟨true, false, true, true⟩

/-- What distinguishes one operation from another. `writes` are ranges of the plane. -/
structure Form where
  /-- ALTSEL values admitted. -/
  alts   : List Nat
  /-- RED may be non-zero. -/
  redOk  : Bool := false
  /-- Offending bits of EXT, in order. -/
  ext    : EInstr → List (Option Nat)
  /-- Offending bits of unused fields. -/
  unused : EInstr → List (Option Nat) := fun i => [spanBit i 35 5]
  /-- Named descriptors in the order of the checks: part, role, register. -/
  parts  : EInstr → List (Part × Nat × Nat)
  /-- Descriptors that describe tensors. -/
  plain  : Part → Bool := fun _ => true
  /-- Further demands of check 2. -/
  more2  : EInstr → List Opnd → List (Option Bad) := fun _ _ => []
  /-- Check 3: the code required (0xFF for one of several) and the code found. -/
  need   : EInstr → List Opnd → Opnd → Option (Nat × Nat)
  /-- R166: the run-time extent that replaces an extent, and how it does. -/
  tmap   : EInstr → Part → Nat → Option (Nat × (Nat → Nat))
  /-- Check 6. -/
  range  : Job → List (Option Bad) := fun _ => []
  /-- Check 7. -/
  agree  : Job → List (Option Bad) := fun _ => []
  /-- Operands without a footprint check. -/
  free8  : Part → Bool := fun _ => false
  /-- Further demands of check 8. -/
  more8  : Job → List (Option Bad) := fun _ => []
  /-- The effective shape holds a zero (R168). -/
  zero   : List Opnd → Bool
  /-- Check 9. -/
  locs   : EInstr → Part → LocRule
  more9  : Job → List (Option Bad) := fun _ => []
  /-- Parts written. -/
  outs   : List Part := [.dc]
  /-- The bytes written, by location (R173). -/
  puts   : Job → List (Nat × Nat × Nat) := fun j => outs.flatMap fun p => (getOp j.ops p).located (getOp j.ops p).spans
  /-- The bytes read or written, by location (R173). -/
  deps   : Job → List (Nat × Nat × Nat) := fun j => puts j ++ (j.ops.filter fun o => plain o.part).flatMap fun o => o.located o.spans
  more10 : Job → List (Option Bad) := fun _ => []
  /-- A failure that is no check of R176. -/
  late   : Job → Option ErrRec := fun _ => none
  /-- A path that another instruction has chosen (R302). -/
  path   : Job → Option Bool := fun _ => none
  /-- What the instruction still waits for. -/
  ready  : Job → Bool := fun _ => true
  /-- The ranges read, by location. -/
  ins    : Job → List (Nat × Nat × Nat)
  /-- Plane ranges written. -/
  writes : Job → List (Nat × Nat)
  /-- The signal goes to a counter of the destination chip (R180, R191). -/
  remote : EInstr → List Opnd → Bool := fun _ _ => false
  /-- Check 9 of an operand, where it is not the common one; such an operand has no check 11. -/
  loc9   : Job → Opnd → Option (Option Bad) := fun _ _ => none
  /-- What a zero shape still does. -/
  empty  : Job → State → State := fun _ s => s
  /-- Lines bypass the cache (R43). -/
  bypass : EInstr → Bool := fun _ => false
  /-- The accumulator entries from which it goes on (R202). -/
  accs   : Job → List (Nat × Nat × Nat) := fun j => if j.eng ≤ 1 ∧ bit j.i.raw 30 then (puts j).filter fun p => p.1 = 3 else []
  /-- Lines of the system area that it reads (R37, R305). -/
  area   : Job → List Nat := fun _ => []
  /-- It reads the retained P (R233). -/
  readsP : Bool := false
  run    : Job → State → State

/-- The plane ranges that an instruction reads. -/
def Form.reads (f : Form) (j : Job) : List (Nat × Nat) := (f.ins j).filterMap fun p => if p.1 = 1 then some p.2 else none

/-- Where LOC 2 may stand: only the copy engine's remote end, checked there. -/
def locAllowed (r : LocRule) (loc : Nat) : Bool :=
  match loc with
  | 0 => r.scr
  | 1 => r.pin || r.hbm
  | 3 => r.acc
  | _ => false

/-- The first address of a range [a, a+n) outside what the rule allows in the plane (R31, R32). -/
def planeOutside (s : State) (r : LocRule) (a n : Nat) : Option Nat :=
  let top := pinnedBase + 8 * pinnedShare (pinnedGib s)
  if pinnedBase ≤ a ∧ a < top ∧ r.pin then (if top < a + n then some top else none)
  else if a < hbmSize ∧ r.hbm then (if hbmSize < a + n then some hbmSize else none)
  else some a

/-- Check 9 for one operand: its location, its footprint, the command's channel sets (R64). -/
def locBad (s : State) (k : Nat) (r : LocRule) (o : Opnd) (spans : List (Nat × Nat)) : Option Bad :=
  let n := max 1 (footprint o.d)
  let bad := fun a : Nat => some (badOp 0x04 o a)
  if !locAllowed r o.loc then bad o.base
  else if o.loc = 1 then
    match planeOutside s r o.base n with
    | some a => bad a
    | none =>
      match spans.findSome? fun p => (csetBad s k p.1 p.2).map fun l => max l p.1 with
      | some a => bad a
      | none => none
  else
    let lim := if o.loc = 0 then scratchSize else accSize
    if lim < o.base + n then bad (max o.base lim) else none

/-- Check 11 for one written operand. -/
def outBadAt (s : State) (k : Nat) (red : Bool) (o : Opnd) (spans : List (Nat × Nat)) : Option Bad :=
  let ok := fun l => if red then inReduce s k l 64 else inWrite s k l 64
  (spans.findSome? fun p => ((linesOf p.1 p.2).find? fun l => !ok l).map fun l => max l p.1).map (badOp 0x06 o)

/-- Check 2 for one tensor descriptor. -/
def descBad (o : Opnd) : Option Bad :=
  let low := fun (lo len : Nat) => ((List.range len).find? fun b => bit o.d (lo + b)).map (lo + ·)
  match ([low 44 2, low 64 1, low 252 4] : List (Option Nat)).findSome? id with
  | some b => some (badOp 0x02 o b)
  | none =>
    if !fmtKnown o.fmt then some (badOp 0x02 o 120)
    else if o.w < 16 then (low (48 + o.w) (16 - o.w)).map (badOp 0x02 o)
    else none

/-- Check 4: the counters of the wait and of the signal (R180). A signal to another chip admits chip counters only, and so does the
wait of its instruction. -/
def ctrBad (core : Nat) (i : EInstr) (remote : Bool) : Option Bad :=
  let bad := fun v => (nameCtr core v).isNone || (remote && decide (v < 0xC000))
  let rec' := fun v => some ⟨eDescInvalid, 0x08, 0, 7, (nameCtr core v).getD v⟩
  if i.wreg ≠ 0 ∧ bad i.wctr then rec' i.wctr
  else if i.sinc ≠ 0 ∧ bad i.sctr then rec' i.sctr
  else none

/-- Run-time extent t of g[GS]; none keeps the descriptor's (R165). -/
def runExtent (i : EInstr) (t : Nat) : Option Nat :=
  if i.gs = 0 then none
  else
    let v := fld (i.gReg i.gs) (16 * t) 16
    if v = 0xFFFF then none else some v

/-- The part whose run-time extents a part takes (R166): an alternate those of the operand it replaces. -/
def mapPart (i : EInstr) (p : Part) : Part := if p = .dalt then (if i.altsel = 1 then .da else .db) else p

/-- The effective extent k of an operand. -/
def effExtent (f : Form) (i : EInstr) (p : Part) (d : BitVec 256) (k : Nat) : Nat :=
  let own := (descExt d).getD k 1
  match f.tmap i (mapPart i p) k with
  | none => own
  | some (t, m) =>
    match runExtent i t with
    | none => own
    | some v => m v

/-- The named operands with their effective extents. -/
def operandsOf (f : Form) (i : EInstr) : List Opnd :=
  let named := f.parts i
  let alt := if i.altsel = 1 ∨ i.altsel = 2 then [(Part.dalt, 3, i.dalt)] else []
  let first := named.filter fun p => p.2.1 ≠ 7
  (first ++ alt ++ named.filter fun p => p.2.1 = 7).map fun p =>
    let d := i.dReg p.2.2
    { part := p.1, role := p.2.1, reg := p.2.2, d := d, ext := (List.range 5).map (effExtent f i p.1 d) }

/-- Check 1 (R176), in the order the rule lists. -/
def check1 (f : Form) (i : EInstr) : Option Bad :=
  let l : List (Option Nat) := [encBit 108 (!fmtKnown i.fmt), encBit 45 (!f.alts.contains i.altsel),
      if f.redOk then encBit 31 (decide (9 < i.red)) else spanBit i 31 4] ++
    f.ext i ++ f.unused i ++ [if i.altsel = 3 then spanBit i 47 5 else none]
  (l.findSome? id).map badBit

/-- Check 3 for one operand. -/
def check3 (f : Form) (i : EInstr) (ops : List Opnd) (o : Opnd) : Option Bad :=
  let need := match f.need i ops o with
    | some c => some c
    | none => if o.loc = 3 ∧ o.fmt ≠ 0x09 then some (0x09, o.fmt) else none
  need.map fun c => badOp 0x03 o (c.1 * 256 + c.2)

/-- Check 5 for one operand: dimensions ascending. -/
def check5 (f : Form) (i : EInstr) (o : Opnd) : Option Bad :=
  ((List.range 5).find? fun k => match f.tmap i (mapPart i o.part) k with
    | none => false
    | some (t, m) => match runExtent i t with
      | none => false
      | some v => decide ((descExt o.d).getD k 1 < m v)).map fun k => badShape 0x20 o (k * 2 ^ 48 + o.e k)

/-- Byte ranges of the plane that an operand's part of the instruction touches. -/
def Opnd.planeSpans (o : Opnd) (spans : List (Nat × Nat)) : List (Nat × Nat) := if o.loc = 1 then spans else []

/-- The checks 1 to 8. -/
def checksFirst (f : Form) (j : Job) : Option Bad :=
  let tens := j.ops.filter fun o => f.plain o.part
  firstBad ([check1 f j.i] ++ tens.map descBad ++ f.more2 j.i j.ops ++ tens.map (check3 f j.i j.ops) ++ [ctrBad j.core j.i (f.remote j.i j.ops)] ++
    tens.map (check5 f j.i) ++ f.range j ++ f.agree j ++
    (tens.map fun o => if f.free8 o.part then none
      else failIf (decide (1024 * descCap o.d < footprint o.d)) (badShape 0x21 o (footprint o.d))) ++ f.more8 j)

/-- The checks 9 to 11, skipped for a zero shape. -/
def checksTouch (f : Form) (j : Job) : Option Bad :=
  let tens := j.ops.filter fun o => f.plain o.part
  firstBad ((tens.map fun o => (f.loc9 j o).getD (locBad j.s j.k (f.locs j.i (mapPart j.i o.part)) o o.spans)) ++ f.more9 j ++
    (tens.map fun o => if f.outs.contains o.part then (overlapDim o.d).map (badOp 0x05 o) else none) ++ f.more10 j ++
    (tens.map fun o => if f.outs.contains o.part ∧ o.loc = 1 ∧ (f.loc9 j o).isNone then
      outBadAt j.s j.k (decide (j.i.red ≠ 0 ∧ o.part = .dc)) o o.spans else none))

def allChecks (f : Form) (j : Job) : Option Bad :=
  match checksFirst f j with
  | some b => some b
  | none => if f.zero j.ops then none else checksTouch f j

/-! ### Failing, sleeping and starting -/

/-- DETAIL of an engine's record: reason, ENG + 1, the ISSUE word's address (R177). -/
def engDetail (reason eng : Nat) (i : EInstr) : Nat := reason * 2 ^ 56 + (eng + 1) * 2 ^ 48 + i.addr.toNat

/-- The record of a failed check. -/
def badRec (core eng slot : Nat) (i : EInstr) (b : Bad) : ErrRec :=
  { code := b.code, unitCls := 1, unit := core, slot := some slot,
    object := b.reg * 2 ^ 59 + b.role * 2 ^ 56 + b.value % 2 ^ 56, detail := engDetail b.reason eng i }

/-- An engine fails at the instruction at its head and stops; the entry frees (R172). A decided command writes no record and is not killed (R149). -/
def failEng (s : State) (k c e : Nat) (r : ErrRec) : State :=
  if ((cmdOf s k).map (·.decided)).getD true then s else stopHead c e (failWith s k r)

/-- An error that a read has found has stopped the engine: the entry of its instruction frees (R172). -/
def stopFailed (c e : Nat) (s : State) : State := if (coreOf s c).broken.contains e then stopHead c e s else s

/-- Change the instruction at the head of an engine's queue. -/
def updHead (s : State) (c e : Nat) (g : EInstr → EInstr) : State :=
  updCore s c fun k => match queueOfEng k e with
    | i :: rest => { k with queues := Map.put k.queues e (g i :: rest) }
    | [] => k

/-- The instruction leaves the head of its queue and is in flight (R172). `writes` are the bytes that it writes. -/
def takeHead (s : State) (c e : Nat) (i : EInstr) (accepted zero : Bool) (writes : List (Nat × Nat × Nat)) : State :=
  updCore s c fun k => { k with
    started := k.started + 1,
    queues := Map.put k.queues e ((queueOfEng k e).drop 1),
    held := Map.erase k.held e,
    flying := Map.put k.flying e (flyingOf k e ++
      [{ id := k.started, addr := i.addr, op := BitVec.ofNat 8 i.op, sctr := i.sctr, sinc := i.sinc, accepted := accepted, reads := 0,
         grants := 0, zero := zero, writes := writes, old := [], stored := [], late := [] }]) }

/-- The ranges that an instruction reads, by location: its inputs, and the entries that it accumulates into. -/
def Form.sees (f : Form) (j : Job) : List (Nat × Nat × Nat) :=
  f.ins j ++ f.accs j

/-- The cells that an instruction reads (R400). -/
def Form.cells (f : Form) (j : Job) : Cell → Bool
  | .scratch c off => c = j.core && (f.sees j).any fun p => p.1 = 0 && overlap (off - off % 8) 8 p.2.1 p.2.2
  | .acc c off => c = j.core && (f.sees j).any fun p => p.1 = 3 && overlap (off - off % 4) 4 p.2.1 p.2.2
  | .pbuf c => c = j.core && f.readsP
  | x => lineCells j.s j.k j.core (((f.reads j).flatMap fun p => linesOf p.1 p.2) ++ f.area j) x ||
    writeCells j.s j.core ((f.writes j).flatMap fun p => linesOf p.1 p.2) x

/-- The instruction starts to run, unless a read of it is held (R93) or meets a fenced channel (R415), an error (R404, R405) or poison (R407). -/
def startJob (f : Form) (j : Job) (s : State) : State :=
  let i := if f.remote j.i j.ops then { j.i with raw := setFld j.i.raw 67 4 0 } else j.i
  if f.zero j.ops then f.empty j (takeHead s j.core j.eng i true true [])
  else
    match f.late j with
    | some r => failEng s j.k j.core j.eng r
    | none =>
      let wait := updHead s j.core j.eng fun i => { i with asleep := false, woken := true, alt := j.i.alt }
      if !f.ready j then wait
      else
        let reads := f.reads j
        match (reads ++ f.writes j).findSome? fun p => fencedIn s p.1 p.2 with
        | some l => stopHead j.core j.eng (failFenced s j.k 4 (channelOf s l))
        | none =>
          match reads.find? fun p => heldFor s j.k p.1 p.2 with
          | some p => updCore wait j.core fun k => { k with held := Map.put k.held j.eng (((linesOf p.1 p.2).find? fun l =>
              heldFor s j.k l 64).getD p.1) }
          | none =>
            let r := readCells s j.reader (f.cells j)
            if !r.2 then stopFailed j.core j.eng r.1
            else
            let s := r.1
            match reads.findSome? fun p => seenPoison s j.k p.1 p.2 with
            | some l => stopHead j.core j.eng (failPoison s j.k l (some j.eng) j.i.addr.toNat)
            | none =>
              let lines := (reads.flatMap fun p => linesOf p.1 p.2).eraseDups
              let j := { j with i := { j.i with flight := (coreOf s j.core).started } }
              let need := (reads.flatMap fun p => neededLines s j.k p.1 p.2).eraseDups
              let s := takeHead s j.core j.eng i (f.writes j).isEmpty false (f.puts j)
              let s := sheafAccess s (some j.k) (.engine j.core j.eng j.i.addr.toNat) need (f.bypass j.i)
              f.run j (countPort s j.core (64 * lines.length) false)

/-- A deadline miss (R62, R63): counted, and recorded the first time in all the runs of the command. -/
def deadlineMiss (s : State) (k core : Nat) (i : EInstr) (ctr : Nat) : State :=
  let s := countQueue s k 7 1
  if ((cmdOf s k).map (·.missed)).getD true then s
  else
    let s := updCmd s k fun c => { c with missed := true }
    logRec s { code := eDeadlineMiss, unitCls := 1, unit := core, slot := some k, object := i.target.toNat,
               detail := ctr * 2 ^ 48 + i.addr.toNat }

/-- The one reading of R61 and what follows from it. -/
def readAndGo (f : Form) (j : Job) (s : State) : State :=
  let forced := f.path j
  let go := fun (s : State) (alt : Bool) => startJob f { j with s := s, i := { j.i with alt := alt } } s
  let sleep := fun (s : State) (alt : Bool) (ctr : Nat) =>
    watchAdd (updHead s j.core j.eng fun i => { i with asleep := true, alt := alt }) ctr j.i.target (.engine j.core j.eng)
  if j.i.wreg = 0 then go s (forced.getD false)
  else
    let ctr := (nameCtr j.core j.i.wctr).getD 0
    if readBehind s j.core ctr then updHead s j.core j.eng fun i => { i with checked := true }
    else
    let r := ctrRead s (some j.k) ((j.eng + 1) * 2 ^ 48 + j.i.addr.toNat) ctr
    if !r.2 then stopHead j.core j.eng r.1
    else
    let s := readPort r.1 j.core ctr
    if satisfied (ctrGet s ctr) j.i.target then go s (forced.getD false)
    else if j.i.altsel = 0 then (if forced = some true then go s true else sleep s (forced.getD false) ctr)
    else
      let s := deadlineMiss s j.k j.core j.i ctr
      let strict := ((cmdOf s j.k).map Cmd.strict).getD false
      match forced with
      | some true => go s true
      | some false => sleep s false ctr
      | none =>
        if strict then sleep s false ctr
        else go (updCmd s j.k fun c => { c with fallback := true, summary := c.summary || decide (j.i.altsel = 3) }) true

/-- Opcodes of each engine (R153, R219, R245, R298, R303, R309). -/
def knownOps (e : Nat) : List Nat :=
  match e with
  | 0 => [0x01, 0x02, 0x03, 0x10, 0x11, 0x18, 0x20, 0x30, 0x31, 0x32]
  | 2 => [0x01, 0x02, 0x03, 0x04, 0x05, 0x06, 0x07, 0x08, 0x09, 0x10, 0x11, 0x12, 0x13, 0x14, 0x15, 0x16, 0x17, 0x18, 0x19,
      0x30, 0x32, 0x33]
  | _ => [0x01]

/-- The command of the core runs and no kill has reached it. -/
def runs (s : State) (slot : Nat) : Bool :=
  match cmdOf s slot with
  | none => false
  | some m => m.phase = .running && m.kill.isNone

/-- Two ranges of one location share a byte. -/
def meet (a b : Nat × Nat × Nat) : Bool := a.1 = b.1 && overlap a.2.1 a.2.2 b.2.1 b.2.2

/-- An earlier instruction of the engine, still in flight, writes bytes that this one reads or writes, or has still to read bytes that it writes
(R173 step 2, R223, R236). -/
def depends (f : Form) (j : Job) : Bool :=
  !f.zero j.ops && (flyingOf (coreOf j.s j.core) j.eng).any fun x =>
    (x.writes.any fun w => (f.deps j).any (meet w)) || x.late.any fun w => (f.puts j).any (meet w)

/-- An engine takes the instruction at the head of its queue: the checks, the dependencies, the one reading (R173). `op` is the instruction
that the step names; a reserved opcode fails check 1 whichever is named. The checks are made once (R176). An engine that has failed takes nothing
more. -/
def engineRow (s : State) (c e op : Nat) (f : Form) : State :=
  let k := coreOf s c
  match k.slot, (queueOfEng k e).head? with
  | some slot, some i =>
    let r := readCells s { slot := slot, core := c, eng := some e, at' := i.addr.toNat, ahead := false } fun x => match x with
      | .entry core eng _ => core = c && eng = e
      | _ => false
    if !runs s slot ∨ k.broken.contains e then s
    else if !r.2 then stopFailed c e r.1
    else if !(knownOps e).contains i.op then failEng s slot c e (badRec c e slot i (badBit 120))
    else if i.op ≠ op ∨ (i.asleep ∧ !i.woken) then s
    else
      let j : Job := { s := s, k := slot, core := c, eng := e, i := i, ops := operandsOf f i }
      if i.woken then startJob f j s
      else match (if i.checked then none else allChecks f j) with
        | some b => failEng s slot c e (badRec c e slot i b)
        | none => if depends f j then updHead s c e fun i => { i with checked := true } else readAndGo f j s
  | _, _ => s

/-! ### Completion (R174, R151) -/

/-- DRAIN ends once its engines hold no instruction (R142). -/
def drainEnds (k : Core) : Core :=
  match k.act with
  | .draining m pc => if maskIdle k m then { k with act := .running, pc := pc + 4 } else k
  | _ => k

/-- ENGINE_COMPLETE (R174): the oldest instruction in flight completes once its lines have arrived, its data from other chips and the
host is in, its reservations are granted and its writes are accepted; its signal leaves. -/
def execEngineComplete (c : CoreId) (eng : BitVec 3) (s : State) : Host.Outcome State Fault Refusal :=
  let k := coreOf s c.toNat
  match k.slot, flyingOf k eng.toNat with
  | some slot, fl :: rest =>
    if !runs s slot ∨ k.broken.contains eng.toNat ∨ !fl.accepted ∨ fl.reads ≠ 0 ∨ fl.grants ≠ 0 ∨
      (awaits s fun q => q.asker.ofEngine c.toNat eng.toNat fl.addr.toNat) then .next s
    else
      let s := updCore s c.toNat fun k => drainEnds { k with flying := Map.put k.flying eng.toNat rest }
      match nameCtr c.toNat fl.sctr with
      | none => .next s
      | some n => .next (signalOf s slot n fl.sinc (some c.toNat) (some eng.toNat))
  | _, _ => .next s

/-! ### SYNC (R153) -/

/-- SYNC names no operand and runs on no data: it is a zero shape. -/
def syncForm : Form :=
  { alts := [0], ext := fun i => [spanBit i 0 31], unused := fun i => [spanBit i 35 32], parts := fun _ => [],
    need := fun _ _ _ => none, tmap := fun _ _ _ => none, zero := fun _ => true, locs := fun _ _ => locOperand,
    ins := fun _ => [], writes := fun _ => [], run := fun _ s => s,
    more2 := fun i _ => [failIf (i.fmt != 0) ⟨eDescInvalid, 0x03, 0, 7, i.fmt⟩] }

/-- SYNC (R153): it waits and signals. -/
def execSync (c : CoreId) (s : State) : Host.Outcome State Fault Refusal := .next (engineRow s c.toNat 4 0x01 syncForm)

end Sys2Proof.Machine
end

