-- ==== Sys2Proof/Machine/Matrix.lean ====
section
/-!
DEFINITION. The matrix engine and the Awn path: MM (R218), MMF and MMP (R228 to R233), MV (R235), and the row function of R230.
-/
namespace Sys2Proof.Machine

/-! ### Shared by the products -/

/-- Formats admitted for activations and for weights (R156). -/
def actFmt (code : Nat) : Bool := code = 0x01 || code = 0x04 || code = 0x05 || code = 0x06 || code = 0x07
def weightFmt (code : Nat) : Bool := decide (code ≤ 0x08)

/-- An operand's format must be one of a set. -/
def oneOf (ok : Bool) (o : Opnd) : Option (Nat × Nat) := if ok then none else some (0xFF, o.fmt)
/-- The instruction's FMT must equal the operand's (R153). -/
def fmtEquals (i : EInstr) (o : Opnd) : Option (Nat × Nat) := if i.fmt = o.fmt then none else some (o.fmt, i.fmt)

/-- Check 3 of the matrix engine and the Awn path. -/
def matNeed (i : EInstr) (_ : List Opnd) (o : Opnd) : Option (Nat × Nat) :=
  match mapPart i o.part with
  | .da => oneOf (actFmt o.code) o
  | .db => (oneOf (weightFmt o.code) o).or (if o.part = .db then fmtEquals i o else none)
  | .x => oneOf (weightFmt o.code) o
  | _ => none

def same (t : Nat) : Option (Nat × (Nat → Nat)) := some (t, id)

/-- R166 for the matrix engine and the Awn path. -/
def matMap (_ : EInstr) (p : Part) (k : Nat) : Option (Nat × (Nat → Nat)) :=
  match p, k with
  | .da, 0 => same 1
  | .da, 1 => same 0
  | .db, 0 => same 1
  | .db, 1 => same 2
  | .dc, 0 => same 2
  | .dc, 1 => same 0
  | _, _ => none

/-- Check 6 for one operand: limits of dimensions 0 and 1, and 1 above. -/
def tileFit (o : Opnd) (l0 l1 : Nat) : List (Option Bad) :=
  [mustFit o 0 l0, mustFit o 1 l1] ++ (span 2 3).map fun k => failIf (o.e k != 1) (badShape 0x22 o (k * 2 ^ 48 + o.e k))

/-- An alternate has the descriptor extents of the operand it replaces (R167). -/
def altAgree (j : Job) : List (Option Bad) :=
  if j.i.altsel = 1 ∨ j.i.altsel = 2 then
    let o := getOp j.ops .dalt
    let p := getOp j.ops (mapPart j.i .dalt)
    (List.range 5).map fun k => mustAgree o k (o.own k = p.own k)
  else []

/-- R167 for a product of `m` rows and `n` columns at most. -/
def matRange (m n : Nat) (j : Job) : List (Option Bad) :=
  j.ops.flatMap fun o => match mapPart j.i o.part with
    | .da => tileFit o 64 m
    | .db => tileFit o 64 n
    | .dc => tileFit o n m
    | _ => []

def matAgree (j : Job) : List (Option Bad) :=
  let a := getOp j.ops .da
  let b := getOp j.ops .db
  let c := getOp j.ops .dc
  [mustAgree b 0 (b.e 0 = a.e 0), mustAgree c 0 (c.e 0 = b.e 1), mustAgree c 1 (c.e 1 = a.e 1)] ++ altAgree j

/-- M, K or N is zero (R168). -/
def matZero (ops : List Opnd) : Bool := (getOp ops .da).e 1 = 0 || (getOp ops .da).e 0 = 0 || (getOp ops .db).e 1 = 0

def matLocs (_ : EInstr) (p : Part) : LocRule := if p = .dc then locAcc else locOperand

/-- The ranges of the operands read, by location. -/
def readsOf (ps : List Part) (j : Job) : List (Nat × Nat × Nat) := ps.flatMap fun p => (j.op p).located (j.op p).spans

def noWrites (_ : Job) : List (Nat × Nat) := []

def threeParts (i : EInstr) : List (Part × Nat × Nat) := [(.da, 0, i.da), (.db, 1, i.db), (.dc, 2, i.dc)]

/-- The 64 lanes of row (or column) n of an operand whose dimension 0 is K. -/
def Job.lanes (j : Job) (o : Opnd) (n : Nat) : List FVal := (List.range 64).map fun k => j.value o k [n, 0, 0, 0]

/-- The exact products of a chain (R201). -/
def products (as ws : List FVal) : List FVal := (as.zip ws).map fun p => p.1.mul p.2

/-- Where the chain of DC element (n, m) starts (R202). -/
def Job.start (j : Job) (c : Opnd) (acc : Bool) (n m : Nat) : Nat := if acc then j.elem32 c n [m, 0, 0, 0] else chainFresh

/-! ### MM and MV -/

def mmForm (m n : Nat) : Form :=
  { alts := [0, 1, 2], ext := fun i => [spanBit i 0 30], parts := threeParts, need := matNeed, tmap := matMap,
    range := matRange m n, agree := matAgree, zero := matZero, locs := matLocs, ins := readsOf [.da, .db], writes := noWrites,
    run := fun j s =>
      let c := getOp j.ops .dc
      let ws := (List.range (c.e 0)).map fun n => (n, j.lanes (j.op .db) n)
      putPieces j c.loc (c.rows.map fun r =>
        let m := r.getD 0 0
        let as := j.lanes (j.op .da) m
        j.rowBytes c r (ws.map fun w => chain j.denorm (j.start c (bit j.i.raw 30) w.1 m) (products as w.2))) s }

/-- MM (R218 to R220). -/
def execMm (c : CoreId) (s : State) : Host.Outcome State Fault Refusal := .next (engineRow s c.toNat 0 0x01 (mmForm 1024 64))

/-- MV (R235): the chain of MM, on the Awn path. -/
def execMv (c : CoreId) (s : State) : Host.Outcome State Fault Refusal := .next (engineRow s c.toNat 1 0x01 (mmForm 63 128))

/-! ### The row function (R230, R300) -/

def negInf32 : Nat := 0xFF800000

/-- The outcome of a row: running maximum, running sum, factor, P. -/
structure SoftRow where
  mx : Nat
  l  : Nat
  c  : Nat
  p  : List Nat
  deriving DecidableEq, Repr

/-- Convert to the format of P: nearest even, saturating (R230). -/
def toFmt (denorm code v : Nat) : Nat := writeElem denorm code .rne true (val32 denorm v)

/-- The online softmax of one row: state (m0, l0), scores with the number of tokens each stands for, the format of P. -/
def softRow (denorm code m0 l0 : Nat) (ss : List (Nat × Nat)) : SoftRow :=
  let top := ss.foldl (fun a x => a.max2 (val32 denorm x.1)) (val32 denorm m0)
  let mx := fp32Of denorm top
  let p32 := fun (x : Nat × Nat) =>
    let v := fun32 denorm fnExp (sub32 denorm x.1 mx)
    if x.2 = 1 then v else mul32 denorm (fp32Of denorm (FVal.ofInt false x.2 0)) v
  let c := if top = .inf true then one32 else fun32 denorm fnExp (sub32 denorm m0 mx)
  let p := if top = .inf true then ss.map fun _ => 0 else ss.map fun x => toFmt denorm code (p32 x)
  let wide := fun q => fp32Of denorm (readElem denorm code q)
  { mx := mx, l := p.foldl (fun l q => add32 denorm l (wide q)) (mul32 denorm l0 c), c := c, p := p }

/-! ### MMF (R228 to R232) -/

def mmfFn (i : EInstr) : Nat := i.ext 26 3
def mmfCode (i : EInstr) : Nat := match i.ext 22 3 with | 0 => 0x07 | 1 => 0x05 | _ => 0x06
/-- K2 for N1 columns. -/
def mmfK2 (i : EInstr) (n1 : Nat) : Nat := if mmfFn i = 1 then n1 else n1 / 2
def scoreBase (i : EInstr) : Nat := 1024 * i.ext 8 8
def stateBase (i : EInstr) : Nat := 1024 * i.ext 0 8

def acc32 (j : Job) (a : Nat) : Nat := leNat ((span a 4).map (j.byte 3))

/-- Regions that the accumulator store does not hold (R232). -/
def regionPast (a n : Nat) : Option Bad := failIf (decide (accSize < a + n)) ⟨eDescInvalid, 0x04, 0, 7, max a accSize⟩

/-- Ranges of the score region and of the row state. -/
def scoreRows (base m n : Nat) : List (Nat × Nat) := (List.range m).map fun r => (base + 256 * r, 4 * n)

def anyOverlap (xs ys : List (Nat × Nat)) : Bool := xs.any fun x => ys.any fun y => overlap x.1 x.2 y.1 y.2

/-- The three regions must not overlap (R232). What counts is the entries that the instruction touches, so that one region may lie in the gaps of another;
the record has role 7 and value 0 (DESIGN CHOICE, log 53). -/
def regionsOverlap (score state dc : List (Nat × Nat)) : Option Bad :=
  failIf (anyOverlap score state || anyOverlap score dc || anyOverlap state dc) ⟨eDescInvalid, 0x05, 0, 7, 0⟩

/-- Put FP32 words into the accumulator store. -/
def putAcc (j : Job) (ps : List (Nat × List Nat)) (s : State) : State := putPieces j 3 (ps.map fun p => (p.1, p.2.flatMap (natLE 4))) s

/-- The rows of scores of stage 1, from −0 or the score region. -/
def stageOne (j : Job) (score : Nat) (cont : Bool) (m : Nat) (acts : Nat → List FVal) (ws : List (List FVal)) : List (List Nat) :=
  (List.range m).map fun r =>
    let as := acts r
    ws.zipIdx.map fun w =>
      chain j.denorm (if cont then val32 j.denorm (acc32 j (score + 256 * r + 4 * w.2)) |> fp32Of j.denorm else chainFresh)
        (products as w.1)

/-- Activations of stage 3: a row of P, and +0 in the lanes behind it (log 15). -/
def pLanes (denorm code : Nat) (p : List Nat) : List FVal :=
  (p.map (readElem denorm code) ++ List.replicate (64 - p.length) (FVal.zero false)).take 64

/-- Stage 3: DC rows from rows of P, continuing rescaled entries where `acc`. -/
def stageThree (j : Job) (code : Nat) (acc : Bool) (rows : List (Nat × List Nat)) (ws : List (List FVal)) (s : State) : State :=
  let c := getOp j.ops .dc
  putPieces j c.loc (rows.zipIdx.map fun x =>
    let as := pLanes j.denorm code x.1.2
    j.rowBytes c [x.2, 0, 0, 0] (ws.zipIdx.map fun w =>
      let start := if acc then mul32 j.denorm (j.elem32 c w.2 [x.2, 0, 0, 0]) x.1.1 else chainFresh
      chain j.denorm start (products as w.1))) s

/-- Keep P and the factors of the last fused pair (R233). -/
def keepP (core code k pages : Nat) (summary causal : Bool) (gi limits : Word) (rows : List (Nat × List Nat)) (s : State) : State :=
  let p : PBuf :=
    { rows := rows.map fun r => r.2.map (BitVec.ofNat 16), factors := rows.map fun r => BitVec.ofNat 32 r.1,
      pfmt := BitVec.ofNat 8 code, k := k, pages := pages, summary := summary,
      causal := causal, gi := gi, limits := limits }
  updCore s core fun x => { x with pbuf := some p }

/-- The gate of a row of scores (R231): no rescaling. -/
def gateRow (i : EInstr) (denorm code : Nat) (ss : List Nat) : List Nat :=
  let h := ss.length / 2
  let g := if mmfFn i = 2 then siluGate denorm else geluGate denorm
  ((ss.take h).zip (ss.drop h)).map fun x => toFmt denorm code (mul32 denorm (g x.1) x.2)

/-- Stage 2 of MMF: the factor and P of each row, and the row states that FN 1 leaves. FN 2 and 3 define no factor: 1.0 is kept, by which ACC = 1
multiplies DC (R233; DESIGN CHOICE, log 53). -/
def mmfRows (j : Job) (scores : List (List Nat)) : List (Nat × List Nat) × List (Nat × List Nat) :=
  let code := mmfCode j.i
  if mmfFn j.i = 1 then
    let rows := scores.zipIdx.map fun x =>
      let at' := stateBase j.i + 8 * x.2
      let first := bit j.i.raw 25
      let ss := x.1.zipIdx.map fun y => (if y.2 ≤ j.i.ext 16 6 then y.1 else negInf32, 1)
      (at', softRow j.denorm code (if first then negInf32 else acc32 j at') (if first then 0 else acc32 j (at' + 4)) ss)
    (rows.map fun r => (r.2.c, r.2.p), rows.map fun r => (r.1, [r.2.mx, r.2.l]))
  else (scores.map fun ss => (one32, gateRow j.i j.denorm code ss), [])

/-- MMF (R228 to R233). No rule places d[DB + 1] in R176's order: it stands between DB and DC, under role 1, and its own extents are tested, at check 5
under 0x20, after every operand's own check 5 (DESIGN CHOICE, log 53). -/
def mmfForm : Form :=
  { alts := [0, 1, 2],
    ext := fun i => [encBit 57 (i.db == 31), encBit 26 (mmfFn i == 0 || decide (3 < mmfFn i)), encBit 22 (decide (2 < i.ext 22 3)),
      if mmfFn i = 1 then none else (spanBit i 0 8).or ((spanBit i 16 6).or (spanBit i 25 1))],
    parts := fun i => [(.da, 0, i.da), (.db, 1, i.db), (.x, 1, i.db + 1), (.dc, 2, i.dc)],
    need := matNeed,
    tmap := fun i p k => match p, k with
      | .x, 0 => some (2, mmfK2 i)
      | .x, 1 => same 2
      | _, _ => matMap i p k,
    range := fun j =>
      let x := getOp j.ops .x
      let n := (getOp j.ops .db).e 1
      [failIf (decide (x.own 0 < mmfK2 j.i n)) (badShape 0x20 x (mmfK2 j.i n)),
       failIf (decide (x.own 1 < n)) (badShape 0x20 x (2 ^ 48 + n))] ++ matRange 256 64 j ++ tileFit x 64 64,
    agree := fun j =>
      let b := getOp j.ops .db
      let x := getOp j.ops .x
      matAgree j ++ [mustAgree b 1 (mmfFn j.i = 1 || b.e 1 % 2 = 0), mustAgree b 1 (mmfFn j.i != 1 || decide (j.i.ext 16 6 < b.e 1)),
        mustAgree x 0 (x.e 0 = mmfK2 j.i (b.e 1)), mustAgree x 1 (x.e 1 = b.e 1)],
    zero := matZero, locs := matLocs,
    more9 := fun j =>
      let m := (getOp j.ops .da).e 1
      [regionPast (scoreBase j.i) (256 * (m - 1) + 4 * (getOp j.ops .db).e 1),
       if mmfFn j.i = 1 then regionPast (stateBase j.i) (8 * m) else none],
    more10 := fun j =>
      let m := (getOp j.ops .da).e 1
      [regionsOverlap (scoreRows (scoreBase j.i) m ((getOp j.ops .db).e 1))
        (if mmfFn j.i = 1 then [(stateBase j.i, 8 * m)] else []) (getOp j.ops .dc).spans],
    ins := readsOf [.da, .db, .x], writes := noWrites,
    accs := fun j =>
      let m := (getOp j.ops .da).e 1
      let c := getOp j.ops .dc
      (if bit j.i.raw 29 then (scoreRows (scoreBase j.i) m ((getOp j.ops .db).e 1)).map (fun p => (3, p.1, p.2)) else []) ++
        (if mmfFn j.i = 1 && !bit j.i.raw 25 then [(3, stateBase j.i, 8 * m)] else []) ++ (if bit j.i.raw 30 then c.located c.spans else []),
    puts := fun j =>
      let m := (getOp j.ops .da).e 1
      let c := getOp j.ops .dc
      (scoreRows (scoreBase j.i) m ((getOp j.ops .db).e 1)).map (fun p => (3, p.1, p.2)) ++
        (if mmfFn j.i = 1 then [(3, stateBase j.i, 8 * m)] else []) ++ c.located c.spans,
    run := fun j s =>
      let m := (getOp j.ops .da).e 1
      let n := (getOp j.ops .db).e 1
      let ws := (List.range n).map (j.lanes (j.op .db))
      let scores := stageOne j (scoreBase j.i) (bit j.i.raw 29) m (j.lanes (j.op .da)) ws
      let rows := mmfRows j scores
      let s := putAcc j (scores.zipIdx.map fun x => (scoreBase j.i + 256 * x.2, x.1)) s
      let s := putAcc j rows.2 s
      let s := keepP j.core (mmfCode j.i) (mmfK2 j.i n) 0 false false 0 0 rows.1 s
      stageThree j (mmfCode j.i) (bit j.i.raw 30) rows.1 ((List.range n).map (j.lanes (getOp j.ops .x))) s }

/-- MMF (R228). -/
def execMmf (c : CoreId) (s : State) : Host.Outcome State Fault Refusal := .next (engineRow s c.toNat 0 0x02 mmfForm)

/-! ### MMP (R233) -/

/-- The retained P of the core. -/
def Job.pbuf (j : Job) : Option PBuf := (coreOf j.s j.core).pbuf

def retained (b : PBuf) : List (Nat × List Nat) := (b.factors.zip b.rows).map fun x => (x.1.toNat, x.2.map (·.toNat))

def mmpForm : Form :=
  { alts := [0, 2], ext := fun i => [spanBit i 0 30],
    unused := fun i => [spanBit i 62 5, spanBit i 40 5, spanBit i 35 5],
    parts := fun i => [(.db, 1, i.db), (.dc, 2, i.dc)], need := matNeed, tmap := fun _ _ _ => none,
    range := matRange 256 64,
    agree := fun j =>
      let b := getOp j.ops .db
      let c := getOp j.ops .dc
      match j.pbuf with
      | none => [mustAgree b 0 false]
      | some p => [mustAgree b 0 (b.e 0 = p.k), mustAgree c 0 (c.e 0 = b.e 1), mustAgree c 1 (c.e 1 = p.rows.length)] ++ altAgree j,
    zero := fun ops => (getOp ops .db).e 1 = 0 || (getOp ops .db).e 0 = 0 || (getOp ops .dc).e 1 = 0, locs := matLocs,
    ins := readsOf [.db], writes := noWrites, readsP := true,
    run := fun j s => match j.pbuf with
      | none => s
      | some p => stageThree j p.pfmt.toNat (bit j.i.raw 30) (retained p)
          ((List.range ((getOp j.ops .dc).e 0)).map (j.lanes (j.op .db))) s }

/-- MMP (R233). -/
def execMmp (c : CoreId) (s : State) : Host.Outcome State Fault Refusal := .next (engineRow s c.toNat 0 0x03 mmpForm)

/-! ### RESIDUE_MISMATCH (R238, R239) -/

/-- A checker finds a mismatch in an instruction in flight on the array (checkers 1 and 2) or the Awn path (3 and 4).
Its results are dropped with the accumulator store when the command is killed. A command whose kill has begun writes no record, nor does an engine that
an error has stopped. -/
def execResidueMismatch (c : CoreId) (x : Checked) (m : BitVec 16) (k n : BitVec 8) (s : State) : Host.Outcome State Fault Refusal :=
  let core := coreOf s c.toNat
  let eng := if x.chk.toNat = 1 ∨ x.chk.toNat = 2 then 0 else 1
  match core.slot, (flyingOf core eng)[x.idx.toNat]? with
  | some slot, some fl =>
    if x.chk = 0 ∨ 4 < x.chk.toNat ∨ fl.zero ∨ core.broken.contains eng ∨ !runs s slot ∨ ((cmdOf s slot).map (·.decided)).getD true ∨
        [0x18, 0x20].contains fl.op.toNat then .next s
    else
      let idx := nextIndex s
      let s := logRec s
        { code := eResidue, unitCls := 1, unit := c.toNat, slot := some slot,
          object := (ofFields 64 [(56, x.chk.toNat), (16, m.toNat), (8, k.toNat), (0, n.toNat)]).toNat,
          detail := 0x50 * 2 ^ 56 + (eng + 1) * 2 ^ 48 + fl.addr.toNat }
      .next (startTest (breakUnit c.toNat (some eng) (errorKill s slot 1 c.toNat)) 1 c.toNat idx true [] false)
  | _, _ => .next s

end Sys2Proof.Machine
end

