-- ==== Sys2Proof/Machine/Vector.lean ====
section
/-!
DEFINITION. The vector engine (R240 to R260): element-wise arithmetic, conversion, functions, reductions, softmax rows, random numbers,
complex values and gates. VSCAN is in Recur.lean, the KV operations in Attention.lean.
-/
namespace Sys2Proof.Machine

/-! ### Fields (R243, R245) -/

def EInstr.rm (i : EInstr) : Nat := i.ext 28 3
def EInstr.sat (i : EInstr) : Bool := bit i.raw 27
def EInstr.seed (i : EInstr) : Nat := i.ext 22 5

/-- EXT of a vector instruction: RM, SEED and the undefined bits of OPX; `undef` lists their spans. -/
def vecExt (undef : List (Nat × Nat)) (i : EInstr) : List (Option Nat) :=
  let seeded := i.rm = 5 || i.op = 0x17
  [encBit 28 (decide (5 < i.rm)), if seeded then encBit 22 (i.seed == 0) else spanBit i 22 5] ++ undef.map fun p => spanBit i p.1 p.2

/-- GI is used only by reductions (R153). -/
def vecUnused (i : EInstr) : List (Option Nat) := [if i.red = 0 then spanBit i 35 5 else none]

/-- R166 for the vector and copy engines. -/
def vecMap (_ : EInstr) (p : Part) (k : Nat) : Option (Nat × (Nat → Nat)) :=
  if k < 4 ∧ (p = .da ∨ p = .db ∨ p = .dc) then same k else none

/-- An effective extent of DA or DC is zero (R168). -/
def vecZero (ops : List Opnd) : Bool := ops.any fun o => (o.part = .da || o.part = .dc) && o.ext.contains 0

def vecLocs (i : EInstr) (p : Part) : LocRule := if p = .dc ∧ i.red ≠ 0 then locReduce else locVector

/-- The format that a reduction demands (R154). -/
def redNeed (i : EInstr) (o : Opnd) : Option (Nat × Nat) :=
  if i.red = 0 then none
  else if i.red ≤ 7 then oneOf (wideInt o.fmt) o
  else
    let want := if i.red = 8 then 0x09 else 0x07
    if o.fmt = want then none else some (want, o.fmt)

/-- The format must be the one given. -/
def mustBe (f : Nat) (o : Opnd) : Option (Nat × Nat) := if o.fmt = f then none else some (f, o.fmt)

/-- What every vector destination meets: FMT, RED, and MX only from VCVT (R153, R154, R248). -/
def dstNeed (i : EInstr) (o : Opnd) : Option (Nat × Nat) :=
  (fmtEquals i o).or ((redNeed i o).or (if i.op = 0x01 then none else oneOf (!o.mx) o))

/-- The instruction is of the integer class (R247). -/
def intClass (i : EInstr) : Bool :=
  wideInt i.fmt && ([0x02, 0x03, 0x04, 0x06, 0x07].contains i.op || (i.op = 0x12 && decide (i.ext 0 3 < 3)))

/-- Check 3 of the element-wise operations (R247). An MX INT8 input of the integer class, which R248 would scale and R247 sign-extends, is refused
(DESIGN CHOICE, log 53). -/
def vecNeed (i : EInstr) (_ : List Opnd) (o : Opnd) : Option (Nat × Nat) :=
  match mapPart i o.part with
  | .dc => (dstNeed i o).or (if i.op = 0x05 then oneOf (isFloat o.code) o else none)
  | _ =>
    if i.op = 0x01 then none
    else if intClass i then oneOf (isInt o.code && !o.mx) o
    else oneOf (!wideInt o.code) o

/-- The ranges of inputs, by location, as far as DC's iteration space reaches (R240). -/
def vecReads (ps : List Part) (j : Job) : List (Nat × Nat × Nat) :=
  ps.flatMap fun p => (j.op p).located ((j.op p).spansIn (getOp j.ops .dc).ext)

/-- Plane ranges of the operands written. -/
def writesOf (ps : List Part) (j : Job) : List (Nat × Nat) := ps.flatMap fun p => (getOp j.ops p).planeSpans (getOp j.ops p).spans

/-! ### Results -/

/-- The rounding of the result element e (R206, R208). -/
def Job.rmode (j : Job) (e : Nat) : RMode :=
  (roundMode (roundOf j.s j.k) j.i.rm (if j.i.rm = 5 then stochG (j.i.gReg j.i.seed) e else 0)).getD .rne

/-- Exact zero sums are −0 (R249). -/
def Job.down (j : Job) : Bool := j.rmode 0 = .rdn

/-- A result as the bits of DC's format. -/
def Job.out (j : Job) (c : Opnd) (i0 : Nat) (r : List Nat) (v : Near) : Nat :=
  writeElemS j.denorm c.code (j.rmode (c.index i0 r)) j.i.sat v.1 v.2

/-- A stored element as a signed integer. -/
def Job.int (j : Job) (o : Opnd) (i0 : Nat) (r : List Nat) : Int := toSigned o.w (j.pattern o i0 r)

/-- An operation on DA and DB, element by element. -/
def binForm (fn : Job → FVal → FVal → Near) (ifn : Int → Int → Int) : Form :=
  { alts := [0, 1, 2], redOk := true, ext := vecExt [(0, 22)], unused := vecUnused, parts := threeParts, need := vecNeed,
    tmap := vecMap, agree := altAgree, zero := vecZero, locs := vecLocs, ins := vecReads [.da, .db], writes := writesOf [.dc],
    run := fun j s =>
      let c := getOp j.ops .dc
      putElems j c (fun i0 r =>
        if intClass j.i then ofSigned c.w (ifn (j.int (j.op .da) i0 r) (j.int (j.op .db) i0 r))
        else j.out c i0 r (fn j (j.value (j.op .da) i0 r) (j.value (j.op .db) i0 r))) s }

/-- An operation on DA, element by element; `undef` lists the undefined spans of OPX. -/
def unForm (undef : List (Nat × Nat)) (more : EInstr → List (Option Nat)) (fn : Job → FVal → Near) : Form :=
  { alts := [0, 1], redOk := true, ext := fun i => vecExt undef i ++ more i, unused := vecUnused,
    parts := fun i => [(.da, 0, i.da), (.dc, 2, i.dc)], need := vecNeed, tmap := vecMap, agree := altAgree, zero := vecZero,
    locs := vecLocs, ins := vecReads [.da], writes := writesOf [.dc],
    run := fun j s =>
      let c := getOp j.ops .dc
      putElems j c (fun i0 r => j.out c i0 r (fn j (j.value (j.op .da) i0 r))) s }

/-- VADD (R247, R249). -/
def execVadd (c : CoreId) (s : State) : Host.Outcome State Fault Refusal :=
  .next (engineRow s c.toNat 2 0x02 (binForm (fun j a b => exactly (a.addD j.down b)) (· + ·)))
/-- VSUB (R247, R249). -/
def execVsub (c : CoreId) (s : State) : Host.Outcome State Fault Refusal :=
  .next (engineRow s c.toNat 2 0x03 (binForm (fun j a b => exactly (a.addD j.down b.neg)) (· - ·)))
/-- VMUL (R247). -/
def execVmul (c : CoreId) (s : State) : Host.Outcome State Fault Refusal :=
  .next (engineRow s c.toNat 2 0x04 (binForm (fun _ a b => exactly (a.mul b)) (· * ·)))
/-- VMIN (R249). -/
def execVmin (c : CoreId) (s : State) : Host.Outcome State Fault Refusal :=
  .next (engineRow s c.toNat 2 0x06 (binForm (fun _ a b => exactly (a.min2 b)) min))
/-- VMAX (R249). -/
def execVmax (c : CoreId) (s : State) : Host.Outcome State Fault Refusal :=
  .next (engineRow s c.toNat 2 0x07 (binForm (fun _ a b => exactly (a.max2 b)) max))
/-- VDIV (R247). -/
def execVdiv (c : CoreId) (s : State) : Host.Outcome State Fault Refusal :=
  .next (engineRow s c.toNat 2 0x08 (binForm (fun _ a b => fnDiv a b) fun a _ => a))

/-- VFMA also reads DC (R245, R247). -/
def vfmaForm : Form :=
  { binForm (fun _ a _ => exactly a) (fun a _ => a) with
    ins := fun j => vecReads [.da, .db] j ++ readsOf [.dc] j
    run := fun j s =>
      let c := getOp j.ops .dc
      putElems j c (fun i0 r => j.out c i0 r (exactly
        (((j.value (j.op .da) i0 r).mul (j.value (j.op .db) i0 r)).addD j.down (j.value c i0 r)))) s }

/-- VFMA (R247): one rounding. -/
def execVfma (c : CoreId) (s : State) : Host.Outcome State Fault Refusal := .next (engineRow s c.toNat 2 0x05 vfmaForm)

/-- The FP32 factors of VAFF. -/
def vaffForm : Form :=
  unForm [(0, 17)] (fun _ => []) fun j a =>
    let g := j.i.gReg (j.i.ext 17 5)
    exactly (((val32 j.denorm (fld g 0 32)).mul a).addD j.down (val32 j.denorm (fld g 32 32)))

/-- VAFF (R249): α × DA + β, rounded once. -/
def execVaff (c : CoreId) (s : State) : Host.Outcome State Fault Refusal := .next (engineRow s c.toNat 2 0x09 vaffForm)

/-- F of VFN is defined (R251). -/
def vfnForm : Form :=
  unForm [(5, 17)] (fun i => [encBit 0 (decide (11 < i.ext 0 5))]) fun j a => vecFn j.denorm (j.i.ext 0 5) a

/-- VFN (R251). -/
def execVfn (c : CoreId) (s : State) : Host.Outcome State Fault Refusal := .next (engineRow s c.toNat 2 0x10 vfnForm)

/-! ### VCVT (R247, R248) -/

/-- emax of R248. -/
def mxEmax (code : Nat) : Int :=
  match code with
  | 0x01 => 2
  | 0x02 => 2
  | 0x03 => 4
  | 0x05 => 8
  | 0x06 => 15
  | _ => 6

/-- Floor of log2 of a finite magnitude; none for zeros, infinities and NaN. -/
def FVal.floorLog (v : FVal) : Option Int :=
  match v with
  | .fin _ m e => some ((log2 m : Int) + e)
  | _ => none

def FVal.isNan (v : FVal) : Bool := v = .nan

/-- The scale byte of a block of values (R248). -/
def mxScale (code : Nat) (vs : List FVal) : Nat :=
  if vs.any FVal.isNan then 0xFF
  else match vs.filterMap FVal.floorLog with
    | [] => 0
    | l :: t => (max (-127) (min 127 (t.foldl max l - mxEmax code)) + 127).toNat

/-- The scale byte of the block that holds element i0 of a row of DC. Elements that DA pads inside DC's extent count as the values that they are (R248;
DESIGN CHOICE, log 53). -/
def Job.mxBlock (j : Job) (a c : Opnd) (i0 : Nat) (r : List Nat) : Nat :=
  let b := 32 * (i0 / 32)
  mxScale c.code ((List.range (Nat.min 32 (c.e 0 - b))).map fun n => j.value a (b + n) r)

/-- An element of an MX result. -/
def Job.mxElem (j : Job) (a c : Opnd) (i0 : Nat) (r : List Nat) : Nat :=
  let sc := j.mxBlock a c i0 r
  let v := if sc = 0xFF then .nan else (j.value a i0 r).scale (127 - (sc : Int))
  writeElem j.denorm c.code (j.rmode (c.index i0 r)) true v

def vcvtForm : Form :=
  { unForm [(0, 22)] (fun _ => []) (fun _ a => exactly a) with
    run := fun j s =>
      let a := j.op .da
      let c := getOp j.ops .dc
      if c.mx then
        let scales := c.rows.map fun r => (c.scaleAt r, (List.range (ceilDiv (c.e 0) 32)).map fun b =>
          BitVec.ofNat 8 (j.mxBlock a c (32 * b) r))
        putPieces j c.loc (j.pieces c (j.mxElem a c) ++ scales) s
      else putElems j c (fun i0 r => j.out c i0 r (exactly (j.value a i0 r))) s }

/-- VCVT (R247, R248). -/
def execVcvt (c : CoreId) (s : State) : Host.Outcome State Fault Refusal := .next (engineRow s c.toNat 2 0x01 vcvtForm)

/-! ### VROW (R249) -/

def vrowIdx (i : EInstr) : Nat := i.ext 0 13

/-- Every byte of one element of a row, its scale byte among them (R162, R248). -/
def Opnd.elemSpans (o : Opnd) (i0 : Nat) (r : List Nat) : List (Nat × Nat) :=
  (o.rowAt r + i0 * o.w / 8, ceilDiv (i0 * o.w % 8 + o.w) 8) :: if o.mx then [(o.scaleAt r + i0 / 32, 1)] else []

/-- Element IDX in each row of DB that DC reaches (R240). -/
def vrowReads (j : Job) : List (Nat × Nat × Nat) :=
  let b := j.op .db
  let rows := b.rows.filter (getOp j.ops .dc).hasRow
  vecReads [.da] j ++ b.located (rows.flatMap (b.elemSpans (vrowIdx j.i)))

def vrowForm : Form :=
  { alts := [0, 1, 2], redOk := true, ext := fun i => vecExt [(13, 6)] i ++ [encBit 19 (decide (3 < i.ext 19 3))],
    unused := vecUnused, parts := threeParts, need := vecNeed,
    tmap := fun i p k => if p = .db ∧ k = 0 then none else vecMap i p k,
    agree := fun j =>
      let a := getOp j.ops .da
      let b := getOp j.ops .db
      mustAgree b 0 (decide (vrowIdx j.i < b.e 0)) :: (span 1 4).map (fun k => mustAgree b k (b.e k = a.e k)) ++ altAgree j,
    zero := vecZero, locs := vecLocs, ins := vrowReads, writes := writesOf [.dc],
    run := fun j s =>
      let c := getOp j.ops .dc
      putElems j c (fun i0 r =>
        let a := j.value (j.op .da) i0 r
        let b := j.value (j.op .db) (vrowIdx j.i) r
        j.out c i0 r (match j.i.ext 19 3 with
          | 0 => exactly (a.mul b)
          | 1 => fnDiv a b
          | 2 => exactly (a.addD j.down b)
          | _ => exactly (a.addD j.down b.neg))) s }

/-- VROW (R249). -/
def execVrow (c : CoreId) (s : State) : Host.Outcome State Fault Refusal := .next (engineRow s c.toNat 2 0x11 vrowForm)

/-! ### VRED (R252) -/

/-- One level of the tree. -/
def pairUp {α : Type} (op : α → α → α) : List α → List α
  | [] => []
  | [a] => [a]
  | a :: b :: t => op a b :: pairUp op t

/-- The tree; a row has fewer than 2^13 elements. -/
def treeReduce {α : Type} (op : α → α → α) : Nat → List α → List α
  | 0, l => l
  | n + 1, l => treeReduce op n (pairUp op l)

def vredRop (i : EInstr) : Nat := i.ext 0 3

/-- A leaf and a node of the float class. -/
def vredLeaf (denorm rop : Nat) (v : FVal) : FVal :=
  if rop = 3 then val32 denorm (fp32Of denorm (v.mul v)) else if rop = 4 then v.abs else v
def vredNode (denorm rop : Nat) (a b : FVal) : FVal :=
  if rop = 1 ∨ rop = 4 then a.max2 b else if rop = 2 then a.min2 b else val32 denorm (fp32Of denorm (a.add b))

def vredInt (rop : Nat) (a b : Int) : Int := if rop = 1 then max a b else if rop = 2 then min a b else a + b

def vredForm : Form :=
  { alts := [0, 1], redOk := true, ext := fun i => vecExt [(3, 19)] i ++ [encBit 0 (decide (4 < vredRop i))], unused := vecUnused,
    parts := fun i => [(.da, 0, i.da), (.dc, 2, i.dc)], need := vecNeed,
    tmap := fun i p k => if p = .dc ∧ k = 0 then none else vecMap i p k,
    agree := fun j =>
      let a := getOp j.ops .da
      let c := getOp j.ops .dc
      mustAgree c 0 (c.e 0 = 1) :: (span 1 4).map (fun k => mustAgree c k (c.e k = a.e k)) ++ altAgree j,
    zero := vecZero, locs := vecLocs, ins := readsOf [.da], writes := writesOf [.dc],
    run := fun j s =>
      let a := j.op .da
      let c := getOp j.ops .dc
      let rop := vredRop j.i
      putElems j c (fun i0 r =>
        if intClass j.i then
          ofSigned c.w ((treeReduce (vredInt rop) 13 ((List.range (a.e 0)).map fun n => j.int a n r)).headD 0)
        else
          let vs := (List.range (a.e 0)).map fun n => vredLeaf j.denorm rop (j.value a n r)
          j.out c i0 r (exactly ((treeReduce (vredNode j.denorm rop) 13 vs).headD (.zero false)))) s }

/-- VRED (R252). -/
def execVred (c : CoreId) (s : State) : Host.Outcome State Fault Refusal := .next (engineRow s c.toNat 2 0x12 vredForm)

/-! ### VSMX (R253) -/

/-- The row of DA and its state give the row of P and the new state. -/
def vsmxRow (j : Job) (r : List Nat) : SoftRow :=
  let a := j.op .da
  let x := getOp j.ops .x
  let first := bit j.i.raw 16
  softRow j.denorm (getOp j.ops .dc).code (if first then negInf32 else j.elem32 x 0 r) (if first then 0 else j.elem32 x 1 r)
    ((List.range (a.e 0)).map fun n => (j.elem32 a n r, 1))

def vsmxForm : Form :=
  { alts := [0, 1], redOk := true, ext := vecExt [(0, 16)], unused := vecUnused,
    parts := fun i => [(.da, 0, i.da), (.dc, 2, i.dc), (.x, 7, i.ext 17 5)],
    need := fun i _ o => match mapPart i o.part with
      | .dc => (dstNeed i o).or (oneOf ([0x05, 0x06, 0x07, 0x09].contains o.code) o)
      | .x => mustBe 0x09 o
      | _ => oneOf (o.fmt = 0x07 || o.fmt = 0x09) o,
    tmap := fun i p k => if p = .x then (if 1 ≤ k ∧ k < 4 then same k else none) else vecMap i p k,
    agree := fun j =>
      let a := getOp j.ops .da
      let c := getOp j.ops .dc
      let x := getOp j.ops .x
      (List.range 5).map (fun k => mustAgree c k (c.e k = a.e k)) ++ altAgree j ++
        mustAgree x 0 (x.e 0 = 3) :: (span 1 4).map fun k => mustAgree x k (x.e k = a.e k),
    zero := vecZero, locs := vecLocs, outs := [.dc, .x],
    ins := fun j => readsOf [.da] j ++ (if bit j.i.raw 16 then [] else readsOf [.x] j), writes := writesOf [.dc, .x],
    run := fun j s =>
      let c := getOp j.ops .dc
      let x := getOp j.ops .x
      let rows := c.rows.map fun r => (r, vsmxRow j r)
      let find := fun r => ((rows.find? fun p => p.1 = r).map (·.2)).getD { mx := 0, l := 0, c := 0, p := [] }
      let s := putPieces j x.loc (rows.map fun p => j.rowBytes x p.1 [p.2.mx, p.2.l, p.2.c]) s
      putElems j c (fun i0 r => (find r).p.getD i0 0) s }

/-- VSMX (R253). -/
def execVsmx (c : CoreId) (s : State) : Host.Outcome State Fault Refusal := .next (engineRow s c.toNat 2 0x13 vsmxForm)

/-! ### Complex values (R256, R257) -/

/-- A complex number as two FP32 patterns. -/
abbrev Cplx := Nat × Nat

def cmul (dn : Nat) (a b : Cplx) : Cplx :=
  (fma32 dn a.1 b.1 (neg32 (mul32 dn a.2 b.2)), fma32 dn a.1 b.2 (mul32 dn a.2 b.1))
def cadd (dn : Nat) (a b : Cplx) : Cplx := (add32 dn a.1 b.1, add32 dn a.2 b.2)
def csub (dn : Nat) (a b : Cplx) : Cplx := (sub32 dn a.1 b.1, sub32 dn a.2 b.2)

/-- Complex element n of a row. -/
def Job.cplx (j : Job) (o : Opnd) (n : Nat) (r : List Nat) : Cplx := (j.elem32 o (2 * n) r, j.elem32 o (2 * n + 1) r)

def half (i0 : Nat) (z : Cplx) : Nat := if i0 % 2 = 0 then z.1 else z.2

/-- Every operand is FP32. -/
def fp32Need (i : EInstr) (_ : List Opnd) (o : Opnd) : Option (Nat × Nat) :=
  (mustBe 0x09 o).or (if o.part = .dc then dstNeed i o else none)

def vcmulForm : Form :=
  { binForm (fun _ a _ => exactly a) (fun a _ => a) with
    need := fp32Need
    agree := fun j => ([Part.da, .db, .dc].map fun p => mustAgree (getOp j.ops p) 0 ((getOp j.ops p).e 0 % 2 = 0)) ++ altAgree j
    run := fun j s =>
      let c := getOp j.ops .dc
      putElems j c (fun i0 r => half i0 (cmul j.denorm (j.cplx (j.op .da) (i0 / 2) r) (j.cplx (j.op .db) (i0 / 2) r))) s }

/-- VCMUL (R256). -/
def execVcmul (c : CoreId) (s : State) : Host.Outcome State Fault Refusal := .next (engineRow s c.toNat 2 0x14 vcmulForm)

def flyLogH (i : EInstr) : Nat := i.ext 17 4
def flyLogN (i : EInstr) : Nat := i.ext 13 4

/-- The twiddle of complex index p. -/
def flyTwiddle (i : EInstr) (p : Nat) : Nat := p % 2 ^ flyLogH i * 2 ^ flyLogN i / (2 * 2 ^ flyLogH i)

/-- The twiddles that a stage uses, in the first row of DB; no other element of DB is read (R240). -/
def vbflyReads (j : Job) : List (Nat × Nat × Nat) :=
  let b := j.op .db
  let r := [0, 0, 0, 0]
  readsOf [.da] j ++ if b.hasRow r then b.located ((List.range (2 ^ flyLogH j.i)).flatMap fun p =>
    b.elemSpans (2 * flyTwiddle j.i p) r ++ b.elemSpans (2 * flyTwiddle j.i p + 1) r) else []

/-- Complex result i of a butterfly stage on one row. -/
def butterfly (j : Job) (r : List Nat) (i : Nat) : Cplx :=
  let h := 2 ^ flyLogH j.i
  let dn := j.denorm
  let low := decide (i % (2 * h) < h)
  let p := if low then i else i - h
  let w := j.cplx (j.op .db) (flyTwiddle j.i p) [0, 0, 0, 0]
  let x := j.cplx (j.op .da) p r
  let y := j.cplx (j.op .da) (p + h) r
  if bit j.i.raw 21 then (if low then cadd dn x y else cmul dn w (csub dn x y))
  else if low then cadd dn x (cmul dn w y) else csub dn x (cmul dn w y)

def vbflyForm : Form :=
  { alts := [0, 1, 2], redOk := true, ext := vecExt [(0, 13)], unused := fun i => vecUnused i ++ [spanBit i 40 5],
    parts := threeParts, need := fp32Need, tmap := fun _ _ _ => none,
    agree := fun j =>
      let a := getOp j.ops .da
      let b := getOp j.ops .db
      let c := getOp j.ops .dc
      let n := 2 ^ flyLogN j.i
      [mustAgree a 0 (1 ≤ flyLogN j.i && decide (flyLogN j.i ≤ 12) && decide (flyLogH j.i < flyLogN j.i)),
       mustAgree a 0 (a.e 0 = 2 * n), mustAgree b 0 (decide (n ≤ b.e 0) && b.e 0 % 2 = 0), mustAgree b 1 (b.e 1 = 1),
       mustAgree c 0 (c.e 0 = 2 * n)] ++ (span 1 4).map (fun k => mustAgree c k (c.e k = a.e k)) ++ altAgree j,
    zero := vecZero, locs := vecLocs, ins := vbflyReads, writes := writesOf [.dc],
    run := fun j s =>
      let c := getOp j.ops .dc
      putElems j c (fun i0 r => half i0 (butterfly j r (i0 / 2))) s }

/-- VBFLY (R257). -/
def execVbfly (c : CoreId) (s : State) : Host.Outcome State Fault Refusal := .next (engineRow s c.toNat 2 0x15 vbflyForm)

/-! ### VTRANS (R258) -/

/-- Swap the first two indices. -/
def swapRow (i0 : Nat) (r : List Nat) : List Nat := i0 :: r.drop 1

def vtransForm : Form :=
  { alts := [0, 1], redOk := true, ext := vecExt [(0, 22)], unused := fun i => vecUnused i ++ [spanBit i 40 5],
    parts := fun i => [(.da, 0, i.da), (.dc, 2, i.dc)],
    need := fun i ops o => match mapPart i o.part with
      | .dc => (dstNeed i o).or (mustBe (getOp ops .da).fmt o)
      | _ => (oneOf (!o.mx) o).or (if o.part = .dalt then mustBe (getOp ops .dc).fmt o else none),
    tmap := fun _ _ _ => none,
    agree := fun j =>
      let a := getOp j.ops .da
      let c := getOp j.ops .dc
      [mustAgree c 0 (c.e 0 = a.e 1), mustAgree c 1 (c.e 1 = a.e 0)] ++
        (span 2 3).map (fun k => mustAgree c k (c.e k = a.e k)) ++ altAgree j,
    zero := vecZero, locs := vecLocs, ins := readsOf [.da], writes := writesOf [.dc],
    run := fun j s => putElems j (getOp j.ops .dc) (fun i0 r => j.pattern (j.op .da) (r.getD 0 0) (swapRow i0 r)) s }

/-- VTRANS (R258). -/
def execVtrans (c : CoreId) (s : State) : Host.Outcome State Fault Refusal := .next (engineRow s c.toNat 2 0x16 vtransForm)

/-! ### VRNG (R255) -/

def vrngForm : Form :=
  { alts := [0], ext := fun i => vecExt [] i ++ [encBit 20 (i.ext 20 2 == 0), encBit 0 (i.ext 0 15 == 0)],
    unused := fun i => [spanBit i 62 5, spanBit i 57 5, spanBit i 35 5], parts := fun i => [(.dc, 2, i.dc)],
    need := fun i _ o => (dstNeed i o).or (if i.ext 20 2 = 1 then mustBe 0x0A o else oneOf (isFloat o.code && !o.mx) o),
    tmap := vecMap, zero := vecZero, locs := vecLocs, ins := fun _ => [], writes := writesOf [.dc],
    run := fun j s =>
      let c := getOp j.ops .dc
      putElems j c (fun i0 r =>
        let e := c.index i0 r
        let x := rng (j.i.gReg j.i.seed) (BitVec.ofNat 64 e + j.i.gReg (j.i.ext 15 5)) (j.i.ext 0 15)
        match j.i.ext 20 2 with
        | 1 => fld x 32 32
        | 2 => j.out c i0 r (exactly (drawUniform x))
        | _ => j.out c i0 r (exactly (drawNormal j.denorm x))) s }

/-- VRNG (R255). -/
def execVrng (c : CoreId) (s : State) : Host.Outcome State Fault Refusal := .next (engineRow s c.toNat 2 0x17 vrngForm)

/-! ### VGATE (R260) -/

def vgateGf (i : EInstr) : Nat := i.ext 15 2

/-- a_t as FP32. -/
def gateA (j : Job) (i0 : Nat) (r : List Nat) : Nat :=
  if vgateGf j.i = 1 then fp32Of j.denorm (val32 j.denorm (fld (j.i.gReg (j.i.ext 10 5)) 0 32))
  else rne32 j.denorm (fnSigmoid (j.value (j.op .da) i0 r))

/-- b_t: rne(rne(1 − a_t) × x), x at its exact value. -/
def gateB (j : Job) (i0 : Nat) (r : List Nat) : Nat :=
  let x := j.value (if vgateGf j.i = 1 then j.op .da else j.op .db) i0 r
  fp32Of j.denorm ((val32 j.denorm (sub32 j.denorm one32 (gateA j i0 r))).mul x)

def vgateForm : Form :=
  { alts := [0, 1, 2], redOk := true,
    ext := fun i => vecExt [(0, 10)] i ++ [encBit 15 (vgateGf i == 0 || vgateGf i == 3),
      if vgateGf i = 1 then encBit 45 (i.altsel == 2) else none],
    unused := vecUnused,
    parts := fun i => (.da, 0, i.da) :: (if vgateGf i = 1 then [] else [(.db, 1, i.db)]) ++
      [(.dc, 2, i.dc), (.x, 7, i.ext 17 5)],
    need := fun i _ o => match mapPart i o.part with
      | .dc => (dstNeed i o).or (mustBe 0x09 o)
      | .x => mustBe 0x09 o
      | _ => oneOf (!wideInt o.code) o,
    tmap := fun i p k => vecMap i (if p = .x then .dc else p) k,
    agree := fun j =>
      let c := getOp j.ops .dc
      let x := getOp j.ops .x
      altAgree j ++ (List.range 5).map fun k => mustAgree x k (x.e k = c.e k),
    zero := vecZero, locs := vecLocs, outs := [.dc, .x],
    ins := fun j => vecReads (if vgateGf j.i = 1 then [.da] else [.da, .db]) j, writes := writesOf [.dc, .x],
    run := fun j s =>
      let x := getOp j.ops .x
      let s := putPieces j x.loc (j.pieces x (gateB j)) s
      putElems j (getOp j.ops .dc) (gateA j) s }

/-- VGATE (R260). -/
def execVgate (c : CoreId) (s : State) : Host.Outcome State Fault Refusal := .next (engineRow s c.toNat 2 0x18 vgateForm)

end Sys2Proof.Machine
end

