-- ==== Sys2Proof/Machine/Attention.lean ====
section
/-!
DEFINITION. Attention over KV pages (R298 to R302): KMM, KMMF and KMMP; the KV operations of the vector engine (R303): KDESC; and the work
distributor (R304 to R307): KPOST and KTAKE.
-/
namespace Sys2Proof.Machine

/-! ### Locators and records (R298, R308) -/

def locFuture (w : Word) : Nat := fld w 0 20
def locPage (w : Word) : Nat := fld w 20 27
def locLayer (w : Word) : Nat := fld w 47 8
def locHead (w : Word) : Nat := fld w 55 8
def locatorOf (future page layer head : Nat) : Nat :=
  future % 2 ^ 20 + page % 2 ^ 27 * 2 ^ 20 + layer % 2 ^ 8 * 2 ^ 47 + head % 2 ^ 8 * 2 ^ 55

/-- A PAGE_FAULT record; `obj` is a locator. -/
def pageRec (core slot reason obj who at' : Nat) : ErrRec :=
  { code := ePageFault, unitCls := 1, unit := core, slot := some slot, object := obj,
    detail := reason * 2 ^ 56 + who * 2 ^ 48 + at' }

def pageFault (core slot eng reason obj : Nat) (i : EInstr) : ErrRec := pageRec core slot reason obj (eng + 1) i.addr.toNat

/-! ### Key blocks (R298, R299) -/

/-- A key block: its locator and limits, whether rows are masked causally, whether its columns are summaries, and how many pages it
has. -/
structure KBlock where
  loc    : Word
  lim    : Word
  causal : Bool
  sum    : Bool
  pages  : Nat
  deriving DecidableEq, Repr

def KBlock.klim (b : KBlock) : Nat := fld b.lim 0 32
def KBlock.qpos (b : KBlock) : Nat := fld b.lim 32 32

/-- The pages that the engine walks: those that begin below KLIM. -/
def KBlock.needs (b : KBlock) : List Nat :=
  (span (locPage b.loc) b.pages).filter fun p => decide (16 * p < b.klim)

def kmmSumMode (i : EInstr) : Bool := if i.op = 0x30 then bit i.raw 28 else bit i.raw 26

/-- The block of an attention instruction; a KMMP takes that of the retained P. -/
def blockOf (i : EInstr) (p : Option PBuf) : KBlock :=
  if i.op = 0x32 then
    match p with
    | none => { loc := 0, lim := 0, causal := false, sum := false, pages := 0 }
    | some b => { loc := b.gi, lim := b.limits, causal := b.causal, sum := b.summary, pages := b.pages }
  else
    { loc := i.gReg i.gi, lim := i.gReg (i.ext 16 5), causal := i.op = 0x31 && bit i.raw 21,
      sum := i.alt || kmmSumMode i, pages := if !i.alt && kmmSumMode i then 64 else 4 }

/-- The descriptor that an instruction has of a page: one that a walk brought it, or the look-aside buffer's (R294). -/
def haveDesc (k : Core) (slot : Nat) (i : EInstr) (future layer page : Nat) : Option (BitVec 128) :=
  match Map.find? i.descs page with
  | some d => some d
  | none => (k.lab.find? fun t => t.slot = slot && t.future = future && t.layer = layer && t.page = page).map (·.desc)

/-- The pages of a KDESC. Page numbers have 27 bits (R298): those past the last are pages that no table lists (DEDUCED, log 24). -/
def kdescPages (i : EInstr) : List Nat := (span (locPage (i.gReg i.gi)) (i.ext 0 6 + 1)).filter (· < 2 ^ 27)

/-- The pages and the translations an instruction at a head needs: pages of an attention block, or of a KDESC. -/
def needsOf (i : EInstr) (p : Option PBuf) : Word × List Nat :=
  if i.eng = 2 then (i.gReg i.gi, kdescPages i)
  else ((blockOf i p).loc, (blockOf i p).needs)

def missingPages (k : Core) (slot : Nat) (i : EInstr) : List Nat :=
  let n := needsOf i k.pbuf
  n.2.filter fun p => (haveDesc k slot i (locFuture n.1) (locLayer n.1) p).isNone

def Job.block (j : Job) : KBlock := blockOf j.i (coreOf j.s j.core).pbuf

def Job.desc (j : Job) (b : KBlock) (page : Nat) : BitVec 128 :=
  (haveDesc (coreOf j.s j.core) j.k j.i (locFuture b.loc) (locLayer b.loc) page).getD descAbsent

/-- The class of a block's future. -/
def Job.cls (j : Job) (b : KBlock) : Word := (futClass j.s j.k (locFuture b.loc)).getD 0

/-- Used translations become the most recently used. -/
def labTouch (j : Job) (loc : Word) (pages : List Nat) (s : State) : State :=
  let k := coreOf j.s j.core
  let mk := fun p => (haveDesc k j.k j.i (locFuture loc) (locLayer loc) p).map fun d =>
    ({ slot := j.k, future := locFuture loc, layer := locLayer loc, page := p, desc := d } : Trans)
  let held := pages.filter fun p => k.lab.any fun t => t.slot = j.k && t.future = locFuture loc && t.layer = locLayer loc && t.page = p
  updCore s j.core fun k => (held.filterMap mk).foldl labAdd k

/-- A valid column: where its slot or summary lies, its index there, the tokens it stands for and its position. -/
structure KCol where
  loc  : Nat
  base : Nat
  idx  : Nat
  n    : Nat
  t    : Nat
  deriving DecidableEq, Repr

/-- Column c of a block, unless it is valid for no row (R299, R301). -/
def kcol (j : Job) (b : KBlock) (c : Nat) : Option KCol :=
  let page := locPage b.loc + (if b.sum then c else c / 16)
  let d := j.desc b page
  let t := if b.sum then 16 * page + 15 else 16 * page + c % 16
  if descFrame d = noFrame ∨ b.klim ≤ t then none
  else if b.sum then
    if b.pages ≤ c ∨ !descSealed d ∨ descSum d = noFrame then none
    else some { loc := 1, base := frameAddr j.s (descSum d), idx := 0, n := descValid d, t := t }
  else if descValid d ≤ c % 16 then none
  else if descTier d = 0 then some { loc := 1, base := descLocator d % 2 ^ 48, idx := c % 16, n := 1, t := t }
  else
    let l := getOp j.ops .db
    some { loc := l.loc, base := l.base + c / 16 * clsZ (j.cls b), idx := c % 16, n := 1, t := t }

def kcols (j : Job) (b : KBlock) : List (Option KCol) := (List.range 64).map (kcol j b)

/-- The column is valid for query row r. -/
def KBlock.sees (b : KBlock) (r : Nat) (c : Option KCol) : Bool :=
  match c with
  | none => false
  | some c => !b.causal || decide (c.t ≤ b.qpos + r)

/-- Byte address of key or value element e of the block's head in a column (R271, R272). -/
def kvAt (b : KBlock) (cls : Word) (value : Bool) (c : KCol) (e : Nat) : Nat :=
  let h := locHead b.loc
  let hd := clsHd cls
  let el := clsEl cls
  let half := if value then clsKvh cls * hd else 0
  if b.sum then c.base + (half + h * hd + e) * el
  else if value then c.base + (16 * half + (h * hd + e) * 16 + c.idx) * el
  else c.base + ((h * 16 + c.idx) * hd + e) * el

/-- The 64 elements of a half from e, as values; an invalid column's read as +0. -/
def kvLanes (j : Job) (b : KBlock) (value : Bool) (half : Nat) (c : Option KCol) : List FVal :=
  match c with
  | none => List.replicate 64 (FVal.zero false)
  | some c =>
    let cls := j.cls b
    (span (64 * half) 64).map fun e =>
      readElem j.denorm (clsFmt cls) (leNat ((span (kvAt b cls value c e) (clsEl cls)).map (j.byte c.loc)))

/-- The ranges that a block reads for `m` rows, by location. -/
def kvReads (j : Job) (b : KBlock) (m : Nat) (value : Bool) (half : Nat) : List (Nat × Nat × Nat) :=
  let cls := j.cls b
  (kcols j b).flatMap fun c =>
    match c with
    | none => []
    | some x =>
      if b.sees (m - 1) c then (span (64 * half) 64).map fun e => (x.loc, kvAt b cls value x e, clsEl cls) else []

def blank (b : KBlock) (r : Nat) (c : Option KCol) (v : List FVal) : List FVal :=
  if b.sees r c then v else List.replicate 64 (FVal.zero false)

/-! ### Checks of the three operations -/

/-- HD of the block's class is 64 (R298). -/
def shortHead (s : State) (c : Nat) (i : EInstr) : Bool :=
  match (coreOf s c).slot with
  | none => false
  | some k => match futClass s k (locFuture (blockOf i (coreOf s c).pbuf).loc) with
    | none => false
    | some w => clsHd w = 64

/-- The half of the head must be 0 where HD is 64. -/
def halfBit (s : State) (c : Nat) (lo : Nat) (i : EInstr) : Option Nat := encBit lo (bit i.raw lo && shortHead s c i)

/-- The locator's reserved bit, and its first page: a multiple of 4, and 0 in summary mode (R298; log 24). -/
def locatorBit (i : EInstr) : Option Nat :=
  let p := locPage (i.gReg i.gi)
  encBit 35 (bit (i.gReg i.gi) 63 || (if kmmSumMode i then p != 0 else p % 4 != 0))

/-- DB names the landing descriptor where it is not 0. -/
def landing (i : EInstr) : List (Part × Nat × Nat) := if i.db = 0 then [] else [(.db, 1, i.db)]

/-- Check 8 of the landing area (R301). -/
def landingCap (j : Job) : List (Option Bad) :=
  if j.i.db = 0 then []
  else
    let l := getOp j.ops .db
    let z := clsZ (j.cls j.block)
    [failIf (j.cls j.block != 0 && decide (1024 * descCap l.d < 4 * z)) (badShape 0x21 l (4 * z))]

/-- Check 9 of the landing area. -/
def landingLoc (j : Job) : List (Option Bad) :=
  if j.i.db = 0 then []
  else
    let l := getOp j.ops .db
    let n := 4 * clsZ (j.cls j.block)
    [if l.loc = 0 then failIf (decide (scratchSize < l.base + n)) (badOp 0x04 l (max l.base scratchSize))
     else if l.loc = 1 then (planeOutside j.s locOperand l.base n).map (badOp 0x04 l)
     else some (badOp 0x04 l l.base)]

/-- KV tables out of use (R279), and a page outside tier 0 without a landing area (R301). -/
def kmLate (j : Job) : Option ErrRec :=
  let b := j.block
  if !kvOn j.s then some (pageFault j.core j.k j.eng 0x64 (b.loc.toNat % 2 ^ 63) j.i)
  else if b.sum ∨ j.i.db ≠ 0 then none
  else (b.needs.find? fun p => descFrame (j.desc b p) != noFrame && descTier (j.desc b p) != 0).map fun p =>
    pageFault j.core j.k j.eng 0x67 (locatorOf (locFuture b.loc) p (locLayer b.loc) (locHead b.loc)) j.i

def kmReady (j : Job) : Bool := (missingPages (coreOf j.s j.core) j.k j.i).isEmpty

/-- Check 3: the activations (the keys' format is the class's, log 16). -/
def kmNeed (i : EInstr) (_ : List Opnd) (o : Opnd) : Option (Nat × Nat) :=
  match mapPart i o.part with
  | .da => oneOf (actFmt o.code) o
  | _ => none

def kmPlain (p : Part) : Bool := p ≠ .db

/-- Queries and results: one half of the head, 64 columns. -/
def kmAgree (j : Job) : List (Option Bad) :=
  let a := getOp j.ops .da
  let c := getOp j.ops .dc
  [mustAgree a 0 (a.e 0 = 64), mustAgree c 0 (c.e 0 = 64), mustAgree c 1 (c.e 1 = a.e 1)]

def kmRange (m : Nat) (j : Job) : List (Option Bad) :=
  tileFit (getOp j.ops .da) 64 m ++ tileFit (getOp j.ops .dc) 64 m

def queryLanes (j : Job) (r : Nat) : List FVal := j.lanes (j.op .da) r

/-- The form that the three share. -/
def kmForm : Form :=
  { alts := [0, 3], ext := fun _ => [], parts := fun i => (.da, 0, i.da) :: landing i ++ [(.dc, 2, i.dc)], plain := kmPlain,
    need := kmNeed, tmap := matMap, agree := kmAgree, more8 := landingCap, more9 := landingLoc,
    zero := fun ops => (getOp ops .dc).e 1 = 0, locs := matLocs, late := kmLate, ready := kmReady, ins := fun _ => [],
    writes := noWrites, run := fun _ s => s }

/-! ### KMM -/

def kmmForm (s : State) (c : Nat) : Form :=
  { kmForm with
    ext := fun i => [spanBit i 0 16, spanBit i 21 7, halfBit s c 29 i]
    unused := fun i => [locatorBit i]
    range := kmRange 1024
    ins := fun j => readsOf [.da] j ++ kvReads j j.block (getOp j.ops .da |>.e 1) false (j.i.ext 29 1)
    run := fun j s =>
      let d := getOp j.ops .dc
      let b := j.block
      let ks := (kcols j b).map fun x => kvLanes j b false (j.i.ext 29 1) x
      let s := updCore (labTouch j b.loc b.needs s) j.core fun k => { k with kmmSum := j.i.alt }
      putPieces j d.loc (d.rows.map fun r =>
        let m := r.getD 0 0
        let as := queryLanes j m
        j.rowBytes d r (ks.zipIdx.map fun w => chain j.denorm (j.start d (bit j.i.raw 30) w.2 m) (products as w.1))) s }

/-- KMM (R298, R299): scores of queries against a key block. -/
def execKmm (c : CoreId) (s : State) : Host.Outcome State Fault Refusal :=
  .next (engineRow s c.toNat 0 0x30 (kmmForm s c.toNat))

/-! ### KMMF -/

/-- The scores of stage 1 (R229, R299). -/
def kScores (j : Job) (b : KBlock) (m half : Nat) (cont : Bool) : List (List Nat) :=
  let cols := (kcols j b).map fun x => (x, kvLanes j b false half x)
  (List.range m).map fun r =>
    let as := queryLanes j r
    cols.zipIdx.map fun w =>
      let start := if cont then fp32Of j.denorm (val32 j.denorm (acc32 j (scoreBase j.i + 256 * r + 4 * w.2))) else chainFresh
      chain j.denorm start (products as (blank b r w.1.1 w.1.2))

/-- Stage 2: the row function on the masked scores with their counts (R299, R300). -/
def kRows (j : Job) (b : KBlock) (scores : List (List Nat)) : List (Nat × SoftRow) :=
  let cols := kcols j b
  scores.zipIdx.map fun x =>
    let at' := stateBase j.i + 8 * x.2
    let first := bit j.i.raw 25
    let ss := (x.1.zip cols).map fun y => (if b.sees x.2 y.2 then y.1 else negInf32, (y.2.map (·.n)).getD 1)
    (at', softRow j.denorm (mmfCode j.i) (if first then negInf32 else acc32 j at') (if first then 0 else acc32 j (at' + 4)) ss)

/-- Stage 3: rows of P times the values of the block. -/
def kStageThree (j : Job) (b : KBlock) (code half : Nat) (acc : Bool) (rows : List (Nat × List Nat)) (s : State) : State :=
  let d := getOp j.ops .dc
  let cols := (kcols j b).map fun x => (x, kvLanes j b true half x)
  putPieces j d.loc (rows.zipIdx.map fun x =>
    let as := pLanes j.denorm code x.1.2
    let vs := cols.map fun y => blank b x.2 y.1 y.2
    j.rowBytes d [x.2, 0, 0, 0] ((List.range 64).map fun e =>
      let start := if acc then mul32 j.denorm (j.elem32 d e [x.2, 0, 0, 0]) x.1.1 else chainFresh
      chain j.denorm start (products as (vs.map fun v => v.getD e (FVal.zero false))))) s

def kmmfForm (s : State) (c : Nat) : Form :=
  { kmForm with
    ext := fun i => [encBit 22 (decide (2 < i.ext 22 3)), halfBit s c 28 i, halfBit s c 27 i]
    unused := fun i => [locatorBit i]
    range := kmRange 256
    more9 := fun j =>
      let m := (getOp j.ops .da).e 1
      landingLoc j ++ [regionPast (scoreBase j.i) (256 * m), regionPast (stateBase j.i) (8 * m)]
    more10 := fun j =>
      let m := (getOp j.ops .da).e 1
      [regionsOverlap (scoreRows (scoreBase j.i) m 64) [(stateBase j.i, 8 * m)] (getOp j.ops .dc).spans]
    puts := fun j =>
      let m := (getOp j.ops .da).e 1
      let d := getOp j.ops .dc
      (scoreRows (scoreBase j.i) m 64).map (fun p => (3, p.1, p.2)) ++ (3, stateBase j.i, 8 * m) :: d.located d.spans
    accs := fun j =>
      let m := (getOp j.ops .da).e 1
      let d := getOp j.ops .dc
      (if bit j.i.raw 29 then (scoreRows (scoreBase j.i) m 64).map (fun p => (3, p.1, p.2)) else []) ++
        (if bit j.i.raw 25 then [] else [(3, stateBase j.i, 8 * m)]) ++ (if bit j.i.raw 30 then d.located d.spans else [])
    path := fun j => if bit j.i.raw 29 then some (coreOf j.s j.core).kmmSum else none
    ins := fun j =>
      let m := (getOp j.ops .da).e 1
      readsOf [.da] j ++ kvReads j j.block m false (j.i.ext 28 1) ++ kvReads j j.block m true (j.i.ext 27 1)
    run := fun j s =>
      let b := j.block
      let scores := kScores j b ((getOp j.ops .da).e 1) (j.i.ext 28 1) (bit j.i.raw 29)
      let rows := kRows j b scores
      let ps := rows.map fun r => (r.2.c, r.2.p)
      let s := labTouch j b.loc b.needs s
      let s := putAcc j (scores.zipIdx.map fun x => (scoreBase j.i + 256 * x.2, x.1)) s
      let s := putAcc j (rows.map fun r => (r.1, [r.2.mx, r.2.l])) s
      let s := keepP j.core (mmfCode j.i) 64 b.pages b.sum b.causal b.loc b.lim ps s
      kStageThree j b (mmfCode j.i) (j.i.ext 27 1) (bit j.i.raw 30) ps s }

/-- KMMF (R298 to R300): the fused pair over a page block. -/
def execKmmf (c : CoreId) (s : State) : Host.Outcome State Fault Refusal :=
  .next (engineRow s c.toNat 0 0x31 (kmmfForm s c.toNat))

/-! ### KMMP -/

def kmmpForm (s : State) (c : Nat) : Form :=
  { kmForm with
    ext := fun i => [spanBit i 0 29, halfBit s c 29 i]
    unused := fun i => [spanBit i 62 5, spanBit i 40 5, spanBit i 35 5]
    parts := fun i => landing i ++ [(.dc, 2, i.dc)]
    need := fun _ _ _ => none
    tmap := fun _ _ _ => none
    range := fun j => tileFit (getOp j.ops .dc) 64 256
    agree := fun j =>
      let d := getOp j.ops .dc
      match j.pbuf with
      | none => [mustAgree d 0 false]
      | some p => [mustAgree d 0 (p.pages != 0 && d.e 0 = 64), mustAgree d 1 (d.e 1 = p.rows.length)]
    path := fun j => j.pbuf.map fun p => p.summary && decide (p.pages = 4)
    readsP := true
    ins := fun j => kvReads j j.block ((getOp j.ops .dc).e 1) true (j.i.ext 29 1)
    run := fun j s => match j.pbuf with
      | none => s
      | some p =>
        let b := j.block
        kStageThree j b p.pfmt.toNat (j.i.ext 29 1) (bit j.i.raw 30) (retained p) (labTouch j b.loc b.needs s) }

/-- KMMP (R298, R302): the retained P times the values of its block. -/
def execKmmp (c : CoreId) (s : State) : Host.Outcome State Fault Refusal :=
  .next (engineRow s c.toNat 0 0x32 (kmmpForm s c.toNat))

/-! ### KDESC (R303) -/

/-- INT64 destinations of the KV operations. -/
def kvDst (i : EInstr) (_ : List Opnd) (o : Opnd) : Option (Nat × Nat) :=
  if o.part = .dc then (fmtEquals i o).or (mustBe 0x0B o) else mustBe 0x0B o

def flat (o : Opnd) : List (Option Bad) := (span 1 4).map fun k => failIf (o.e k != 1) (badShape 0x22 o (k * 2 ^ 48 + o.e k))

/-- Words written to the first elements of DC. -/
def putWords (j : Job) (ws : List Nat) (s : State) : State :=
  let d := getOp j.ops .dc
  putPieces j d.loc [j.rowBytes d [0, 0, 0, 0] ws] s

def wordsOf (d : BitVec 128) : List Nat := [fld d 0 64, fld d 64 64]

def kdescForm : Form :=
  { alts := [0], ext := vecExt [(6, 16)], unused := fun i => [encBit 35 (bit (i.gReg i.gi) 63)],
    parts := fun i => [(.dc, 2, i.dc)], need := kvDst, tmap := vecMap,
    range := fun j =>
      let d := getOp j.ops .dc
      [failIf (decide (d.e 0 < 2 * (j.i.ext 0 6 + 1))) (badShape 0x22 d (d.e 0))],
    zero := fun ops => (getOp ops .dc).ext.contains 0, locs := fun _ _ => locVector,
    late := fun j => if kvOn j.s then none else some (pageFault j.core j.k j.eng 0x64 ((j.i.gReg j.i.gi).toNat % 2 ^ 55) j.i),
    ready := kmReady, ins := fun _ => [], writes := writesOf [.dc],
    run := fun j s =>
      let loc := j.i.gReg j.i.gi
      let b : KBlock := { loc := loc, lim := 0, causal := false, sum := false, pages := 0 }
      putWords j ((span (locPage loc) (j.i.ext 0 6 + 1)).flatMap fun p => wordsOf (j.desc b p)) (labTouch j loc (kdescPages j.i) s) }

/-- KDESC (R303). -/
def execKdesc (c : CoreId) (s : State) : Host.Outcome State Fault Refusal := .next (engineRow s c.toNat 2 0x30 kdescForm)

/-! ### The work distributor (R304 to R306) -/

def distOf (s : State) (b : Nat) : Distributor := Map.get (fun _ => Distributor.reset) s.mem.dists b
def setDist (s : State) (b : Nat) (d : Distributor) : State := { s with mem := { s.mem with dists := Map.put s.mem.dists b d } }

/-- The place of an item in the order of R306. -/
def itemKey (e : Nat × BitVec 128) : Int :=
  ((2 ^ 32 - 1 - fld e.2 96 32) * 2 ^ 48 + fld e.2 76 20 * 2 ^ 28 + fld e.2 68 8 * 2 ^ 20 + fld e.2 48 20 : Nat)

def instNo (i : EInstr) : Nat := i.ext 0 3
def distCap : Nat := 15360

/-- KV tables out of use: PAGE_FAULT (R279), with no page to name. Another running command owns the instance: DESC_INVALID (R305; the reason
is log 24's). -/
def distForeign (j : Job) : Option ErrRec :=
  if !kvOn j.s then some (pageFault j.core j.k j.eng 0x64 0 j.i)
  else
    match (distOf j.s (instNo j.i)).owner with
    | some m => if (jointSet j.s j.k).contains m then none else some (badRec j.core j.eng j.k j.i (badBit 0))
    | none => none

/-- The post would give the instance too many items (R305). Another core may post between check 6 and the post, which is then tested again. -/
def distOver (j : Job) : Option Bad :=
  let a := getOp j.ops .da
  failIf (decide (distCap < (distOf j.s (instNo j.i)).items.length + a.e 0 / 2)) (badShape 0x22 a (a.e 0))

/-- KPOST: items of 16 bytes cross the core's Sheaf port by the line (R15, R305; log 11). -/
def kpostForm : Form :=
  { alts := [0], ext := vecExt [(3, 19)], parts := fun i => [(.da, 0, i.da)], need := kvDst, tmap := vecMap, outs := [],
    range := fun j => distOver j :: flat (getOp j.ops .da),
    agree := fun j => [mustAgree (getOp j.ops .da) 0 ((getOp j.ops .da).e 0 % 2 = 0)],
    zero := fun ops => (getOp ops .da).ext.contains 0, locs := fun _ _ => locVector,
    late := fun j => (distForeign j).or ((distOver j).map (badRec j.core j.eng j.k j.i)),
    ins := readsOf [.da], writes := noWrites,
    run := fun j s =>
      let a := getOp j.ops .da
      let s := countPort s j.core (64 * ceilDiv (a.e 0 / 2) 4) true
      let d := distOf s (instNo j.i)
      let n := a.e 0 / 2
      let items := (List.range n).map fun x => (d.posted + x,
        BitVec.ofNat 128 (j.pattern a (2 * x) [0, 0, 0, 0] + 2 ^ 64 * j.pattern a (2 * x + 1) [0, 0, 0, 0]))
      setDist s (instNo j.i) { owner := some (d.owner.getD j.k), posted := d.posted + n, items := d.items ++ items } }

/-- KPOST (R303, R305). -/
def execKpost (c : CoreId) (s : State) : Host.Outcome State Fault Refusal := .next (engineRow s c.toNat 2 0x32 kpostForm)

/-- The item that a take gives: the first untaken, or the empty one. -/
def takeItem (d : Distributor) : BitVec 128 × Distributor :=
  match minBy? itemKey d.items with
  | none => (BitVec.ofNat 128 (2 ^ 96 - 1), d)
  | some e => (e.2, { d with items := d.items.filter fun x => x.1 != e.1 })

/-- KTAKE: the item comes over the core's Sheaf port (R15, R305; log 11). -/
def ktakeForm : Form :=
  { alts := [0], ext := vecExt [(3, 19)], parts := fun i => [(.dc, 2, i.dc)], need := kvDst, tmap := vecMap,
    range := fun j => flat (getOp j.ops .dc),
    agree := fun j => [mustAgree (getOp j.ops .dc) 0 ((getOp j.ops .dc).e 0 = 2)],
    zero := fun ops => (getOp ops .dc).ext.contains 0, locs := fun _ _ => locVector, late := distForeign,
    area := fun j => match minBy? itemKey (distOf j.s (instNo j.i)).items with
      | none => []
      | some e => [areaLine j.s (instNo j.i) (areaItem (e.1 % distCap))],
    ins := fun _ => [], writes := writesOf [.dc],
    run := fun j s =>
      let t := takeItem (distOf s (instNo j.i))
      putWords j (wordsOf t.1) (countPort (setDist s (instNo j.i) t.2) j.core 64 false) }

/-- KTAKE (R303, R306). -/
def execKtake (c : CoreId) (s : State) : Host.Outcome State Fault Refusal := .next (engineRow s c.toNat 2 0x33 ktakeForm)

/-! ### WALK (R294, R295) -/

/-- The engine whose head instruction waits for the page. -/
def walkFor (s : State) (c slot f l p : Nat) : Option (Nat × EInstr) :=
  [0, 2].findSome? fun e =>
    match queueOfEng (coreOf s c) e with
    | [] => none
    | i :: _ =>
      let ops := if e = 0 then [0x30, 0x31, 0x32] else [0x30]
      let loc := (needsOf i (coreOf s c).pbuf).1
      if i.woken ∧ ops.contains i.op ∧ locFuture loc = f ∧ locLayer loc = l ∧ (missingPages (coreOf s c) slot i).contains p then some (e, i)
      else none

/-- The walk answers its engine. -/
def walkAnswer (s : State) (c e : Nat) (t : Trans) (lab : Bool) : State :=
  let s := updHead s c e fun i => { i with descs := Map.put i.descs t.page t.desc }
  updCore s c fun k => let k := { k with held := Map.erase k.held e }; if lab then labAdd k t else k

/-- A hit in the walker cache: the entry becomes the most recently used (log 24). -/
def walkTouch (s : State) (w : WEntry) : State :=
  { s with mem := { s.mem with wcache := s.mem.wcache.filter (· != w) ++ [w] } }

/-- A walk that the walker cache does not answer crosses its core's port: a line toward the core for each table line read, and one toward the
Sheaf for the pin (R15; log 11). -/
def walkPort (s : State) (c k f l p : Nat) : Walked → State
  | .held _ => s
  | .found _ => countPort (countPort s c 256 false) c 64 true
  | _ => countPort s c (64 * walkLines s k f l p) false

/-- A walk for the page, if an instruction of the core waits for it. -/
def walk (s : State) (c f l p : Nat) : State :=
  match (coreOf s c).slot with
  | none => s
  | some k =>
    match walkFor s c k f l p with
    | none => s
    | some (e, i) =>
      if !runs s k then s
      else
        let t : Trans := { slot := k, future := f, layer := l, page := p, desc := descAbsent }
        match s.mem.wcache.find? fun w => w.cluster = clusterOf c && w.trans.sameTag t with
        | some w => walkAnswer (walkTouch s w) c e w.trans true
        | none =>
          let head := if e = 0 then locHead (needsOf i (coreOf s c).pbuf).1 else 0
          let found := walkTables s k f l p
          let s := walkPort s c k f l p found
          let fault := fun r => failEng s k c e (pageFault c k e r (locatorOf f p l head) i)
          match found with
          | .fault r => fault r
          | .held a => updCore s c fun x => { x with held := Map.put x.held e a }
          | .lost line => stopHead c e (failPoison s k line (some e) i.addr.toNat)
          | .bad b => failEng s k c e (badRec c e k i ⟨eDescInvalid, 0x02, 0, 7, b⟩)
          | .absent => if e = 0 then fault 0x62 else walkAnswer s c e t false
          | .found d =>
            let t := { t with desc := d }
            walkAnswer (walkAdd (pinFrame s (descFrame d)) (clusterOf c) t) c e t true

/-- WALK (R295): the cluster's walker answers an instruction that waits for a page. -/
def execWalk (c : CoreId) (future : BitVec 20) (layer : BitVec 8) (page : BitVec 27) (s : State) :
    Host.Outcome State Fault Refusal := .next (walk s c.toNat future.toNat layer.toNat page.toNat)

end Sys2Proof.Machine
end

