-- ==== Sys2Proof/Machine/Rdma.lean ====
section
/-!
DEFINITION. What the part asks of other memories: packets on queue pairs (R381 to R383, R389), read requests to peers (R351), the
transfers that they serve, and how a transfer fails (R351, R390).
-/
namespace Sys2Proof.Machine

/-! ### Queue pairs (R399) -/

def qpState (s : State) (n : Nat) : Nat := cfg s (mQp n 0) 62 2
def qpPort (s : State) (n : Nat) : Nat := cfg s (mQp n 0) 61 1
def qpMtu (s : State) (n : Nat) : Nat := 1024 * 2 ^ Nat.min (cfg s (mQp n 0) 58 3) 2
def qpNext (s : State) (n : Nat) : Nat := cfg s (mQp n 1) 40 24

/-- Count NAKs sent and received (R399). -/
def countNak (s : State) (n : Nat) : State := liveSat s (mQp n 7) 0 32 1

/-! ### Frames (R379 to R381, R399) -/

/-- The port's own address of the kind of a destination: IPv4 in its mapped form, or IPv6. -/
def portAddr (s : State) (e : Nat) (dip : BitVec 128) : BitVec 128 :=
  if dip.toNat / 2 ^ 32 = 0xFFFF then BitVec.ofNat 128 (0xFFFF00000000 + cfg s (mEth e 1) 0 32)
  else BitVec.ofNat 128 (cfg s (mEth e 3) 0 64 * 2 ^ 64 + cfg s (mEth e 2) 0 64)

/-- What a port puts around a frame: every destination MAC comes from a register (R379). -/
def portWire (s : State) (e dmac : Nat) (dip : BitVec 128) (tclass sport dport dqpn : Nat) : Wire :=
  { port := e, dmac := BitVec.ofNat 48 dmac, smac := BitVec.ofNat 48 (cfg s (mEth e 0) 0 48),
    tag := if cfgBit s (mEth e 1) 63 then some (BitVec.ofNat 12 (cfg s (mEth e 0) 48 12), BitVec.ofNat 3 (cfg s (mEth e 1) 60 3)) else none,
    dip := dip, sip := portAddr s e dip, tclass := BitVec.ofNat 8 tclass, dport := BitVec.ofNat 16 dport, sport := BitVec.ofNat 16 sport,
    dqpn := BitVec.ofNat 24 dqpn }

/-- A packet of a queue pair: to DIP by way of DMAC, from UDP port 0xC000 + n to 4791 (R381, R399). -/
def qpWire (s : State) (n : Nat) : Wire :=
  portWire s (qpPort s n) (cfg s (mQp n 2) 0 48) (BitVec.ofNat 128 (cfg s (mQp n 4) 0 64 * 2 ^ 64 + cfg s (mQp n 3) 0 64))
    (cfg s (mQp n 0) 48 8) (0xC000 + n) 4791 (cfg s (mQp n 0) 24 24)

/-! ### Frame lengths (R482; log 54) -/

/-- An address is an IPv4 address in its mapped form. -/
def isV4 (a : BitVec 128) : Bool := a.toNat / 2 ^ 32 = 0xFFFF

/-- Bytes of a frame from its destination MAC to its FCS, around `n` bytes of content; no frame is shorter than 64 (PRESUMED: the published headers of
Ethernet, IP and UDP, log 54). -/
def frameLen (tag v4 : Bool) (n : Nat) : Nat := max 64 (14 + 4 * b2n tag + (if v4 then 20 else 40) + 8 + n + 4)

/-- Content of a RoCEv2 packet: BTH, extension headers, the payload to whole words, ICRC (PRESUMED, log 54). -/
def roceLen (ext n : Nat) : Nat := 12 + ext + 4 * ceilDiv n 4 + 4

/-- Contents of the packets of a message of `n` bytes: the first or only one has `ext` bytes of extension headers, the last of several `last`, one
between them none. -/
def messageLens (mtu ext last n : Nat) : List Nat :=
  let k := max 1 (ceilDiv n mtu)
  (List.range k).map fun i => roceLen (if i = 0 then ext else if i + 1 = k then last else 0) (min mtu (n - mtu * i))

/-- The port that something has left by. -/
def Sent.port : Sent → Option Nat
  | .fct w _ _ _ _ => some w.port
  | .rdmaAck w _ _ => some w.port
  | .rdmaNak w _ _ _ => some w.port
  | .rdmaReadResp w _ _ => some w.port
  | .rdma w _ _ => some w.port
  | .cnp w _ => some w.port
  | .pause e => some e
  | .arpReply w _ _ _ => some w.port
  | .advert w _ _ _ => some w.port
  | .flit _ _ => none
  | .mgmt _ _ => none
  | .i2c _ => none

/-- The lengths of the frames that it makes; `mtu` is that of a queue pair. Of a WRITE message the first packet carries RETH. -/
def Sent.frames (mtu : Nat → Nat) : Sent → List Nat
  | .fct w _ _ _ body => [frameLen w.tag.isSome (isV4 w.dip) (16 + body.length)]
  | .rdmaAck w _ _ => [frameLen w.tag.isSome (isV4 w.dip) (roceLen 4 0)]
  | .rdmaNak w _ _ _ => [frameLen w.tag.isSome (isV4 w.dip) (roceLen 4 0)]
  | .rdmaReadResp w n data => (messageLens (mtu n) 4 4 data.length).map (frameLen w.tag.isSome (isV4 w.dip))
  | .rdma w _ p => [frameLen w.tag.isSome (isV4 w.dip) (roceLen (if p.read || p.psn = p.msg then 16 else 0) p.data.length)]
  | .cnp w _ => [frameLen w.tag.isSome (isV4 w.dip) (roceLen 16 0)]
  | .pause _ => [64]
  | .arpReply w _ _ _ => [max 64 (14 + 4 * b2n w.tag.isSome + 28 + 4)]
  | .advert w _ _ _ => [14 + 4 * b2n w.tag.isSome + 40 + 32 + 4]
  | .flit _ _ => []
  | .mgmt _ _ => []
  | .i2c _ => []

/-- Port e has received a frame, whose length `len` gives, with or without a tag; whether it has one is a free value (R482, log 54). -/
def hearFrame (e : Nat) (s : State) (len : Bool → Nat) : State :=
  let n := (liveGet s (mEth e 11)).toNat
  liveAdd (liveAdd s (mEth e 9) (len (Config.frameTagged e n))) (mEth e 11) 1

/-- Packets of these contents have arrived on queue pair n. -/
def hearQp (s : State) (n : Nat) (lens : List Nat) : State :=
  let v4 := isV4 (qpWire s n).dip
  lens.foldl (fun s l => hearFrame (qpPort s n) s fun tag => frameLen tag v4 l) s

/-- A frame has arrived whose length its command does not give: a free value (log 54). -/
def hearOdd (s : State) (e : Nat) : State :=
  let n := (liveGet s (mEth e 11)).toNat
  hearFrame e s fun _ => 64 + Config.frameLength e n % 9153

/-- The port honours a pause of its priority (R380). -/
def portPaused (s : State) (e : Nat) : Bool :=
  cfgBit s (mEth e 1) 59 && bit (Map.get (fun _ => (0 : Byte)) s.eth.paused e) (cfg s (mEth e 1) 56 3)

/-- A frame leaves by a port, or waits behind what a pause holds there (R380). -/
def sendEth (s : State) (e : Nat) (x : Sent) : State :=
  if portPaused s e || s.eth.stalled.any fun y => y.1 = e then { s with eth := { s.eth with stalled := s.eth.stalled ++ [(e, x)] } }
  else send s x

/-- A queue pair sends. -/
def sendQp (s : State) (n : Nat) (x : Wire → Sent) : State := sendEth s (qpPort s n) (x (qpWire s n))

/-- The frames that a pause held leave in order. -/
def unstall (s : State) (e : Nat) : State :=
  let go := s.eth.stalled.filter fun y => y.1 = e
  go.foldl (fun s y => send s y.2) { s with eth := { s.eth with stalled := s.eth.stalled.filter fun y => y.1 != e } }

/-! ### Host keys (R389) -/

def hkeyQp (s : State) (k : Nat) : Nat := cfg s (mHkey k 0) 32 10
def hkeyRkey (s : State) (k : Nat) : BitVec 32 := BitVec.ofNat 32 (cfg s (mHkey k 0) 0 32)

/-- The key admits the transfer of `n` bytes at host address `va`. -/
def hkeyOk (s : State) (k va n : Nat) (rd wr : Bool) : Bool :=
  decide (k < 4096) && cfgBit s (mHkey k 0) 63 && (!rd || cfgBit s (mHkey k 0) 62) && (!wr || cfgBit s (mHkey k 0) 61) &&
    decide (cfg s (mHkey k 1) 0 64 ≤ va) && decide (va + n ≤ cfg s (mHkey k 1) 0 64 + cfg s (mHkey k 2) 0 64) &&
    qpState s (hkeyQp s k) = 1

/-! ### Packets (R383) -/

/-- Number a packet, keep it until it is acknowledged, and send it unless an RNR NAK holds the queue pair. `used` is how many sequence
numbers it takes: a read request takes those of its response packets (log 17). `i` is its place in its message. -/
def sendPacket (s : State) (n used i : Nat) (p : Packet) : State :=
  let p := { p with psn := BitVec.ofNat 24 (qpNext s n), msg := BitVec.ofNat 24 (qpNext s n) - BitVec.ofNat 24 i }
  let s := cfgSet s (mQp n 1) 40 24 ((qpNext s n + used) % 2 ^ 24)
  let rnr := (qpOf s n).rnr
  let s := updQp s n fun q => { q with kept := q.kept ++ [p], unsent := if rnr then q.unsent + 1 else q.unsent }
  if rnr then s else sendQp s n (.rdma · n p)

/-- Send one RDMA WRITE message in packets of the path MTU. -/
def sendWrite (s : State) (n : Nat) (slot : Option Nat) (rkey : BitVec 32) (va : Nat) (data : List Byte) : State :=
  let cs := chunksOf (qpMtu s n) (data.length + 1) data
  (cs.zipIdx).foldl (fun s c => sendPacket s n 1 c.2
    { psn := 0, msg := 0, read := false, slot := slot, rkey := rkey, va := BitVec.ofNat 64 (va + c.2 * qpMtu s n), data := c.1,
      len := c.1.length }) s

/-- Send one RDMA READ request. -/
def sendReadReq (s : State) (n : Nat) (slot : Option Nat) (rkey : BitVec 32) (va len : Nat) : State :=
  sendPacket s n (max 1 (ceilDiv len (qpMtu s n))) 0
    { psn := 0, msg := 0, read := true, slot := slot, rkey := rkey, va := BitVec.ofNat 64 va, data := [], len := len }

/-! ### Runs of bytes -/

/-- Insert a range before the first that starts later. -/
def insertRun (r : Nat × Nat) : List (Nat × Nat) → List (Nat × Nat)
  | [] => [r]
  | x :: t => if r.1 < x.1 then r :: x :: t else x :: insertRun r t

/-- Join ranges, in ascending order, that touch or overlap. -/
def joinRuns : List (Nat × Nat) → List (Nat × Nat)
  | [] => []
  | r :: t =>
    match joinRuns t with
    | [] => [r]
    | x :: u => if x.1 ≤ r.1 + r.2 then (r.1, max r.2 (x.1 + x.2 - r.1)) :: u else r :: x :: u

/-- The maximal runs that a set of ranges covers, ascending. -/
def runsOf (rs : List (Nat × Nat)) : List (Nat × Nat) :=
  joinRuns ((rs.filter fun r => r.2 != 0).foldl (fun l r => insertRun r l) [])

/-- A range widened to whole lines. -/
def wholeLines (r : Nat × Nat) : Nat × Nat := (lineOf r.1, 64 * ceilDiv (r.1 + r.2 - lineOf r.1) 64)

/-- A run cut into requests of at most `m` bytes. -/
def cutRun (m : Nat) (r : Nat × Nat) : List (Nat × Nat) :=
  (List.range (ceilDiv r.2 m)).map fun i => (r.1 + m * i, min m (r.2 - m * i))

/-! ### Transfers from other memories (R351, R389) -/

/-- The core whose copy engine carries a command's transfer. -/
def carrier (s : State) (k : Nat) : Nat := (((cmdOf s k).map (·.cores)).getD []).headD 0

/-- The core or runner that a transfer belongs to: at most 64 peer requests are outstanding for each. -/
def ReadFor.key (s : State) : ReadFor → Nat
  | .engine c => c
  | .copy k => carrier s k
  | .prefetch b _ _ => 1024 + b

/-- There is room for one more request of the transfer; a queue pair that is not READY sends none (R382). -/
def readRoom (s : State) (t : Transfer) : Bool :=
  if t.host then qpState s (hkeyQp s t.dest) = 1 && decide (((qpOf s (hkeyQp s t.dest)).kept.filter (·.read)).length < 16)
  else
    let key := t.who.key s
    decide (((s.fab.transfers.filter fun u => !u.host && u.who.key s = key).map fun u => u.left.length).sum < 64)

/-- Send the next request of a transfer. -/
def issueRead (s : State) (t : Transfer) : State :=
  match t.todo with
  | [] => s
  | r :: rest =>
    let ts := updFirst (· = t) (fun t => { t with left := t.left ++ [r], todo := rest }) s.fab.transfers
    let s := { s with fab := { s.fab with transfers := ts } }
    if t.host then sendReadReq s (hkeyQp s t.dest) (some t.slot) (hkeyRkey s t.dest) r.1 r.2
    else sendMsg s (mkMsg s t.dest 0x01 (r.2 / 64) [(0, r.1)] [])

/-- Send what may be sent; the count bounds the recursion. -/
def pumpReads : Nat → State → State
  | 0, s => s
  | n + 1, s =>
    match s.fab.transfers.find? fun t => !t.todo.isEmpty && readRoom s t with
    | none => s
    | some t => pumpReads n (issueRead s t)

/-- Begin to read ranges of another memory: whole lines from a peer, the bytes themselves from the host. -/
def startTransfer (s : State) (who : ReadFor) (k : Nat) (host : Bool) (dest : Nat) (rs : List (Nat × Nat)) (ins : Option EInstr) : State :=
  let runs := runsOf (if host then rs else rs.map wholeLines)
  let t : Transfer := { who := who, slot := k, host := host, dest := dest, left := [], todo := runs.flatMap (cutRun 65536), buf := [],
                        ins := ins }
  pumpReads 64 { s with fab := { s.fab with transfers := s.fab.transfers ++ [t] } }

/-- Nothing of the transfer is still to come. -/
def Transfer.over (t : Transfer) : Bool := t.left.isEmpty && t.todo.isEmpty

def dropTransfer (s : State) (t : Transfer) : State :=
  { s with fab := { s.fab with transfers := dropFirst (· = t) s.fab.transfers } }

/-! ### Failure of a transfer (R351, R390) -/

/-- DESC_INVALID reason 0x04 in the layout of R177, of a copy engine: register, role and value. -/
def farRec (core k reg role val at' : Nat) : ErrRec :=
  { code := eDescInvalid, unitCls := 1, unit := core, slot := some k, object := reg * 2 ^ 59 + role * 2 ^ 56 + val % 2 ^ 56,
    detail := 0x04 * 2 ^ 56 + 4 * 2 ^ 48 + at' % 2 ^ 48 }

/-- DESC_INVALID for an entry of a schedule: slice and entry (R56; log 18). -/
def entryRec (k slice entry low : Nat) : ErrRec :=
  { code := eDescInvalid, unitCls := 3, unit := slice, slot := some k, object := entry, detail := 0x04 * 2 ^ 56 + low % 2 ^ 48 }

/-- A transfer's request was refused or not answered: `wait`; or it was not admitted. -/
def failTransfer (s : State) (t : Transfer) (wait : Bool) (obj : Nat) : State :=
  if !live s t.slot then s else
  let at' := (t.ins.map fun i => i.addr.toNat).getD 0
  match t.who with
  | .prefetch b k i =>
    if wait then failWith s k { code := eWaitTimeout, unitCls := 3, unit := b, slot := some k, object := obj,
                                detail := 0x41 * 2 ^ 56 + i }
    else failWith s k (entryRec k b i obj)
  | _ =>
    let core := t.who.key s
    if wait then failWith s t.slot (holdRec core (some 3) t.slot obj at')
    else match t.ins with
      | none => failWith s t.slot (farRec core t.slot 0 7 obj at')
      | some i =>
        if fld i.raw 28 2 = 2 then failWith s t.slot (farRec core t.slot (fld i.raw 52 5) 2 obj at')
        else failWith s t.slot (farRec core t.slot (fld i.raw 62 5) 0 obj at')

/-- Egress of an undecided command cannot be delivered. -/
def failEgress (s : State) (k : Nat) (e : Egress) (wait : Bool) (obj : Nat) : State :=
  if !live s k then s else
  let core := e.core.getD (carrier s k)
  if wait then failWith s k (holdRec core (some 3) k obj e.at')
  else failWith s k (farRec core k e.reg (if e.core.isSome then 2 else 7) obj e.at')

/-- What waits of a queue pair for the sequencer (R97, R502). -/
def WaitWrite.ofQp (n : Nat) : WaitWrite → Bool
  | .host m _ _ _ => m = n
  | .send m _ _ => m = n
  | .peer _ => false

/-- A queue pair leaves READY: the transfers of undecided commands that name it fail (R390), that of the command `bad` because a request of it
was refused; what it has received and not yet done is dropped (R382). Each write that it kept for a committed command is abandoned and writes a record
of reason 0xA3, the first of which the completion record names. -/
def qpStop (s : State) (n : Nat) (bad : Option Nat) : State :=
  let far := s.fab.transfers.filter fun t => t.host && hkeyQp s t.dest = n
  let s := far.foldl (fun s t => failTransfer s t (bad != some t.slot) ((t.left ++ t.todo).headD (0, 0)).1) s
  let out := (s.disp.slots.filter fun e => live s e.1).flatMap fun e =>
    ((e.2.egress.filter fun g => g.host && hkeyQp s g.dest = n).take 1).map fun g => (e.1, g)
  let s := out.foldl (fun s e => failEgress s e.1 e.2 (bad != some e.1) e.2.addr) s
  let lost := ((((qpOf s n).kept.filter fun p => !p.read).map fun p => (p.slot, p.msg)).eraseDups).filterMap (·.1)
  let s := updQp s n fun q => { q with kept := [], unsent := 0, retries := 0, rnr := false, seqNak := false, part := none }
  let s := { s with
    eth := { s.eth with held := s.eth.held.filter fun h => h.qp != n },
    fab := { s.fab with transfers := s.fab.transfers.filter fun t => !far.contains t },
    disp := { s.disp with waiting := s.disp.waiting.filter fun w => !w.ofQp n } }
  lost.foldl (fun s k => if ((cmdOf s k).map (·.decided)).getD false then ethRec s eLinkDown 0xA3 (qpPort s n) (some k) n else s) s

/-- A queue pair enters ERROR (R382, R397). A remote-access-error NAK (cause 2) concerns its oldest packet. -/
def qpError (s : State) (n cause : Nat) : State :=
  if qpState s n = 2 then s
  else
    let s := cfgSet s (mQp n 0) 62 2 2
    let s := ethRec s eLinkDown 0xA1 (qpPort s n) none (cause * 65536 + n)
    qpStop s n (if cause = 2 then ((qpOf s n).kept.head?).bind (·.slot) else none)

end Sys2Proof.Machine
end

