-- ==== Sys2Proof/Machine/CopyEngine.lean ====
section
/-!
DEFINITION. The copy engine (R153, R155, R503) and the COPY command (R81, R82), to and from this chip's memories, peers (R351, R352) and
the host (R389).
-/
namespace Sys2Proof.Machine

/-! ### Fields (R155) -/

def EInstr.nonalloc (i : EInstr) : Bool := bit i.raw 30
def EInstr.far (i : EInstr) : Nat := i.ext 28 2
def EInstr.selector (i : EInstr) : Nat := fld (i.gReg i.gi) 0 16

/-- The operand is the remote end; an alternate stands in DA's place (log 21). -/
def farEnd (i : EInstr) (o : Opnd) : Bool := (i.far = 1 && mapPart i o.part = .da) || (i.far = 2 && o.part = .dc)

/-! ### Rows moved bit for bit -/

/-- The rows of DC as pieces: `rd` gives a byte of the source, `keep` the old byte of the destination. -/
def copyPieces (rd keep : Nat → Byte) (src dst : Opnd) : List (Nat × List Byte) :=
  let n := dst.e 0
  let whole := n * dst.w / 8
  let rem := n * dst.w % 8
  dst.rows.flatMap fun r =>
    let a := dst.rowAt r
    let body := (span (src.rowAt r) whole).map rd
    let last := if rem = 0 then [] else
      [BitVec.ofNat 8 ((rd (src.rowAt r + whole)).toNat % 2 ^ rem + (keep (a + whole)).toNat / 2 ^ rem * 2 ^ rem)]
    (a, body ++ last) :: if dst.mx then [(dst.scaleAt r, (span (src.scaleAt r) (ceilDiv n 32)).map rd)] else []

/-- Bytes of a destination that hold bits both inside and outside the effective extents (R389). -/
def edgeBytes (dst : Opnd) : List (Nat × Nat) :=
  if dst.e 0 * dst.w % 8 = 0 then [] else dst.rows.map fun r => (dst.rowAt r + dst.e 0 * dst.w / 8, 1)

/-- A byte read from another memory. -/
def Transfer.byte (t : Transfer) (a : Nat) : Byte := Map.get (fun _ => 0) t.buf a

/-- Change the newest instruction in flight of a core's copy engine. -/
def updLastFlying (core : Nat) (g : Flying → Flying) (s : State) : State :=
  updCore s core fun k =>
    let fl := flyingOf k 3
    { k with flying := Map.put k.flying 3 (fl.take (fl.length - 1) ++ (fl.drop (fl.length - 1)).map g) }

/-- Change the instruction in flight of the copy engine that has the number `id`. -/
def updFlyingAt (core id : Nat) (g : Flying → Flying) (s : State) : State :=
  updCore s core fun k => { k with flying := Map.put k.flying 3 (updFirst (fun f => f.id = id) g (flyingOf k 3)) }

/-! ### Egress (R93, R352, R389) -/

/-- The slices in which the lines of an egress are staged whose source is the operand: a scratchpad source counts at the core's base die. -/
def egressLines (j : Job) (src : Opnd) : List Nat :=
  ((src.spans.flatMap fun p => linesOf p.1 p.2).eraseDups).map fun l => if src.loc = 0 then dieOf j.core else sliceOf j.s l

/-- The lines of an egress dealt out to its messages, by the messages' lengths; the last takes what is left. -/
def dealLines : (lens ls : List Nat) → List (List Nat)
  | [], _ => []
  | [_], ls => [ls]
  | n :: t, ls => ls.take (ceilDiv n 64) :: dealLines t (ls.drop (ceilDiv n 64))

/-- Bytes of pieces as a map. -/
def bytesOf (ps : List (Nat × List Byte)) : Map Byte := ps.foldl (fun m p => Map.putRun m p.1 p.2) []

/-- The whole lines that hold DC's footprint. -/
def peerLines (o : Opnd) : Nat × Nat := (lineOf o.base, 64 * ceilDiv (o.base + footprint o.d - lineOf o.base) 64)

/-- What a copy to a peer reads there before it writes: a WRITE carries whole lines without a mark for the bytes between DC's elements, which keep
their value (R163, R170), so lines that its elements do not fill are read first, as R389 has it for the host (DESIGN CHOICE, log 22). -/
def peerEdges (o : Opnd) : List (Nat × Nat) :=
  if (edgeBytes o).isEmpty && (o.spans.map (·.2)).sum = (peerLines o).2 then [] else [peerLines o]

/-- A write message for a peer: whole lines from the first to the last of DC's footprint; `keep` gives the bytes between the elements. -/
def peerEgress (j : Job) (o : Opnd) (ps : List (Nat × List Byte)) (keep : Nat → Byte) (lines : List Nat) : Egress :=
  let m := bytesOf ps
  let r := peerLines o
  { host := false, core := some j.core, reg := o.reg, at' := j.i.addr.toNat, flight := j.i.flight, dest := j.i.selector, addr := r.1,
    data := (span r.1 r.2).map fun a => (Map.find? m a).getD (keep a), lines := lines,
    sctr := j.i.sctr, sinc := j.i.sinc, granted := false }

/-- Ask a peer for room for a write message (R352). -/
def askRoom (s : State) (e : Egress) : State := sendMsg s (mkMsg s e.dest 0x03 (e.data.length / 64) [(0, e.addr)] [])

/-- The host writes of an instruction, one for each run of at most 1 MiB. -/
def hostEgress (j : Job) (ps : List (Nat × List Byte)) (lines : List Nat) : List Egress :=
  let m := bytesOf ps
  let runs := (runsOf (ps.map fun p => (p.1, p.2.length))).flatMap (cutRun 1048576)
  (runs.zip (dealLines (runs.map (·.2)) lines)).map fun r =>
    { host := true, core := some j.core, reg := (getOp j.ops .dc).reg, at' := j.i.addr.toNat, flight := j.i.flight, dest := j.i.selector, addr := r.1.1,
      data := (span r.1.1 r.1.2).map (Map.get (fun _ => 0) m), lines := r.2, sctr := 0, sinc := 0,
      granted := true }

/-- Stage the data of an instruction for its remote destination. -/
def stageFar (j : Job) (keep : Nat → Byte) (s : State) : State :=
  let src := j.op .da
  let dst := getOp j.ops .dc
  let ps := copyPieces (j.byte src.loc) keep src dst
  let lines := egressLines j src
  let s := countPort s j.core (64 * lines.length) true
  if dst.loc = 2 then (hostEgress j ps lines).foldl (fun s e => stageEgress s j.k e (some 3) (some j.core)) s
  else
    let e := peerEgress j dst ps keep lines
    let s := stageEgress s j.k e (some 3) (some j.core)
    if (coreOf s j.core).broken.contains 3 then s
    else askRoom (updFlyingAt j.core j.i.flight (fun f => { f with grants := 1 }) s) e

/-! ### Checks -/

/-- Check 9 of the remote end (R155, R31, R177, R389): the value is the first address outside what the end may name. -/
def farBad (j : Job) (o : Opnd) : Option Bad :=
  let bad := some (badOp 0x04 o o.base)
  let n := max 1 (footprint o.d)
  let out := o.part = .dc
  if o.loc = 1 then
    if peerOk o.base n then none
    else if o.base < hbmSize then some (badOp 0x04 o hbmSize)
    else if pinnedBase ≤ o.base ∧ o.base < pinnedBase + 0x100000000 then some (badOp 0x04 o (pinnedBase + 0x100000000))
    else bad
  else if o.loc = 2 then
    if hkeyOk j.s j.i.selector o.base n (!out || !(edgeBytes o).isEmpty) out then none else bad
  else bad

def copyForm : Form :=
  { alts := [0, 1], redOk := true,
    ext := fun i => [encBit 28 (i.far == 3), spanBit i 0 28, encBit 31 (i.far != 0 && i.red != 0)],
    unused := fun i => [spanBit i 57 5, if i.red = 0 ∧ i.far = 0 then spanBit i 35 5 else none],
    parts := fun i => [(.da, 0, i.da), (.dc, 2, i.dc)],
    need := fun i _ o => if o.part = .dc then (fmtEquals i o).or (redNeed i o) else mustBe i.fmt o,
    tmap := vecMap,
    agree := fun j =>
      let c := getOp j.ops .dc
      (List.range 5).map (fun k => mustAgree c k (c.e k = (getOp j.ops .da).e k)) ++ altAgree j,
    more8 := fun j =>
      let c := getOp j.ops .dc
      [failIf (j.i.far = 2 && c.loc = 1 && decide (8388608 < footprint c.d)) (badShape 0x21 c (footprint c.d))],
    zero := vecZero,
    locs := fun i p => if p = .dc ∧ i.red ≠ 0 then locReduce else locCopy,
    remote := fun i ops => i.far = 2 && (getOp ops .dc).loc = 1,
    loc9 := fun j o => if farEnd j.i o then some (farBad j o) else none,
    empty := fun j s =>
      if j.i.far = 2 ∧ (getOp j.ops .dc).loc = 1 ∧ j.i.sinc ≠ 0 then
        stageEgress s j.k { host := false, core := some j.core, reg := (getOp j.ops .dc).reg, at' := j.i.addr.toNat, flight := 0, dest := j.i.selector,
                            addr := (getOp j.ops .dc).base, data := [], lines := [], sctr := j.i.sctr, sinc := j.i.sinc,
                            granted := true } (some 3)
      else s,
    ins := fun j => if farEnd j.i (j.op .da) then [] else readsOf [.da] j,
    writes := fun j => if j.i.far = 2 then [] else writesOf [.dc] j,
    puts := fun j => if j.i.far = 2 then [] else (getOp j.ops .dc).located (getOp j.ops .dc).spans,
    deps := fun j => (j.ops.filter fun o => !farEnd j.i o).flatMap fun o => o.located o.spans,
    bypass := EInstr.nonalloc,
    run := fun j s =>
      let src := j.op .da
      let dst := getOp j.ops .dc
      let begin := startTransfer (updLastFlying j.core (fun f => { f with reads := 1 }) s) (.engine j.core) j.k
      if j.i.far = 1 then begin (decide (src.loc = 2)) j.i.selector src.spans (some j.i)
      else if j.i.far = 2 then
        let edges := if dst.loc = 2 then edgeBytes dst else peerEdges dst
        if edges.isEmpty then stageFar j (fun _ => 0) s
        else updLastFlying j.core (fun f => { f with late := src.located src.spans }) <| begin (decide (dst.loc = 2)) j.i.selector edges (some j.i)
      else if j.i.red ≠ 0 then putElems j dst (fun i0 r => j.pattern src i0 r) s j.i.nonalloc
      else putPieces j dst.loc (copyPieces (j.byte src.loc) (j.byte dst.loc) src dst) s j.i.nonalloc }

/-- ENGINE_COPY (R155, R503). -/
def execEngineCopy (c : CoreId) (s : State) : Host.Outcome State Fault Refusal := .next (engineRow s c.toNat 3 0x01 copyForm)

/-! ### Data that has arrived -/

/-- A copy instruction's remote data is in: it goes to its destination, or completes the bytes of its egress (R389). -/
def landEngine (s : State) (core : Nat) (t : Transfer) : State :=
  match t.ins with
  | none => s
  | some i =>
    let j : Job := { s := s, k := t.slot, core := core, eng := 3, i := i, ops := operandsOf copyForm i }
    let s := updFlyingAt core i.flight (fun f => { f with reads := 0, late := [] }) s
    let dst := getOp j.ops .dc
    if i.far = 2 then stageFar j t.byte s
    else
      let n := ((j.op .da).spans.flatMap fun p => linesOf p.1 p.2).eraseDups.length
      putPieces j dst.loc (copyPieces t.byte (j.byte dst.loc) (j.op .da) dst) (countPort s core (64 * n) false) i.nonalloc

/-! ### The COPY command (R81) -/

def Cmd.key (c : Cmd) : Nat := fld c.record 448 16
def Cmd.nonalloc (c : Cmd) : Bool := bit c.record 443

/-- A COPY or a page command whose data has all been moved or staged, whose lines have come, and whose reservations are all granted, is done. -/
def copyDone (s : State) (k : Nat) : State :=
  match cmdOf s k with
  | none => s
  | some c =>
    if (c.kind = 2 ∨ c.kind = 5) ∧ c.work ∧ !c.fin ∧ (c.egress.all (·.granted)) ∧ !(s.fab.transfers.any fun t => t.slot = k && t.who = .copy k) ∧
      !(awaits s fun f => f.slot = some k && f.asker = .cmd) then
      finish s k
    else s

/-- The bytes of a COPY are at hand: they are staged at DST, or as egress by messages of at most 8 MiB to a peer and 1 MiB to the host. -/
def copyPut (s : State) (k core : Nat) (c : Cmd) (data : List Byte) : State :=
  let s := countPort (countPort s core c.bytes false) core c.bytes true
  if c.dstHost && qpState s (hkeyQp s c.key) != 1 then failWith s k (holdRec core (some 3) k c.dst 0)
  else if !c.dstHost ∧ isLocal s c.dst then stageBytes s k (planePart c.dst) data (some 3) none c.nonalloc
  else
    let m := if c.dstHost then 1048576 else 8388608
    let cuts := cutRun m (0, c.bytes)
    let es := cuts.map fun r =>
      ({ host := c.dstHost, core := none, reg := 0, at' := 0, flight := 0, dest := if c.dstHost then c.key else c.dst / 2 ^ 48,
         addr := (if c.dstHost then c.dst else planePart c.dst) + r.1, data := (data.drop r.1).take r.2,
         lines := (linesOf (planePart c.src + r.1) r.2).map (sliceOf s), sctr := 0, sinc := 0, granted := c.dstHost } : Egress)
    let s := es.foldl (fun s e => stageEgress s k e (some 3)) s
    if c.dstHost ∨ !live s k then s else es.foldl askRoom s

/-- COPY: the source is read, here or from the other memory (R81, R93). A queue pair that is no longer READY fails it (R390). -/
def execCopy (k : SlotId) (s : State) : Host.Outcome State Fault Refusal :=
  match atWork s k.toNat 0x02 with
  | none => .next s
  | some c =>
    let n := k.toNat
    let core := c.cores.headD 0
    let s0 := begun s n
    let near := fun host g => !host && isLocal s g
    let ranges := (if near c.srcHost c.src then [(planePart c.src, 256)] else []) ++
      (if near c.dstHost c.dst then [(planePart c.dst, 320)] else [])
    if c.bytes = 0 then .next (finish s0 n)
    else if (c.srcHost || c.dstHost) && qpState s (hkeyQp s c.key) != 1 then
      .next (failWith s n (holdRec core (some 3) n (if c.srcHost then c.src else c.dst) 0))
    else match ranges.findSome? fun r => csetBad s n r.1 c.bytes with
      | some l => .next (failWith s n (farRec core n 0 7 l 0))
      | none =>
        match ranges.findSome? fun r => fencedIn s r.1 c.bytes with
        | some l => .next (failFenced s n 4 (channelOf s l))
        | none =>
          if near c.dstHost c.dst ∧ inFrameTable s (planePart c.dst) c.bytes then .next (failDisp s n 0x33 c.dst 320)
          else if near c.srcHost c.src then
            let a := planePart c.src
            if heldFor s n a c.bytes then
              .next (updCore s core fun x => { x with held := Map.put x.held 3 (((linesOf a c.bytes).find? fun l =>
                heldFor s n l 64).getD a) })
            else
              let wr := if near c.dstHost c.dst then linesOf (planePart c.dst) c.bytes else []
              let r := readCells s0 { slot := n, core := core, eng := some 3, at' := 0, ahead := false } fun x =>
                lineCells s n core (linesOf a c.bytes) x || writeCells s core wr x
              if !r.2 then .next r.1
              else match seenPoison r.1 n a c.bytes with
              | some l => .next (failPoison r.1 n l (some 3) 0)
              | none =>
                let s := updCore r.1 core fun x => { x with held := Map.erase x.held 3 }
                let s := sheafAccess s (some n) .cmd (neededLines s n a c.bytes) c.nonalloc
                .next (copyDone (copyPut s n core c (seenRead s n a c.bytes)) n)
          else
            let dest := if c.srcHost then c.key else c.src / 2 ^ 48
            let a := if c.srcHost then c.src else planePart c.src
            .next (startTransfer s0 (.copy n) n c.srcHost dest [(a, c.bytes)] none)

/-- The data of a COPY from another memory is in. -/
def landCopy (s : State) (k : Nat) (t : Transfer) : State :=
  match cmdOf s k with
  | none => s
  | some c =>
    if c.kind ≠ 2 then s
    else
      let a := if c.srcHost then c.src else planePart c.src
      copyDone (copyPut s k (c.cores.headD 0) c ((span a c.bytes).map t.byte)) k

/-- Some of a transfer's data arrives: the request at `a` is answered. A finished one goes on; that of a schedule or a page command waits
for its own step. -/
def arrived (s : State) (t : Transfer) (r : Nat × Nat) (data : List Byte) : State :=
  let u := { t with left := dropFirst (· = r) t.left, buf := Map.putRun t.buf r.1 (data.take r.2) }
  let s := { s with fab := { s.fab with transfers := updFirst (· = t) (fun _ => u) s.fab.transfers } }
  let s := countQueue s t.slot (if t.host then 6 else 4) data.length
  if u.over then
    let s := match t.who with
      | .engine c => landEngine (dropTransfer s u) c u
      | .copy k => if ((cmdOf s k).map Cmd.kind).getD 0 = 2 then landCopy (dropTransfer s u) k u else s
      | .prefetch _ _ _ => s
    pumpReads 64 s
  else pumpReads 64 s

end Sys2Proof.Machine
end

