-- ==== Sys2Proof/Machine/Peer.lean ====
section
/-!
DEFINITION. Peer memory (R351 to R353): requests that peers send to this chip's plane, and the answers to this chip's own.
-/
namespace Sys2Proof.Machine

/-! ### Answers -/

def answer (s : State) (m : Msg) (kind status len : Nat) (data : List Byte) : State :=
  sendMsg s (mkMsg s m.src kind len [(196, status), (0, m.addr)] data)

def holdReq (s : State) (m : Msg) : State := { s with fab := { s.fab with heldReqs := s.fab.heldReqs ++ [m] } }

/-- The request meets a line in a WRITE range, or a channel under test (R99, R409). -/
def reqHeld (s : State) (m : Msg) : Bool := (lockIn s [] m.addr m.span).isSome || heldByTest s m.addr m.span

/-! ### Requests that a port makes of the Sheaf (R16, R43) -/

/-- The base die of the port that leads to a chip: port p lies on base die p (R16). -/
def portDie (s : State) (chip : Nat) : Nat := (nextPort s chip).getD 0

/-- Lines of a range that the channels must bring. -/
def absentLines (s : State) (a n : Nat) : List Nat := (linesOf a n).filter fun l => decide (l < hbmSize) && (cachedLine s l).isNone

/-- A read by a port asks for its lines: the state, and those that it waits for. -/
def portRead (s : State) (die a n : Nat) : State × List Nat :=
  let s := systemRead s none die (linesOf a n)
  (sheafAccess s none .system (linesOf a n) true, absentLines s a n)

/-- A line that a port waits for is still to come. -/
def lineComes (s : State) (l : Nat) : Bool := s.mem.fills.any fun f => f.line = l && f.asker = .system

/-! ### READ_REQ (R351, R407) -/

/-- A read whose lines are there: the data, or the refusal of a poisoned line or of a fenced channel (log 23); one that has met a lock in the meantime is
held. -/
def readAnswer (s : State) (m : Msg) : State :=
  if (fencedIn s m.addr m.span).isSome then answer s m 0x02 1 0 []
  else if reqHeld s m then holdReq s m
  else match poisonIn s m.addr m.span with
    | some l =>
      let s := logRec s { code := eEccUncorrected, unitCls := 3, unit := sliceOf s l, slot := none, object := l,
                          detail := 0xB7 * 2 ^ 56 + m.src }
      answer s m 0x02 1 0 []
    | none => answer s m 0x02 0 m.len64 (planeRead s m.addr m.span)

/-- A read that nothing holds asks for its lines, and is answered at once where it waits for none. -/
def readReq (s : State) (m : Msg) : State :=
  if !inPlane s m.addr m.span then answer s m 0x02 2 0 []
  else if (fencedIn s m.addr m.span).isSome then answer s m 0x02 1 0 []
  else if reqHeld s m then holdReq s m
  else
    let r := portRead s (portDie s m.src) m.addr m.span
    if r.2.isEmpty then readAnswer r.1 m
    else { r.1 with fab := { r.1.fab with readWaits := r.1.fab.readWaits ++ [(m, r.2)] } }

/-- Peer reads whose lines have all come, or will not come any more, are answered in arrival order. -/
def readsIn (s : State) : State :=
  let ws := s.fab.readWaits.map fun w => (w.1, w.2.filter (lineComes s))
  (ws.filter fun w => w.2.isEmpty).foldl (fun s w => readAnswer s w.1)
    { s with fab := { s.fab with readWaits := ws.filter fun w => !w.2.isEmpty } }

/-- READ_REQ (R351), accepted once its reply can be buffered (R342). -/
def execReadReq (m : Msg) (s : State) : Host.Outcome State Fault Refusal :=
  if forUs s m && replyRoom s m then .next (readReq (takeMsg s m) m) else .next s

/-! ### WRITE_REQ (R352) -/

/-- Lines that reservations given to peers take in slice b. -/
def givenLines (s : State) (b : Nat) : Nat :=
  (s.fab.given.map fun g => ((linesOf g.addr (64 * g.lines)).filter fun l => sliceOf s l = b).length).sum

/-- Units that running commands have reserved in slice b. -/
def stagedUnits (s : State) (b : Nat) : Nat :=
  ((s.disp.slots.filter fun e => e.2.active).map fun e => e.2.stage.getD b 0).sum

/-- The staging pool of every slice (448 units of 1,024 lines, R37) has room for the range beside what is reserved. -/
def poolRoom (s : State) (a n : Nat) : Bool :=
  (linesBySlice s a n).all fun e => decide (1024 * stagedUnits s e.1 + givenLines s e.1 + e.2 ≤ 458752)

/-- Requests are served in arrival order: one waits behind another that waits. -/
def writeReq (s : State) (m : Msg) : State :=
  if !inPlane s m.addr m.span then answer s m 0x04 2 0 []
  else if (s.fab.heldReqs.any fun h => h.kind = 0x03) || !poolRoom s m.addr m.span then holdReq s m
  else
    let s := { s with fab := { s.fab with given := s.fab.given ++ [{ chip := m.src, addr := m.addr, lines := m.len64 }] } }
    answer s m 0x04 0 m.len64 []

/-- WRITE_REQ (R352), accepted once its reply can be buffered (R342). -/
def execWriteReq (m : Msg) (s : State) : Host.Outcome State Fault Refusal :=
  if forUs s m && replyRoom s m then .next (writeReq (takeMsg s m) m) else .next s

/-! ### WRITE (R97, R191, R192, R346, R352, R353) -/

/-- A host or peer write message that came in at base die `die` reaches its lines: resident ones take it, the others pass to their channels. -/
def touchLines (s : State) (die a n : Nat) : State :=
  (linesOf a n).foldl (fun s l => if l < hbmSize then allocate s none none none l 0 true else s)
    (systemAccess s none die false (linesOf a n))

/-- The port that a message of a chip comes in at, on its undetoured route: the last axis on which the two differ, from the far side (R345). -/
def inDie (s : State) (src : Nat) : Nat :=
  (((List.range 4).filterMap fun a =>
    let n := axisSize s a
    let d := (coord (chipNo s) a + n - coord src a) % n
    if d = 0 then none else some (if 2 * d ≤ n then 2 * a + 1 else 2 * a)).getLast?).getD 0

/-- The sequencer gives a write message the next commit number (R97). -/
def nextCommit (s : State) : State := { s with disp := { s.disp with lastNo := s.disp.lastNo + 1 } }

/-- The sequencer is free for a write message (R485, R502). -/
def sequencerFree (s : State) : Bool := s.disp.current = none && s.dbg.snap = .idle

def mseqExpected (s : State) (src : Nat) : Nat := Map.get (fun _ => 0) s.fab.mseqIn (src * 4 + 2)

def mseqAdvance (s : State) (src : Nat) : State :=
  { s with fab := { s.fab with mseqIn := Map.put s.fab.mseqIn (src * 4 + 2) ((mseqExpected s src + 1) % 65536) } }

def dropGiven (s : State) (m : Msg) : State :=
  { s with fab := { s.fab with given := dropFirst (fun g => g.chip = m.src && g.addr = m.addr) s.fab.given } }

/-- The write requests held for room are looked at again, in arrival order (R352). -/
def serveRoom (s : State) : State :=
  (s.fab.heldReqs.filter fun m => m.kind = 0x03).foldl writeReq
    { s with fab := { s.fab with heldReqs := s.fab.heldReqs.filter fun m => m.kind != 0x03 } }

/-- The next WRITE of its source: it waits for the sequencer or for a lock, or is applied with its own commit number, its signal after it; its
reservation is free again. The frame table is written by no peer (R277), so an address in it is refused as one that is not mapped (DESIGN CHOICE,
log 23). -/
def writeMsg (s : State) (m : Msg) : State :=
  if !inPlane s m.addr m.span ∨ inFrameTable s m.addr m.span then answer (serveRoom (mseqAdvance (dropGiven s m) m.src)) m 0x06 2 0 []
  else if reqHeld s m then holdReq s m
  else if !sequencerFree s then { s with disp := { s.disp with waiting := s.disp.waiting ++ [.peer m] } }
  else
    let s := nextCommit (serveRoom (mseqAdvance (dropGiven s m) m.src))
    let s := touchLines (planeWriteMsg s m.addr (m.data.take m.span)) (inDie s m.src) m.addr m.span
    let s := if m.sinc ≠ 0 ∧ 0xC000 ≤ m.sctr then ctrAdd s m.sctr m.sinc else s
    answer s m 0x06 0 0 []

/-- The held-back message of a source that is next in order. -/
def nextHeldBack (s : State) (src : Nat) : Option Msg :=
  s.fab.reorder.find? fun m => m.kind = 0x05 && m.src = src && m.mseq = mseqExpected s src

/-- Messages that were held back for order follow; the count bounds the recursion. -/
def drainWrites (src : Nat) : Nat → State → State
  | 0, s => s
  | n + 1, s =>
    match nextHeldBack s src with
    | none => s
    | some m => drainWrites src n (writeMsg { s with fab := { s.fab with reorder := dropFirst (· = m) s.fab.reorder } } m)

/-- A WRITE arrives: in MSEQ order it is taken, early ones wait, and one taken already is answered again (R346, R353). One that lies 512 or more ahead,
which no source sends, finds no room for reordering: it is discarded, and its source sends it again (DESIGN CHOICE, log 38). -/
def writeIn (s : State) (m : Msg) : State :=
  let d := (m.mseq + 65536 - mseqExpected s m.src) % 65536
  let here : Msg → Bool := fun x => x.kind = 0x05 && x.src = m.src && x.mseq = m.mseq
  if s.fab.heldReqs.any here || s.fab.reorder.any here then s
  else if d = 0 then drainWrites m.src 512 (writeMsg s m)
  else if d < 512 then { s with fab := { s.fab with reorder := s.fab.reorder ++ [m] } }
  else if d < 32768 then s
  else answer s m 0x06 0 0 []

/-- WRITE (R352, R353), accepted once its reply can be buffered (R342). -/
def execWrite (m : Msg) (s : State) : Host.Outcome State Fault Refusal :=
  if forUs s m && replyRoom s m then .next (writeIn (takeMsg s m) m) else .next s

/-! ### Held requests -/

/-- A held request is looked at again. -/
def retryReq (s : State) (m : Msg) : State :=
  if m.kind = 0x01 then readReq s m
  else if m.kind = 0x03 then writeReq s m
  else drainWrites m.src 512 (writeMsg s m)

/-- Look at every held peer request again, in arrival order (R95). -/
def serveHeld (s : State) : State :=
  s.fab.heldReqs.foldl retryReq { s with fab := { s.fab with heldReqs := [] } }

/-- PEER_HOLD_TIMEOUT (R351, R353): the oldest request held on a locked line is refused. A hold for a channel test does not
count (R409). -/
def execPeerHoldTimeout (s : State) : Host.Outcome State Fault Refusal :=
  match s.fab.heldReqs.find? fun m => m.kind != 0x03 && (lockIn s [] m.addr m.span).isSome with
  | none => .next s
  | some m =>
    let s := { s with fab := { s.fab with heldReqs := dropFirst (· = m) s.fab.heldReqs } }
    .next (answer s m (m.kind + 1) 1 0 [])

/-- WRITE_CANCEL (R352). -/
def execWriteCancel (m : Msg) (s : State) : Host.Outcome State Fault Refusal :=
  if forUs s m then .next (serveHeld (dropGiven (takeMsg s m) m)) else .next s

/-- GRANT_EXPIRY (R352). -/
def execGrantExpiry (src : BitVec 16) (s : State) : Host.Outcome State Fault Refusal :=
  .next (serveHeld { s with fab := { s.fab with given := dropFirst (fun g => g.chip = src.toNat) s.fab.given } })

/-! ### Answers to this chip's requests -/

/-- READ_RESP (R351). -/
def execReadResp (m : Msg) (s : State) : Host.Outcome State Fault Refusal :=
  if !forUs s m then .next s
  else
    let s := takeMsg s m
    match s.fab.transfers.find? fun t => !t.host && t.dest = m.src && t.left.any fun r => r.1 = m.addr with
    | none => .next s
    | some t =>
      match t.left.find? fun r => r.1 = m.addr with
      | none => .next s
      | some r =>
        if m.status = 0 then .next (arrived s t r m.data)
        else if m.status = 1 then .next (failTransfer s t true (t.dest * 2 ^ 48 + m.addr))
        else if m.status = 2 then .next (failTransfer s t false m.addr)
        else .next s

/-- PEER_READ_TIMEOUT (R351): the oldest request of core c, or from 1,024 of the prefetch runner of slice c - 1,024, is not answered in time. -/
def execPeerReadTimeout (c : BitVec 11) (s : State) : Host.Outcome State Fault Refusal :=
  match s.fab.transfers.find? fun t => !t.host && t.who.key s = c.toNat && !t.left.isEmpty with
  | none => .next s
  | some t => .next (failTransfer s t true (t.dest * 2 ^ 48 + (t.left.headD (0, 0)).1))

/-- The reservation of an egress is granted. -/
def granted (s : State) (k : Nat) (e : Egress) : State :=
  let s := updCmd s k fun c => { c with egress := updFirst (· = e) (fun e => { e with granted := true }) c.egress }
  match e.core with
  | none => copyDone s k
  | some core => updFlyingAt core e.flight (fun f => { f with grants := 0 }) s

/-- A WRITE leaves for a peer, with the next number of its destination, and is kept until it is acknowledged (R346, R352). -/
def launchWrite (s : State) (u : Unacked) : State :=
  let r := numberMsg s u.msg
  let s := { r.1 with fab := { r.1.fab with unacked := r.1.fab.unacked ++ [{ u with msg := r.2 }] } }
  routeMsg s r.2 none false

/-- A source keeps at most 512 WRITEs unapplied at a destination (R346): one more waits its turn. -/
def offerWrite (s : State) (u : Unacked) : State :=
  if (s.fab.queued.any fun x => x.dst = u.dst) ∨ 512 ≤ (s.fab.unacked.filter fun x => x.dst = u.dst).length then
    { s with fab := { s.fab with queued := s.fab.queued ++ [u] } }
  else launchWrite s u

/-- A WRITE is done with: the next that waits for its destination leaves. -/
def writeGone (s : State) (u : Unacked) : State :=
  let s := { s with fab := { s.fab with unacked := dropFirst (· = u) s.fab.unacked } }
  match s.fab.queued.find? fun x => x.dst = u.dst with
  | none => s
  | some x => launchWrite { s with fab := { s.fab with queued := dropFirst (· = x) s.fab.queued } } x

/-- The running command's egress that waits for a grant of chip `src` at an address. -/
def waitsGrant (s : State) (m : Msg) : Option (Nat × Egress) :=
  s.disp.slots.findSome? fun x =>
    if x.2.phase = .running then
      (x.2.egress.find? fun e => !e.host && !e.granted && e.dest = m.src && e.addr = m.addr).map fun e => (x.1, e)
    else none

/-- WRITE_GRANT (R352). -/
def execWriteGrant (m : Msg) (s : State) : Host.Outcome State Fault Refusal :=
  if !forUs s m then .next s
  else
    let s := takeMsg s m
    match waitsGrant s m with
    | none => .next s
    | some (k, e) =>
      if m.status = 0 then .next (granted s k e)
      else if m.status = 2 then .next (failEgress s k e false e.addr)
      else .next s

/-- Send a WRITE again, with the number it has (R353). -/
def resend (s : State) (u : Unacked) : State := routeMsg s u.msg none false

def updUnacked (s : State) (u : Unacked) (n : Nat) : State :=
  { s with fab := { s.fab with unacked := updFirst (· = u) (fun u => { u with resends := n }) s.fab.unacked } }

/-- A write message is abandoned after its commit: reason 0x97, which the completion record names (R353). -/
def abandonWrite (s : State) (u : Unacked) : State :=
  let s := writeGone s u
  let i := nextIndex s
  let s := linkRec s eLinkDown 0x97 (4 * (nextPort s u.dst).getD 0) u.dst
  updCmd s u.slot fun c => { c with errIdx := some (c.errIdx.getD (BitVec.ofNat 32 i)) }

/-- WRITE_ACK (R352, R353): done, refused and so sent again, or no longer mapped (log 23). One with any other STATUS is rejected (R11, R350). -/
def execWriteAck (m : Msg) (s : State) : Host.Outcome State Fault Refusal :=
  if !forUs s m then .next s
  else
    let s := takeMsg s m
    match s.fab.unacked.find? fun u => u.dst = m.src && u.msg.addr = m.addr with
    | none => .next s
    | some u =>
      if m.status = 0 then .next (writeGone s u)
      else if m.status = 1 then .next (resend (updUnacked s u 0) u)
      else if m.status = 2 then .next (abandonWrite s u)
      else .next s

/-- WRITE_RESEND (R353): after 16 resends without an answer the message is abandoned. -/
def execWriteResend (dst : BitVec 16) (s : State) : Host.Outcome State Fault Refusal :=
  match s.fab.unacked.find? fun u => u.dst = dst.toNat with
  | none => .next s
  | some u => if u.resends < 16 then .next (resend (updUnacked s u (u.resends + 1)) u) else .next (abandonWrite s u)

end Sys2Proof.Machine
end

