-- ==== Sys2Proof/Machine/Collect.lean ====
section
/-!
DEFINITION. Collectives (R354 to R374): descriptors and their checks, plans of each algorithm, the data phase with its pieces and credits,
counts, abandonment, and the registration of groups. How a plan is cut into pieces is log 25.
-/
namespace Sys2Proof.Machine

/-! ### Groups (R354) -/

def grpP (e : BitVec 512) : Nat := fld e 400 16 + 1
def grpRank (e : BitVec 512) : Nat := fld e 384 16
def grpDim (e : BitVec 512) (g : Nat) : Nat := fld e (336 + 4 * g) 4 + 1
def grpSlots (e : BitVec 512) : Nat := fld e 320 16
def grpLog2 (e : BitVec 512) : Nat := fld e 315 5
def grpBase (e : BitVec 512) : Nat := fld e 416 48
/-- Bytes of the count area, and the address of a slot. -/
def grpCounts (e : BitVec 512) : Nat := 64 * ceilDiv (4 * grpP e) 64
def grpSlotAt (e : BitVec 512) (b : Nat) : Nat := grpBase e + grpCounts e + b * 2 ^ grpLog2 e
def grpWindow (e : BitVec 512) : Nat × Nat := (grpBase e, grpCounts e + grpSlots e * 2 ^ grpLog2 e)

def groupOf (s : State) (g : Nat) : Option Group := Map.find? s.fab.groups g
def setGroup (s : State) (g : Nat) (x : Group) : State := { s with fab := { s.fab with groups := Map.put s.fab.groups g x } }

/-! ### Descriptors (R359, R369) -/

def cSrc (d : BitVec 512) : Nat := fld d 464 48
def cDst (d : BitVec 512) : Nat := fld d 416 48
def cCnt (d : BitVec 512) : Nat := fld d 368 48
def cCount (d : BitVec 512) : Nat := fld d 336 32
def cRoot (d : BitVec 512) : Nat := fld d 320 16
def cFeedCtr (d : BitVec 512) : Nat := fld d 304 16
def cDt (d : BitVec 512) : Nat := fld d 280 8
def cAxes (d : BitVec 512) : List Nat := (List.range (fld d 278 2 + 1)).map fun i => fld d (264 + 2 * i) 2
def cRop (d : BitVec 512) : Nat := fld d 260 4
def cAlg (d : BitVec 512) : Nat := fld d 256 4
def cKind (d : BitVec 512) : Nat := fld d 248 8
def cFeed (d : BitVec 512) : Bool := bit d 247
def cWide (d : BitVec 512) : Bool := bit d 246
def cBidir (d : BitVec 512) : Bool := bit d 245
def cBundle (d : BitVec 512) : Bool := bit d 244

def kAllReduce : Nat := 1
def kReduceScatter : Nat := 2
def kAllGather : Nat := 3
def kBroadcast : Nat := 4
def kReduce : Nat := 5
def kAllToAll : Nat := 6
def kAllToAllV : Nat := 7
def kSend : Nat := 8
def kRecv : Nat := 9

def cReduces (d : BitVec 512) : Bool := cKind d = kAllReduce || cKind d = kReduceScatter || cKind d = kReduce
/-- Bytes of an element in memory. -/
def cEl (d : BitVec 512) : Nat := fmtBits (cDt d) / 8
/-- PWIDE has a meaning: a sum of BF16 (R359). -/
def cWidens (d : BitVec 512) : Bool := cDt d = 0x07 && cReduces d && cRop d = 1
/-- Partials are carried in FP32. -/
def cPart (d : BitVec 512) : Bool := cWide d && cWidens d
/-- Bytes of an element in the vector. -/
def cWe (d : BitVec 512) : Nat := if cPart d then 4 else cEl d

def g1Kind (op : Nat) : Nat := match op with | 1 => kAllReduce | 2 => kAllGather | 3 => kBroadcast | _ => kReduceScatter
def g1Dt (t : Nat) : Nat := match t with | 0 => 0x09 | 1 => 0x07 | _ => 0x0A

/-- A G1 descriptor as the VERSION 0x02 descriptor that it stands for (R369). -/
def asV2 (d : BitVec 512) : BitVec 512 :=
  if fld d 0 8 ≠ 1 then d
  else
    let kind := g1Kind (fld d 376 8)
    let dt := g1Dt (fld d 372 4)
    let red := kind = kAllReduce || kind = kReduceScatter
    ofFields 512 [(464, fld d 464 48), (416, fld d 416 48), (336, fld d 384 32 / (fmtBits dt / 8)), (320, fld d 352 16), (280, dt),
      (260, b2n red), (256, if fld d 368 4 = 0 then 2 else 1), (248, kind), (246, b2n (red && dt = 0x07)), (0, 2)]

/-- DIGEST (R373): addresses, FEED_CTR, a dynamic COUNT and the fields without a meaning are zero; a SEND and its RECV agree (log 25). -/
def cDigest (d : BitVec 512) : BitVec 32 :=
  let z := fun (lo len : Nat) (c : Bool) (w : BitVec 512) => if c then setFld w lo len 0 else w
  let w := z 464 48 true (z 416 48 true (z 304 16 true d))
  let w := z 336 32 (cCnt d ≠ 0) (z 368 48 true w)
  let w := z 264 16 (cAlg d ≠ 4) (z 246 1 (!cWidens d) w)
  let w := z (264 + 2 * (cAxes d).length) (8 - 2 * (cAxes d).length) (cAlg d = 4) w
  let w := z 320 16 (cKind d ≠ kBroadcast && cKind d ≠ kReduce) w
  let w := if cKind d = kRecv then setFld w 248 8 kSend else w
  crc32c (bvLE 64 w)

/-! ### Checks at grant (R361, R368 to R370) -/

/-- Algorithms that a kind admits (R360). -/
def cAlgs (kind : Nat) : List Nat :=
  if kind = kAllReduce ∨ kind = kReduceScatter ∨ kind = kAllGather then [1, 2, 3, 4]
  else if kind = kBroadcast then [1, 2, 3]
  else if kind = kReduce then [1, 3]
  else if kind = kAllToAll then [1, 4]
  else [1]

def powerOfTwo (p : Nat) : Bool := 2 ^ log2 p = p

/-- The list of a bundle: SRC, DST and count of each entry (R368). -/
def bundleOf (s : State) (d : BitVec 512) : List (Nat × Nat × Nat) :=
  if cBundle d ∧ cCount d ≤ 256 then (List.range (cCount d)).map fun i =>
    let e : BitVec 128 := BitVec.ofNat 128 (planeNat s (cSrc d + 16 * i) 16)
    (fld e 80 48, fld e 32 48, fld e 0 32)
  else []

/-- The range of a bundle's list, of at most 256 entries (R368). -/
def bundleList (d : BitVec 512) : Nat × Nat := if cBundle d ∧ cCount d ≤ 256 then (cSrc d, 16 * cCount d) else (0, 0)

/-- Elements that this member contributes and receives, by the descriptor alone. -/
def cIn (d : BitVec 512) (p r : Nat) : Nat :=
  let k := cKind d
  if k = kReduceScatter ∨ k = kAllToAll ∨ k = kAllToAllV then p * cCount d
  else if k = kRecv ∨ (k = kBroadcast ∧ r ≠ cRoot d) then 0
  else cCount d

def cOut (d : BitVec 512) (p r : Nat) : Nat :=
  let k := cKind d
  if cCnt d ≠ 0 then (if k = kSend ∨ (k = kReduce ∧ r ≠ cRoot d) then 0 else cCount d)
  else if k = kAllGather ∨ k = kAllToAll ∨ k = kAllToAllV then p * cCount d
  else if k = kSend ∨ (k = kReduce ∧ r ≠ cRoot d) then 0
  else cCount d

/-- The offending fields of a VERSION 0x02 descriptor. -/
def badV2 (s : State) (k : Nat) (d e : BitVec 512) : List Nat :=
  let p := grpP e
  let r := grpRank e
  let kind := cKind d
  let alg := cAlg d
  let isF := cDt d = 0x07 || cDt d = 0x09
  let isI := cDt d = 0x0A || cDt d = 0x0B
  let axes := cAxes d
  let el := cEl d
  let set := jointSet s k
  let inPriv := set.any fun m => ((cmdOf s m).map fun c => inRangeOf c.annex (cFeedCtr d)).getD false
  let hasLaunch := set.any fun m => ((cmdOf s m).map fun c => c.kind == 1).getD false
  let outOk := fun (a n : Nat) => n = 0 || (inPlane s a n && inWrite s k a n)
  let bundle := cBundle d
  spanBad d 8 236 ++ spanBad d 272 6 ++ spanBad d 288 16 ++
  fieldBad 248 (kind = 0 || decide (kRecv < kind) || ((kind = kSend || kind = kRecv) && p != 2)) ++
  fieldBad 256 (!(cAlgs kind).contains alg || (alg = 3 && !powerOfTwo p)) ++
  fieldBad 264 (alg = 4 && (axes.eraseDups.length != axes.length ||
    (List.range 4).any fun g => decide (1 < grpDim e g) && !axes.contains g)) ++
  fieldBad 245 (cBidir d && (alg != 2 || !(kind = kAllReduce || kind = kReduceScatter || kind = kAllGather))) ++
  fieldBad 246 (cWide d && cDt d != 0x07) ++
  fieldBad 260 (decide (5 < cRop d) || (cReduces d != (cRop d != 0)) || (decide (4 ≤ cRop d) && isF)) ++
  fieldBad 280 (!fmtKnown (cDt d) || decide (128 ≤ cDt d) || decide (fmtBits (cDt d) < 8) || (cReduces d && !isF && !isI)) ++
  fieldBad 320 (if kind = kBroadcast ∨ kind = kReduce then decide (p ≤ cRoot d) else cRoot d != 0) ++
  fieldBad 304 (!cFeed d && cFeedCtr d != 0) ++
  fieldBad 368 (cCnt d != 0 && (kind = kAllToAll || !inPlane s (cCnt d) (if kind = kAllToAllV then 4 * p else 4) ||
    ((kind = kAllGather || kind = kAllToAllV) && !outOk (cCnt d + 4 * p) (4 * p)))) ++
  fieldBad 247 (cFeed d && (kind != kAllGather || alg != 2 || cBidir d || cCnt d != 0 || bundle || !inPinned s (cDst d) (p * cCount d * el) ||
    !inPriv || !hasLaunch)) ++
  (if bundle then
    fieldBad 244 (!(kind = kAllReduce || kind = kAllGather || kind = kBroadcast || kind = kReduce) || cCnt d != 0 || cFeed d) ++
    fieldBad 336 (cCount d = 0 || decide (256 < cCount d)) ++
    fieldBad 464 (!inPlane s (cSrc d) (16 * cCount d) ||
      (queueBars s (((cmdOf s k).map (·.queue)).getD 0) (cSrc d) (16 * cCount d)).isSome || (bundleOf s d).any fun x =>
      !(inPlane s x.1 (x.2.2 * el) || (kind = kBroadcast && r != cRoot d)) ||
      !(outOk x.2.1 ((if kind = kAllGather then p else 1) * x.2.2 * el) || (kind = kReduce && r != cRoot d)))
  else
    fieldBad 464 (cIn d p r != 0 && cCnt d = 0 && !inPlane s (cSrc d) (cIn d p r * el)) ++
    fieldBad 416 (!outOk (cDst d) (cOut d p r * el)))

def badV1 (s : State) (k : Nat) (d e : BitVec 512) : List Nat :=
  let v := asV2 d
  let bytes := fld d 384 32
  let p := grpP e
  let r := grpRank e
  let n := bytes
  spanBad d 8 344 ++ fieldBad 376 (fld d 376 8 = 0 || decide (4 < fld d 376 8)) ++ fieldBad 372 (decide (2 < fld d 372 4)) ++
  fieldBad 368 (decide (1 < fld d 368 4)) ++ fieldBad 384 (decide (bytes < 1024) || bytes % cEl v != 0) ++
  fieldBad 352 (if cKind v = kBroadcast then decide (p ≤ cRoot v) else cRoot v != 0) ++
  fieldBad 464 (cIn v p r != 0 && !inPlane s (cSrc v) ((if cKind v = kReduceScatter then p else 1) * n)) ++
  fieldBad 416 (let m := (if cKind v = kAllGather then p else 1) * n; !(inPlane s (cDst v) m && inWrite s k (cDst v) m))

/-- The lowest offending bit of the descriptor of the command in slot k, for group entry e. -/
def collBad (s : State) (k : Nat) (d e : BitVec 512) : Option Nat :=
  if fld d 0 8 = 1 then least (badV1 s k d e)
  else if fld d 0 8 = 2 then least (badV2 s k d e)
  else some 0

/-! ### Plans (R363 to R365) -/

def cut (n p c : Nat) : Nat × Nat := (c * n / p, (c + 1) * n / p)

/-- A move of elements lo to hi − 1 of the vector. -/
def mv (we rank : Nat) (x : Nat × Nat) : CMove := { rank := rank, wire := x.1 * we, len := (x.2 - x.1) * we, at' := x.1 * we }

/-- The reduce-scatter half of a ring: `bound` gives the elements of a chunk; `neg` turns the ring round. -/
def ringRS (we : Nat) (ring : List Nat) (q : Nat) (bound : Nat → Nat × Nat) (neg : Bool) : List CStep :=
  let n := ring.length
  let at' := fun i => ring.getD (i % n) 0
  (List.range (n - 1)).map fun s =>
    if neg then { sends := [mv we (at' (q + n - 1)) (bound ((q + s + 1) % n))],
                  recvs := [mv we (at' (q + 1)) (bound ((q + s + 2) % n))], combine := true }
    else { sends := [mv we (at' (q + 1)) (bound ((q + 2 * n - s - 1) % n))],
           recvs := [mv we (at' (q + n - 1)) (bound ((q + 2 * n - s - 2) % n))], combine := true }

/-- The all-gather half of a ring. -/
def ringAG (we : Nat) (ring : List Nat) (q : Nat) (bound : Nat → Nat × Nat) (neg : Bool) : List CStep :=
  let n := ring.length
  let at' := fun i => ring.getD (i % n) 0
  (List.range (n - 1)).map fun s =>
    if neg then { sends := [mv we (at' (q + n - 1)) (bound ((q + s) % n))],
                  recvs := [mv we (at' (q + 1)) (bound ((q + s + 1) % n))], combine := false }
    else { sends := [mv we (at' (q + 1)) (bound ((q + 2 * n - s) % n))],
           recvs := [mv we (at' (q + n - 1)) (bound ((q + 2 * n - s - 1) % n))], combine := false }

/-- Two plans of equal shape, step by step. -/
def both (a b : List CStep) : List CStep :=
  (a.zip b).map fun x => { sends := x.1.sends ++ x.2.sends, recvs := x.1.recvs ++ x.2.recvs, combine := x.1.combine }

/-- Recursive halving: `bound lo hi` gives the elements of chunks lo to hi − 1. -/
def rhdRS (we p r : Nat) (bound : Nat → Nat → Nat × Nat) : List CStep :=
  (List.range (log2 p)).map fun i =>
    let d := p / 2 ^ (i + 1)
    let base := r / (2 * d) * (2 * d)
    let mine := if r % (2 * d) < d then base else base + d
    let other := if r % (2 * d) < d then base + d else base
    { sends := [mv we (if mine < other then r + d else r - d) (bound other (other + d))],
      recvs := [mv we (if mine < other then r + d else r - d) (bound mine (mine + d))], combine := true }

/-- Recursive doubling. -/
def rhdAG (we p r : Nat) (bound : Nat → Nat → Nat × Nat) : List CStep :=
  (List.range (log2 p)).map fun i =>
    let d := 2 ^ i
    let mine := r / d * d
    let peer := if r / d % 2 = 0 then r + d else r - d
    let other := peer / d * d
    { sends := [mv we peer (bound mine (mine + d))], recvs := [mv we peer (bound other (other + d))], combine := false }

/-- Coordinate and stride of a rank in a group dimension. -/
def gStride (e : BitVec 512) (g : Nat) : Nat := ((List.range g).map (grpDim e)).prod
def gCoord (e : BitVec 512) (r g : Nat) : Nat := r / gStride e g % grpDim e g

/-- The ranks that share every other coordinate. -/
def gRing (e : BitVec 512) (r g : Nat) : List Nat :=
  (List.range (grpDim e g)).map fun c => r - gCoord e r g * gStride e g + c * gStride e g

/-- The phases of DIMRING: the ring, the rank's place in it, and its segment in units. -/
def dimPhases (e : BitVec 512) (r : Nat) : List Nat → Nat × Nat → List (List Nat × Nat × (Nat × Nat))
  | [], _ => []
  | g :: rest, seg =>
    let d := grpDim e g
    let c := cut (seg.2 - seg.1) d (gCoord e r g)
    (gRing e r g, gCoord e r g, seg) :: dimPhases e r rest (seg.1 + c.1, seg.1 + c.2)

/-- Chunk c of a segment for a ring of d. -/
def segChunk (pre : Nat → Nat) (seg : Nat × Nat) (d c : Nat) : Nat × Nat :=
  let x := cut (seg.2 - seg.1) d c
  (pre (seg.1 + x.1), pre (seg.1 + x.2))

/-- The place of rank j's block where blocks lie in the order of the phases (log 25). -/
def dimPos (e : BitVec 512) (axes : List Nat) (j : Nat) : Nat := axes.foldl (fun a g => a * grpDim e g + gCoord e j g) 0

/-- What a member plans with: group size and rank, the group's entry, the descriptor, block lengths by rank, and send counts. -/
structure CPlan where
  p     : Nat
  r     : Nat
  e     : BitVec 512
  d     : BitVec 512
  n     : Nat
  recv  : Nat → Nat
  sendN : Nat → Nat

def CPlan.others (c : CPlan) : List Nat := (List.range c.p).filter (· != c.r)

/-- Position of a block, and the elements before a position. -/
def CPlan.pos (c : CPlan) (j : Nat) : Nat := if cAlg c.d = 4 then dimPos c.e (cAxes c.d) j else j
def CPlan.pre (c : CPlan) (x : Nat) : Nat := (((List.range c.p).filter fun j => decide (c.pos j < x)).map c.recv).sum

/-- Where a DIRECT member keeps what rank i sent. -/
def storeAt (i : Nat) : Nat := (i + 1) * 2 ^ 40

/-- One exchange with every other member: elements sent to rank j, and elements received from rank i with their place there. -/
def exchange (c : CPlan) (out : Nat → Option (Nat × Nat)) (inn : Nat → Option (Nat × Nat)) (wireOut wireIn at' : Nat → Nat) : List CStep :=
  let we := cWe c.d
  [{ sends := c.others.filterMap fun j => (out j).map fun x => { rank := j, wire := wireOut j * we, len := (x.2 - x.1) * we, at' := x.1 * we },
     recvs := c.others.filterMap fun i => (inn i).map fun x => { rank := i, wire := wireIn i * we, len := (x.2 - x.1) * we, at' := at' i },
     combine := false }]

/-- Parts of two intervals in common. -/
def inter (a b : Nat × Nat) : Nat × Nat := (max a.1 b.1, max (max a.1 b.1) (min a.2 b.2))

/-- After a reduce-scatter over two half vectors, or in the phases of DIMRING, each block goes to its own rank (R360; log 25). -/
def rehome (c : CPlan) (own : Nat → List (Nat × Nat)) : CStep :=
  let we := cWe c.d
  let block := fun j => (j * c.n, (j + 1) * c.n)
  { sends := c.others.flatMap fun j => (own c.r).map fun x => mv we j (inter x (block j)),
    recvs := c.others.flatMap fun i => (own i).map fun x => mv we i (inter x (block c.r)), combine := false }

/-- Binomial tree of a BROADCAST under RHD, by distance from the root. -/
def treeCast (c : CPlan) : List CStep :=
  let we := cWe c.d
  let rel := (c.r + c.p - cRoot c.d) % c.p
  let peer := fun x => (x + cRoot c.d) % c.p
  (List.range (log2 c.p)).map fun i =>
    let d := c.p / 2 ^ (i + 1)
    { sends := if rel % (2 * d) = 0 then [mv we (peer (rel + d)) (0, c.n)] else [],
      recvs := if rel % (2 * d) = d then [mv we (peer (rel - d)) (0, c.n)] else [], combine := false }

/-- A BROADCAST along the ring. -/
def ringCast (c : CPlan) : List CStep :=
  let we := cWe c.d
  let rel := (c.r + c.p - cRoot c.d) % c.p
  [{ sends := [], recvs := if rel = 0 then [] else [mv we ((c.r + c.p - 1) % c.p) (0, c.n)], combine := false },
   { sends := if rel + 1 < c.p then [mv we ((c.r + 1) % c.p) (0, c.n)] else [], recvs := [], combine := false }]

/-- The steps of a member. -/
def planSteps (c : CPlan) : List CStep :=
  let d := c.d
  let we := cWe d
  let k := cKind d
  let ring := List.range c.p
  let whole := fun i => cut c.n c.p i
  let span' := fun (pre : Nat → Nat) lo hi => (pre lo, pre hi)
  let half := c.n / 2
  let lower := fun i => cut half c.p i
  let upper := fun i => let x := cut (c.n - half) c.p i; (half + x.1, half + x.2)
  let total := c.p * c.n
  let all := fun (_ : Nat) => some (0, c.n)
  let zero := fun (_ : Nat) => 0
  let block := fun i => (c.pre (c.pos i), c.pre (c.pos i + 1))
  if k = kAllReduce ∨ k = kReduce then
    match cAlg d with
    | 1 =>
      if k = kReduce then
        exchange c (fun j => if j = cRoot d then some (0, c.n) else none) (fun _ => if c.r = cRoot d then some (0, c.n) else none) zero zero storeAt
      else exchange c all all zero zero storeAt
    | 2 =>
      if cBidir d then both (ringRS we ring c.r lower false) (ringRS we ring c.r upper true) ++
        both (ringAG we ring c.r lower false) (ringAG we ring c.r upper true)
      else ringRS we ring c.r whole false ++ ringAG we ring c.r whole false
    | 3 =>
      let b := fun lo hi => ((whole lo).1, (whole (hi - 1)).2)
      rhdRS we c.p c.r b ++ rhdAG we c.p c.r b
    | _ =>
      let ph := dimPhases c.e c.r (cAxes d) (0, c.n)
      (ph.flatMap fun x => ringRS we x.1 x.2.1 (segChunk id x.2.2 x.1.length) false) ++
        ph.reverse.flatMap fun x => ringAG we x.1 x.2.1 (segChunk id x.2.2 x.1.length) false
  else if k = kReduceScatter then
    match cAlg d with
    | 1 => exchange c (fun j => some (j * c.n, (j + 1) * c.n)) all (fun j => j * c.n) (fun _ => c.r * c.n) storeAt
    | 2 =>
      if cBidir d then
        let h := total / 2
        let lo := fun i => cut h c.p i
        let up := fun i => let x := cut (total - h) c.p i; (h + x.1, h + x.2)
        both (ringRS we ring c.r lo false) (ringRS we ring c.r up true) ++ [rehome c fun i => [lo i, up i]]
      else ringRS we ring c.r (fun i => (i * c.n, (i + 1) * c.n)) false
    | 3 => rhdRS we c.p c.r fun lo hi => (lo * c.n, hi * c.n)
    | _ => ((dimPhases c.e c.r (cAxes d) (0, c.p)).flatMap fun x =>
        ringRS we x.1 x.2.1 (segChunk (· * c.n) x.2.2 x.1.length) false) ++ [rehome c fun i => [(c.pos i * c.n, (c.pos i + 1) * c.n)]]
  else if k = kAllGather then
    match cAlg d with
    | 1 => exchange c (fun _ => some (block c.r)) (fun i => some (block i)) (fun _ => (block c.r).1) (fun i => (block i).1)
        (fun i => (block i).1 * we)
    | 2 =>
      if cBidir d then
        let mid := fun i => ((block i).1 + (block i).2) / 2
        both (ringAG we ring c.r (fun i => ((block i).1, mid i)) false) (ringAG we ring c.r (fun i => (mid i, (block i).2)) true)
      else ringAG we ring c.r block false
    | 3 => rhdAG we c.p c.r (span' c.pre)
    | _ => (dimPhases c.e c.r (cAxes d) (0, c.p)).reverse.flatMap fun x =>
        ringAG we x.1 x.2.1 (segChunk c.pre x.2.2 x.1.length) false
  else if k = kBroadcast then
    match cAlg d with
    | 1 => exchange c (fun _ => if c.r = cRoot d then some (0, c.n) else none) (fun i => if i = cRoot d then some (0, c.n) else none)
        zero zero zero
    | 2 => ringCast c
    | _ => treeCast c
  else if k = kSend then exchange c all (fun _ => none) zero zero zero
  else if k = kRecv then exchange c (fun _ => none) (fun i => some (0, c.recv i)) zero zero zero
  else
    let preS := fun j => ((List.range j).map c.sendN).sum
    exchange c (fun j => some (preS j, preS (j + 1))) (fun i => some (0, c.recv i)) zero zero storeAt

/-! ### Combining (R362) -/

/-- a ⊕ b on elements of `code`. -/
def combineOp (denorm rop code a b : Nat) : Nat :=
  let n := fmtBits code
  if isFloat code then
    let x := readElem denorm code a
    let y := readElem denorm code b
    writeElem denorm code .rne false (match rop with | 2 => x.max2 y | 3 => x.min2 y | _ => x.add y)
  else redFn denorm (match rop with | 2 => 3 | 3 => 2 | 4 => 6 | 5 => 7 | _ => 1) n a b

/-- The code that partials have. -/
def cCode (d : BitVec 512) : Nat := if cPart d then 0x09 else cDt d

/-- Combine two byte strings element by element. -/
def combineBytes (denorm : Nat) (d : BitVec 512) (as bs : List Byte) : List Byte :=
  let n := cWe d
  let xs := chunksOf n (as.length + 1) as
  let ys := chunksOf n (bs.length + 1) bs
  (xs.zip ys).flatMap fun x => natLE n (combineOp denorm (cRop d) (cCode d) (leNat x.1) (leNat x.2))

/-- Contributions as they enter the vector, and results as they leave it: BF16 widened and rounded where partials are FP32. -/
def widen (d : BitVec 512) (bs : List Byte) : List Byte :=
  if cPart d then (chunksOf 2 (bs.length + 1) bs).flatMap fun x => 0 :: 0 :: x else bs

def narrow (denorm : Nat) (d : BitVec 512) (bs : List Byte) : List Byte :=
  if cPart d then (chunksOf 4 (bs.length + 1) bs).flatMap fun x =>
    natLE 2 (writeElem denorm 0x07 .rne false (val32 denorm (leNat x)))
  else bs

/-! ### Instances -/

def instOf (s : State) (k : Nat) : Option Inst := s.fab.insts.find? fun i => i.slot = k
def instAt (s : State) (g : Nat) (q : BitVec 32) : Option Inst := s.fab.insts.find? fun i => i.group = g && i.gseq = q
def updInst (s : State) (k : Nat) (f : Inst → Inst) : State :=
  { s with fab := { s.fab with insts := mapIf (fun i => i.slot = k) f s.fab.insts } }

def instEntry (s : State) (i : Inst) : BitVec 512 := ((groupOf s i.group).map (·.entry)).getD 0
def chipAt (s : State) (g r : Nat) : Nat := ((groupOf s g).map fun x => x.members.getD r 0).getD 0

def Inst.num (m : Map Nat) (r : Nat) : Nat := Map.get (fun _ => 0) m r
def Inst.dynamic (i : Inst) : Bool := cCnt i.desc ≠ 0

/-- The base die of the collective unit that runs an instance: that of the slice that holds the group's window. -/
def unitDie (s : State) (i : Inst) : Nat := sliceOf s (grpBase (instEntry s i))

/-- What the member plans with. -/
def planCtx (s : State) (i : Inst) : CPlan :=
  let e := instEntry s i
  let d := i.desc
  let own := Inst.num i.counts (grpRank e)
  let static := if cBundle d then (i.bundle.map (·.2.2)).sum else cCount d
  let n := if i.dynamic then own else static
  { p := grpP e, r := grpRank e, e := e, d := d, n := n,
    recv := fun j => if i.dynamic then Inst.num i.counts j else n,
    sendN := fun j => if i.dynamic then i.sends.getD j 0 else n }

/-- Open the instance of a granted COLLECTIVE (R356, R358). -/
def openInst (s : State) (k : Nat) (c : Cmd) : State :=
  let d := asV2 (BitVec.ofNat 512 (planeNat s (fld c.record 416 48) 64))
  let i : Inst :=
    { slot := k, group := c.group, gseq := BitVec.ofNat 32 c.gseq, desc := d, bundle := bundleOf s d, plan := [], vec := [], waits := [],
      combine := false, out := [], window := [], counts := [], sends := [], counted := false, started := false, inStep := false, wrote := false,
      credits := [], unret := [], srcs := [], fresh := false, granted := [], owed := [] }
  { s with fab := { s.fab with insts := s.fab.insts ++ [i] } }

/-- An instance's message of a kind to a rank. -/
def instMsg (s : State) (i : Inst) (rank kind len : Nat) (fs : List (Nat × Nat)) (data : List Byte) : State :=
  sendMsg s (mkMsg s (chipAt s i.group rank) kind len
    ([(64, i.gseq.toNat), (52, i.group), (36, grpRank (instEntry s i))] ++ fs) data)

/-! ### Pieces and credits (R357) -/

/-- A move cut into pieces of a slot. -/
def movePieces (size : Nat) (m : CMove) : List CMove :=
  let lo := lineOf m.wire
  (List.range (ceilDiv (m.wire + m.len - lo) size)).map fun i =>
    let a := max m.wire (lo + size * i)
    let b := min (m.wire + m.len) (lo + size * (i + 1))
    { m with wire := a, len := b - a, at' := m.at' + (a - m.wire) }

def stepPieces (size : Nat) (ms : List CMove) : List CMove := (ms.filter fun m => m.len != 0).flatMap (movePieces size)

/-- The line-aligned piece that carries a move's bytes. -/
def pieceOf (i : Inst) (m : CMove) : CPiece :=
  let lo := lineOf m.wire
  let n := 64 * ceilDiv (m.wire + m.len - lo) 64
  { rank := m.rank, off := lo, data := (List.range n).map fun x => Map.get (fun _ => 0) i.vec (m.at' + x - (m.wire - lo)) }

/-- Send the pieces for which credits are held. -/
def pumpPieces (s : State) (k : Nat) : State :=
  match instOf s k with
  | none => s
  | some i =>
    i.out.foldl (fun s p =>
      match instOf s k with
      | none => s
      | some j =>
        if Inst.num j.credits p.rank = 0 then s
        else
          let s := updInst s k fun x => { x with
            out := dropFirst (· = p) x.out, credits := Map.put x.credits p.rank (Inst.num x.credits p.rank - 1),
            unret := Map.put x.unret p.rank (Inst.num x.unret p.rank + 1) }
          let s := countQueue s k 3 p.data.length
          instMsg s i p.rank 0x10 (p.data.length / 64) [(96, (cDigest i.desc).toNat), (0, p.off / 64)] p.data) s

/-- The source still has pieces to send to this member. -/
def Inst.expects (i : Inst) (r : Nat) : Bool :=
  i.waits.any (fun m => m.rank = r) || i.plan.any fun st => st.recvs.any fun m => m.rank = r && m.len != 0

/-- Give credits to a rank. -/
def giveOne (k n : Nat) (slots : Bool) (s : State) (r : Nat) : State :=
  match instOf s k with
  | none => s
  | some i =>
    if n = 0 then s
    else
      let s := updInst s k fun x => { x with
        granted := if slots then Map.put x.granted r (Inst.num x.granted r + n) else x.granted,
        owed := Map.put x.owed r (Inst.num x.owed r - n) }
      instMsg s i r 0x11 0 [(0, n)] []

/-- Where a source stands among those of the present step for a free slot: those that have had none, then those that hold fewer, then the lower
ranks (R357). -/
def Inst.turn (i : Inst) (r : Nat) : Int :=
  ((if (Map.find? i.granted r).isSome then 2 ^ 40 else 0) + Inst.num i.granted r * 2 ^ 20 + r : Nat)

/-- The source that takes a free slot, of those of the present step with pieces still to send; `i` counts the slots given in this round, `m` holds
their numbers, and `i0` is the instance before it (R357). Where a step has changed the sources the slots are divided evenly. Later one goes to a source
that holds none, which happens where slots are fewer than sources, and otherwise to a source that has freed one. A source that holds a slot is given no
more than its pieces have freed, so that a credit which returns to it shows one of its pieces consumed (R371; DEDUCED, log 25). -/
def Inst.heir (i0 i : Inst) (m : Map Nat) : Option Nat :=
  let rs := i.srcs.filter i.expects
  let own := fun r => decide (Inst.num m r < Inst.num i0.owed r)
  if i.fresh then minBy? i.turn (rs.filter fun r => decide (Inst.num i0.granted r = 0) || own r)
  else match minBy? i.turn (rs.filter fun r => decide (Inst.num i.granted r = 0)) with
    | some r => some r
    | none => minBy? i.turn (rs.filter own)

/-- `n` free slots given out: how many each source is granted. -/
def shareOut (i0 : Inst) : Nat → Inst → Map Nat → Map Nat
  | 0, _, m => m
  | n + 1, i, m => match i0.heir i m with
    | none => m
    | some r => shareOut i0 n { i with granted := Map.put i.granted r (Inst.num i.granted r + 1) } (Map.put m r (Inst.num m r + 1))

/-- Grant free slots: evenly to the sources of a step that has changed them, and then each slot that a piece frees to its source (R357). A source
with nothing more to send has its credits returned at once. -/
def giveCredits (s : State) (k : Nat) : State :=
  match instOf s k with
  | none => s
  | some i =>
    let cap := grpSlots (instEntry s i)
    let ended := sortBy' ((i.owed.map (·.1)).filter fun r => !i.expects r)
    let s := ended.foldl (fun s r => giveOne k (Inst.num i.owed r) false s r) s
    let free := cap - (i.granted.filter fun e => i.expects e.1).foldl (fun a e => a + e.2) 0
    let s := (shareOut i free i []).foldl (fun s e => giveOne k e.2 true s e.1) s
    updInst s k fun x => { x with fresh := false }
where
  /-- Ranks in ascending order. -/
  sortBy' (l : List Nat) : List Nat := l.foldl (fun r a => ins a r) []
  ins (a : Nat) : List Nat → List Nat
    | [] => [a]
    | b :: t => if a < b then a :: b :: t else b :: ins a t

/-- The bytes of the vector. -/
def Inst.bytes (i : Inst) (a n : Nat) : List Byte := (span a n).map (Map.get (fun _ => 0) i.vec)

/-- A slot of the window whose piece the present step waits for, with the move that waits. -/
def Inst.due (i : Inst) : Option (CSlot × CMove) :=
  i.window.findSome? fun p => (i.waits.find? fun m => m.rank = p.rank && lineOf m.wire = p.off).map fun m => (p, m)

/-- The lines of the pieces that the present step waits for. -/
def dueLines (s : State) (i : Inst) : List Nat :=
  (i.window.filter fun p => i.waits.any fun m => m.rank = p.rank && lineOf m.wire = p.off).flatMap fun p =>
    linesOf (grpSlotAt (instEntry s i) p.slot) p.len

/-- Consume a piece whose bytes are `data`. -/
def Inst.take (denorm : Nat) (i : Inst) (p : CSlot) (m : CMove) (data : List Byte) : Inst :=
  let put := if i.combine then combineBytes denorm i.desc (i.bytes m.at' m.len) data else data
  { i with window := dropFirst (· = p) i.window, waits := dropFirst (· = m) i.waits, vec := Map.putRun i.vec m.at' put,
           granted := Map.put i.granted m.rank (Inst.num i.granted m.rank - 1),
           owed := Map.put i.owed m.rank (Inst.num i.owed m.rank + 1) }

/-- Consume the pieces of the window that are due, and give the first lost line that stops it (R405). The count bounds the recursion. -/
def takePieces (denorm : Nat) (s : State) : Nat → Inst → Inst × Option Nat
  | 0, i => (i, none)
  | n + 1, i => match i.due with
    | none => (i, none)
    | some (p, m) =>
      let a := grpSlotAt (instEntry s i) p.slot
      match poisonIn s a p.len with
      | some l => (i, some l)
      | none => takePieces denorm s n (i.take denorm p m (planeRead s (a + (m.wire - p.off)) m.len))

/-! ### Results (R360, R368, R370, R371) -/

/-- The reduced bytes of a DIRECT member: contributions in rank order. -/
def directFold (denorm : Nat) (c : CPlan) (i : Inst) (own n : Nat) : List Byte :=
  let x := fun j => if j = c.r then i.bytes own n else i.bytes (storeAt j) n
  (List.range (c.p - 1)).foldl (fun a j => combineBytes denorm c.d a (x (j + 1))) (x 0)

/-- The bytes that DST receives, as one string. -/
def resultBytes (denorm : Nat) (c : CPlan) (i : Inst) : List Byte :=
  let d := c.d
  let we := cWe d
  let k := cKind d
  let preS := ((List.range c.r).map c.sendN).sum
  if k = kAllReduce ∨ k = kReduce then
    if k = kReduce ∧ c.r ≠ cRoot d then []
    else narrow denorm d (if cAlg d = 1 then directFold denorm c i 0 (c.n * we) else i.bytes 0 (c.n * we))
  else if k = kReduceScatter then
    narrow denorm d (if cAlg d = 1 then directFold denorm c i (c.r * c.n * we) (c.n * we) else i.bytes (c.r * c.n * we) (c.n * we))
  else if k = kAllGather then
    (List.range c.p).flatMap fun j => i.bytes (c.pre (c.pos j) * we) (c.recv j * we)
  else if k = kBroadcast then i.bytes 0 (c.n * we)
  else if k = kSend then []
  else if k = kRecv then i.bytes 0 (c.recv (1 - c.r) * we)
  else (List.range c.p).flatMap fun j =>
    if j = c.r then i.bytes (preS * we) (c.recv j * we) else i.bytes (storeAt j) (c.recv j * we)

/-- A bundle's result goes to the entries' own destinations. -/
def bundlePieces (c : CPlan) (i : Inst) (bs : List Byte) : List (Nat × List Byte) :=
  let el := cEl c.d
  let pre := fun x => (((i.bundle.take x).map (·.2.2)).sum) * el
  let copies := if cKind c.d = kAllGather then c.p else 1
  i.bundle.zipIdx.map fun x =>
    (x.1.2.1, (List.range copies).flatMap fun j => (bs.drop (j * c.n * el + pre x.2)).take (x.1.2.2 * el))

/-- The pieces of DST and of the received counts. -/
def resultPieces (denorm : Nat) (c : CPlan) (i : Inst) : List (Nat × List Byte) :=
  let bs := resultBytes denorm c i
  let cnt := if i.dynamic ∧ (cKind c.d = kAllGather ∨ cKind c.d = kAllToAllV) then
      [(cCnt c.d + 4 * c.p, (List.range c.p).flatMap fun j => natLE 4 (c.recv j))] else []
  (if cBundle c.d then bundlePieces c i bs else [(cDst c.d, bs)]) ++ cnt

/-- The member is done: DST is final and every credit has been returned (R371). -/
def collDone (s : State) (k : Nat) : State :=
  match instOf s k with
  | none => s
  | some i => if i.wrote ∧ i.out.isEmpty ∧ i.unret.all (fun e => e.2 = 0) then finish s k else s

/-- DESC_INVALID in the layout of R374; `low` is the lowest bit of the field. -/
def failDesc (s : State) (k low : Nat) : State :=
  match cmdOf s k with
  | none => s
  | some c => failWith s k { code := eDescInvalid, unitCls := 7, unit := 0, slot := some k, object := fld c.record 416 48,
                             detail := 0x8F * 2 ^ 56 + low }

/-- Results are staged, where the channel sets of the command hold them (R64). -/
def collStage (s : State) (k : Nat) (i : Inst) (ps : List (Nat × List Byte)) : State :=
  if ps.any fun p => (csetBad s k p.1 p.2.length).isSome then failDesc s k (if cBundle i.desc then 464 else 416)
  else stageAll s k ps none

/-- Gather-feed: a block is in DST and FEED_CTR is signalled (R370). -/
def feedBlock (s : State) (k : Nat) (i : Inst) (j : Nat) : State :=
  let c := planCtx s i
  let n := c.n * cWe c.d
  let s := collStage s k i [(cDst i.desc + j * n, i.bytes (j * n) n)]
  let s := if live s k then signalOf s k (cFeedCtr i.desc) 1 none none (unitDie s i) else s
  s

/-- The plan is finished: the results are staged. -/
def collWrite (s : State) (k : Nat) : State :=
  match instOf s k with
  | none => s
  | some i =>
    if i.wrote then s
    else
      let s1 := updInst s k fun x => { x with wrote := true }
      if cFeed i.desc then s1
      else collStage s1 k i (resultPieces (denormOf' s k) (planCtx s i) i)
where
  /-- DENORM of the command's epoch. -/
  denormOf' (s : State) (k : Nat) : Nat := ((cmdOf s k).map fun m => fld m.modeAt 6 2).getD 1

/-- Go through the steps whose data is in; the count bounds the recursion. -/
def collSteps (denorm k : Nat) : Nat → State → State
  | 0, s => s
  | n + 1, s =>
    match instOf s k with
    | none => s
    | some i0 =>
      let s := systemRead s (some k) (unitDie s i0) (dueLines s i0)
      let (i, lost) := takePieces denorm s (i0.window.length + 1) i0
      let s := updInst s k fun _ => i
      if !i.started ∨ i.wrote ∨ !live s k then s
      else if let some l := lost then failPoison s k l none 0
      else if !i.waits.isEmpty then s
      else
        let p := grpP (instEntry s i)
        let s := if cFeed i.desc ∧ i.inStep then
            feedBlock s k i ((grpRank (instEntry s i) + 1 + i.plan.length) % p) else s
        match i.plan with
        | [] => collWrite s k
        | st :: rest =>
          let size := 2 ^ grpLog2 (instEntry s i)
          let srcs := ((stepPieces size st.recvs).map (·.rank)).eraseDups
          let s := updInst s k fun x => { x with
            srcs := if srcs.isEmpty then x.srcs else srcs, fresh := x.fresh || (!srcs.isEmpty && srcs != x.srcs),
            plan := rest, waits := stepPieces size st.recvs, combine := st.combine, inStep := true,
            out := x.out ++ (stepPieces size st.sends).map (pieceOf x) }
          collSteps denorm k n s

/-- Let an instance go on as far as it can. -/
def collRun (s : State) (k : Nat) : State :=
  match instOf s k with
  | none => s
  | some i =>
    let denorm := ((cmdOf s k).map fun m => fld m.modeAt 6 2).getD 1
    collDone (pumpPieces (giveCredits (collSteps denorm k (i.plan.length + 2) s) k) k) k

/-! ### Counts (R366, R367) -/

/-- The ranks whose counts the member needs. -/
def needCounts (c : CPlan) : List Nat := if cKind c.d = kSend then [] else c.others

/-- COUNT_MISMATCH: reason, rank, count. -/
def countBad (c : CPlan) (i : Inst) : Option (Nat × Nat × Nat) :=
  let k := cKind c.d
  let cap := cCount c.d
  if k = kAllReduce ∨ k = kReduceScatter ∨ k = kBroadcast ∨ k = kReduce then
    match c.others.find? fun j => Inst.num i.counts j != c.n with
    | some j => some (0x88, j, Inst.num i.counts j)
    | none => if cap < c.n then some (0x89, c.r, c.n) else none
  else if k = kRecv then
    (c.others.find? fun j => decide (cap < Inst.num i.counts j)).map fun j => (0x8A, j, Inst.num i.counts j)
  else if k = kSend then none
  else
    let t := ((List.range c.p).map c.recv).sum
    if cap < t then some (0x89, c.r, t) else none

def failColl (s : State) (i : Inst) (code reason chip low : Nat) : State :=
  failCmd (groupRec s i.slot code reason i.gseq.toNat i.group chip low) i.slot

/-- Every count is in: the plan is made and the data phase begins. -/
def collStart (s : State) (k : Nat) : State :=
  match instOf s k with
  | none => s
  | some i =>
    let c := planCtx s i
    if i.started ∨ !i.counted ∨ !(needCounts c).all (fun j => !i.dynamic || (Map.find? i.counts j).isSome) then s
    else
      match if i.dynamic then countBad c i else none with
      | some (reason, r, n) =>
        failColl s i eCountMismatch reason (if r = c.r then chipNo s else chipAt s i.group r) n
      | none =>
        let at' := if cKind c.d = kAllGather then c.pre (c.pos c.r) * cWe c.d else 0
        let moved := if at' = 0 then i.vec else i.vec.map fun e => (e.1 + at', e.2)
        let s := updInst s k fun x => { x with started := true, plan := planSteps c, vec := moved }
        let s := if cFeed i.desc then
            match instOf s k with
            | none => s
            | some j => feedBlock s k j c.r
          else s
        collRun s k

/-! ### COLLECTIVE (R359, R371) -/

/-- The plane ranges of this member's contribution. -/
def srcRanges (c : CPlan) (i : Inst) : List (Nat × Nat) :=
  let el := cEl c.d
  let k := cKind c.d
  let n := if k = kReduceScatter ∨ k = kAllToAll then c.p * c.n else if k = kAllToAllV then ((List.range c.p).map c.sendN).sum else c.n
  if k = kRecv ∨ (k = kBroadcast ∧ c.r ≠ cRoot c.d) then []
  else if cBundle c.d then i.bundle.map fun x => (x.1, x.2.2 * el)
  else [(cSrc c.d, n * el)]

/-- The counts at CNT_ADDR: this member's own, and what it sends to each member (R366). -/
def cntRange (c : CPlan) : List (Nat × Nat) :=
  if cCnt c.d = 0 then [] else [(cCnt c.d, if cKind c.d = kAllToAllV then 4 * c.p else 4)]

def sendCounts (s : State) (i : Inst) (c : CPlan) : State :=
  if !i.dynamic ∨ cKind c.d = kRecv then s
  else c.others.foldl (fun s j =>
    instMsg s i j 0x12 0 [(0, if cKind c.d = kAllToAllV then c.sendN j else c.n)] []) s

/-- The member's own count, as its own contribution to its result. -/
def ownCount (s : State) (k : Nat) (e d : BitVec 512) : Nat :=
  let at' := cCnt d + (if cKind d = kAllToAllV then 4 * grpRank e else 0)
  leNat (seenRead s k at' 4)

/-- A member's count lands in the count area of the group's window (R357). -/
def landCount (s : State) (e : BitVec 512) (rank n : Nat) : State :=
  if rank < grpP e then planeWrite s (grpBase e + 4 * rank) (natLE 4 n) else s

/-- COLLECTIVE: the member reads its contribution and its counts, and its instance begins. -/
def execCollective (k : SlotId) (s : State) : Host.Outcome State Fault Refusal :=
  let n := k.toNat
  match atWork s n 0x03, instOf s n with
  | some cmd, some i0 =>
    let e := instEntry s i0
    let own := if i0.dynamic then Map.put [] (grpRank e) (ownCount s n e i0.desc) else []
    let sends := if i0.dynamic ∧ cKind i0.desc = kAllToAllV then
        (List.range (grpP e)).map fun j => leNat (seenRead s n (cCnt i0.desc + 4 * j) 4) else []
    let i := { i0 with counts := own, sends := sends }
    let c := planCtx s i
    let ranges := srcRanges c i ++ cntRange c
    if (cFeed i.desc && !cmd.based) || ranges.any (fun r => heldFor s n r.1 r.2) then .next s
    else if ranges.any fun r => !inPlane s r.1 (max 1 r.2) && r.2 != 0 then
      .next (failDesc s n 464)
    else if (srcRanges c i).any fun r => (csetBad s n r.1 r.2).isSome then .next (failDesc s n 464)
    else if (cntRange c).any fun r => (csetBad s n r.1 r.2).isSome then .next (failDesc s n 368)
    else match ranges.findSome? fun r => fencedIn s r.1 r.2 with
      | some l => .next (failFenced s n 4 (channelOf s l))
      | none =>
        let s := systemRead s (some n) (unitDie s i0) (ranges.flatMap fun r => linesOf r.1 r.2)
        if !live s n then .next s
        else match ranges.findSome? fun r => seenPoison s n r.1 r.2 with
        | some l => .next (failPoison s n l none 0)
        | none =>
          let bytes := (srcRanges c i).flatMap fun r => seenRead s n r.1 r.2
          let early := ((groupOf s i.group).map (·.early)).getD []
          let counts := (early.filter fun x => x.1 = i.gseq).foldl (fun m x => Map.put m x.2.1 x.2.2) own
          let s := sheafAccess (begun s n) (some n) .cmd (ranges.flatMap fun r => linesOf r.1 r.2) false
          let s := updInst s n fun x => { x with
            counts := counts, sends := sends, counted := true, vec := Map.putRun [] 0 (widen i.desc bytes) }
          let s := match groupOf s i.group with
            | none => s
            | some g => setGroup s i.group { g with early := g.early.filter fun x => x.1 != i.gseq }
          let s := (early.filter fun x => x.1 = i.gseq).foldl (fun s x => landCount s e x.2.1 x.2.2) s
          .next (collStart (sendCounts s i c) n)
  | _, _ => .next s

/-! ### Messages (R357, R366, R373) -/

end Machine
def Msg.gseq (m : Msg) : BitVec 32 := BitVec.ofNat 32 (Machine.fld m.hdr 64 32)
def Msg.group (m : Msg) : Nat := Machine.fld m.hdr 52 12
def Msg.srank (m : Msg) : Nat := Machine.fld m.hdr 36 16
namespace Machine

/-- The instance that a message is for, while it is undecided. -/
def instFor (s : State) (m : Msg) : Option Inst :=
  (instAt s m.group m.gseq).bind fun i => if live s i.slot then some i else none

/-- The GSEQ has ended here (R356). -/
def gseqPast (x : Group) (q : BitVec 32) : Bool := 1 ≤ (x.next - q).toNat && decide ((x.next - q).toNat ≤ 2 ^ 31)

/-- The lowest slot of the window that holds no piece. -/
def freeSlot' (e : BitVec 512) (i : Inst) : Option Nat := (List.range (grpSlots e)).find? fun b => !i.window.any fun p => p.slot = b

/-- PIECE (R357, R373): it goes into the window. One that its sender had no credit for, or that is longer than a slot, is dropped (log 25). -/
def execPiece (m : Msg) (s : State) : Host.Outcome State Fault Refusal :=
  if !forUs s m then .next s
  else
    let s := takeMsg s m
    match instFor s m with
    | none => .next s
    | some i =>
      let s := countQueue s i.slot 4 m.span
      if fld m.hdr 96 32 ≠ (cDigest i.desc).toNat then .next (failColl s i eGroupMismatch 0x80 m.src (fld m.hdr 96 32))
      else
        let e := instEntry s i
        let data := m.data.take m.span
        match freeSlot' e i with
        | none => .next s
        | some b =>
          if 2 ^ grpLog2 e < data.length then .next s
          else
            let p : CSlot := { slot := b, rank := m.srank, off := 64 * fld m.hdr 0 36, len := data.length }
            .next (collRun (updInst (planeWriteMsg s (grpSlotAt e b) data) i.slot fun x => { x with window := x.window ++ [p] }) i.slot)

/-- CREDIT (R357, R371). -/
def execCredit (m : Msg) (s : State) : Host.Outcome State Fault Refusal :=
  if !forUs s m then .next s
  else
    let s := takeMsg s m
    match instFor s m with
    | none => .next s
    | some i =>
      let n := fld m.hdr 0 16
      .next (collRun (updInst s i.slot fun x => { x with
        credits := Map.put x.credits m.srank (Inst.num x.credits m.srank + n),
        unret := Map.put x.unret m.srank (Inst.num x.unret m.srank - n) }) i.slot)

/-- COUNT (R366): it lands in the count area, before the instance is granted or after. -/
def execCount (m : Msg) (s : State) : Host.Outcome State Fault Refusal :=
  if !forUs s m then .next s
  else
    let s := takeMsg s m
    let n := fld m.hdr 0 32
    match instFor s m, groupOf s m.group with
    | some i, some g =>
      if i.counted then
        .next (collStart (updInst (landCount s g.entry m.srank n) i.slot fun x => { x with counts := Map.put x.counts m.srank n }) i.slot)
      else .next (setGroup s m.group { g with early := g.early ++ [(m.gseq, m.srank, n)] })
    | none, some g =>
      if gseqPast g m.gseq ∨ (instAt s m.group m.gseq).isSome then .next s
      else .next (setGroup s m.group { g with early := g.early ++ [(m.gseq, m.srank, n)] })
    | _, none => .next s

/-- A GSEQ that has not been granted here is marked as abandoned (R373). -/
def markAbandoned (s : State) (m : Msg) : State := { s with fab := { s.fab with marks := s.fab.marks ++ [(m.group, m.gseq, m.src)] } }

/-- ABANDON (R373). One for a group that is not registered here marks its GSEQ for the registration to come (DEDUCED, log 25). -/
def execAbandon (m : Msg) (s : State) : Host.Outcome State Fault Refusal :=
  if !forUs s m then .next s
  else
    let s := takeMsg s m
    match instAt s m.group m.gseq, groupOf s m.group with
    | some i, _ =>
      if live s i.slot ∧ !((cmdOf s i.slot).map (·.decided)).getD true then .next (failColl s i eGroupMismatch 0x82 m.src 0) else .next s
    | none, some g =>
      if gseqPast g m.gseq then .next s
      else .next (markAbandoned s m)
    | none, none => .next (markAbandoned s m)

/-! ### The end of an instance (R356, R371, R372) -/

/-- Clear a group's window. -/
def clearWindow (s : State) (e : BitVec 512) : State :=
  let w := grpWindow e
  { s with mem := { s.mem with
      plane := Map.clear s.mem.plane w.1 (w.1 + w.2), poison := s.mem.poison.filter fun l => !overlap l 64 w.1 w.2 } }

/-- The GSEQ of a group is over: NEXT_SEQ moves on. -/
def nextSeq' (s : State) (g : Nat) (q : BitVec 32) : State :=
  match groupOf s g with
  | none => s
  | some x =>
    let s := setGroup s g { x with next := q + 1, early := x.early.filter fun c => c.1 != q }
    { s with fab := { s.fab with marks := s.fab.marks.filter fun m => !(m.1 = g && m.2.1 = q) } }

/-- The instance in slot k ends; one that does not commit tells every other member (R372). -/
def instEnd (s : State) (k : Nat) (abandon : Bool) : State :=
  match instOf s k with
  | none => s
  | some i =>
    let e := instEntry s i
    let s := if abandon then ((List.range (grpP e)).filter (· != grpRank e)).foldl (fun s r => instMsg s i r 0x13 0 [] []) s else s
    let s := clearWindow s e
    nextSeq' { s with fab := { s.fab with insts := s.fab.insts.filter fun x => x.slot != k } } i.group i.gseq

/-! ### Registration (R355) -/

/-- The table's entry of a group. -/
def groupAddr (s : State) (g : Nat) : Nat := 4096 * cfg s mGroupTbl 12 36 + 64 * g

def membersOf (s : State) (e : BitVec 512) : List Nat := (List.range (grpP e)).map fun r => planeNat s (fld e 464 48 + 2 * r) 2

/-- RESULT of the registration of a group whose entry is e (R375). -/
def groupCheck (s : State) (g : Nat) (e : BitVec 512) : Nat :=
  let w := grpWindow e
  if grpBase e % 64 ≠ 0 ∨ !inPinned s w.1 w.2 then 0x01
  else if s.fab.groups.any fun x => x.1 != g && overlap w.1 w.2 (grpWindow x.2.entry).1 (grpWindow x.2.entry).2 then 0x03
  else if !inPlane s (fld e 464 48) (2 * grpP e) ∨ (membersOf s e).getD (grpRank e) 65536 ≠ chipNo s then 0x02
  else if grpSlots e < 2 ∨ 4096 < grpSlots e ∨ grpLog2 e < 12 ∨ 20 < grpLog2 e ∨ !(spanBad e 0 315).isEmpty then 0x06
  else if ((List.range 4).map (grpDim e)).prod ≠ grpP e then 0x05
  else 0

def groupStat (s : State) (busy result : Nat) : State := regSet s mGroupStat (ofFields 64 [(16, busy), (8, result)])

/-- GROUP_REG is written with OP = 1: a registration begins. One that meets another under way is refused (log 25). -/
def groupRegister (s : State) (g : Nat) (v : Word) : State :=
  match s.fab.regGroup with
  | some _ => reportRefused s mGroupReg v 0
  | none => { groupStat s 1 (cfg s mGroupStat 8 8) with fab := { s.fab with regGroup := some g } }

/-- GROUP_REGISTER (R355). -/
def execGroupRegister (g : BitVec 12) (s : State) : Host.Outcome State Fault Refusal :=
  .next (groupRegister s g.toNat (BitVec.ofNat 64 (65536 + g.toNat)))

/-- GROUP_REGISTRATION_DONE (R355): the entry is copied and checked, and RESULT names the outcome. A locked line of the entry or of the member table
holds the read (R93): the registration is then not done yet. -/
def execGroupRegistrationDone (s : State) : Host.Outcome State Fault Refusal :=
  match s.fab.regGroup with
  | none => .next s
  | some g =>
    let e : BitVec 512 := BitVec.ofNat 512 (planeNat s (groupAddr s g) 64)
    if (lockIn s [] (groupAddr s g) 64).isSome ∨ (lockIn s [] (fld e 464 48) (2 * grpP e)).isSome then .next s
    else
    let r := if inPinned s (groupAddr s g) 64 then groupCheck s g e else 0x01
    let s := groupStat { s with fab := { s.fab with regGroup := none } } 0 r
    if r = 0 then .next (setGroup s g { entry := e, members := membersOf s e, next := BitVec.ofNat 32 (fld e 352 32), early := [] })
    else .next (reportRefused s mGroupReg (BitVec.ofNat 64 (65536 + g)) 0)

/-- GROUP_REG is written with OP = 0. -/
def groupUnregister (s : State) (g : Nat) : State :=
  if s.disp.slots.any fun x => x.2.kind = 3 && x.2.group = g && x.2.phase != .closing then
    reportRefused (groupStat s (cfg s mGroupStat 16 1) 0x04) mGroupReg (BitVec.ofNat 64 g) 0
  else groupStat { s with fab := { s.fab with groups := Map.erase s.fab.groups g } } (cfg s mGroupStat 16 1) 0

/-- GROUP_UNREGISTER (R355). -/
def execGroupUnregister (g : BitVec 12) (s : State) : Host.Outcome State Fault Refusal := .next (groupUnregister s g.toNat)

end Sys2Proof.Machine
end

