-- ==== Sys2Proof/Machine/Pages.lean ====
section
/-!
DEFINITION. The page commands FORK, APPEND, RELOCATE and FREE (R283 to R293), and the KV tables' enabling and initialisation (R279). A page
command does its table work in one step, once every line that it needs is free (log 24).
-/
namespace Sys2Proof.Machine

/-! ### The work of a page command -/

/-- Why the work of a page command stops: a PAGE_FAULT, a line held by another command (or a page, for its WRITE lock), lost data, a remote range
still to be fetched, a reference count below zero, an overrun of its staging, a fenced channel, an address that it may not reach, an
invalid value in a table entry, or an error that the reading has found. -/
inductive PgStop where
  | fault (reason obj : Nat)
  | held (a : Nat) (lock : Bool)
  | lost (line : Nat)
  | fetch (host : Bool) (dest a n : Nat)
  | under (frame : Nat)
  | over (slice obj : Nat)
  | fenced (ch : Nat)
  | far (obj : Nat)
  | desc (obj low : Nat)
  | table (b : Nat)
  | flaw
  deriving DecidableEq, Repr

/-- A piece of work on the state, which a stop leaves as it was when it stopped. -/
abbrev Pg := EStateM PgStop State

def pgCmd (k : Nat) : Pg Cmd := fun s => match cmdOf s k with
  | some c => .ok c s
  | none => .error (.held 0 false) s

/-- Take the lock on a 4 KiB page. -/
def pgLock (k page : Nat) (reduce : Bool) : Pg Unit := do
  let s ← get
  let c ← pgCmd k
  if c.page.locks.contains (page, reduce) then pure ()
  else if lockClash s (jointSet s k) page reduce then throw (.held (4096 * page) (!reduce))
  else set (updCmd s k fun c => { c with page := { c.page with locks := c.page.locks ++ [(page, reduce)] } })

/-- The cells of an access are met, for the copy engine of the command's core (R293, R400): an error that stops the reader stops the work. -/
def pgMeet (k : Nat) (cells : State → Nat → Cell → Bool) : Pg Unit := do
  let c ← pgCmd k
  let core := c.cores.headD 0
  let s ← get
  let r := readCells s { slot := k, core := core, eng := some 3, at' := 0, ahead := false } (cells s core)
  set r.1
  if r.2 then pure () else throw .flaw

/-- The copy engine moves lines through the port of the command's core (R15, R293); `out` is toward the Sheaf. -/
def pgMove (k a n : Nat) (out : Bool) : Pg Unit := do
  let c ← pgCmd k
  modify fun s => countPort s (c.cores.headD 0) (64 * (linesOf a n).length) out

/-- Bytes of the plane as the command sees them. -/
def pgBytes (k a n : Nat) : Pg (List Byte) := do
  let s ← get
  match csetBad s k a n, fencedIn s a n with
  | some l, _ => throw (.desc l 0)
  | none, some l => throw (.fenced (channelOf s l))
  | none, none =>
    if heldFor s k a n then throw (.held (((linesOf a n).find? fun l => heldFor s k l 64).getD a) false)
    else
      pgMeet k fun s core => lineCells s k core (neededLines s k a n)
      let s ← get
      match seenPoison s k a n with
      | some l => throw (.lost l)
      | none => pure (seenRead s k a n)

/-- Bytes that the copy engine reads to copy them (R293). -/
def pgCopy (k a n : Nat) : Pg (List Byte) := do
  let bs ← pgBytes k a n
  pgMove k a n false
  pure bs

def pgNat (k a n : Nat) : Pg Nat := do return leNat (← pgBytes k a n)

/-- A table entry, in which `wrong` finds no invalid value (R11). -/
def pgEntry (k a n : Nat) (wrong : Nat → Option Nat) : Pg Nat := do
  let v ← pgNat k a n
  match wrong v with
  | some b => throw (.table b)
  | none => pure v

/-- Go on with what has been staged, unless the reservation is overrun (R91): `obj` gives the slice and the OBJECT then. -/
def pgStage (k : Nat) (f : State → State) (obj : State → Nat × Nat) : Pg Unit := do
  let s ← get
  match stageOver (f s) k with
  | some _ => throw (.over (obj s).1 (obj s).2)
  | none => set (f s)

/-- Stage bytes under a WRITE lock (R284). -/
def pgWrite (k a : Nat) (bs : List Byte) : Pg Unit := do
  if bs.isEmpty then pure ()
  else
    for p in (List.range ((a + bs.length - 1) / 4096 - a / 4096 + 1)).map (a / 4096 + ·) do pgLock k p false
    pgMeet k fun s core => writeCells s core (linesOf a bs.length)
    pgStage k (fun s => stagePut s k a bs) fun s =>
      let l := overLine s k (linesOf a bs.length)
      (sliceOf s l, globalOf s l)

/-- Stage bytes that the copy engine has copied (R293). -/
def pgPut (k a : Nat) (bs : List Byte) : Pg Unit := do
  pgWrite k a bs
  pgMove k a bs.length true

/-- Take a frame of a pool (R281, R292). -/
def pgTake (k pool kind obj : Nat) : Pg Nat := do
  match takeFrame (← get) pool kind with
  | none => throw (.fault 0x63 obj)
  | some (n, s) =>
    set (updCmd s k fun c => { c with page := { c.page with frames := c.page.frames ++ [n] } })
    pure n

/-- REFCNT with the earlier changes of the command and of its joint set, with which it commits (R292; log 26). -/
def refNow (s : State) (c : Cmd) (n : Nat) : Int :=
  frameRef (frameEntry s n) + (((s.disp.slots.filter fun e => e.2.lead = c.lead).flatMap fun e =>
    (e.2.page.refs.filter fun r => r.1 = n).map (·.2))).sum

/-- Stage a change of REFCNT under a REDUCE lock (R48, R277, R292). -/
def pgRef (k n : Nat) (by' : Int) : Pg Unit := do
  let a := frameAt (← get) n
  pgLock k (a / 4096) true
  let s ← get
  let c ← pgCmd k
  if refNow s c n + by' < 0 then throw (.under n)
  else
    let d : Delta := { addr := a, bytes := 4, op := 1, contrib := 0, core := c.cores.headD 0, eng := 3,
                       value := BitVec.ofNat 64 (ofSigned 32 by') }
    pgMeet k fun s core x => writeCells s core [lineOf a] x || deltaCells k [lineOf a] x
    pgStage k (fun s => updCmd s k fun c => { c with
        page := { c.page with refs := c.page.refs ++ [(n, by')] }, deltas := foldDelta 1 d c.deltas })
      fun s => (sliceOf s (lineOf a), globalOf s (lineOf a))

/-- The frame is shared (R280). -/
def pgShared (k n : Nat) : Pg Bool := do return decide (1 < refNow (← get) (← pgCmd k) n)

/-! ### Tables -/

def pgFuture (k f : Nat) : Pg (BitVec 128) := do
  if futCount (← get) ≤ f then throw (.fault 0x65 (locatorOf f 0 0 0))
  else return BitVec.ofNat 128 (← pgEntry k (futAt (← get) f) 16 futBad)

/-- A future that must be LIVE. -/
def pgLive (k f : Nat) : Pg (BitVec 128) := do
  let e ← pgFuture k f
  if futState e = 1 then pure e else throw (.fault 0x60 (locatorOf f 0 0 0))

/-- A session's entry and its class, which must be VALID. -/
def pgClass (k n f : Nat) : Pg (Word × Word) := do
  let s ← get
  if sessCount s ≤ n then throw (.fault 0x65 (locatorOf f 0 0 0))
  else
    let e : Word := BitVec.ofNat 64 (← pgEntry k (sessAt s n) 8 sessBad)
    let cls := clsWord s (sessClass e)
    if clsValid cls then pure (e, cls) else throw (.fault 0x64 (locatorOf f 0 0 0))

/-- Write a future entry's SESSION, STATE, LENGTH and PARENT. -/
def pgSetFuture (k f : Nat) (e : BitVec 128) : Pg Unit := do pgWrite k (futAt (← get) f) (natLE 16 e.toNat)

/-- Change the session's count of LIVE futures. -/
def pgCount (k n : Nat) (e : Word) (by' : Int) : Pg Unit := do
  pgWrite k (sessAt (← get) n) (natLE 8 (setFld e 16 20 (ofSigned 20 (sessFutures e + by'))).toNat)

def leafOf (e : Nat) : Nat := e / 2 ^ 36

/-- Entries of a level-1 block. -/
def l1Count (cls : Word) : Nat := clsLayers cls * 2 ^ clsL1 cls

/-- The leaves that a block names. -/
def pgLeaves (k root : Nat) (cls : Word) : Pg (List Nat) := do
  let bs ← pgBytes k root (8 * l1Count cls)
  let es := (chunksOf 8 (l1Count cls + 1) bs).map leNat
  match es.findSome? l1Bad with
  | some b => throw (.table b)
  | none => return (es.map leafOf).filter (· != noFrame)

def pgDesc (k leaf p : Nat) : Pg (BitVec 128) := do
  return BitVec.ofNat 128 (← pgEntry k (frameAddr (← get) leaf + 16 * (p % 256)) 16 descWrong)

/-! ### FORK (R285) and FREE (R291) -/

def forkWork (k : Nat) (c : Cmd) : Pg Unit := do
  let r := c.record
  let n := fld r 407 17
  let first := fld r 424 20
  let parent := fld r 444 20
  let new := bit r 392
  let p ← if new then pure 0 else pgLive k parent
  let sess := if new then fld r 393 14 else futSession p
  let (se, cls) ← pgClass k sess (if new then first else parent)
  let block ← if new then pure [] else pgBytes k (futRoot p) (8 * l1Count cls)
  for f in span first n do
    let e ← pgFuture k f
    if futState e ≠ 0 then throw (.fault 0x61 (locatorOf f 0 0 0))
    pgSetFuture k f (setFld (setFld (setFld (setFld e 66 14 sess) 64 2 1) 32 32 (if new then 0 else futLength p)) 0 20
      (if new then f else parent))
    pgWrite k (futRoot e) (if new then (List.replicate (l1Count cls) (natLE 8 (noFrame * 2 ^ 36))).flatten else block)
  if !new then
    for leaf in ← pgLeaves k (futRoot p) cls do pgRef k leaf n
  pgCount k sess se n

/-- The frame that descriptor p of a leaf names loses a reference (R291). -/
def pgDropPage (k leaf p : Nat) : Pg Unit := do
  let d ← pgDesc k leaf p
  if descFrame d ≠ noFrame then pgRef k (descFrame d) (-1)

/-- A leaf that nothing refers to any more: the frames that it names lose a reference each (R291). -/
def pgDropLeaf (k leaf : Nat) : Pg Unit := do
  for p in List.range 256 do pgDropPage k leaf p

def freeWork (k : Nat) (c : Cmd) : Pg Unit := do
  let n := fld c.record 427 17
  let first := fld c.record 444 20
  let e0 ← pgLive k first
  let sess := futSession e0
  for f in span first n do
    let e ← pgLive k f
    if futSession e ≠ sess then throw (.fault 0x65 (locatorOf f 0 0 0))
  let (se, cls) ← pgClass k sess first
  for f in span first n do
    let e ← pgFuture k f
    for leaf in ← pgLeaves k (futRoot e) cls do
      pgRef k leaf (-1)
      if refNow (← get) (← pgCmd k) leaf = 0 then
        pgDropLeaf k leaf
    pgSetFuture k f (setFld (setFld e 64 2 0) 32 32 0)
  pgCount k sess se (-n)

/-! ### Slots (R271, R276) -/

/-- Bytes of a slot that hold tokens. -/
def slotUsed (cls : Word) : Nat := 32 * clsKvh cls * clsHd cls * clsEl cls

/-- Offsets and lengths of `n` tokens from index j in a slot: keys by head and token, values by head and dimension. -/
def tokenSpans (cls : Word) (j n : Nat) : List (Nat × Nat) :=
  let hd := clsHd cls
  let el := clsEl cls
  if n = 0 then []
  else ((List.range (clsKvh cls)).map fun h => ((h * 16 + j) * hd * el, n * hd * el)) ++
    (List.range (clsKvh cls)).flatMap fun h => (List.range hd).map fun e =>
      (16 * clsKvh cls * hd * el + ((h * hd + e) * 16 + j) * el, n * el)

/-- A remote range, fetched by an earlier step. -/
def pgFar (k : Nat) (host : Bool) (dest a n : Nat) : Pg (Nat → Byte) := do
  let s ← get
  match s.fab.transfers.find? fun t => t.who = .copy k && t.host = host && t.dest = dest && t.over &&
      (Map.find? t.buf a).isSome && (Map.find? t.buf (a + n - 1)).isSome with
  | some t => pure t.byte
  | none => throw (.fetch host dest a n)

/-- A piece of a slot: its offset, the plane address that its bytes come from, if they come from this chip, and the bytes. -/
structure SlotPiece where
  off   : Nat
  src   : Option Nat
  bytes : List Byte
  deriving DecidableEq, Repr

/-- The bytes that pieces put into a slot. -/
def slotBytes (ps : List SlotPiece) : Map Byte := bytesOf (ps.map fun p => (p.off, p.bytes))

/-- The slices in which the lines of a slot that leaves the chip are staged (R93): that of the source line of the last piece in the line, and the core's
base die where its bytes have come from another memory (DEDUCED, log 24). -/
def slotLines (s : State) (core n : Nat) (ps : List SlotPiece) : List Nat :=
  (List.range (ceilDiv n 64)).map fun i =>
    ((ps.reverse.find? fun p => overlap (64 * i) 64 p.off p.bytes.length).bind fun p =>
      p.src.map fun a => sliceOf s (lineOf (a + (64 * i - p.off)))).getD (dieOf core)

/-- Bytes at offsets of a slot, wherever the slot lies. -/
def slotRead (k : Nat) (cls : Word) (d : BitVec 128) (spans : List (Nat × Nat)) : Pg (List SlotPiece) := do
  let loc := descLocator d
  if spans.isEmpty then pure []
  else if descTier d < 2 then
    spans.mapM fun r => do
      let bs ← pgCopy k (loc % 2 ^ 48 + r.1) r.2
      return { off := r.1, src := some (loc % 2 ^ 48 + r.1), bytes := bs }
  else
    let host := descTier d = 3
    let dest := loc / 2 ^ 48
    if host ∧ !hkeyOk (← get) dest (loc % 2 ^ 48) (slotUsed cls) true false then throw (.far loc)
    let rd ← pgFar k host dest (loc % 2 ^ 48) (slotUsed cls)
    pgMove k (loc % 2 ^ 48) (slotUsed cls) false
    return spans.map fun r => { off := r.1, src := none, bytes := (span (loc % 2 ^ 48 + r.1) r.2).map rd }

/-- Write pieces into a slot. A slot of another memory is written whole: `base` gives the bytes between the pieces. -/
def slotWrite (k : Nat) (cls : Word) (d : BitVec 128) (ps base : List SlotPiece) : Pg Unit := do
  let loc := descLocator d
  if descTier d < 2 then
    if descTier d = 1 then
      match csetBad (← get) k loc (slotUsed cls), fencedIn (← get) loc (slotUsed cls) with
      | some l, _ => throw (.desc l 0)
      | none, some l => throw (.fenced (channelOf (← get) l))
      | none, none => pure ()
    for p in ps do pgPut k (loc % 2 ^ 48 + p.off) p.bytes
  else
    let host := descTier d = 3
    let dest := loc / 2 ^ 48
    if host ∧ !hkeyOk (← get) dest (loc % 2 ^ 48) (slotUsed cls) false true then throw (.far loc)
    let c ← pgCmd k
    let s ← get
    let core := c.cores.headD 0
    let m := slotBytes (base ++ ps)
    let n := slotUsed cls
    let e : Egress := { host := host, core := none, reg := 0, at' := 0, flight := 0, dest := dest, addr := loc % 2 ^ 48,
                        data := (List.range n).map (fun i => (Map.find? m i).getD ((freeAt s i).setWidth 8)),
                        lines := slotLines s core n (base ++ ps), sctr := 0, sinc := 0, granted := host }
    pgStage k (fun s => updCmd { s with fresh := s.fresh + n / 1024 + 1 } k fun c => { c with egress := c.egress ++ [e] }) fun s => egressOver s k e
    pgMove k (loc % 2 ^ 48) n true

/-! ### A page made private (R288), and sealed (R289) -/

/-- Level-1 entry (l, i) names a leaf of this future alone. -/
def privLeaf (k : Nat) (cls : Word) (root l i obj : Nat) : Pg Nat := do
  let at' := l1At root cls l i
  let e ← pgEntry k at' 8 l1Bad
  let point := fun (n : Nat) => pgWrite k at' (natLE 8 (n * 2 ^ 36))
  if leafOf e = noFrame then
    let n ← pgTake k (clsLeafPool cls) 2 obj
    pgWrite k (frameAddr (← get) n) (List.replicate 256 (natLE 16 descAbsent.toNat)).flatten
    pgRef k n 1
    point n
    pure n
  else if ← pgShared k (leafOf e) then
    let old := leafOf e
    let n ← pgTake k (clsLeafPool cls) 2 obj
    let bs ← pgCopy k (frameAddr (← get) old) 4096
    pgPut k (frameAddr (← get) n) bs
    for b in chunksOf 16 257 bs do
      let d : BitVec 128 := BitVec.ofNat 128 (leNat b)
      match descWrong (leNat b) with
      | some x => throw (.table x)
      | none => if descFrame d ≠ noFrame then pgRef k (descFrame d) 1
    pgRef k old (-1)
    pgRef k n 1
    point n
    pure n
  else pure (leafOf e)

/-- The descriptor of a frame just taken. -/
def newDesc (s : State) (pool n valid : Nat) : BitVec 128 :=
  ofFields 128 [(64, frameLoc s pool n), (36, n), (8, noFrame), (3, valid), (0, poolTier s pool)]

/-- The mean of patterns of the class format (R289). -/
def meanOf (denorm code : Nat) (ps : List Nat) : Nat :=
  let sum := (treeReduce (vredNode denorm 0) 5 (ps.map fun p => val32 denorm (fp32Of denorm (readElem denorm code p)))).headD (.zero false)
  toFmt denorm code (div32 denorm (fp32Of denorm sum) (fp32Of denorm (FVal.ofInt false ps.length 0)))

/-- The summary of the first `n` tokens of a slot whose bytes `m` holds. -/
def summaryOf (denorm : Nat) (cls : Word) (n : Nat) (m : Map Byte) : List Byte :=
  let el := clsEl cls
  let hd := clsHd cls
  let at' := fun a => leNat ((span a el).map (Map.get (fun _ => 0) m))
  let key := (List.range (clsKvh cls)).flatMap fun h => (List.range hd).map fun e =>
    meanOf denorm (clsFmt cls) ((List.range n).map fun j => at' (((h * 16 + j) * hd + e) * el))
  let val := (List.range (clsKvh cls)).flatMap fun h => (List.range hd).map fun e =>
    meanOf denorm (clsFmt cls) ((List.range n).map fun j => at' ((16 * clsKvh cls * hd + (h * hd + e) * 16 + j) * el))
  (key ++ val).flatMap (natLE el)

/-- Link a page frame with its summary frame at apply. -/
def pgLink (k n sum : Nat) : Pg Unit :=
  modify fun s => updCmd s k fun c => { c with page := { c.page with links := c.page.links ++ [(n, sum)] } }

/-! ### APPEND (R287) -/

/-- Bytes of a layer's block in the token buffer (R286). -/
def tokenBlock (cls : Word) (n : Nat) : Nat := 64 * ceilDiv (2 * clsKvh cls * clsHd cls * n * clsEl cls) 64

/-- The pieces of a slot that buffer tokens n0 to n0 + cnt − 1 fill from index j. -/
def bufferPieces (k : Nat) (cls : Word) (src n n0 cnt j : Nat) : Pg (List SlotPiece) := do
  let hd := clsHd cls
  let el := clsEl cls
  if cnt = 0 then pure []
  else
    let piece := fun (off a n : Nat) => do
      let bs ← pgCopy k a n
      return ({ off := off, src := some a, bytes := bs } : SlotPiece)
    let keys ← (List.range (clsKvh cls)).mapM fun h => piece ((h * 16 + j) * hd * el) (src + (h * n + n0) * hd * el) (cnt * hd * el)
    let vals ← ((List.range (clsKvh cls)).flatMap fun h => (List.range hd).map fun e => (h, e)).mapM fun x =>
      piece (16 * clsKvh cls * hd * el + ((x.1 * hd + x.2) * 16 + j) * el)
        (src + clsKvh cls * n * hd * el + ((x.1 * hd + x.2) * n + n0) * el) (cnt * el)
    return keys ++ vals

/-- One page of one layer: made private, filled with the tokens at positions lo to hi − 1, and sealed where `shut`. -/
def appendPage (k denorm f len n src l p lo hi : Nat) (cls : Word) (root : Nat) (shut : Bool) : Pg Unit := do
  let obj := locatorOf f p l 0
  let leaf ← privLeaf k cls root l (p / 256) obj
  let d ← pgDesc k leaf p
  let absent := descFrame d = noFrame
  if absent ∧ (16 * p < len ∨ hi ≤ lo) then throw (.fault 0x62 obj)
  if !absent ∧ descSealed d then throw (.fault 0x69 obj)
  let copy ← if absent then pure false else pgShared k (descFrame d)
  let nd ← if absent ∨ copy then do
      let x ← pgTake k (clsPagePool cls) 0 obj
      pure (newDesc (← get) (clsPagePool cls) x (descValid d))
    else pure d
  let far := decide (2 ≤ descTier nd)
  let old ← if absent then pure [] else if copy || shut || far then slotRead k cls d (tokenSpans cls 0 (descValid d)) else pure []
  if copy then pgRef k (descFrame d) (-1)
  if absent ∨ copy then pgRef k (descFrame nd) 1
  let new ← bufferPieces k cls src n (lo - len) (hi - lo) (lo % 16)
  let base ← if far && !absent && !copy then slotRead k cls d [(0, slotUsed cls)] else pure []
  let ps := if copy then old ++ new else new
  if !ps.isEmpty then slotWrite k cls nd ps base
  let valid := if lo < hi then (hi - 1) % 16 + 1 else descValid nd
  let nd := setFld nd 3 5 valid
  let nd ← if !shut then pure nd
    else if valid = 0 then pure (setFld nd 2 1 1)
    else do
      let x ← pgTake k (clsSumPool cls) 1 obj
      pgPut k (frameLoc (← get) (clsSumPool cls) x % 2 ^ 48) (summaryOf denorm cls valid (slotBytes (old ++ new)))
      pgLink k (descFrame nd) x
      pure (setFld (setFld nd 2 1 1) 8 28 x)
  pgWrite k (frameAddr (← get) leaf + 16 * (p % 256)) (natLE 16 nd.toNat)

def appendWork (k denorm : Nat) (c : Cmd) : Pg Unit := do
  let r := c.record
  let f := fld r 396 20
  let n := fld r 383 13
  let shut := bit r 382
  let src := fld r 416 48
  let fe ← pgLive k f
  let (_, cls) ← pgClass k (futSession fe) f
  let len := futLength fe
  let stop := len + n
  let open' := shut && stop % 16 != 0
  let newLen := if open' then 16 * ceilDiv stop 16 else stop
  if min (2 ^ (clsL1 cls + 12)) (2 ^ 31) < newLen then throw (.fault 0x68 (locatorOf f (stop / 16) 0 0))
  if n ≠ 0 ∧ !inPinned (← get) src (clsLayers cls * tokenBlock cls n) then throw (.desc src 416)
  let first := len / 16
  let pages := if 0 < n then span first ((stop - 1) / 16 - first + 1) else if open' then [first] else []
  for l in List.range (clsLayers cls) do
    for p in pages do
      let lo := max len (16 * p)
      let hi := min stop (16 * p + 16)
      appendPage k denorm f len n (src + l * tokenBlock cls n) l p lo hi cls (futRoot fe)
        (hi = 16 * p + 16 || (open' && stop ≤ 16 * p + 16))
  if !pages.isEmpty then pgSetFuture k f (setFld fe 32 32 newLen)

/-! ### RELOCATE (R290) -/

def movePage (k f l p pool : Nat) (cls : Word) (root : Nat) : Pg Unit := do
  let obj := locatorOf f p l 0
  let e ← pgEntry k (l1At root cls l (p / 256)) 8 l1Bad
  if leafOf e = noFrame then pure ()
  else
    let d ← pgDesc k (leafOf e) p
    if descFrame d = noFrame ∨ !descSealed d ∨ framePool (frameEntry (← get) (descFrame d)) = pool then pure ()
    else
      let leaf ← privLeaf k cls root l (p / 256) obj
      let x ← pgTake k pool 0 obj
      let nd := setFld (newDesc (← get) pool x (descValid d)) 2 1 1
      let bs ← slotRead k cls d [(0, slotUsed cls)]
      slotWrite k cls nd bs []
      let nd ← if descSum d = noFrame then pure nd
        else do
          let y ← pgTake k (clsSumPool cls) 1 obj
          let bs ← pgCopy k (frameAddr (← get) (descSum d)) (slotUsed cls / 16)
          pgPut k (frameLoc (← get) (clsSumPool cls) y % 2 ^ 48) bs
          pgLink k x y
          pure (setFld nd 8 28 y)
      pgWrite k (frameAddr (← get) leaf + 16 * (p % 256)) (natLE 16 nd.toNat)
      pgRef k (descFrame d) (-1)
      pgRef k x 1

def relocateWork (k : Nat) (c : Cmd) : Pg Unit := do
  let r := c.record
  let f := fld r 396 20
  let pool := fld r 363 6
  let fe ← pgLive k f
  let (_, cls) ← pgClass k (futSession fe) f
  let s ← get
  if !poolOn s pool ∨ 2 ^ poolLog2 s pool ≠ clsZ cls then throw (.desc c.ring 363)
  let first := fld r 336 27
  let last := min (first + fld r 309 27) (2 ^ (clsL1 cls + 8))
  for l in List.range (clsLayers cls) do
    for p in span first (last - first) do movePage k f l p pool cls (futRoot fe)

/-! ### The four rows -/

/-- REFCOUNT_UNDERFLOW (R308). -/
def underRec (s : State) (core k n : Nat) : ErrRec :=
  { code := eRefUnderflow, unitCls := 1, unit := core, slot := some k, object := n,
    detail := 0x70 * 2 ^ 56 + frameKind (frameEntry s n) * 2 ^ 48 + frameRef (frameEntry s n) }

/-- A stop of the work in slot k: `s` is the state before the row, `t` that at the stop. A wait or a fetch leaves the tables alone. -/
def pageStop (s t : State) (k core : Nat) (c : Cmd) : PgStop → State
  | .fault reason obj => failWith t k (pageRec core k reason obj 0 0)
  | .held a lock => updCore s core fun x =>
      let h := Map.put x.held pageHold a
      { x with held := if lock then Map.put h pageLockHold a else Map.erase h pageLockHold }
  | .lost l => failPoison t k l none 0
  | .fetch host dest a n =>
    if s.fab.transfers.any fun u => u.who = .copy k && !u.over then s
    else startTransfer s (.copy k) k host dest [(a, n)] none
  | .under n => failWith t k (underRec t core k n)
  | .over b obj => failStage t k b obj none
  | .flaw => t
  | .fenced ch => failFenced t k 4 ch
  | .far obj => failWith t k (farRec core k 0 7 obj 0)
  | .desc obj low => failDisp t k (if obj = c.ring then 0x32 else 0x33) obj low
  | .table b => failWith t k { pageRec core k 0x02 (7 * 2 ^ 56 + b) 0 0 with code := eDescInvalid }

/-- The work is done: room is asked for what leaves the chip, and the command is done with it. -/
def pageDone (t : State) (k core : Nat) : State :=
  let t := updCore (begun t k) core fun x => { x with held := Map.erase (Map.erase x.held pageHold) pageLockHold }
  let t := { t with fab := { t.fab with transfers := t.fab.transfers.filter fun u => !(u.who = .copy k) } }
  match cmdOf t k with
  | none => t
  | some c =>
    let t := (c.egress.filter fun e => !e.host).foldl askRoom t
    if c.kind = 5 then copyDone t k else finish t k

def Cmd.isPage (c : Cmd) : Bool := c.kind = 4 || c.kind = 5 || c.kind = 6

/-- The first future that a page command names; the first child of a FORK with NEW = 1. -/
def Cmd.future (c : Cmd) : Nat :=
  if c.kind = 5 then fld c.record 396 20
  else if c.kind = 4 ∧ bit c.record 392 then fld c.record 424 20
  else fld c.record 444 20

/-- The session of a page command (R284), with the future table read by `rd`. -/
def sessionBy (rd : Nat → Nat → Nat) (s : State) (c : Cmd) : Option Nat :=
  if c.kind = 4 ∧ bit c.record 392 then some (fld c.record 393 14)
  else if c.isPage ∧ c.future < futCount s then some (futSession (BitVec.ofNat 128 (rd (futAt s c.future) 16)))
  else none

def pageSession (s : State) (c : Cmd) : Option Nat := sessionBy (planeNat s) s c

/-- An earlier page command of the joint set and of the same session is not done: page commands of a session run one at a time (R284; log 26). -/
def pageWaits (s : State) (k : Nat) (c : Cmd) : Bool :=
  let sess := sessionBy (seenNat s k) s
  (jointSet s k).any fun m => ((cmdOf s m).map fun d =>
    d.isPage && decide (d.order < c.order) && !d.fin && decide (sess d = sess c)).getD false

/-- A page command in slot k runs (R284). -/
def pageRow (s : State) (k kind : Nat) (ok : Cmd → Bool) (work : Cmd → Pg Unit) : State :=
  match atWork s k kind with
  | none => s
  | some c =>
    if !ok c ∨ pageWaits s k c then s
    else
      let core := c.cores.headD 0
      if !kvOn s then failWith s k (pageRec core k 0x64 (locatorOf c.future 0 0 0) 0 0)
      else match work c s with
        | .ok _ t => pageDone t k core
        | .error e t => pageStop s t k core c e

/-- FORK (R285). -/
def execFork (k : SlotId) (s : State) : Host.Outcome State Fault Refusal :=
  .next (pageRow s k.toNat 0x04 (fun _ => true) (forkWork k.toNat))

def appendOp (c : Cmd) : Nat := fld c.record 380 2

/-- APPEND (R287 to R289). -/
def execAppend (k : SlotId) (s : State) : Host.Outcome State Fault Refusal :=
  .next (pageRow s k.toNat 0x05 (fun c => appendOp c = 0) (appendWork k.toNat (denormOf s k.toNat)))

/-- RELOCATE (R290). -/
def execRelocate (k : SlotId) (s : State) : Host.Outcome State Fault Refusal :=
  .next (pageRow s k.toNat 0x05 (fun c => appendOp c = 1) (relocateWork k.toNat))

/-- FREE (R291). -/
def execFree (k : SlotId) (s : State) : Host.Outcome State Fault Refusal :=
  .next (pageRow s k.toNat 0x06 (fun _ => true) (freeWork k.toNat))

/-! ### Frames at apply (R281) -/

/-- The committed REFCNT of a frame has been merged: the frame's state follows. -/
def frameApply (s : State) (n : Nat) : State :=
  let e := frameEntry s n
  if frameRef e ≠ 0 ∨ frameKind e = 1 then s
  else if frameState e ≠ fLive then s
  else if framePins e = 0 then freeFrame s n
  else updFrame s n 54 2 fDraining

/-- The frames of a page command whose entries lie in slice b: HELD ones become LIVE, pages take their LINK, and frames whose last
reference is gone leave. -/
def pageApply (s : State) (c : Cmd) (b : Nat) : State :=
  let here := fun (s : State) n => sliceOf s (frameAt s n) = b
  let s := (c.page.frames.filter (here s)).foldl (fun s n => updFrame s n 54 2 fLive) s
  let s := (c.page.links.filter fun l => here s l.1).foldl (fun s l => updFrame s l.1 100 28 l.2) s
  ((c.page.refs.map (·.1)).eraseDups.filter (here s)).foldl frameApply s

/-- A killed page command's HELD frames return (R281). -/
def pageUndo (s : State) (c : Cmd) : State := c.page.frames.foldl returnFrame s

/-! ### KV_CTL (R279) -/

/-- The commands that run or commit on the chip: SLOTS.RUNNING (R87, R123). -/
def runningCount (s : State) : Nat := (s.disp.slots.filter fun e => e.2.occupies).length

def poolRange (s : State) (i : Nat) : Nat × Nat := (poolFirst s i, poolCount s i)

/-- What an enabled pool must meet; `others` are the pools before it that stand. -/
def poolGood (s : State) (others : List Nat) (i : Nat) : Bool :=
  let base := cfg s (mKvPool i 0) 0 64
  let size := 2 ^ poolLog2 s i
  let n := poolCount s i
  decide (8 ≤ poolLog2 s i ∧ poolLog2 s i ≤ 18) && base % size = 0 &&
  poolRing s i % 64 = 0 && inPinned s (poolRing s i) (4 * n) &&
  decide (poolFirst s i + n ≤ frameCount s) &&
  (others.all fun o => !overlap (poolFirst s i) n (poolFirst s o) (poolCount s o)) &&
  (match poolTier s i with
    | 0 => decide (base < 2 ^ 48) && inPinned s base (n * size)
    | 1 => inHbm base (n * size)
    | 2 => base / 2 ^ 48 != chipNo s
    | _ => true)

/-- What a VALID class must meet (R270, R278). -/
def classGood (s : State) (w : Word) : Bool :=
  let z := 12 + fld w 14 3
  let pool := fun i l => poolOn s i && poolLog2 s i = l
  decide (1 ≤ clsLayers w) && decide (1 ≤ clsKvh w ∧ clsKvh w ≤ 64) && decide (clsL1 w ≤ 19) && decide (fld w 14 3 ≤ 6) &&
  (clsFmt w = 5 || clsFmt w = 6 || clsFmt w = 7) && decide (slotUsed w ≤ clsZ w) &&
  pool (clsPagePool w) z && pool (clsSumPool w) (z - 4) && poolTier s (clsSumPool w) = 0 &&
  pool (clsLeafPool w) 12 && poolTier s (clsLeafPool w) = 0

def checkPool (s : State) (i : Nat) : State :=
  if poolOn s i ∧ !poolGood s ((List.range i).filter (poolOn s)) i then
    cfgSet (reportClamp s .mgmt 0x04 (mKvPool i 1) 63 1 1 0) (mKvPool i 1) 63 1 0
  else s

def checkClass (s : State) (c : Nat) : State :=
  if clsValid (clsWord s c) ∧ !classGood s (clsWord s c) then
    cfgSet (reportClamp s .mgmt 0x04 (mKvClass c) 0 1 1 0) (mKvClass c) 0 1 0
  else s

def tablesGood (s : State) : Bool :=
  inPinned s (futAt s 0) (16 * futCount s) && inPinned s (sessAt s 0) (8 * sessCount s) &&
    inPinned s (frameAt s 0) (16 * frameCount s) && frameCount s != 2 ^ 28

/-- ENABLE is written 1 while it is 0. -/
def kvEnable (s : State) : State :=
  if cfgBit s mKvCtl 0 then s
  else
    let s := (List.range 64).foldl checkPool s
    let s := (List.range 16).foldl checkClass s
    if tablesGood s then regSet s mKvCtl 3
    else reportClamp s .mgmt 0x04 mKvCtl 0 1 1 0

/-- ENABLE is written 0. -/
def kvDisable (s : State) : State :=
  if !cfgBit s mKvCtl 0 then s
  else if runningCount s = 0 then cfgSet s mKvCtl 0 1 0
  else reportRefused s mKvCtl 0 (regGet s mKvCtl)

/-- KV_ENABLE (R279). -/
def execKvEnable (s : State) : Host.Outcome State Fault Refusal := .next (kvEnable s)

/-- KV_DISABLE (R279). -/
def execKvDisable (s : State) : Host.Outcome State Fault Refusal := .next (kvDisable s)

def initPool (s : State) (i : Nat) : State :=
  if !poolOn s i then s
  else
    let ns := span (poolFirst s i) (poolCount s i)
    let s := planeWrite s (poolRing s i) (ns.flatMap (natLE 4))
    let s := liveSet (liveSet s (mKvPool i 3) 0) (mKvPool i 4) 0
    ns.foldl (fun s n => setFrame s n (ofFields 128 [(58, i), (100, noFrame)])) s

def initFuture (s : State) (f : Nat) : State :=
  let e : BitVec 128 := BitVec.ofNat 128 (planeNat s (futAt s f) 16)
  planeWrite s (futAt s f) (natLE 16 (setFld (setFld e 64 2 0) 32 32 0).toNat)

def initSession (s : State) (n : Nat) : State :=
  let e : Word := BitVec.ofNat 64 (planeNat s (sessAt s n) 8)
  planeWrite s (sessAt s n) (natLE 8 (setFld e 16 20 0).toNat)

/-- KV_INIT_DONE (R279): the initialisation has written rings, frames, futures and sessions, and BUSY clears. -/
def execKvInitDone (s : State) : Host.Outcome State Fault Refusal :=
  if !cfgBit s mKvCtl 1 then .next s
  else
    let s := (List.range 64).foldl initPool s
    let s := (List.range (futCount s)).foldl initFuture s
    let s := (List.range (sessCount s)).foldl initSession s
    .next (cfgSet s mKvCtl 1 1 0)

end Sys2Proof.Machine
end

