-- ==== Sys2Proof/Machine/Prefetch.lean ====
section
/-!
DEFINITION. The prefetch runners (R55 to R60): entries are issued in table order and signal their arrival.
-/
namespace Sys2Proof.Machine

/-! ### Entries (R55) -/

def peSrc (e : BitVec 256) : Nat := fld e 192 64
def peDst (e : BitVec 256) : Nat := fld e 144 48
def peTarget (e : BitVec 256) : Word := BitVec.ofNat 64 (fld e 80 64)
def peDctr (e : BitVec 256) : Nat := fld e 64 16
def peActr (e : BitVec 256) : Nat := fld e 48 16
def peSinc (e : BitVec 256) : Nat := fld e 44 4
def peBytes (e : BitVec 256) : Nat := fld e 0 32

/-- The deadline of an entry is reached. -/
def peDue (s : State) (e : BitVec 256) : Bool := satisfied (ctrGet s (peDctr e)) (peTarget e)

/-- What R56, R92 and R64 forbid. -/
def peBad (s : State) (k : Nat) (e : BitVec 256) : Bool :=
  let src := peSrc e
  let n := peBytes e
  let near := isLocal s src
  entryKind e ≥ 2 || fld e 32 8 != 0 || peSinc e = 0 || src % 64 != 0 || n % 64 != 0 ||
    (if entryKind e = 0 then !(near && inHbm (planePart src) (max 1 n))
     else peDst e % 64 != 0 || !inPinned s (peDst e) (max 1 n) || (n != 0 && !inWrite s k (peDst e) n) ||
      !(if near then inPlane s (planePart src) (max 1 n) else peerOk (planePart src) (max 1 n))) ||
    (near && (csetBad s k (planePart src) n).isSome)

/-! ### PREFETCH_ISSUE (R57) -/

/-- The schedule may issue its next entry. -/
def schedReady (s : State) (r : Sched) : Bool :=
  decide (r.next < r.count) && live s r.slot && ((cmdOf s r.slot).map (·.based)).getD false &&
    (r.w = 0 || decide (r.next < r.w) || peDue s (entryOf s r.slice (r.first + r.next - r.w)))

/-- Among the schedules of a slice, that of the lower queue, then of the older command, that is ready. -/
def schedNext (s : State) (b : Nat) : Option Sched :=
  let mine := s.mem.scheds.filter fun r => r.slice = b
  if 64 ≤ (mine.map (·.flying.length)).sum then none
  else minBy? (fun r => ((((cmdOf s r.slot).map fun c => c.queue * 2 ^ 64 + c.order).getD 0 : Nat) : Int)) (mine.filter (schedReady s))

/-- Change the schedule of a command in a slice. -/
def updSched (s : State) (b k : Nat) (f : Sched → Sched) : State :=
  { s with mem := { s.mem with scheds := mapIf (fun r => r.slice = b && r.slot = k) f s.mem.scheds } }

/-- Issue entry i of slice b for the command in slot k. Its lines are fetched ahead (R401). -/
def issueEntry (s : State) (b k i : Nat) : State :=
  let e := entryOf s b i
  let n := peBytes e
  let a := planePart (peSrc e)
  let r := areaRead s none 0 b (areaEntry i)
  let s := r.1
  if !r.2 then s
  else if peBad s k e then failWith s k (entryRec k b i 0)
  else
    let s := updSched s b k fun r => { r with next := r.next + 1 }
    if n = 0 then signalOf s k (peActr e) (peSinc e) none none b
    else if isLocal s (peSrc e) then
      match fencedIn s a n with
      | some l => failFenced s k 4 (channelOf s l)
      | none =>
        let s := updSched s b k fun r => { r with flying := r.flying ++ [i] }
        let s := sheafAccess s (some k) (.entry b i) (if entryKind e = 1 then neededLines s k a n else linesOf a n) false true
        if peDue s e then markUrgent b k i s else watchAdd s (peDctr e) (peTarget e) (.prefetch b k i)
    else
      let s := updSched s b k fun r => { r with flying := r.flying ++ [i] }
      startTransfer s (.prefetch b k i) k false (peSrc e / 2 ^ 48) [(a, n)] none

/-- PREFETCH_ISSUE (R57). -/
def execPrefetchIssue (b : SliceId) (s : State) : Host.Outcome State Fault Refusal :=
  match schedNext s b.toNat with
  | none => .next s
  | some r => .next (issueEntry s b.toNat r.slot (r.first + r.next))

/-! ### PREFETCH_ARRIVAL (R58, R59) -/

def entryTransfer (s : State) (b k i : Nat) : Option Transfer := s.fab.transfers.find? fun t => t.who = .prefetch b k i

/-- Every byte of the entry can be in place: its lines have come, its source is not held, its transfer is over. -/
def entryIn (s : State) (b k i : Nat) : Bool :=
  let e := entryOf s b i
  live s k && !(awaits s fun f => f.slot = some k && f.asker = .entry b i) &&
    (if isLocal s (peSrc e) then !heldFor s k (planePart (peSrc e)) (peBytes e)
     else ((entryTransfer s b k i).map Transfer.over).getD false)

/-- The oldest entry in flight in a slice that can be in place. -/
def entryNext (s : State) (b : Nat) : Option (Nat × Nat) :=
  ((s.mem.scheds.filter fun r => r.slice = b).flatMap fun r => r.flying.map fun i => (r.slot, i)).find? fun x => entryIn s b x.1 x.2

/-- The entry's data goes to its destination, and its arrival is signalled. -/
def landEntry (s : State) (b k i : Nat) : State :=
  let e := entryOf s b i
  let n := peBytes e
  let a := planePart (peSrc e)
  let signal := fun (s : State) => if live s k then signalOf s k (peActr e) (peSinc e) none none b else s
  let t := entryTransfer s b k i
  let s := updSched s b k fun r => { r with flying := dropFirst (· = i) r.flying, urgent := r.urgent.filter (· != i) }
  let s := watchDrop s fun w => w = .prefetch b k i
  if entryKind e = 0 then signal s
  else match t with
    | some t => signal (stageBytes (dropTransfer s t) k (peDst e) ((span a n).map t.byte) none)
    | none =>
      match fencedIn s a n with
      | some l => failFenced s k 4 (channelOf s l)
      | none =>
      let s := systemRead s none b (linesOf a n)
      match seenPoison s k a n with
      | some l => failPoison s k l none 0
      | none => signal (stageBytes s k (peDst e) (seenRead s k a n) none)

/-- PREFETCH_ARRIVAL (R58). -/
def execPrefetchArrival (b : SliceId) (s : State) : Host.Outcome State Fault Refusal :=
  match entryNext s b.toNat with
  | none => .next s
  | some (k, i) => .next (landEntry s b.toNat k i)

end Sys2Proof.Machine
end

