-- ==== Sys2Proof/Machine/DebugOps.lean ====
section
/-!
DEFINITION. Snapshots (R484 to R486), watch points' registers (R487), host halts (R492 to R499) and the DEBUG command's copies (R498).
-/
namespace Sys2Proof.Machine

/-! ### Snapshots -/

/-- The hold begins (R485): the last commit number assigned is kept (R486). -/
def snapStart (s : State) : State :=
  { s with dbg := { s.dbg with snap := .hold, snapWaits := false, snapNo := s.disp.lastNo } }

/-- A request joins a snapshot under way, starts one, or waits where less than 10 us have passed (R484). -/
def snapRequest (s : State) (soon : Bool) : State :=
  if s.dbg.snap ≠ .idle ∨ s.dbg.snapWaits then s
  else if soon then { s with dbg := { s.dbg with snapWaits := true } }
  else snapStart s

/-- SNAP_TAKE (R484). -/
def execSnapTake (soon : Bool) (s : State) : Host.Outcome State Fault Refusal := .next (snapRequest s soon)

/-- SNAPSHOT_DEFERRED_START (R484). -/
def execSnapshotDeferredStart (s : State) : Host.Outcome State Fault Refusal :=
  if s.dbg.snapWaits ∧ s.dbg.snap = .idle then .next (snapStart s) else .next s

/-! ### Watch points (R487) -/

/-- A format that a watch admits. -/
def watchFmt (f : Nat) : Bool := decide (f ≤ 0x0B) && f != 0x02 && f != 0x03

/-- The region may be watched. -/
def watchRegionOk (s : State) (i : Nat) (v : Word) : Bool :=
  let base := cfg s (mWatch i 1) 0 48
  let len := cfg s (mWatch i 2) 0 19
  base % 64 == 0 && decide (1 ≤ len ∧ len ≤ 262144) && inPinned s base (64 * len) && watchFmt (fld v 32 8)

/-- Word 0 of watch point i is written with ENABLE = 1. A reserved TRIG keeps its previous value (R460). -/
def watchEnable (s : State) (i : Nat) (v : Word) : State :=
  let old := regGet s (mWatch i 0)
  let s := reportReserved .mgmt (mWatch i 0) ((regFields (mWatch i 0)).getD []) v s
  if bit old 63 then reportRefused s (mWatch i 0) v old
  else if !watchRegionOk s i v then reportClamp s .mgmt 0x04 (mWatch i 0) 63 1 1 0
  else
    let s := if fld v 61 2 = 3 then reportClamp s .mgmt 0x03 (mWatch i 0) 61 2 3 (fld old 61 2) else s
    let v := if fld v 61 2 = 3 then setFld v 61 2 (fld old 61 2) else v
    let v := ofFields 64 [(63, 1), (61, fld v 61 2), (60, fld v 60 1), (59, fld v 59 1), (40, fld v 40 8), (32, fld v 32 8)]
    liveSet (regSet s (mWatch i 0) v) (mWatch i 16) 0

/-- WATCH_ENABLE (R487). -/
def execWatchEnable (i : BitVec 6) (v : Word) (s : State) : Host.Outcome State Fault Refusal :=
  if bit v 63 then .next (watchEnable s i.toNat v) else .next s

/-! ### Host halts (R492 to R494) -/

/-- The permissions of the debug token (R480). -/
def permBit (s : State) (i : Nat) : Bool := bit s.sec.perm i

/-- DBG_CORE_CTL.HALT: a core that runs no LAUNCH holds the request (R492). -/
def halt (s : State) (c : Nat) : State := haltCore s c 2 0

/-- RESUME or STEP of a core (R494). A RESUME is held while a DEBUG command names the core (R496); a STEP is not. -/
def resume (s : State) (c : Nat) (step : Bool) : State :=
  if debugNames s c ∧ !step then updCore s c fun k => { k with dbg := { k.dbg with resumeWait := true } }
  else resumeCore s c step

/-- HALT (R492). The block is closed while PERM bit 0 is clear (R480). -/
def execHalt (c : CoreId) (s : State) : Host.Outcome State Fault Refusal :=
  if permBit s 0 then .next (halt s c.toNat) else .next s

/-- RESUME (R494, R496). -/
def execResume (c : CoreId) (s : State) : Host.Outcome State Fault Refusal :=
  if permBit s 0 then .next (resume s c.toNat false) else .next s

/-- STEP (R494). -/
def execStep (c : CoreId) (s : State) : Host.Outcome State Fault Refusal :=
  if permBit s 0 then .next (resume s c.toNat true) else .next s

/-- HALTED (R493): the engines have drained. -/
def execHalted (c : CoreId) (s : State) : Host.Outcome State Fault Refusal :=
  let k := coreOf s c.toNat
  if k.dbg.state = 2 ∧ enginesIdle k then
    .next (updCore s c.toNat fun k => { k with dbg := { k.dbg with state := 3 } })
  else .next s

/-- Every halted core goes on; `only` limits it to one cause. -/
def resumeAll (s : State) (only : Option (BitVec 4)) : State :=
  (s.cores.map (·.1)).foldl (fun s c =>
    let d := (coreOf s c).dbg
    if (d.state = 2 ∨ d.state = 3) ∧ (only = none ∨ only = some d.cause) then resume s c false else s) s

/-- HALT_ALL (R497, R499). -/
def execHaltAll (fab : Bool) (s : State) : Host.Outcome State Fault Refusal :=
  let s := haltAll s 2
  .next (if fab then sendDebug s 1 else s)

/-- RESUME_ALL (R499); with FAB the chips listed are told (R497). -/
def execResumeAll (fab : Bool) (s : State) : Host.Outcome State Fault Refusal :=
  let s := resumeAll s none
  .next (if fab then sendDebug s 2 else s)

/-- A DEBUG message (R497). -/
def debugMsg (s : State) (m : Msg) : State :=
  if !permBit s 3 then s
  else if fld m.hdr 88 8 = 1 then haltAll s 5
  else if fld m.hdr 88 8 = 2 then resumeAll s (some 5)
  else s

/-! ### The DEBUG command (R498) -/

def Cmd.viewPlane (c : Cmd) : Nat := fld c.record 416 48
def Cmd.viewBytes (c : Cmd) : Nat := fld c.record 384 32
def Cmd.viewOff (c : Cmd) : Nat := fld c.record 364 20
def Cmd.viewCore (c : Cmd) : Nat := fld c.record 354 10
def Cmd.viewAcc (c : Cmd) : Bool := bit c.record 353
def Cmd.viewOp (c : Cmd) : Nat := fld c.record 336 8

def coreHalted (s : State) (c : Nat) : Bool := (coreOf s c).dbg.state = 3

/-- The checks at grant: (reason, OBJECT, bit). Reserved bits of a DEBUG body are among them, as R498 has it, where R78 has the body of a command checked
at admission (DESIGN CHOICE, log 53). -/
def viewBad (s : State) (c : Cmd) : Option (Nat × Nat × Nat) :=
  let r := c.record
  match least (spanBad r 344 9 ++ spanBad r 192 144 ++ fieldBad 384 (c.viewBytes % 64 != 0) ++
      fieldBad 364 (c.viewOff % 64 != 0 || decide ((if c.viewAcc then accSize else scratchSize) < c.viewOff + c.viewBytes))) with
  | some b => some (0x32, c.ring, b)
  | none =>
    if c.viewPlane % 64 ≠ 0 ∨ !inPinned s c.viewPlane c.viewBytes then some (0x33, c.viewPlane, 416)
    else if !permBit s 2 ∨ !permBit s 1 then some (0xE0, c.viewPlane, 0)
    else if !coreHalted s c.viewCore then some (0xE1, c.viewPlane, 0)
    else none

/-- VIEW_READ: the halted core's bytes are staged at PLANE. -/
def execViewRead (k : SlotId) (s : State) : Host.Outcome State Fault Refusal :=
  match atWork s k.toNat 0x09 with
  | none => .next s
  | some c =>
    if c.viewOp ≠ 1 then .next s
    else if !coreHalted s c.viewCore then .next (failDisp s k.toNat 0xE1 c.viewPlane 0)
    else
      let core := coreOf s c.viewCore
      let bs := if c.viewAcc then accRead core c.viewOff c.viewBytes else scratchRead core c.viewOff c.viewBytes
      let s := begun s k.toNat
      .next (finish (stageBytes s k.toNat c.viewPlane bs none) k.toNat)

/-- VIEW_WRITE: PLANE is read as committed; the core's bytes change at the command's apply. -/
def execViewWrite (k : SlotId) (s : State) : Host.Outcome State Fault Refusal :=
  match atWork s k.toNat 0x09 with
  | none => .next s
  | some c =>
    if c.viewOp ≠ 2 ∨ heldFor s k.toNat c.viewPlane c.viewBytes then .next s
    else if !coreHalted s c.viewCore then .next (failDisp s k.toNat 0xE1 c.viewPlane 0)
    else match poisonIn s c.viewPlane c.viewBytes with
      | some l => .next (failPoison s k.toNat l none 0)
      | none =>
        let s := updCmd (begun s k.toNat) k.toNat fun m => { m with view := planeRead s c.viewPlane c.viewBytes }
        .next (finish s k.toNat)

/-- The core's bytes of a VIEW_WRITE change as the apply of its command begins (R498). -/
def viewApply (s : State) (k : Nat) : State :=
  match cmdOf s k with
  | none => s
  | some c =>
    if c.kind = 9 ∧ c.viewOp = 2 then
      updCore s c.viewCore fun x => if c.viewAcc then accWrite x c.viewOff c.view else scratchWrite x c.viewOff c.view
    else s

end Sys2Proof.Machine
end

