-- ==== Sys2Proof/Machine/Watches.lean ====
section
/-!
DEFINITION. The evaluation of tensor watches at a commit's apply (R488 to R490).
-/
namespace Sys2Proof.Machine

/-! ### Results (R489) -/

/-- The elements of a region as patterns. -/
def watchElems (s : State) (base len code : Nat) : List Nat :=
  let w := fmtBits code
  let v := planeNat s base (64 * len)
  (List.range (512 * len / w)).map fun e => v / 2 ^ (e * w) % 2 ^ w

def isNan : FVal → Bool
  | .nan => true
  | _ => false

def isInf : FVal → Bool
  | .inf _ => true
  | _ => false

def isZero : FVal → Bool
  | .zero _ => true
  | .fin _ m _ => m = 0
  | _ => false

def isFinite : FVal → Bool
  | .zero _ => true
  | .fin _ _ _ => true
  | _ => false

/-- An exact value rounded once to FP64. -/
def toF64 (v : FVal) : Word := BitVec.ofNat 64 (fp64.encode .rne false v false)

/-- The digest of a region. -/
def watchDigest (seed : Word) (es : List Nat) : Word :=
  es.zipIdx.foldl (fun a e => a + rng (seed ^^^ BitVec.ofNat 64 e.1) (BitVec.ofNat 64 e.2) 0xFFFF) 0

/-- The words 8 to 14 of a watch point: WMIN, WMAX, WSUM, WSUMSQ, the counts and WDIGEST. -/
def watchResults (seed : Word) (code : Nat) (es : List Nat) : List Word :=
  let vs := es.map (readElem 1 code)
  let nums := vs.filter fun v => !isNan v
  let fins := vs.filter isFinite
  let n := fun p => ((vs.filter p).length : Nat)
  [toF64 (nums.foldl FVal.min2 (.inf false)), toF64 (nums.foldl FVal.max2 (.inf true)),
   toF64 (fins.foldl FVal.add (.zero false)), toF64 ((fins.map fun v => v.mul v).foldl FVal.add (.zero false)),
   ofFields 64 [(32, n isNan), (0, n isInf)], ofFields 64 [(32, n isZero), (0, fins.length)], watchDigest seed es]

/-! ### One watch at one commit (R488, R490) -/

/-- Ranges that a command writes or reduces. -/
def Cmd.touched (c : Cmd) : List (Nat × Nat) := c.lockRanges ++ c.reduceRanges ++
  c.page.locks.filterMap fun p => if p.2 then some (4096 * p.1, 4096) else none

/-- The member of the set that makes watch i evaluate. -/
def watchHit (s : State) (i : Nat) (slots : List Nat) : Option Nat :=
  let w := regGet s (mWatch i 0)
  let base := cfg s (mWatch i 1) 0 48
  let n := 64 * cfg s (mWatch i 2) 0 19
  if !bit w 63 then none
  else slots.find? fun k => ((cmdOf s k).map fun c =>
    (!bit w 59 || fld w 40 8 == c.queue) && c.touched.any fun r => overlap r.1 r.2 base n).getD false

/-- The BREAKPOINT record of R490. -/
def watchRec (s : State) (i k n reason obj : Nat) : State :=
  logRec s { code := eBreakpoint, unitCls := 0, unit := i, slot := some k, object := obj, detail := reason * 2 ^ 56 + n % 2 ^ 48 }

def watchOne (slots : List Nat) (n : Nat) (s : State) (i : Nat) : State :=
  match watchHit s i slots with
  | none => s
  | some k =>
    let w := regGet s (mWatch i 0)
    let base := cfg s (mWatch i 1) 0 48
    let len := cfg s (mWatch i 2) 0 19
    if (poisonIn s base (64 * len)).isSome then liveSet s (mWatch i 16) (setFld (liveGet s (mWatch i 16)) 63 1 1)
    else
      let rs := watchResults (regGet s (mWatch i 3)) (fld w 32 8) (watchElems s base len (fld w 32 8))
      let s := rs.zipIdx.foldl (fun s r => liveSet s (mWatch i (8 + r.2)) r.1) s
      let s := liveSet s (mWatch i 15) (BitVec.ofNat 64 n)
      let s := liveSet s (mWatch i 16) (setFld (liveGet s (mWatch i 16)) 0 32 (fld (liveGet s (mWatch i 16)) 0 32 + 1))
      let s := if bit w 60 then cfgSet s (mWatch i 0) 63 1 0 else s
      let counts := rs.getD 4 0
      let digest := rs.getD 6 0
      if fld w 61 2 = 1 ∧ counts ≠ 0 then watchRec s i k n 0xF4 counts.toNat
      else if fld w 61 2 = 2 ∧ digest ≠ regGet s (mWatch i 4) then watchRec s i k n 0xF5 digest.toNat
      else s

/-- Every enabled watch that the commit of these commands touches is evaluated. -/
def watchCommit (s : State) (slots : List Nat) (n : Nat) : State := (List.range 64).foldl (watchOne slots n) s

end Sys2Proof.Machine
end

