-- ==== Sys2Proof/Machine/Commit.lean ====
section
/-!
DEFINITION. The commit sequencer (R95, R96, R113, R502) and what a slice does at apply (R48, R86, R281, R408). RELEASE and what follows it
are in Release.lean.
-/
namespace Sys2Proof.Machine

/-! ### The sequencer's messages (R113) -/

/-- The command has something in the slices: output ranges, staged lines, deltas, or tables it has changed. -/
def touchesSlices (s : State) (slots : List Nat) : Bool :=
  slots.any fun k => match cmdOf s k with
    | none => false
    | some c => !c.staged.isEmpty || !c.deltas.isEmpty || !c.page.locks.isEmpty || !(((c.annex.map (·.outs)).getD []).isEmpty)

/-- A commit has applied everything: watches, a stored image. -/
def applyEnd (s : State) (slots : List Nat) (n : Nat) : State := slots.foldl storeCommit (watchCommit s slots n)

/-- The schedules of commands end; what is in flight has no further effect (R62). -/
def endSchedules (s : State) (slots : List Nat) : State :=
  let mine : Waiter → Bool := fun w => match w with
    | .prefetch _ k _ => slots.contains k
    | _ => false
  let ours : Transfer → Bool := fun t => match t.who with
    | .prefetch _ k _ => slots.contains k
    | _ => false
  let s := watchDrop s mine
  { s with
    mem := { s.mem with
      scheds := s.mem.scheds.filter fun r => !slots.contains r.slot,
      fills := mapIf (fun f => slots.any fun k => f.slot = some k) (fun f => match f.asker with
        | .entry _ _ => { f with asker := .system }
        | _ => f) s.mem.fills },
    fab := { s.fab with transfers := s.fab.transfers.filter fun t => !ours t } }

/-- A DEBUG command whose core is no longer halted (R498). -/
def viewLost (s : State) (slots : List Nat) : Option (Nat × Nat) :=
  slots.findSome? fun k => match cmdOf s k with
    | none => none
    | some c => if c.kind = 9 ∧ !coreHalted s c.viewCore then some (k, c.viewPlane) else none

/-- The sequencer gives the set its commit number and begins the apply round, with which what a VIEW_WRITE writes is in its core (R95, R96, R498). -/
def beginCommit (s : State) (slots : List Nat) : State :=
  let n := s.disp.lastNo + 1
  let s := updCmds s slots fun _ c => { c with decided := true, phase := .committing, commitNo := n }
  let s := slots.foldl viewApply (endSchedules s slots)
  let bs := if touchesSlices s slots then List.range 8 else []
  let s := { s with disp := { s.disp with
    lastNo := n,
    current := some { slots := slots, number := n, round := if bs.isEmpty then .releasing else .applying, todo := bs, answered := [] } } }
  if bs.isEmpty then applyEnd s slots n.toNat else s

/-- The commit request of a set has been taken without a commit. -/
def requestOver (s : State) (slots : List Nat) : State := updCmds s slots fun _ c => { c with reqSent := false }

/-- COMMIT_REQUEST (R95, R113, R502): messages are taken in the order of their sending, so an abort that left before the request comes first, and a fail
message that left after it comes later. A set whose targets a fence has taken meanwhile does not commit (R415). -/
def execCommitRequest (k : SlotId) (s : State) : Host.Outcome State Fault Refusal :=
  match cmdOf s k.toNat with
  | none => .next s
  | some c =>
    if !c.reqSent ∨ c.decided ∨ c.phase ≠ .running ∨ c.kill.isSome ∨ !c.aborts.all (·.1) ∨ !sequencerFree s then .next s
    else
      let slots := jointSet s k.toNat
      match viewLost s slots, setFenced s slots with
      | some (m, obj), _ => .next (failDisp (requestOver s slots) m 0xE1 obj 0)
      | none, some (m, ch) => .next (if c.failSent then requestOver s slots else failFenced (requestOver s slots) m 4 ch)
      | none, none => .next (beginCommit s slots)

/-- FAIL_MESSAGE (R104, R113): the command has failed, and its kill begins, unless a message that left earlier is still to be taken. -/
def execFailMessage (k : SlotId) (s : State) : Host.Outcome State Fault Refusal :=
  match cmdOf s k.toNat with
  | none => .next s
  | some c =>
    if c.failSent ∧ !c.decided ∧ !c.failed ∧ !(c.reqSent && c.kill.isNone) ∧ c.aborts.all (·.2) then
      .next (startKill .fail (updCmds s (jointSet s k.toNat) fun _ m => { m with failed := true }) k.toNat)
    else .next s

/-- The abort comes too late (R112). -/
def abortLate (s : State) (k : Nat) (c : Cmd) : State :=
  let s := logRec s { code := eAbortTooLate, unitCls := 7, unit := 0, slot := some k, object := c.seq, detail := 0x39 * 2 ^ 56 }
  updCmds s (jointSet s k) fun _ m => { m with tooLate := true, aborts := m.aborts.drop 1 }

/-- A MODE command of the set whose publish has been sent (R116). -/
def modePublished (s : State) (slots : List Nat) : Bool :=
  slots.any fun m => match cmdOf s m with
    | none => false
    | some c => c.isMode && c.fin

/-- A commit request or a fail message that left before the first abort message is still to be taken (R113). -/
def Cmd.abortWaits (c : Cmd) : Bool :=
  !c.decided && (c.aborts.head?.any fun a =>
    (a.1 && c.reqSent && c.phase = .running && c.kill.isNone) || (a.2 && c.failSent && !c.failed))

/-- ABORT_MESSAGE (R112, R113, R116): the first on its way. -/
def execAbortMessage (k : SlotId) (s : State) : Host.Outcome State Fault Refusal :=
  match cmdOf s k.toNat with
  | none => .next s
  | some c =>
    if c.aborts.isEmpty ∨ c.abortWaits then .next s
    else
      let slots := jointSet s k.toNat
      if c.decided ∨ c.failed ∨ modePublished s slots then .next (abortLate s k.toNat c)
      else
        let s := cancelMode s slots
        let s := updCmds s slots fun _ m => { m with decided := true, aborts := m.aborts.drop 1 }
        if c.phase = .running then .next (startKill .abort s k.toNat) else .next (endSet .aborted s k.toNat)

/-! ### Reductions merged (R48, R204) -/

/-- Insert by ascending key, behind equals. -/
def insertBy {α : Type} (key : α → Nat) (a : α) : List α → List α
  | [] => [a]
  | b :: t => if key a < key b then a :: b :: t else b :: insertBy key a t

/-- Stable sort by ascending key. -/
def sortBy {α : Type} (key : α → Nat) (l : List α) : List α := l.foldl (fun r a => insertBy key a r) []

/-- The order of merging: contributor index, core, vector engine before copy engine. -/
def deltaKey (d : Delta) : Nat := d.contrib * 2 ^ 16 + d.core * 8 + d.eng

/-- The value of an element after its deltas, in the order given, each by its own operation. A two-byte element is BF16: it is widened, and
rounded once at the end. -/
def mergeDeltas (denorm bytes old : Nat) (ds : List Delta) : Nat :=
  let n := 8 * bytes
  if bytes = 2 then
    writeElem denorm 0x07 .rne false (val32 denorm (ds.foldl (fun a d => fp32Add denorm a d.value.toNat) (old * 2 ^ 16)))
  else ds.foldl (fun a d => redFn denorm d.op n a d.value.toNat) old % 2 ^ n

/-- Merge the deltas of one element in ascending (contributor, core, engine); deltas that differ in their operation alone merge in the order
of their staging (log 49). -/
def mergeAt (denorm : Nat) (ds : List Delta) (s : State) (t : Nat × Nat) : State :=
  let mine := sortBy deltaKey (ds.filter fun d => d.addr = t.1 && d.bytes = t.2)
  planeWrite s t.1 (natLE t.2 (mergeDeltas denorm t.2 (planeNat s t.1 t.2) mine))

/-! ### APPLY (R95) -/

/-- Bytes that the command has staged, of lines in slice b. -/
def stagedIn (s : State) (c : Cmd) (b : Nat) : Map Byte := c.staged.filter fun e => sliceOf s (lineOf e.1) = b

/-- A line of the command's output enters the cache of its home slice under the way mask, or goes to its channel through the transit buffer
where only non-allocating transfers have staged it (R43, R95). -/
def outLine (k : Nat) (thru : List Nat) (s : State) (l : Nat) : State :=
  if l < hbmSize then allocate s (some k) none none l (if thru.contains l then 0 else wayMask s k) true else s

/-- The staged lines of one command go to their targets. -/
def applyStaged (s : State) (k b : Nat) (c : Cmd) : State :=
  let es := stagedIn s c b
  let s := es.foldl (fun s e => planeWrite s e.1 [e.2]) s
  ((es.map fun e => lineOf e.1).eraseDups).foldl (outLine k c.thru) s

/-- A line that the members of a set have staged whole loses its poison mark (R406). -/
def clearMarks (s : State) (slots : List Nat) (b : Nat) : State :=
  let cs := slots.filterMap (cmdOf s)
  let whole := fun l => (span l 64).all fun a => cs.any fun c => (Map.find? c.staged a).isSome
  (s.mem.poison.filter fun l => sliceOf s l = b && whole l).foldl unpoison s

/-- The set's deltas in slice b. -/
def applyDeltas (s : State) (slots : List Nat) (b : Nat) : State :=
  let ds := (slots.flatMap fun k => ((cmdOf s k).map (·.deltas)).getD []).filter fun d => sliceOf s d.addr = b
  let k := slots.headD 0
  let thru := (slots.filterMap (cmdOf s)).flatMap (·.thru)
  let s := ((ds.map fun d => (d.addr, d.bytes)).eraseDups).foldl (mergeAt (denormOf s k) ds) s
  ((ds.map fun d => lineOf d.addr).eraseDups).foldl (outLine k thru) s

/-- FLIP selectors in slice b: bit 0 is inverted (R86, R95). The KV frame table is not written (R277). -/
def applyFlips (s : State) (k b : Nat) (c : Cmd) : State :=
  (((c.annex.map (·.outs)).getD []).filter fun o => o.kind = 2 && sliceOf s o.addr = b && !inFrameTable s o.addr 8).foldl
    (fun s o => outLine k [] (planeWrite s o.addr [planeByte s o.addr ^^^ 1]) (lineOf o.addr)) s

/-- An error in the staged line, or line of deltas, `l` at apply: its target is written poisoned and the commit goes on (R408). -/
def applyBad (s : State) (slots : List Nat) (b l : Nat) : State :=
  match slots.find? fun k => ((cmdOf s k).map fun c => sliceOf s l = b && c.writesLine l).getD false with
  | none => s
  | some k =>
    let idx := nextIndex s
    let s := logRec s { code := eEccUncorrected, unitCls := 3, unit := b, slot := some k, object := l, detail := 0xB2 * 2 ^ 56 }
    startTest (poison s l) 3 l idx true [] false

def applySlice (s : State) (m : Commit) (b : Nat) (bad : Option (BitVec 48)) : State :=
  let each := fun (f : State → Nat → Cmd → State) (s : State) =>
    m.slots.foldl (fun s k => match cmdOf s k with | none => s | some c => f s k c) s
  let s := clearMarks (each (fun s k c => applyStaged s k b c) s) m.slots b
  let s := applyDeltas s m.slots b
  let s := each (fun s k c => applyFlips s k b c) s
  let s := match bad with
    | some a => applyBad s m.slots b (lineOf a.toNat)
    | none => s
  each (fun s _ c => pageApply s c b) s

def setCommit (s : State) (m : Option Commit) : State := { s with disp := { s.disp with current := m } }

/-- APPLY (R95): slice b applies the commit under way; `bad` is a staged line in which the Husk finds an error (R408). -/
def execApply (b : SliceId) (bad : Option (BitVec 48)) (s : State) : Host.Outcome State Fault Refusal :=
  match s.disp.current with
  | none => .next s
  | some m =>
    if m.round ≠ .applying ∨ !m.todo.contains b.toNat then .next s
    else
      let s := applySlice s m b.toNat bad
      let left := m.todo.filter (· != b.toNat)
      let s := setCommit s (some { m with todo := left, answered := m.answered ++ [b.toNat] })
      .next (if left.isEmpty then applyEnd s m.slots m.number.toNat else s)

/-- APPLY_DONE (R95): the last answer begins the release round. -/
def execApplyDone (b : SliceId) (s : State) : Host.Outcome State Fault Refusal :=
  match s.disp.current with
  | none => .next s
  | some m =>
    if m.round ≠ .applying ∨ !m.answered.contains b.toNat then .next s
    else
      let got := m.answered.filter (· != b.toNat)
      if got.isEmpty ∧ m.todo.isEmpty then
        .next (setCommit s (some { m with round := .releasing, todo := List.range 8, answered := [] }))
      else .next (setCommit s (some { m with answered := got }))

end Sys2Proof.Machine
end

