-- ==== Sys2Proof/Machine/Conv.lean ====
section
/-!
DEFINITION. Image operations of the matrix engine: the geometry pair and the gather (R310 to R316), CONV (R317, R318), CONVG (R320 to
R322), CWIN (R323) and CROP (R324, R325).
-/
namespace Sys2Proof.Machine

/-! ### The geometry pair (R310 to R312) -/

/-- The geometry of an instruction: d[G] and d[G + 1]. -/
structure Geo where
  a : BitVec 256
  b : BitVec 256
  deriving DecidableEq, Repr

def Geo.o (g : Geo) (x : Nat) : Nat := fld g.a (64 * x + 51) 13
def Geo.padb (g : Geo) (x : Nat) : Nat := fld g.a (64 * x + 38) 13
def Geo.dil (g : Geo) (x : Nat) : Nat := fld g.a (64 * x + 25) 13
def Geo.stride (g : Geo) (x : Nat) : Nat := fld g.a (64 * x + 17) 8
def Geo.tap (g : Geo) (x : Nat) : Nat := fld g.a (64 * x + 9) 8
def Geo.mode (g : Geo) (x : Nat) : Nat := fld g.a (64 * x + 7) 2
def Geo.batch (g : Geo) : Nat := fld g.a 243 13
def Geo.oex (g : Geo) : Nat := fld g.a 232 11
def Geo.oey (g : Geo) : Nat := fld g.a 221 11
def Geo.ct0 (g : Geo) : Nat := fld g.a 214 7
def Geo.cbase (g : Geo) : Nat := fld g.a 201 13
def Geo.xb (g : Geo) : Nat := fld g.a 195 6 + 1
def Geo.wo (g : Geo) (x : Nat) : Nat := fld g.b (64 * x + 51) 13
def Geo.nf (g : Geo) (x : Nat) : Nat := fld g.b (64 * x + 38) 13
def Geo.level (g : Geo) : Nat := fld g.b 253 3

def Job.geo (j : Job) : Geo := { a := (getOp j.ops .x).d, b := (getOp j.ops .y).d }

/-- The lowest set bit of a span. -/
def lowBit (d : BitVec 256) (lo len : Nat) : Option Nat := ((List.range len).find? fun b => bit d (lo + b)).map (lo + ·)

/-- The offending bit of d[G] (R311); `g` says that the operation is CONVG. -/
def geoBadA (d : BitVec 256) (g : Bool) : Option Nat :=
  let x : Geo := { a := d, b := 0 }
  let extent := fun n => n == 0 || decide (1024 < n)
  (((List.range 3).flatMap fun a => [lowBit d (64 * a) 7, encBit (64 * a + 17) (x.stride a == 0), encBit (64 * a + 25) (x.dil a == 0)]) ++
    [lowBit d 192 3, encBit 232 (extent x.oex), encBit 221 (extent x.oey), if g then lowBit d 214 7 else none,
     if g then none else lowBit d 201 13, if g then none else lowBit d 195 6]).findSome? id

/-- The offending bit of d[G + 1] (R312). -/
def geoBadB (d : BitVec 256) : Option Nat :=
  ((List.range 3).map fun a => lowBit d (64 * a) 38).findSome? id |>.or (lowBit d 192 61)

/-- Check 2 of the pair (R310). -/
def geoBad (g : Bool) (_ : EInstr) (ops : List Opnd) : List (Option Bad) :=
  let x := getOp ops .x
  let y := getOp ops .y
  [(geoBadA x.d g).map (badOp 0x02 x), (geoBadB y.d).map (badOp 0x02 y)]

def geoParts (r : Nat) : List (Part × Nat × Nat) := [(.x, 7, r), (.y, 7, r + 1)]

def notGeo (p : Part) : Bool := p != .x && p != .y

/-! ### The gather (R313 to R315) -/

/-- Where an unfolded index leads. -/
inductive Src where
  | at' (i : Int)
  | zero
  | const
  deriving DecidableEq, Repr

/-- src of R314. -/
def srcOf (i : Int) (n mode : Nat) : Src :=
  if 0 ≤ i ∧ i < n then .at' i
  else match mode with
    | 0 => .zero
    | 1 => .const
    | 2 =>
      if n ≤ 1 then .at' ((n : Int) - 1)
      else
        let r := i % (2 * ((n : Int) - 1))
        if r < n then .at' r else .at' (2 * ((n : Int) - 1) - r)
    | _ => .at' (min (max i 0) ((n : Int) - 1))

/-- The full extent of axis a (R312): DA's own where NF is 0. -/
def fullExtent (j : Job) (a : Nat) : Nat := if j.geo.nf a = 0 then (j.op .da).own (a + 1) else j.geo.nf a

/-- The output position of row m on axis a (R313). -/
def outPos (g : Geo) (m a : Nat) : Nat :=
  if a = 0 then g.o 0 + m % g.oex * g.xb
  else if a = 1 then g.o 1 + m / g.oex % g.oey
  else g.o 2 + m / (g.oex * g.oey)

/-- The unfolded index of a position. -/
def unfold (g : Geo) (p a ux : Nat) : Int :=
  (p : Int) * g.stride a + (g.tap a : Int) * g.dil a - g.padb a + (if a = 0 then ux else 0)

/-- What a row reads: zeros, pads, or the row of DA. -/
inductive RowSrc where
  | zero
  | const
  | row (r : List Nat)
  deriving DecidableEq, Repr

/-- Resolve row m with lane offset ux (R314): the first axis that leaves the image decides. -/
def rowSrc (j : Job) (m ux : Nat) : RowSrc :=
  let g := j.geo
  let ss := (List.range 3).map fun a => srcOf (unfold g (outPos g m a) a ux) (fullExtent j a) (g.mode a)
  match ss.find? fun x => x = .zero || x = .const with
  | some .zero => .zero
  | some .const => .const
  | _ => .row (ss.zipIdx.map (fun x => match x.1 with
      | .at' i => (i - g.wo x.2).toNat
      | _ => 0) ++ [g.batch])

/-- The value of channel c of a gathered row (R315). -/
def gathered (j : Job) (src : RowSrc) (c : Nat) : FVal :=
  let a := j.op .da
  match src with
  | .zero => readElem j.denorm a.code 0
  | .const => readElem j.denorm a.code a.padBits
  | .row r => j.value a c r

/-- The ranges of channels c0 to c1 − 1 of the gathered rows, by location. -/
def gatherReads (j : Job) (m : Nat) (uxs : List Nat) (c0 c1 : Nat) : List (Nat × Nat × Nat) :=
  let a := j.op .da
  let top := Nat.min c1 (a.e 0)
  if top ≤ c0 then []
  else a.located (((List.range m).flatMap fun r => uxs.map fun u => rowSrc j r u).flatMap fun src => match src with
    | .row r =>
      let lo := c0 * a.w / 8
      (a.rowAt r + lo, rowLen top a.w - lo) :: (if a.mx then [(a.scaleAt r + c0 / 32, ceilDiv top 32 - c0 / 32)] else [])
    | _ => [])

/-! ### The window check (R316) -/

/-- The lowest image index of axis a outside the window, over rows m < M and lane offsets below `ux`. -/
def windowLow (j : Job) (m ux a : Nat) : Option Int :=
  let g := j.geo
  let n := if a = 0 then Nat.min g.oex m else if a = 1 then Nat.min g.oey (ceilDiv m g.oex) else ceilDiv m (g.oex * g.oey)
  let first := unfold g (outPos g 0 a) a 0
  let last := unfold g (g.o a + (n - 1) * (if a = 0 then g.xb else 1)) a (ux - 1)
  let ext := (j.op .da).own (a + 1)
  let out := (List.range (last - first + 1).toNat).filterMap fun (t : Nat) =>
    match srcOf (first + (t : Int)) (fullExtent j a) (g.mode a) with
    | .at' i => if (g.wo a : Int) ≤ i ∧ i < g.wo a + ext then none else some i
    | _ => none
  minBy? id out

/-- Check 6 with reason 0x23; a zero shape skips it. -/
def windowBad (zero : List Opnd → Bool) (ux : Nat) (j : Job) : List (Option Bad) :=
  if zero j.ops then []
  else (List.range 3).map fun a => (windowLow j ((getOp j.ops .dc).e 1) ux a).map fun i =>
    badShape 0x23 (getOp j.ops .da) (j.geo.level * 2 ^ 52 + (a + 1) * 2 ^ 48 + ofSigned 48 i)

/-- Check 7 on DA: WO without NF, and BATCH (R312, R317). -/
def geoAgree (j : Job) : List (Option Bad) :=
  let a := getOp j.ops .da
  (List.range 3).map (fun x => mustAgree a (x + 1) (!(j.geo.nf x = 0 && j.geo.wo x != 0))) ++ [mustAgree a 4 (decide (j.geo.batch < a.e 4))]

/-- DC's shape: N columns at most, 1,024 rows (R317). -/
def dcFit (j : Job) : List (Option Bad) := tileFit (getOp j.ops .dc) 64 1024

def gatherMap (_ : EInstr) (p : Part) (k : Nat) : Option (Nat × (Nat → Nat)) :=
  match p, k with
  | .da, 0 => same 1
  | .dc, 0 => same 2
  | .dc, 1 => same 0
  | _, _ => none

/-! ### CONV (R317, R318) -/

def convG (i : EInstr) : Nat := i.ext 25 5
def convTiles (i : EInstr) : Nat := i.ext 21 4 + 1

def convZero (ops : List Opnd) : Bool :=
  (getOp ops .dc).e 1 = 0 || (getOp ops .da).e 0 = 0 || (getOp ops .db).e 1 = 0 || (getOp ops .dc).e 0 = 0

/-- The row of DB that output n reads for the tap. -/
def tapRow (g : Geo) (n : Nat) : List Nat := [n, g.tap 0, g.tap 1, g.tap 2]

/-- The ranges of the filter for the tap, by location. -/
def filterReads (j : Job) (c0 c1 : Nat) : List (Nat × Nat × Nat) :=
  let b := j.op .db
  let top := Nat.min c1 (b.e 0)
  if top ≤ c0 then []
  else b.located ((List.range (b.e 1)).flatMap fun n => match b.rowSpans top (tapRow j.geo n) with
    | (a, len) :: rest => (a + c0 * b.w / 8, len - c0 * b.w / 8) :: rest
    | [] => [])

/-- The passes of one chain: channel tiles in ascending order. -/
def convChain (j : Job) (src : RowSrc) (n start : Nat) : Nat :=
  let g := j.geo
  (List.range (convTiles j.i)).foldl (fun acc t =>
    let lanes := span (64 * (g.ct0 + t)) 64
    chain j.denorm acc (products (lanes.map (gathered j src)) (lanes.map fun c => j.value (j.op .db) c (tapRow g n)))) start

def convForm : Form :=
  { alts := [0, 1, 2], ext := fun i => [spanBit i 0 21, encBit 25 (convG i == 31)],
    parts := fun i => threeParts i ++ geoParts (convG i), plain := notGeo, more2 := geoBad false, need := matNeed,
    tmap := fun i p k => match p, k with
      | .db, 0 => same 1
      | .db, 1 => same 2
      | _, _ => gatherMap i p k,
    range := fun j => windowBad convZero 1 j ++ mustFit (getOp j.ops .db) 1 64 :: dcFit j,
    agree := fun j =>
      let a := getOp j.ops .da
      let b := getOp j.ops .db
      let c := getOp j.ops .dc
      geoAgree j ++ mustAgree b 0 (b.e 0 = a.e 0) ::
        (List.range 3).map (fun x => mustAgree b (x + 2) (decide (j.geo.tap x < b.e (x + 2)))) ++
        [mustAgree c 0 (c.e 0 = b.e 1)] ++ altAgree j,
    zero := convZero, locs := matLocs,
    ins := fun j =>
      let c0 := 64 * j.geo.ct0
      let c1 := c0 + 64 * convTiles j.i
      gatherReads j ((getOp j.ops .dc).e 1) [0] c0 c1 ++ filterReads j c0 c1,
    writes := noWrites,
    run := fun j s =>
      let c := getOp j.ops .dc
      putPieces j c.loc (c.rows.map fun r =>
        let m := r.getD 0 0
        let src := rowSrc j m 0
        j.rowBytes c r ((List.range (c.e 0)).map fun n => convChain j src n (j.start c (bit j.i.raw 30) n m))) s }

/-- CONV (R318). -/
def execConv (c : CoreId) (s : State) : Host.Outcome State Fault Refusal := .next (engineRow s c.toNat 0 0x10 convForm)

/-! ### CONVG (R320 to R322) -/

def cgKb (i : EInstr) : Nat := i.ext 19 6 + 1
def cgNb (i : EInstr) : Nat := i.ext 13 6 + 1
def cgNg (i : EInstr) : Nat := i.ext 7 6 + 1
def cgUx (i : EInstr) : Nat := i.ext 1 6 + 1
def cgCig (i : EInstr) : Nat := cgKb i / cgUx i

/-- The channel and the lane offset of lane k. -/
def cgLane (j : Job) (k : Nat) : Nat × Nat :=
  let u := k % cgKb j.i
  (j.geo.cbase + k / cgKb j.i * cgCig j.i + u / cgUx j.i, u % cgUx j.i)

/-- The chain of column n adds the products of its own block, in lane order. -/
def cgChain (j : Job) (m n start : Nat) : Nat :=
  let lanes := span (n / cgNb j.i * cgKb j.i) (cgKb j.i)
  chain j.denorm start (lanes.map fun k =>
    let l := cgLane j k
    (gathered j (rowSrc j m l.2) l.1).mul (j.value (j.op .db) k [n, 0, 0, 0]))

def convgForm : Form :=
  { alts := [0, 1, 2], ext := fun i => [spanBit i 0 1, encBit 25 (convG i == 31)],
    parts := fun i => threeParts i ++ geoParts (convG i), plain := notGeo, more2 := geoBad true, need := matNeed,
    tmap := fun i p k => if p = .db ∧ k = 1 then same 2 else gatherMap i p k,
    range := fun j => windowBad convZero (cgUx j.i) j ++ [mustFit (getOp j.ops .dc) 1 1024],
    agree := fun j =>
      let b := getOp j.ops .db
      let c := getOp j.ops .dc
      geoAgree j ++ [mustAgree b 0 (cgKb j.i % cgUx j.i = 0 && decide (cgNg j.i * cgKb j.i ≤ 64)),
        mustAgree b 1 (decide (cgNg j.i * cgNb j.i ≤ 64)), mustAgree b 0 (b.e 0 = cgNg j.i * cgKb j.i),
        mustAgree b 1 (b.e 1 = cgNg j.i * cgNb j.i || b.e 1 = 0)] ++
        (span 2 3).map (fun k => mustAgree b k (b.e k = 1)) ++ [mustAgree c 0 (c.e 0 = b.e 1)] ++
        (span 2 3).map (fun k => mustAgree c k (c.e k = 1)) ++ altAgree j,
    zero := convZero, locs := matLocs,
    ins := fun j =>
      let n := cgNg j.i * cgCig j.i
      gatherReads j ((getOp j.ops .dc).e 1) (List.range (cgUx j.i)) j.geo.cbase (j.geo.cbase + n) ++ readsOf [.db] j,
    writes := noWrites,
    run := fun j s =>
      let c := getOp j.ops .dc
      putPieces j c.loc (j.pieces c fun n r =>
        cgChain j (r.getD 0 0) n (j.start c (bit j.i.raw 30) n (r.getD 0 0))) s }

/-- CONVG (R321). -/
def execConvg (c : CoreId) (s : State) : Host.Outcome State Fault Refusal := .next (engineRow s c.toNat 0 0x11 convgForm)

/-! ### CWIN (R323) -/

def cwinG (i : EInstr) : Nat := i.ext 24 5

def twoZero (ops : List Opnd) : Bool := (getOp ops .dc).e 1 = 0 || (getOp ops .da).e 0 = 0 || (getOp ops .dc).e 0 = 0

def cwinForm : Form :=
  { alts := [0, 1], ext := fun i => [spanBit i 0 24, encBit 24 (cwinG i == 31), encBit 29 (i.ext 29 2 == 3)],
    unused := fun i => [spanBit i 57 5, spanBit i 35 5],
    parts := fun i => [(.da, 0, i.da), (.dc, 2, i.dc)] ++ geoParts (cwinG i), plain := notGeo, more2 := geoBad false, need := matNeed,
    tmap := gatherMap, range := fun j => windowBad twoZero 1 j ++ dcFit j, agree := fun j => geoAgree j ++ altAgree j,
    zero := twoZero, locs := matLocs,
    accs := fun j => if j.i.ext 29 2 = 0 then [] else (getOp j.ops .dc).located (getOp j.ops .dc).spans,
    ins := fun j => gatherReads j ((getOp j.ops .dc).e 1) [0] (64 * j.geo.ct0) (64 * j.geo.ct0 + (getOp j.ops .dc).e 0),
    writes := noWrites,
    run := fun j s =>
      let c := getOp j.ops .dc
      putPieces j c.loc (j.pieces c fun n r =>
        let v := gathered j (rowSrc j (r.getD 0 0) 0) (64 * j.geo.ct0 + n)
        match j.i.ext 29 2 with
        | 0 => fp32Of j.denorm v
        | 1 => fp32Of j.denorm ((j.value c n r).max2 v)
        | _ => fp32Of j.denorm ((j.value c n r).add v)) s }

/-- CWIN (R323). -/
def execCwin (c : CoreId) (s : State) : Host.Outcome State Fault Refusal := .next (engineRow s c.toNat 0 0x18 cwinForm)

/-! ### CROP (R324, R325) -/

def cropSr (i : EInstr) : Nat := i.ext 28 3 + 1
def cropPh (i : EInstr) : Nat := i.ext 21 7 + 1
def cropPw (i : EInstr) : Nat := i.ext 14 7 + 1

def int32 (dn : Nat) (n : Nat) : Nat := fp32Of dn (FVal.ofInt false n 0)

/-- rne(o + rne(b × rne(p + rne((2i + 1) / (2 SR))))). -/
def samplePos (dn o b p i sr : Nat) : Nat :=
  add32 dn o (mul32 dn b (add32 dn (int32 dn p)
    (rne32 dn (fnDiv (FVal.ofInt false (2 * i + 1 : Nat) 0) (FVal.ofInt false (2 * sr : Nat) 0)))))

/-- Bin side: rne(rne(hi − lo) / P). -/
def binSide (dn lo hi p : Nat) : Nat := rne32 dn (fnDiv (val32 dn (sub32 dn hi lo)) (FVal.ofInt false p 0))

/-- Floor of a value that is not negative. -/
def FVal.floorNat (v : FVal) : Nat :=
  match v with
  | .fin _ m e => if 0 ≤ e then m * 2 ^ e.toNat else m / 2 ^ (-e).toNat
  | _ => 0

/-- A coordinate inside 0 to n − 1. -/
def inImage (v : FVal) (n : Nat) : Bool :=
  !v.isNan && decide (0 ≤ v.cmp (.zero false)) && decide (v.cmp (FVal.ofInt false ((n : Int) - 1) 0) ≤ 0)

/-- The two sample coordinates (y, x) of sample (iy, ix) of row m, as FP32. -/
def cropSample (j : Job) (m iy ix : Nat) : Nat × Nat :=
  let i := j.i
  let dn := j.denorm
  let r := [m / (cropPh i * cropPw i), 0, 0, 0]
  let el := fun n => j.elem32 (getOp j.ops .db) n r
  (samplePos dn (el 1) (binSide dn (el 1) (el 3) (cropPh i)) (m / cropPw i % cropPh i) iy (cropSr i),
   samplePos dn (el 0) (binSide dn (el 0) (el 2) (cropPw i)) (m % cropPw i) ix (cropSr i))

def cropBatch (j : Job) (m : Nat) : Int := toSigned 32 (j.pattern (getOp j.ops .db) 4 [m / (cropPh j.i * cropPw j.i), 0, 0, 0])

/-- The four positions that a sample reads, and its weights; none for the extrapolation value. -/
def cropCell (j : Job) (m iy ix : Nat) : Option ((Nat × Nat × Nat × Nat) × Nat × Nat) :=
  let a := j.op .da
  let dn := j.denorm
  let p := cropSample j m iy ix
  let y := val32 dn p.1
  let x := val32 dn p.2
  if cropBatch j m < 0 ∨ (a.e 4 : Int) ≤ cropBatch j m ∨ !inImage y (a.e 2) ∨ !inImage x (a.e 1) then none
  else
    let yl := y.floorNat
    let xl := x.floorNat
    some ((yl, Nat.min (yl + 1) (a.e 2 - 1), xl, Nat.min (xl + 1) (a.e 1 - 1)),
      fp32Of dn (y.add (FVal.ofInt false (-(yl : Int)) 0)), fp32Of dn (x.add (FVal.ofInt false (-(xl : Int)) 0)))

/-- lerp(a, b, t) := rne(a + rne(t × rne(b − a))). -/
def lerp (dn : Nat) (a b : FVal) (t : Nat) : Nat :=
  fp32Of dn (a.add (val32 dn (mul32 dn t (fp32Of dn (b.add a.neg)))))

/-- The value of a sample of channel n. -/
def cropValue (j : Job) (m n iy ix : Nat) : Nat :=
  let dn := j.denorm
  match cropCell j m iy ix with
  | none => fp32Of dn (val32 dn (fld (j.i.gReg (j.i.ext 9 5)) 0 32))
  | some ((yl, yh, xl, xh), wy, wx) =>
    let v := fun y x => j.value (j.op .da) n [x, y, 0, (cropBatch j m).toNat]
    lerp dn (val32 dn (lerp dn (v yl xl) (v yl xh) wx)) (val32 dn (lerp dn (v yh xl) (v yh xh) wx)) wy

/-- The samples of a bin in ascending iy, then ix. -/
def cropSamples (i : EInstr) : List (Nat × Nat) :=
  (List.range (cropSr i)).flatMap fun iy => (List.range (cropSr i)).map fun ix => (iy, ix)

def cropElem (j : Job) (m n : Nat) : Nat :=
  let dn := j.denorm
  let acc := match (cropSamples j.i).map fun p => cropValue j m n p.1 p.2 with
    | [] => 0
    | v :: t => t.foldl (add32 dn) v
  rne32 dn (fnDiv (val32 dn acc) (FVal.ofInt false (cropSr j.i * cropSr j.i : Nat) 0))

/-- The ranges of the image that the samples read, and of the boxes, by location. -/
def cropReads (j : Job) : List (Nat × Nat × Nat) :=
  let a := j.op .da
  let b := getOp j.ops .db
  let m := (getOp j.ops .dc).e 1
  let n := Nat.min ((getOp j.ops .dc).e 0) (a.e 0)
  let cells := (List.range m).flatMap fun r => (cropSamples j.i).filterMap fun p => (cropCell j r p.1 p.2).map fun c => (r, c.1)
  b.located ((List.range (ceilDiv m (cropPh j.i * cropPw j.i))).map fun x => (b.rowAt [x, 0, 0, 0], 20)) ++
  a.located (cells.flatMap fun c =>
    let (yl, yh, xl, xh) := c.2
    [(yl, xl), (yl, xh), (yh, xl), (yh, xh)].flatMap fun p => a.rowSpans n [p.2, p.1, 0, (cropBatch j c.1).toNat])

/-- DA of CROP also takes FP32, as the example of R326 uses it (log 16). -/
def cropNeed (i : EInstr) (_ : List Opnd) (o : Opnd) : Option (Nat × Nat) :=
  match mapPart i o.part with
  | .da => oneOf (actFmt o.code || o.fmt = 0x09) o
  | .db => (mustBe 0x09 o).or (fmtEquals i o)
  | _ => none

def cropForm : Form :=
  { alts := [0, 1], ext := fun i => [spanBit i 0 9], parts := threeParts, need := cropNeed, tmap := gatherMap,
    range := dcFit,
    agree := fun j =>
      let a := getOp j.ops .da
      let b := getOp j.ops .db
      [mustAgree a 3 (a.e 3 = 1), mustAgree b 0 (b.e 0 = 8),
       mustAgree b 1 (decide (ceilDiv ((getOp j.ops .dc).e 1) (cropPh j.i * cropPw j.i) ≤ b.e 1))] ++ altAgree j,
    zero := twoZero, locs := matLocs, ins := cropReads, writes := noWrites, accs := fun _ => [],
    run := fun j s =>
      let c := getOp j.ops .dc
      putPieces j c.loc (j.pieces c fun n r => cropElem j (r.getD 0 0) n) s }

/-- CROP (R325). -/
def execCrop (c : CoreId) (s : State) : Host.Outcome State Fault Refusal := .next (engineRow s c.toNat 0 0x20 cropForm)

end Sys2Proof.Machine
end

