-- ==== Sys2Proof/Machine/Ethernet.lean ====
section
/-!
DEFINITION. The Ethernet ports and queue pairs (R378 to R390, R397): a RoCEv2 message arrives whole (log 27), and what the part has sent is kept
until it is acknowledged.
-/
namespace Sys2Proof.Machine

/-! ### Ports (R378 to R380) -/

/-- Frames dropped (R379, R391). -/
def countDrop (s : State) (e : Nat) : State := liveSat s (mEth e 4) 0 32 1

def portMac (s : State) (e : Nat) : BitVec 48 := BitVec.ofNat 48 (cfg s (mEth e 0) 0 48)
def portIp4 (s : State) (e : Nat) : Nat := cfg s (mEth e 1) 0 32
def portIp6 (s : State) (e : Nat) : Nat := cfg s (mEth e 3) 0 64 * 2 ^ 64 + cfg s (mEth e 2) 0 64

/-- What a port puts around an FCT datagram or an answer to an address query. The only next-hop MAC that the registers hold beside those of queue
pairs is CQ_MAC, so it carries answers too (DESIGN CHOICE, log 51). -/
def fctWire (s : State) (e : Nat) (t : Source) : Wire :=
  portWire s e (cfg s (mCqMac e) 0 48) t.addr 0 61607 t.port.toNat 0

/-- ARP_REQUEST (R379). -/
def execArpRequest (e : EthId) (tpa : BitVec 32) (s : State) : Host.Outcome State Fault Refusal :=
  let s := hearFrame e.toNat s fun tag => max 64 (14 + 4 * b2n tag + 28 + 4)
  if portIp4 s e.toNat ≠ 0 ∧ portIp4 s e.toNat = tpa.toNat then .next (sendEth s e.toNat (.arpReply (fctWire s e.toNat ⟨0, 0⟩) e.toNat (portMac s e.toNat) tpa))
  else .next (countDrop s e.toNat)

/-- NEIGHBOUR_SOLICITATION (R379). -/
def execNeighbourSolicitation (e : EthId) (target : BitVec 128) (s : State) : Host.Outcome State Fault Refusal :=
  let s := hearFrame e.toNat s fun tag => 14 + 4 * b2n tag + 40 + 32 + 4
  if portIp6 s e.toNat ≠ 0 ∧ portIp6 s e.toNat = target.toNat then .next (sendEth s e.toNat (.advert (fctWire s e.toNat ⟨0, 0⟩) e.toNat (portMac s e.toNat) target))
  else .next (countDrop s e.toNat)

/-- PAUSE_FRAME (R380): with PFC_EN = 1 the priority PFC_PRI pauses, or goes on at quanta 0. Every frame of a port carries one priority, so a pause
of it holds them all; when it ends by time is a free value, taken when the block idles (log 8). -/
def execPauseFrame (e : EthId) (pri : BitVec 3) (quanta : BitVec 16) (s : State) : Host.Outcome State Fault Refusal :=
  let s := hearFrame e.toNat s fun _ => 64
  if cfgBit s (mEth e.toNat 1) 59 ∧ cfg s (mEth e.toNat 1) 56 3 = pri.toNat then
    let old : Byte := Map.get (fun _ => 0) s.eth.paused e.toNat
    let s := { s with eth := { s.eth with paused := Map.put s.eth.paused e.toNat (setFld old pri.toNat 1 (b2n (quanta != 0))) } }
    .next (if quanta = 0 then unstall s e.toNat else s)
  else .next s

def setEthLink (s : State) (e v : Nat) : State := liveSet s (mEth e 4) (setFld (liveGet s (mEth e 4)) 62 2 v)

/-- ETH_LINK_UP (R378). -/
def execEthLinkUp (e : EthId) (s : State) : Host.Outcome State Fault Refusal := .next (setEthLink s e.toNat 2)

/-- ETH_LINK_DOWN (R397). -/
def execEthLinkDown (e : EthId) (s : State) : Host.Outcome State Fault Refusal :=
  if fld (liveGet s (mEth e.toNat 4)) 62 2 = 2 then .next (ethRec (setEthLink s e.toNat 0) eLinkDown 0xA0 e.toNat none 0) else .next s

/-! ### Injection rate (R380) -/

def lineRate : Nat := 2 ^ 32

/-- The part is at READY and the queue pair is READY (R382, R398). -/
def qpTakes (s : State) (n : Nat) : Bool := s.mod.stage = 8#4 && qpState s n = 1

/-- CNP (R380): the rate halves, no lower than 1/256. Whether 50 us have passed since it last halved is a free value (log 8). -/
def execCnp (qp : QpId) (s : State) : Host.Outcome State Fault Refusal :=
  let s := hearQp s qp.toNat [roceLen 16 0]
  let r := lineRate - (qpOf s qp.toNat).slow
  if !qpTakes s qp.toNat then .next s
  else if r = lineRate ∨ freeBit s then
    .next (updQp s.tick qp.toNat fun q => { q with slow := lineRate - max (r / 2) (lineRate / 256) })
  else .next s.tick

/-- CNP_RATE_RECOVERY (R380): the rate rises by 1/16 of line rate. -/
def execCnpRateRecovery (qp : QpId) (s : State) : Host.Outcome State Fault Refusal :=
  .next (updQp s qp.toNat fun q => { q with slow := q.slow - lineRate / 16 })

/-- A packet marked CE arrives: a CNP leaves unless one has left for the queue pair within 50 us; once one has, that is a free value (log 8). -/
def cnpSend (s : State) (n : Nat) (ce : Bool) : State :=
  if !ce then s
  else if !(qpOf s n).marked then sendQp (updQp s n fun q => { q with marked := true }) n (.cnp · n)
  else if freeBit s then sendQp s.tick n (.cnp · n) else s.tick

/-! ### The part as responder (R381 to R388) -/

def qpExpected (s : State) (n : Nat) : BitVec 24 := BitVec.ofNat 24 (cfg s (mQp n 1) 16 24)
def setExpected (s : State) (n : Nat) (psn : BitVec 24) : State := cfgSet s (mQp n 1) 16 24 psn.toNat

/-- Packets of a message. -/
def packetsOf (s : State) (n len : Nat) : Nat := max 1 (ceilDiv len (qpMtu s n))

/-- The message's packets are counted (R399 EPSN). -/
def takePackets (s : State) (n len : Nat) : State := setExpected s n (qpExpected s n + BitVec.ofNat 24 (packetsOf s n len))

/-- PSN of a message's last packet. -/
def lastPsn (s : State) (n : Nat) (psn : BitVec 24) (len : Nat) : BitVec 24 := psn + BitVec.ofNat 24 (packetsOf s n len) - 1

def nak (s : State) (n kind : Nat) (psn : BitVec 24) : State := sendQp (countNak s n) n (.rdmaNak · n kind psn)

def ack (s : State) (n : Nat) (psn : BitVec 24) : State := sendQp s n (.rdmaAck · n psn)

/-- A NAK after which the queue pair is in ERROR: cause 3 for a remote access error, 4 for an invalid request. -/
def nakError (s : State) (n kind cause : Nat) (psn : BitVec 24) : State := qpError (nak s n kind psn) n cause

/-- The next packet of a queue pair does not have the number expected (R381, R386): a sequence-error NAK names that one, once until it comes. -/
def outOfOrder (s : State) (n : Nat) : State :=
  if (qpOf s n).seqNak then s else nak (updQp s n fun q => { q with seqNak := true }) n 0 (qpExpected s n)

/-- PSN a comes no later than b. -/
def psnLe (a b : BitVec 24) : Bool := decide ((b - a).toNat < 2 ^ 23)

/-- A request arrives by its PSN: `here` where it is the one expected, `again` where it has been taken already (PRESUMED, as reliable connections of
RoCEv2 do; log 27), and else a gap comes before it. -/
def inOrder (s : State) (n : Nat) (psn : BitVec 24) (ce : Bool) (here again : State → State) : State :=
  let s := cnpSend s n ce
  if psn = qpExpected s n then here (updQp s n fun q => { q with seqNak := false })
  else if psnLe psn (qpExpected s n) then again s
  else outOfOrder s n

/-- The plane key of an R_Key admits the access (R384). -/
def pkeyOk (s : State) (n : Nat) (rkey : BitVec 32) (va len : Nat) (write : Bool) : Bool :=
  let k := fld rkey 0 12
  let base := cfg s (mPkey k 1) 0 48
  cfgBit s (mPkey k 0) 63 && cfgBit s (mPkey k 0) (if write then 61 else 62) && cfg s (mPkey k 0) 12 20 = fld rkey 12 20 &&
    (cfgBit s (mPkey k 0) 60 || cfg s (mPkey k 0) 32 10 = n) && decide (base ≤ va ∧ va + len ≤ base + cfg s (mPkey k 2) 0 48) &&
    inPlane s va len

/-- A write message of a queue pair waits for the sequencer. -/
def qpWaits (s : State) (n : Nat) : Bool :=
  s.disp.waiting.any (WaitWrite.ofQp n)

def waitHost (s : State) (w : WaitWrite) : State := { s with disp := { s.disp with waiting := s.disp.waiting ++ [w] } }

/-- A host write message reaches the sequencer (R97, R100, R386): it is refused where a command holds the range, waits for the commit under way or
for a test, or takes the next commit number. No host writes the KV frame table (R277): the message is refused like one on a locked range (DESIGN
CHOICE, log 27). -/
def hostWrite (s : State) (n : Nat) (psn : BitVec 24) (va : Nat) (data : List Byte) : State :=
  if qpState s n ≠ 1 then s
  else if qpWaits s n || !sequencerFree s || heldByTest s va data.length then waitHost s (.host n psn va data)
  else if (lockIn s [] va data.length).isSome ∨ inFrameTable s va data.length then nakError s n 2 3 psn
  else
    let s := touchLines (planeWriteMsg (nextCommit s) va data) (4 * qpPort s n) va data.length
    ack s n (lastPsn s n psn data.length)

/-- Bytes of a port's receive buffer that wait (R386): whole messages, and the first packets of one. -/
def bufferUsed (s : State) (e : Nat) : Nat :=
  (s.eth.qps.map fun q => if qpPort s q.1 = e then ((q.2.part.map (·.data.length)).getD 0) else 0).sum +
  (s.disp.waiting.map fun w => match w with
    | .host n _ _ d => if qpPort s n = e then d.length else 0
    | .send n _ d => if qpPort s n = e then d.length else 0
    | .peer _ => 0).sum

/-- A message that has been taken already is acknowledged again, unless one of the queue pair still waits for the sequencer. -/
def ackAgain (s : State) (n : Nat) : State := if qpWaits s n then s else ack s n (qpExpected s n - 1)

/-- The last `len` bytes of a message, which the receive buffer cannot take, are discarded, with every later packet of the queue pair; the next of them
is answered (R386): one of the message itself where they make more than one packet, else the next message's first. -/
def bufferFull (s : State) (n len : Nat) : State := if 1 < packetsOf s n len then outOfOrder s n else s

/-- Of `len` bytes of a message, those that the receive buffer of the port takes, by whole packets (R386). -/
def bufferTakes (s : State) (n len : Nat) : Nat :=
  let room := 2097152 - bufferUsed s (qpPort s n)
  if len ≤ room then len else room / qpMtu s n * qpMtu s n

/-- The port asks for a pause where `used` bytes of its receive buffer are three quarters of it or more (R380). -/
def askPause (s : State) (n used : Nat) : State :=
  if 1572864 ≤ used ∧ cfgBit s (mEth (qpPort s n) 1) 59 then send s (.pause (qpPort s n)) else s

/-- The next bytes of a write message arrive, `m` being what has come of it (R386): the buffer takes the packets that it can, and a message that is whole
goes to the sequencer. -/
def takeWrite (s : State) (n : Nat) (m : PartMsg) (data : List Byte) : State :=
  let fit := bufferTakes s n data.length
  let s := askPause s n (bufferUsed s (qpPort s n) + fit)
  if fit = data.length then
    hostWrite (takePackets (updQp s n fun q => { q with part := none }) n fit) n m.psn m.va (m.data ++ data)
  else
    let s := if fit = 0 then s else takePackets (updQp s n fun q => { q with part := some { m with data := m.data ++ data.take fit } }) n fit
    bufferFull s n (data.length - fit)

/-- RDMA_WRITE (R384, R386). A message above 1 MiB leaves the queue pair READY. After the first packets of a message the rest of it comes, from the PSN
that the sequence-error NAK has named; anything else is an invalid request (PRESUMED, as reliable connections of RoCEv2 do; log 27). -/
def execRdmaWrite (p : QpPacket) (psn : BitVec 24) (rkey : BitVec 32) (va : BitVec 48) (data : List Byte) (s : State) : Host.Outcome State Fault Refusal :=
  let n := p.qp.toNat
  let s := hearQp s n (messageLens (qpMtu s n) (if (qpOf s n).part.isSome then 0 else 16) 0 data.length)
  if !qpTakes s n then .next s
  else .next (inOrder s n psn p.ce (fun s =>
    match (qpOf s n).part with
    | some m => if m.data.length + data.length ≠ m.len then nakError s n 3 4 psn else takeWrite s n m data
    | none =>
      if 1048576 < data.length then nak s n 3 psn
      else if data.length ≠ 0 ∧ bufferTakes s n data.length = 0 then bufferFull (askPause s n (bufferUsed s (qpPort s n))) n data.length
      else if !pkeyOk s n rkey va.toNat data.length true then nakError s n 2 3 psn
      else takeWrite s n { psn := psn, va := va.toNat, len := data.length, data := [] } data) fun s => ackAgain s n)

def holdRead (s : State) (h : HeldRead) : State := { s with eth := { s.eth with held := s.eth.held ++ [h] } }

/-- A host READ whose lines are there is answered, or refused where data is lost (R407). -/
def hostAnswer (s : State) (h : HeldRead) : State :=
  if (poisonIn s h.va h.len).isSome then nakError s h.qp 2 3 h.psn
  else sendQp s h.qp (.rdmaReadResp · h.qp (planeRead s h.va h.len))

/-- A host READ in its turn (R43, R99, R387, R407): held on a locked line or for a test, refused on a fenced channel, and answered once its lines have
come. -/
def hostRead (s : State) (h : HeldRead) : State :=
  if s.eth.held.any fun x => x.qp = h.qp then holdRead s h
  else if (lockIn s [] h.va h.len).isSome || heldByTest s h.va h.len then holdRead s { h with wait := none }
  else if (fencedIn s h.va h.len).isSome then nakError s h.qp 2 3 h.psn
  else match h.wait with
    | some [] => hostAnswer s h
    | some _ => holdRead s h
    | none =>
      let r := portRead s (4 * qpPort s h.qp) h.va h.len
      if r.2.isEmpty then hostAnswer r.1 h else holdRead r.1 { h with wait := some r.2 }

/-- RDMA_READ_REQUEST (R384, R387). -/
def execRdmaReadRequest (p : QpRequest) (rkey : BitVec 32) (va : BitVec 48) (len : BitVec 32) (s : State) : Host.Outcome State Fault Refusal :=
  let n := p.qp.toNat
  let s := hearQp s n [roceLen 16 0]
  let read := fun (s : State) (take : State → State) =>
    if !pkeyOk s n rkey va.toNat len.toNat false then nakError s n 2 3 p.psn
    else hostRead (take s) { qp := n, psn := p.psn, va := va.toNat, len := len.toNat, wait := none }
  if !qpTakes s n then .next s
  else .next (inOrder s n p.psn p.ce (fun s => read s fun s => takePackets s n len.toNat) fun s => read s id)

/-- READ_HOLD_RNR (R99): the oldest READ held on a locked line of the queue pair is answered with an RNR NAK; the host sends again from it. -/
def execReadHoldRnr (qp : QpId) (s : State) : Host.Outcome State Fault Refusal :=
  match s.eth.held.find? fun h => h.qp = qp.toNat with
  | none => .next s
  | some h =>
    if (lockIn s [] h.va h.len).isNone then .next s
    else
      let s := { s with eth := { s.eth with held := s.eth.held.filter fun x => x.qp != qp.toNat } }
      .next (nak (setExpected s qp.toNat h.psn) qp.toNat 1 h.psn)

def rxCtr (s : State) (n : Nat) : Nat := cfg s (mQp n 5) 48 16
def rxSlots (s : State) (n : Nat) : Nat := 2 ^ cfg s (mQp n 6) 39 4
def rxSize (s : State) (n : Nat) : Nat := 2 ^ cfg s (mQp n 6) 43 5

/-- The slot of the receive ring that the next SEND takes (R388). -/
def rxSlot (s : State) (n : Nat) : Nat :=
  cfg s (mQp n 5) 0 48 + (ctrGet s (rxCtr s n)).toNat % rxSlots s n * rxSize s n

/-- A SEND in its turn (R117, R388): RNR where the ring is full, refused where its slot is not mapped or held, or written with its counter. -/
def hostSend (s : State) (n : Nat) (psn : BitVec 24) (data : List Byte) : State :=
  if qpState s n ≠ 1 then s
  else if qpWaits s n || !sequencerFree s || heldByTest s (rxSlot s n) data.length then waitHost s (.send n psn data)
  else if rxSlots s n ≤ (ctrGet s (rxCtr s n) - ctrGet s (cfg s (mQp n 6) 48 16)).toNat then
    let s := { s with disp := { s.disp with waiting := s.disp.waiting.filter fun w => !w.ofQp n } }
    nak (setExpected s n psn) n 1 psn
  else if !inPinned s (rxSlot s n) (rxSize s n) ∨ (lockIn s [] (rxSlot s n) data.length).isSome ∨ inFrameTable s (rxSlot s n) data.length then
    nakError s n 2 3 psn
  else
    let s := touchLines (planeWriteMsg (nextCommit s) (rxSlot s n) data) (4 * qpPort s n) (rxSlot s n) data.length
    ack (ctrAdd s (rxCtr s n) 1) n (lastPsn s n psn data.length)

/-- SEND (R388). -/
def execSend (p : QpRequest) (data : List Byte) (s : State) : Host.Outcome State Fault Refusal :=
  let n := p.qp.toNat
  let s := hearQp s n (messageLens (qpMtu s n) 0 0 data.length)
  if !qpTakes s n then .next s
  else .next (inOrder s n p.psn p.ce (fun s =>
    if rxSize s n < data.length then nakError s n 3 4 p.psn
    else hostSend (takePackets s n data.length) n p.psn data) fun s => ackAgain s n)

/-- UNRECOGNISED_FRAME: dropped and counted (R379); a packet with an opcode that R381 does not list is answered with an invalid-request NAK, and its
queue pair enters ERROR. -/
def execUnrecognisedFrame (f : OddFrame) (s : State) : Host.Outcome State Fault Refusal :=
  let s := hearOdd s f.e.toNat
  match f.qp with
  | none => .next (countDrop s f.e.toNat)
  | some n =>
    if !qpTakes s n.toNat then .next s
    else
      let s := cnpSend s n.toNat f.ce
      .next (nakError s n.toNat 3 4 (qpExpected s n.toNat))

/-! ### What has waited -/

/-- Host READs held are looked at again, in arrival order (R95). -/
def serveReads (s : State) : State :=
  (s.eth.held.map fun h => { h with wait := h.wait.map (·.filter (lineComes s)) }).foldl hostRead { s with eth := { s.eth with held := [] } }

/-- What waits for lines is looked at again. -/
def serveLines (s : State) : State := serveReads (readsIn s)

/-- Everything held on a line is looked at again. -/
def serveAll (s : State) : State := serveLines (serveHeld s)

def retryWrite (s : State) (w : WaitWrite) : State :=
  match w with
  | .host n psn va d => hostWrite s n psn va d
  | .send n psn d => hostSend s n psn d
  | .peer m => writeIn s m

/-- Write messages that waited for the sequencer follow in order (R502). -/
def serveWaiting (s : State) : State := s.disp.waiting.foldl retryWrite { s with disp := { s.disp with waiting := [] } }

/-! ### The part as requester (R383, R389, R390) -/

/-- Writes up to and with a PSN are acknowledged; progress ends a run of resends. -/
def retire (s : State) (n : Nat) (psn : BitVec 24) : State :=
  updQp s n fun q =>
    let kept := q.kept.filter fun p => p.read || !psnLe p.psn psn
    { q with kept := kept, retries := if kept.length < q.kept.length then 0 else q.retries }

/-- Count retransmissions of a port; whether 1 ms has passed since its last record is a free value (R397, log 8). -/
def countResent (s : State) (e n : Nat) : State :=
  let total := Map.get (fun _ => 0) s.eth.resent e + n
  let put := fun (s : State) v => { s with eth := { s.eth with resent := Map.put s.eth.resent e v } }
  if n = 0 then s
  else if freeBit s then put (ethRec s.tick eLinkReplay 0xA2 e none total) 0 else put s.tick total

/-- Send again the packets of a queue pair that a test selects; those that leave for the first time are no retransmissions (R397). -/
def resendPackets (s : State) (n : Nat) (p : Packet → Bool) : State :=
  let q := qpOf s n
  let ps := q.kept.zipIdx.filter fun x => p x.1
  let s := updQp s n fun q => { q with unsent := 0 }
  countResent (ps.foldl (fun s x => sendQp s n (.rdma · n x.1)) s) (qpPort s n) (ps.filter fun x => x.2 + q.unsent < q.kept.length).length

/-- A resend that uses a retry; after RETRY_CNT of them without progress the queue pair is in ERROR (R383). -/
def retryFrom (s : State) (n : Nat) (p : Packet → Bool) : State :=
  if cfg s (mQp n 0) 16 3 ≤ (qpOf s n).retries then qpError s n 1
  else resendPackets (updQp s n fun q => { q with retries := q.retries + 1 }) n p

/-- RDMA_READ_RESPONSE (R389): the data of the oldest READ; the writes before it are acknowledged with it. -/
def execRdmaReadResponse (x : QpPacket) (data : List Byte) (s : State) : Host.Outcome State Fault Refusal :=
  let n := x.qp.toNat
  let s := hearQp s n (messageLens (qpMtu s n) 4 4 data.length)
  match (qpOf s n).kept.find? (·.read) with
  | none => .next s
  | some p =>
    if !qpTakes s n ∨ data.length ≠ p.len then .next s
    else
      let s := retire (updQp (cnpSend s n x.ce) n fun q => { q with kept := dropFirst (· = p) q.kept, retries := 0 }) n p.psn
      match s.fab.transfers.find? fun t => t.host && hkeyQp s t.dest = n && p.slot = some t.slot && t.left.contains (p.va.toNat, p.len) with
      | none => .next (pumpReads 64 s)
      | some t => .next (arrived s t (p.va.toNat, p.len) data)

/-- ACKNOWLEDGE (R383). -/
def execAcknowledge (p : QpPacket) (psn : BitVec 24) (s : State) : Host.Outcome State Fault Refusal :=
  let s := hearQp s p.qp.toNat [roceLen 4 0]
  if qpTakes s p.qp.toNat then .next (retire (cnpSend s p.qp.toNat p.ce) p.qp.toNat psn) else .next s

/-- SEQUENCE_ERROR_NAK (R383): what comes before the PSN named is acknowledged, and the rest is sent again. -/
def execSequenceErrorNak (p : QpPacket) (psn : BitVec 24) (s : State) : Host.Outcome State Fault Refusal :=
  let n := p.qp.toNat
  let s := hearQp s n [roceLen 4 0]
  if qpTakes s n then .next (retryFrom (retire (countNak (cnpSend s n p.ce) n) n (psn - 1)) n fun x => psnLe psn x.psn) else .next s

/-- RNR_NAK (R383). -/
def execRnrNak (p : QpPacket) (_delay : BitVec 5) (s : State) : Host.Outcome State Fault Refusal :=
  let s := hearQp s p.qp.toNat [roceLen 4 0]
  if qpTakes s p.qp.toNat then .next (updQp (countNak (cnpSend s p.qp.toNat p.ce) p.qp.toNat) p.qp.toNat fun q => { q with rnr := true }) else .next s

/-- RNR_DELAY_EXPIRY (R383): a resend that uses no retry. -/
def execRnrDelayExpiry (qp : QpId) (s : State) : Host.Outcome State Fault Refusal :=
  if (qpOf s qp.toNat).rnr then
    .next (resendPackets (updQp s qp.toNat fun q => { q with rnr := false }) qp.toNat fun _ => true)
  else .next s

/-- REMOTE_ACCESS_NAK (R390, R397). -/
def execRemoteAccessNak (p : QpPacket) (s : State) : Host.Outcome State Fault Refusal :=
  let s := hearQp s p.qp.toNat [roceLen 4 0]
  if qpTakes s p.qp.toNat then .next (qpError (countNak (cnpSend s p.qp.toNat p.ce) p.qp.toNat) p.qp.toNat 2) else .next s

/-- INVALID_REQUEST_NAK (R382, R397). -/
def execInvalidRequestNak (p : QpPacket) (s : State) : Host.Outcome State Fault Refusal :=
  let s := hearQp s p.qp.toNat [roceLen 4 0]
  if qpTakes s p.qp.toNat then .next (qpError (countNak (cnpSend s p.qp.toNat p.ce) p.qp.toNat) p.qp.toNat 4) else .next s

/-- ACK_TIMEOUT (R383): everything is sent again from the oldest packet. -/
def execAckTimeout (qp : QpId) (s : State) : Host.Outcome State Fault Refusal :=
  if qpTakes s qp.toNat ∧ !(qpOf s qp.toNat).kept.isEmpty ∧ !(qpOf s qp.toNat).rnr then .next (retryFrom s qp.toNat fun _ => true)
  else .next s

/-! ### STATE (R382) -/

def qpReady (s : State) (n : Nat) : State := if qpState s n = 0 then cfgSet s (mQp n 0) 62 2 1 else s

def qpReset (s : State) (n : Nat) : State := qpStop (cfgSet s (mQp n 0) 62 2 0) n none

/-- QP_READY (R382). -/
def execQpReady (qp : QpId) (s : State) : Host.Outcome State Fault Refusal := .next (qpReady s qp.toNat)

/-- QP_RESET (R382, R390). -/
def execQpReset (qp : QpId) (s : State) : Host.Outcome State Fault Refusal := .next (qpReset s qp.toNat)

/-! ### The idle block (log 2) -/

/-- A port whose pause has run out sends on; whether it has is a free value (log 8). -/
def pauseOver (s : State) (e : Nat) : State :=
  if s.eth.stalled.any fun y => y.1 = e then
    if freeBit s then
      unstall { s.tick with eth := { s.eth with paused := Map.put s.eth.paused e 0 } } e
    else s.tick
  else s

/-- What the block does while no command waits: an error in the logic of a unit shows (R414), pauses run out (R380), a VC3 message that waits may leave
(R346), and reads whose lines a fence has taken are refused (R415). -/
def idle (s : State) : State := serveLines (vc3Pump (pauseOver (pauseOver (logicFault s) 0) 1))

end Sys2Proof.Machine
end

