-- ==== Sys2Proof/Machine/Security.lean ====
section
/-!
DEFINITION. Boot integrity, measurements, attestation, firmware update and debug unlock (R469 to R481). Hashes, signatures, fuses
and identity material are constants of Config (log 6).
-/
namespace Sys2Proof.Machine

/-! ### Firmware slots (R471) -/

def fwSlotSize : Nat := 0xB0000

def fwByte (m : Map Byte) (a : Nat) : Byte := Map.get (fun _ => 0) m a
def fwRead (m : Map Byte) (a n : Nat) : List Byte := (span a n).map (fwByte m)
def fwNat (m : Map Byte) (a n : Nat) : Nat := leNat (fwRead m a n)

def fwSlot (s : State) (i : Nat) : Map Byte := if i = 0 then s.sec.fw0 else s.sec.fw1

def setFwSlot (s : State) (i : Nat) (m : Map Byte) : State :=
  if i = 0 then { s with sec := { s.sec with fw0 := m } } else { s with sec := { s.sec with fw1 := m } }

def fwMagicOk (m : Map Byte) : Bool := fwNat m 0 4 = 0x4D464A46 && fwNat m 4 4 = 1
def fwVersion (m : Map Byte) : Nat := fwNat m 8 8
def fwSvn (m : Map Byte) : Nat := fwNat m 16 8
def fwKeySlot (m : Map Byte) : Nat := fwNat m 0x18 1
def fwComps (m : Map Byte) : Nat := fwNat m 0x19 1

/-- Component i lies within the slot and matches its hash. -/
def compOk (m : Map Byte) (i : Nat) : Bool :=
  let b := 0x20 + 48 * i
  let off := fwNat m b 4
  let len := fwNat m (b + 4) 4
  decide (off + len ≤ fwSlotSize) && Config.shake256 (fwRead m off len) = BitVec.ofNat 256 (fwNat m (b + 16) 32)

/-- The hash of component i, as the manifest gives it. -/
def compHash (m : Map Byte) (i : Nat) : List Byte := fwRead m (0x20 + 48 * i + 16) 32

/-- The reserved bytes of the manifest are zero (R10, R471). -/
def fwReservedOk (m : Map Byte) : Bool :=
  (fwRead m 0x1A 6).all (· == 0) && m.all fun e => decide (e.1 < 0x162D ∨ 0x2000 ≤ e.1) || e.2 == 0

/-- The first check of R471 that a slot fails, as the RESULT code of R481; none for a valid slot. -/
def slotFault (s : State) (m : Map Byte) : Option Nat :=
  let key := fwRead m 0x1A0 1952
  let ks := fwKeySlot m
  if !fwMagicOk m ∨ fwComps m = 0 ∨ 8 < fwComps m ∨ 1 < ks ∨ 64 < fwSvn m ∨ !fwReservedOk m then some 0x13
  else if ks = 0 ∧ s.sec.key0Rev then some 0x11
  else if Config.shake256 key ≠ Config.keyHash ks then some 0x11
  else if !Config.mldsaVerify key (fwRead m 0 0x940) (asciiBytes "FJOARO-FW") (fwRead m 0x940 3309) then some 0x10
  else if fwSvn m < s.sec.svn then some 0x12
  else if !(List.range (fwComps m)).all (compOk m) then some 0x13
  else none

def slotValid (s : State) (i : Nat) : Bool := (slotFault s (fwSlot s i)).isNone

/-! ### Measurement registers (R473) -/

def mregGet (s : State) (i : Nat) : BitVec 256 := Map.get (fun _ => 0) s.sec.mreg i

/-- Extend measurement register i with 32 bytes. -/
def extend (s : State) (i : Nat) (x : List Byte) : State :=
  let v := Config.shake256 (natLE 32 (mregGet s i).toNat ++ x)
  { s with sec := { s.sec with mreg := Map.set (fun _ => 0) s.sec.mreg i v } }

/-! ### Boot (R472) -/

/-- The slot that boots: the valid one with the larger FW_VERSION, slot 0 on a tie. -/
def bootChoice (s : State) : Option Nat :=
  match slotValid s 0, slotValid s 1 with
  | true, true => if fwVersion (fwSlot s 0) < fwVersion (fwSlot s 1) then some 1 else some 0
  | true, false => some 0
  | false, true => some 1
  | false, false => none

/-- The measurement registers are cleared, and MREG0 extends with the boot ROM (R472 steps 1 and 2). -/
def measureRom (s : State) : State := extend { s with sec := { s.sec with mreg := [] } } 0 (natLE 32 Config.romDigest.toNat)

/-- Run the rest of the boot ROM and the first-stage loader on slot i. -/
def bootFrom (s : State) (i : Nat) : State :=
  let m := fwSlot s i
  let s := extend s 1 (natLE 32 (Config.shake256 (fwRead m 0 0x162D)).toNat)
  let s := extend s 2 (compHash m 0)
  let s := ((List.range (fwComps m)).drop 1).foldl (fun s j => extend s 3 (compHash m j)) s
  { s with sec := { s.sec with
      bootSlot := BitVec.ofNat 1 i, keySlot := BitVec.ofNat 1 (fwKeySlot m),
      fallback := !slotValid s (1 - i) && fwMagicOk (fwSlot s (1 - i)),
      runSvn := fwSvn m, runVer := BitVec.ofNat 64 (fwVersion m) } }

/-- BOOT_ROM: stage 2 runs (R443, R472). It needs stage 1 to have ended with RESET_N high (R448). -/
def execBootRom (s : State) : Host.Outcome State Fault Refusal :=
  if s.mod.stage = 1#4 ∧ s.mod.fail = 0#8 ∧ s.mod.resetN ∧ s.mod.pwrEn ∧ s.mod.inputOk then
    let s := measureRom { s with mod := { s.mod with stage := 2 } }
    match bootChoice s with
    | none => .next { s with mod := { s.mod with fail := 0x01 } }
    | some i => .next (bootFrom s i)
  else .next s

/-! ### Registers as read (R481) -/

def secStatWord (s : State) : Word :=
  ofFields 64 [(0, s.sec.bootSlot.toNat), (4, b2n s.sec.fallback), (5, s.sec.keySlot.toNat), (6, b2n s.sec.key0Rev),
    (40, Config.certificate.length % 65536), (56, s.sec.svn % 256)]

def fwStatWord (s : State) : Word := ofFields 64 [(0, b2n s.sec.fwBusy.isSome), (56, s.sec.fwResult.toNat)]

def attStatWord (s : State) : Word := ofFields 64 [(0, b2n s.sec.attBusy.isSome), (32, s.sec.reports.toNat)]

def dbgStatWord (s : State) : Word :=
  ofFields 64 [(0, b2n s.sec.dbgBusy), (8, s.sec.dbgResult.toNat), (32, s.sec.perm.toNat)]

/-! ### Attestation (R475, R476) -/

/-- Bytes 0x000 to 0x1CF of a report at this instant. -/
def reportBody (s : State) : List Byte :=
  natLE 4 1 ++ natLE 4 (fld (secStatWord s) 0 32) ++ natLE 8 (0x941020A0801000C1 : Nat) ++ padTo 16 Config.fruSerial ++
  natLE 32 s.sec.attData.toNat ++ natLE 8 (s.sec.reports.toNat + 1) ++ natLE 8 s.sec.svn ++ natLE 8 s.sec.runVer.toNat ++
  natLE 8 (if slotValid s (1 - s.sec.bootSlot.toNat) then fwVersion (fwSlot s (1 - s.sec.bootSlot.toNat)) else 0) ++
  natLE 8 s.mram.loadSeq.toNat ++ natLE 8 (regGet s mSetTag).toNat ++ natLE 8 s.sec.perm.toNat ++ List.replicate 24 0 ++
  (List.range 8).flatMap (fun i => natLE 32 (mregGet s i).toNat) ++
  natLE 32 (Config.keyHash s.sec.keySlot.toNat).toNat ++ natLE 32 Config.dbgKeyHash.toNat

def attReport (s : State) : State :=
  if s.sec.attBusy.isSome then reportRefused s mAttCtl 1 0
  else { s with sec := { s.sec with attBusy := some (reportBody s) } }

/-- ATT_REPORT: ATT_CTL is written with OP = 1 (R475). -/
def execAttReport (s : State) : Host.Outcome State Fault Refusal := .next (attReport s)

/-- ATT_REPORT_DONE: the report is signed and written to ATT_BUF (R475, R476). -/
def execAttReportDone (s : State) : Host.Outcome State Fault Refusal :=
  match s.sec.attBusy with
  | none => .next s
  | some body =>
    let sig := padTo 3309 (Config.mldsaSign body (asciiBytes "FJOARO-ATT"))
    .next { s with sec := { s.sec with
      attBuf := body ++ sig ++ List.replicate 3 0, attBusy := none, reports := s.sec.reports + 1 } }

/-- Extend MREG6 or MREG7 with ATT_DATA (R475). -/
def extendHost (s : State) (i : Nat) : State :=
  if s.sec.attBusy.isSome then reportRefused s mAttCtl (BitVec.ofNat 64 (i - 4)) 0
  else extend s i (natLE 32 s.sec.attData.toNat)

/-- EXTEND_MREG6 (R475). -/
def execExtendMreg6 (s : State) : Host.Outcome State Fault Refusal := .next (extendHost s 6)

/-- EXTEND_MREG7 (R475). -/
def execExtendMreg7 (s : State) : Host.Outcome State Fault Refusal := .next (extendHost s 7)

/-! ### Firmware update (R477, R478) -/

/-- The slot that INSTALL writes: the one not running. -/
def targetSlot (s : State) : Nat := 1 - s.sec.bootSlot.toNat

/-- The target slot with the image laid over it. -/
def overSlot (s : State) (bs : List Byte) : Map Byte := Map.setRun (fun _ => 0) (fwSlot s (targetSlot s)) 0 bs

/-- The slot's MAGIC is written as zero. -/
def killMagic (s : State) : State :=
  let i := targetSlot s
  setFwSlot s i (Map.setRun (fun _ => 0) (fwSlot s i) 0 (List.replicate 4 0))

def fwEnd (s : State) (result : Nat) : State :=
  { s with sec := { s.sec with fwBusy := none, fwResult := BitVec.ofNat 8 result } }

/-- Steps 2 to 5: check the image as if it lay in the slot not running, then write it, manifest last. -/
def installImage (s : State) (bs : List Byte) : State :=
  match slotFault s (overSlot s bs) with
  | some r => killMagic (fwEnd s r)
  | none => setFwSlot { s with sec := { s.sec with fwBusy := some bs } } (targetSlot s) (overSlot s bs)

def fwSrcAddr (s : State) : Nat := cfg s mFwSrc 0 48
def fwSrcLen (s : State) : Nat := 4096 * cfg s mFwSrc 56 8

/-- The image is read from the plane, as committed. Of a line that is poisoned no byte is left, and the image is malformed (R406, R477; DESIGN
CHOICE, log 53). -/
def readImage (s : State) (a n : Nat) : State :=
  if (poisonIn s a n).isSome then killMagic (fwEnd s 0x13) else installImage s (planeRead s a n)

/-- INSTALL begins. The image is read as committed: a locked line is waited for (R93), and then nothing is read yet, and the source stands as it
was accepted. -/
def install (s : State) : State :=
  if s.sec.fwBusy.isSome then reportRefused s mFwCtl 1 0
  else if fwSrcLen s = 0 ∨ fwSlotSize < fwSrcLen s ∨ fwSrcAddr s % 4096 ≠ 0 ∨ !inPinned s (fwSrcAddr s) (fwSrcLen s) then
    fwEnd s 0x15
  else if (lockIn s [] (fwSrcAddr s) (fwSrcLen s)).isSome then
    { s with sec := { s.sec with fwBusy := some [], fwSrc := (fwSrcAddr s, fwSrcLen s) } }
  else readImage s (fwSrcAddr s) (fwSrcLen s)

/-- INSTALL: FW_CTL is written with OP = 1 (R477). -/
def execInstall (s : State) : Host.Outcome State Fault Refusal := .next (install s)

/-- INSTALL_DONE: the read-back of the written range ends (R477 step 6). An image that a lock still holds is read first. -/
def execInstallDone (ok : Bool) (s : State) : Host.Outcome State Fault Refusal :=
  match s.sec.fwBusy with
  | none => .next s
  | some bs =>
    let src := s.sec.fwSrc
    if bs.isEmpty ∧ (lockIn s [] src.1 src.2).isSome then .next s
    else if bs.isEmpty ∧ !inPinned s src.1 src.2 then .next (fwEnd s 0x15)
    else
      let s := if bs.isEmpty then readImage s src.1 src.2 else s
      if s.sec.fwBusy = none then .next s
      else if ok then .next (fwEnd s 0)
      else .next (killMagic (fwEnd s 0x14))

/-- The next command is a loss of power. -/
def lossFollows (s : State) : Bool :=
  match s.pending.head? with
  | some .powerLoss => true
  | some .inputUndervoltage => true
  | some .inputFault => true
  | some .thermalTrip => true
  | some .pwrEnFall => true
  | _ => false

/-- Burning FW_SVN up to the SVN of the running image (R478). A loss of power that follows at once may catch it: FW_SVN then holds a free value
between the old and the new (DESIGN CHOICE, log 43). -/
def commitSvn (s : State) : State :=
  if s.sec.fwBusy.isSome then reportRefused s mFwCtl 2 0
  else
    let goal := Nat.max s.sec.svn s.sec.runSvn
    if lossFollows s then
      let burnt := s.sec.svn + (Config.freeWord s.fresh).toNat % (goal - s.sec.svn + 1)
      fwEnd { s.tick with sec := { s.sec with svn := burnt } } 0
    else fwEnd { s with sec := { s.sec with svn := goal } } 0

/-- COMMIT_SVN: FW_SVN is burnt up to the SVN of the running image (R478). -/
def execCommitSvn (s : State) : Host.Outcome State Fault Refusal := .next (commitSvn s)

def revokeKey0 (s : State) : State :=
  if s.sec.fwBusy.isSome then reportRefused s mFwCtl 3 0
  else if s.sec.keySlot = 1#1 then fwEnd { s with sec := { s.sec with key0Rev := true } } 0
  else fwEnd s 0x17

/-- REVOKE_KEY0 (R478). -/
def execRevokeKey0 (s : State) : Host.Outcome State Fault Refusal := .next (revokeKey0 s)

/-! ### Debug unlock (R479, R480, R481) -/

def tokenRead (s : State) (a n : Nat) : List Byte := (span a n).map fun i => Map.get (fun _ => 0) s.sec.token i

/-- RESULT of the token check, in the order of its codes (R480). -/
def tokenResult (s : State) : Nat :=
  let key := tokenRead s 0x40 1952
  if leNat (tokenRead s 0 4) ≠ 1 ∨ 15 < leNat (tokenRead s 4 4) ∨ leNat (tokenRead s 0x38 8) ≠ 0 then 2
  else if Config.shake256 key ≠ Config.dbgKeyHash then 3
  else if !Config.mldsaVerify key (tokenRead s 0 0x7E0) (asciiBytes "FJOARO-DBG") (tokenRead s 0x7E0 3309) then 4
  else if tokenRead s 8 16 ≠ padTo 16 Config.fruSerial then 5
  else if leNat (tokenRead s 0x18 32) ≠ (Config.challenge s.sec.challenge).toNat then 6
  else 1

def verify (s : State) : State :=
  if s.sec.dbgBusy then reportRefused s mDbgCtl 2 0 else { s with sec := { s.sec with dbgBusy := true } }

/-- VERIFY: DBG_CTL.VERIFY is written (R480). -/
def execVerify (s : State) : Host.Outcome State Fault Refusal := .next (verify s)

/-- VERIFY_DONE: the check ends; a fresh challenge is drawn whatever the result (R480, R473). -/
def execVerifyDone (s : State) : Host.Outcome State Fault Refusal :=
  if !s.sec.dbgBusy then .next s
  else
    let r := tokenResult s
    let ok := r = 1
    let t : State := { s with sec := { s.sec with
      dbgBusy := false, dbgResult := BitVec.ofNat 8 r, challenge := s.sec.challenge + 1,
      perm := if ok then BitVec.ofNat 32 (leNat (tokenRead s 4 4)) else s.sec.perm } }
    .next (if ok then extend t 5 (natLE 32 (Config.shake256 (tokenRead s 0 0x40)).toNat) else t)

def relock (s : State) : State :=
  if s.sec.dbgBusy then reportRefused s mDbgCtl 1 0 else { s with sec := { s.sec with perm := 0 } }

/-- RELOCK: DBG_CTL.RELOCK is written (R481). MREG5 stays. -/
def execRelock (s : State) : Host.Outcome State Fault Refusal := .next (relock s)

end Sys2Proof.Machine
end

