-- ==== Sys2Proof/Machine/ModulePower.lean ====
section
/-!
DEFINITION. The module: power samples and the cap, die and stack temperatures, coolant, telemetry, pins, losses of power and the
trip (R66 to R70, R426 to R450).
-/
namespace Sys2Proof.Machine

/-! ### Pins (R426, R437) -/

/-- ALERT_N is asserted, that is low (R414, R419, R437). -/
def alertAsserted (s : State) : Bool :=
  s.flt.alert || s.flt.faulted || s.mod.coolant || s.mod.fail != 0#8 || s.mod.inFault

/-! ### Telemetry (R429) -/

def modStatWord (s : State) : Word :=
  ofFields 64 [(1, s.mod.lastTrip.toNat), (3, b2n s.mod.dieWarn), (4, b2n s.mod.coolant), (12, s.mod.stage.toNat),
    (16, s.mod.fail.toNat), (29, s.mod.modId.toNat), (32, s.mod.coolIn.toNat), (48, s.mod.coolOut.toNat)]

def maxOf (l : List Nat) : Nat := l.foldl Nat.max 0

/-- The bytes of a telemetry sample set. -/
def teleBytes (s : State) : List Byte :=
  let p := liveGet s mPwrStat
  natLE 2 (fld (modStatWord s) 0 16) ++ natLE 2 (fld p 32 16) ++ natLE 2 (fld p 16 16) ++ natLE 2 (fld p 48 16) ++
  natLE 2 s.mod.coolIn.toNat ++ natLE 2 s.mod.coolOut.toNat ++
  natLE 2 (maxOf ((List.range 16).map fun i => fld (liveGet s (mDieTemp i)) 0 12)) ++
  natLE 2 (maxOf ((List.range 12).map fun i => fld (liveGet s (mStackTemp i)) 0 12)) ++
  natLE 1 s.mod.capStep ++ natLE 1 s.mod.fail.toNat

/-- The always-on domain is up (stage 1 of R443). -/
def alwaysOn (s : State) : Bool := s.mod.stage != 0#4

/-! The FRU area (R429, R467) -/

/-- Bytes 0x00 to 0xFB of the FRU area. -/
def fruBody : List Byte :=
  padTo 16 (natLE 1 1) ++ padTo 16 ("WPN-9410-LQ".toList.map fun c => BitVec.ofNat 8 c.toNat) ++ padTo 16 Config.fruSerial ++
  natLE 2 1 ++ natLE 2 Config.fruDate.toNat ++ natLE 6 Config.fruMac.toNat ++ List.replicate 194 0

/-- The 256 bytes of the FRU area, with the stepping of IDENTITY and the CRC of R336. -/
def fruBytes : List Byte := fruBody ++ natLE 4 (crc32c fruBody).toNat

/-- The I2C target of an address answers: the FRU area while 48 V is present, telemetry once the always-on domain is up. -/
def i2cAnswers (s : State) (fru : Bool) : Bool := if fru then s.mod.inputOk else alwaysOn s

/-- TELEMETRY_INDEX_WRITE (R429). The FRU address takes a byte index of its own in the same way (DESIGN CHOICE, log 9). -/
def execTelemetryIndexWrite (x : I2cIndex) (s : State) : Host.Outcome State Fault Refusal :=
  if !i2cAnswers s x.fru then .next s
  else if x.fru then .next { s with mod := { s.mod with fruIndex := x.idx } }
  else .next { s with mod := { s.mod with teleIndex := x.idx } }

/-- n bytes of an area from its index upward, 0 past what is given. -/
def i2cBytes (a : List Byte) (i : Byte) (n : Nat) : List Byte := (List.range n).map fun j => a.getD ((i.toNat + j) % 256) 0

/-- TELEMETRY_READ: the bytes of the FRU area, or of one sample set, from the index upward (R429). -/
def execTelemetryRead (x : I2cRead) (s : State) : Host.Outcome State Fault Refusal :=
  if !i2cAnswers s x.fru then .next s
  else if x.fru then .next (send s (.i2c (i2cBytes fruBytes s.mod.fruIndex x.n.toNat)))
  else .next (send s (.i2c (i2cBytes s.mod.teleSet s.mod.teleIndex x.n.toNat)))

/-- TELEMETRY_SAMPLE: the sample set is refreshed (R429). -/
def execTelemetrySample (s : State) : Host.Outcome State Fault Refusal :=
  if alwaysOn s then .next { s with mod := { s.mod with teleSet := teleBytes s } } else .next s

/-! ### The power cap (R433 to R435) -/

/-- The floor step f of mode 3. -/
def fixedFloor (limit : Nat) : Nat := ceilDiv (2 * (4000 - limit)) 125

/-- CAP_SAMPLE: the input is sampled and the cap step follows (R435, R437). -/
def capSample (watts volts amps : Nat) (s : State) : State :=
  let mode := cfg s mPwrCfg 40 2
  let limit := cfg s mPwrCfg 48 16
  let samples := (watts :: s.mod.samples).take 1024
  let n := if mode = 1 then samples.length else 1
  let sum := if mode = 1 then samples.sum else watts
  let lim := if mode = 3 then 3800 else limit
  let lo := Nat.max s.mod.warnStep (if mode = 3 then fixedFloor limit else 0)
  let s0 := s.mod.capStep
  let above := decide (lim * n < sum)
  let r : Nat × Nat :=
    if above ∧ s0 < 48 then (s0 + 1, 0)
    else if 100 * sum < 98 * lim * n ∧ lo < s0 ∧ 64 ≤ s.mod.capHeld then (s0 - 1, 0)
    else (s0, s.mod.capHeld + 1)
  let step := Nat.max r.1 lo
  let high := Nat.max s.mod.capHigh step
  let s1 := { s with mod := { s.mod with
    samples := samples, capStep := step, capHeld := r.2, capHigh := if step = 0 then 0 else high } }
  let s2 := liveSet s1 mPwrStat (ofFields 64 [(0, s.mod.warnStep), (8, step), (15, b2n (above && s0 = 48)), (16, amps),
    (32, volts), (48, watts)])
  if s0 = 0 ∧ 0 < step then
    let t := s2.tick
    if freeBit s2 then thermalRec t 0xD2 limit else t
  else if 0 < s0 ∧ step = 0 then
    let t := s2.tick
    if freeBit s2 then thermalRec t 0xD3 high else t
  else s2

/-- CAP_SAMPLE: the always-on domain samples from stage 1 on (R435, R443). -/
def execCapSample (watts volts amps : BitVec 16) (s : State) : Host.Outcome State Fault Refusal :=
  if alwaysOn s then .next (capSample watts.toNat volts.toNat amps.toNat s) else .next s

/-! ### Die temperatures (R436, R437) -/

/-- DIE_TEMP_SAMPLE: the sixteen sensors, then the floor w. -/
def dieSample (temps : List (BitVec 12)) (fall : Bool) (s : State) : State :=
  let warn := 8 * cfg s mModCfg 56 8
  let t := temps.map (·.toNat)
  let hot := t.findIdx? fun x => decide (warn ≤ x)
  let s := ((List.range 16).zip t).foldl (fun s e => liveSet s (mDieTemp e.1) (BitVec.ofNat 64 e.2)) s
  let w0 := s.mod.warnStep
  let w := if hot.isSome then Nat.min (w0 + 1) 48
    else if fall ∧ t.all fun x => decide (x + 16 < warn) then w0 - 1
    else w0
  let high := Nat.max s.mod.warnHigh w
  let first := hot.isSome && !s.mod.dieWarn
  let s := { s with mod := { s.mod with warnStep := w, warnHigh := if w = 0 then 0 else high, dieWarn := hot.isSome } }
  let s := liveSet s mPwrStat (setFld (liveGet s mPwrStat) 0 6 w)
  let s := if first then thermalRec s 0xD0 (hot.getD 0) else s
  if 0 < w0 ∧ w = 0 then thermalRec s 0xD1 high else s

/-- DIE_TEMP_SAMPLE (R436). A list that is not of the sixteen sensors names a sensor the part does not have. -/
def execDieTempSample (temps : List (BitVec 12)) (fall : Bool) (s : State) : Host.Outcome State Fault Refusal :=
  if temps.length ≠ 16 then .fault .noSuchUnit
  else if alwaysOn s then .next (dieSample temps fall s)
  else .next s

/-! ### Stack temperatures (R66 to R70) -/

/-- The stack has a privileged channel set. -/
def stackPriv (s : State) (st : Nat) : Bool := (List.range 4).any fun i => cfgBit s (mCset (4 * st + i)) 8

/-- Entry temperature of step k, in units of 0.125 degrees (R66). -/
def stepEntry (s : State) (k : Nat) : Nat := 8 * (cfg s mTherm 0 8 + (k - 1) * cfg s mTherm 8 4)

/-- The step after a sample (R66): at most one step, and at most one in 1 ms, which the free value stands for. -/
def nextStep (s : State) (k temp : Nat) (may : Bool) : Nat :=
  if may ∧ k < 6 ∧ stepEntry s (k + 1) ≤ temp then k + 1
  else if may ∧ 0 < k ∧ temp + 8 ≤ stepEntry s k then k - 1
  else k

/-- A sample of stack `st`. Temperature may reach the escalation point while the step, which rises one at a time, is still 5 or below. When
ESCALATED then ends no rule says: it ends when the step next falls, to 5 or below (R68; DESIGN CHOICE, log 48). Where one sample both leaves step
0 and escalates, 0xD8 is written before 0xDA (R70; DESIGN CHOICE, log 53). -/
def stackSample (st temp : Nat) (s : State) : State :=
  let old := liveGet s (mStackTemp st)
  let k := fld old 28 3
  let esc := bit old 31
  let k' := nextStep s k temp (freeBit s)
  let top := 8 * (cfg s mTherm 0 8 + 6 * cfg s mTherm 8 4)
  let esc' := if stackPriv s st ∧ top ≤ temp then true else if k' < k ∧ k' ≤ 5 then false else esc
  let high := Nat.max (Map.get (fun _ => 0) s.mod.stackHigh st) k'
  let s := s.tick
  let s := liveSet s (mStackTemp st) (ofFields 64 [(0, temp), (28, k'), (31, b2n esc')])
  let s := { s with mod := { s.mod with stackHigh := Map.put s.mod.stackHigh st (if k' = 0 then 0 else high) } }
  let s := if k = 0 ∧ 0 < k' then thermalRec s 0xD8 (st * 2 ^ 48 + temp) else s
  let s := if 0 < k ∧ k' = 0 then thermalRec s 0xD9 (st * 2 ^ 48 + high * 2 ^ 32 + temp) else s
  if esc' ∧ !esc then thermalRec s 0xDA (st * 2 ^ 48 + temp) else s

/-- HBM_TEMP_SAMPLE (R66). -/
def execHbmTempSample (st : BitVec 4) (temp : BitVec 12) (s : State) : Host.Outcome State Fault Refusal :=
  if 12 ≤ st.toNat then .fault .noSuchUnit
  else if alwaysOn s then .next (stackSample st.toNat temp.toNat s)
  else .next s

/-- QUAD_THERM[q] as read (R67, R69): the highest step of the quadrant's stacks that have privileged sets. -/
def quadTherm (s : State) (q : Nat) : Nat :=
  maxOf ((List.range 3).map fun i =>
    if stackPriv s (3 * q + i) then fld (liveGet s (mStackTemp (3 * q + i))) 28 3 else 0)

/-! ### Coolant (R439) -/

/-- COOLANT_CHECK (R439). -/
def execCoolantCheck (inlet outlet : BitVec 16) (s : State) : Host.Outcome State Fault Refusal :=
  if !alwaysOn s then .next s
  else
    let s := { s with mod := { s.mod with coolIn := inlet, coolOut := outlet } }
    if 8 * 48 < inlet.toNat ∨ inlet.toNat + 8 * 25 < outlet.toNat then
      if s.mod.coolant then .next s
      else .next (thermalRec { s with mod := { s.mod with coolant := true } } 0xD4 (inlet.toNat * 65536 + outlet.toNat))
    else .next s

def coolantClear (s : State) : State := { s with mod := { s.mod with coolant := false } }

/-- COOLANT_CLEAR (R439). -/
def execCoolantClear (s : State) : Host.Outcome State Fault Refusal := .next (coolantClear s)

/-! ### Losses of power (R421, R431, R446, R447, R450) -/

/-- The settings store through a loss (R421, R464): a STORE whose commit is decided is writing its header, which is whole or not. -/
def mramLoss (s : State) : Mram :=
  let m := s.mram
  let m := match m.storing with
    | none => m
    | some k =>
      if ((cmdOf s k).map fun c : Cmd => decide (c.phase = Phase.committing)).getD false ∧ freeBit s then
        let i := storeSlot m
        let x := imageOf m i
        setImage m i { seq := nextSeq m, magic := 0x53455431, version := 1, count := x.entries.length, entries := x.entries,
                       intact := true }
      else m
  { Mram.reset with imageA := m.imageA, imageB := m.imageB }

/-- What INSTALL leaves in the slot that a loss caught it writing (R478): the placeholder or the whole image. -/
def fwLoss (s : State) : State :=
  match s.sec.fwBusy with
  | none => s
  | some bs =>
    if bs.isEmpty ∨ Config.freeBool (s.fresh + 1) then s
    else
      let i := targetSlot s
      setFwSlot s i (Map.setRun (fun _ => 0) (Map.clear (fwSlot s i) 0 0x2000) 0 (natLE 4 0x4D464A46 ++ natLE 4 1))

/-- Every volatile state is lost (R421); the settings images, the fuses, the firmware slots and the module's pins stay. -/
def loseState (s0 : State) : State :=
  let s := fwLoss s0
  { State.reset with
    pending := s.pending, fresh := s.fresh + 2, sent := s.sent,
    mram := mramLoss s0,
    sec := { Security.reset with
      svn := s.sec.svn, key0Rev := s.sec.key0Rev, fw0 := s.sec.fw0, fw1 := s.sec.fw1, challenge := s.sec.challenge + 1 },
    mod := { Module.reset with
      inputOk := s.mod.inputOk, pwrEn := s.mod.pwrEn, resetN := s.mod.resetN, tripN := s.mod.tripN,
      modIdPin := s.mod.modIdPin, modId := s.mod.modId, lastTrip := s.mod.lastTrip, inFault := s.mod.inFault,
      latched := s.mod.latched, fruIndex := s.mod.fruIndex, readyPin := false, stage := 0 } }

/-- 48 V is gone: the protection latches and LAST_TRIP with it (R450). -/
def loseInput (s : State) : State :=
  let s := loseState s
  { s with mod := { s.mod with inputOk := false, tripN := true, latched := false, inFault := false, lastTrip := 0, fruIndex := 0 } }

/-- Stage 1 begins (R443): MOD_ID is read (R448). -/
def beginStart (s : State) : State :=
  if s.mod.pwrEn ∧ s.mod.inputOk ∧ !s.mod.latched ∧ s.mod.stage = 0#4 then
    { s with mod := { s.mod with stage := 1, modId := s.mod.modIdPin } }
  else s

/-- POWER_LOSS (R421). -/
def execPowerLoss (s : State) : Host.Outcome State Fault Refusal := .next (loseInput s)

/-- INPUT_UNDERVOLTAGE: the input falls below 36.0 V (R431). -/
def execInputUndervoltage (s : State) : Host.Outcome State Fault Refusal := .next (loseInput s)

/-- INPUT_RESTORED: the input has stayed above 38.0 V for 10 ms (R431). -/
def execInputRestored (s : State) : Host.Outcome State Fault Refusal :=
  if s.mod.stage = 0#4 then .next (beginStart { s with mod := { s.mod with inputOk := true } }) else .next s

/-- STANDBY_POWER_ON: the input rises above 38.0 V, and standby powers the PWR_EN receiver, the FRU area and the latches (R431). -/
def execStandbyPowerOn (s : State) : Host.Outcome State Fault Refusal :=
  .next { s with mod := { s.mod with inputOk := true } }

/-- INPUT_FAULT: every rail but standby goes off, ALERT_N, LAST_TRIP = 2, then as after a trip (R431). -/
def execInputFault (s : State) : Host.Outcome State Fault Refusal :=
  if s.mod.inputOk then
    let t := loseState s
    .next { t with mod := { t.mod with lastTrip := 2, inFault := true, latched := true } }
  else .next s

/-- A sensor stands at its trip temperature (R450), in units of 0.125 degrees: 115 degrees of a die, 110 of a stack. -/
def tripHot (s : State) : Bool :=
  ((List.range 16).any fun i => decide (8 * 115 ≤ fld (liveGet s (mDieTemp i)) 0 12)) ||
    (List.range 12).any fun i => decide (8 * 110 ≤ fld (liveGet s (mStackTemp i)) 0 12)

/-- THERMAL_TRIP (R450): a sensor as last sampled stands at its trip temperature. -/
def execThermalTrip (s : State) : Host.Outcome State Fault Refusal :=
  if s.mod.stage = 0#4 ∨ !tripHot s then .next s
  else
    let t := loseState s
    .next { t with mod := { t.mod with lastTrip := 1, tripN := false, latched := true } }

/-- THERM_TRIP_RELEASE: PWR_EN has been low for 100 ms (R450). -/
def execThermTripRelease (s : State) : Host.Outcome State Fault Refusal :=
  if s.mod.pwrEn then .next s else .next { s with mod := { s.mod with tripN := true, latched := false } }

/-- PWR_EN_RISE (R443). -/
def execPwrEnRise (s : State) : Host.Outcome State Fault Refusal :=
  .next (beginStart { s with mod := { s.mod with pwrEn := true } })

/-- PWR_EN_FALL: power-down (R447, R448). -/
def execPwrEnFall (s : State) : Host.Outcome State Fault Refusal :=
  let t := if s.mod.stage = 0#4 then s else loseState s
  .next { t with mod := { t.mod with pwrEn := false } }

/-- RESET_N_ASSERT (R446): every domain but D62 and D63 stops and the part waits at the start of stage 2. Ignored while the trip
is latched (R450); with PWR_EN low the power-down stands (R448). -/
def execResetNAssert (s : State) : Host.Outcome State Fault Refusal :=
  let s := { s with mod := { s.mod with resetN := false } }
  if s.mod.stage = 0#4 then .next s
  else
    let t := loseState s
    .next { t with mod := { t.mod with stage := 1 } }

/-- RESET_N_DEASSERT: start-up resumes at stage 2 (R446). -/
def execResetNDeassert (s : State) : Host.Outcome State Fault Refusal :=
  .next { s with mod := { s.mod with resetN := true } }

/-- MOD_ID_CHANGE: the strap is read at the next stage 1 (R448). -/
def execModIdChange (v : BitVec 3) (s : State) : Host.Outcome State Fault Refusal :=
  .next { s with mod := { s.mod with modIdPin := v } }

end Sys2Proof.Machine
end

