-- ==== Sys2Proof/Machine/Mgmt.lean ====
section
/-!
DEFINITION. Management space: what a read of each register gives and what a write of each register does (R31, R102, R279, R355, R382, R384, R399,
R420, R451, R460, R468, R481, R484, R487, R499).
-/
namespace Sys2Proof.Machine

/-! ### Which registers a snapshot covers (R484) -/

/-- The fields of a word that are counts or temperatures, beside others that are read as they stand (R484; log 41). -/
def snapFields (off : Nat) : List (Nat × Nat) :=
  if off = mModStat then [(32, 16), (48, 16)]
  else if off = mSlots then [(0, 14), (32, 14)]
  else if off = mCollStat then [(0, 9)]
  else if off = mChipStat then [(16, 16)]
  else if off = mSetStat then [(16, 16)]
  else if off = mAttStat then [(32, 32)]
  else if (arrAt off 0x80000 4096 32).any fun x => x.2 = 0 then [(32, 8)]
  else []

/-- The words that have such fields. -/
def snapParts : List Nat := [mModStat, mSlots, mCollStat, mChipStat, mSetStat, mAttStat] ++ (List.range 32).map mLinkStat

/-- The word is, or holds, a count, a sample or a result of which reads see the latest snapshot. -/
def snapshotted (off : Nat) : Bool :=
  let inArr := fun b st n lo hi => match arrAt off b st n with
    | none => false
    | some (_, w) => decide (lo ≤ w ∧ w < hi)
  !(snapFields off).isEmpty || off = mPwrStat || off = mErrStat || off = mSysHbm || inArr 0x1100 8 16 0 8 || inArr 0x10000 64 256 0x30 0x38 ||
  inArr 0x20000 128 256 0 0x50 || inArr 0x40500 8 12 0 8 || inArr 0x45000 64 64 0x18 0x28 || inArr 0x80000 4096 32 8 0x10 ||
  inArr 0x80000 4096 32 0x100 0x140 || inArr 0x100000 256 2 0x20 0x28 || inArr 0x100000 256 2 0x40 0x60 ||
  inArr 0x110000 64 1024 0x38 0x40 || inArr 0x200300 8 8 0 8 || inArr 0xC00000 256 64 0x40 0x88 ||
  inArr 0xD80000 128 1024 0 0x58 || inArr 0xE00000 8 65536 0 8

/-- A word of the latest snapshot. The counters of engine cycles of a core are free values of it (log 8). -/
def snapWord (s : State) (off : Nat) : Word :=
  let copy := Map.get (fun _ => 0) s.dbg.copies off
  match arrAt off 0xE00000 8 65536, arrAt off 0xD80000 128 1024, arrAt off 0x100000 256 2 with
  | some (n, _), _, _ => Map.get (fun _ => 0) s.dbg.view n
  | none, some (c, w), _ =>
    if 0x20 ≤ w ∧ w < 0x48 then (if s.dbg.snapSeq = 0 then 0 else Config.freeWord (1024 * (s.dbg.snapFree + 8192 + c) + off % 1024)) else copy
  | none, none, some (_, w) => if 0x40 ≤ w then copy else setFld copy 62 2 (fld (liveGet s off) 62 2)
  | none, none, none => copy

/-! ### Reads -/

/-- The step of the clock ceiling of a quadrant's clusters (R67, R71): that of its stacks with privileged sets. -/
def quadStep (s : State) (q : Nat) : Nat :=
  maxOf ((span (3 * q) 3).map fun st =>
    if (span (4 * st) 4).any fun c => cfgBit s (mCset c) 8 then fld (liveGet s (mStackTemp st)) 28 3 else 0)

/-- A word of fence bits. -/
def fenceWord (l : List Nat) (w : Nat) : Word := ofFields 64 ((List.range 64).map fun i => (i, b2n (l.contains (64 * w + i))))

def coreStopped (s : State) (c : Nat) : Bool := (coreOf s c).dbg.state = 2 || (coreOf s c).dbg.state = 3

/-- Word w of a core's debug block (R494, R499). -/
def readCoreDbg (s : State) (c w off : Nat) : Word :=
  let k := coreOf s c
  if w = 0x008 then
    ofFields 64 [(56, k.dbg.cause.toNat), (53, k.dbg.bp.toNat), (48, k.dbg.state.toNat), (0, k.pc.toNat)]
  else if w = 0x010 then ofFields 64 ((List.range 5).map fun e => (8 * e, (queueOfEng k e).length))
  else if 0x040 ≤ w ∧ w < 0x080 then regGet s off
  else if !coreStopped s c then 0
  else if 0x100 ≤ w ∧ w < 0x200 then gGet k ((w - 0x100) / 8)
  else if w = 0x200 then k.p.setWidth 64
  else if 0x400 ≤ w ∧ w < 0x800 then BitVec.ofNat 64 (fld (dGet k ((w - 0x400) / 32)) (64 * ((w / 8) % 4)) 64)
  else 0

/-- Word w of the fault block (R420). -/
def readFault (s : State) (w off : Nat) : Word :=
  if w = 0x00 then BitVec.ofNat 64 s.flt.log.head
  else if w = 0x08 then BitVec.ofNat 64 s.flt.log.tail
  else if w = 0x20 then ofFields 64 [(16, s.flt.tests.length), (1, b2n s.flt.alert), (0, b2n s.flt.faulted)]
  else if 0x100 ≤ w ∧ w < 0x180 then fenceWord s.flt.coreFence ((w - 0x100) / 8)
  else if 0x200 ≤ w ∧ w < 0x230 then fenceWord s.flt.chanFence ((w - 0x200) / 8)
  else if 0x10000 ≤ w ∧ w < 0x18000 then BitVec.ofNat 64 (fld (logEntry s ((w - 0x10000) / 32)) (64 * ((w / 8) % 4)) 64)
  else regGet s off

def listWord (bs : List Byte) (a : Nat) : Word := BitVec.ofNat 64 (leNat ((bs.drop a).take 8))

/-- Word w of the security block (R481). -/
def readSec (s : State) (w off : Nat) : Word :=
  if w = 0x00 then secStatWord s
  else if w = 0x18 then fwStatWord s
  else if w = 0x28 then attStatWord s
  else if 0x40 ≤ w ∧ w < 0x60 then BitVec.ofNat 64 (fld s.sec.attData (8 * (w - 0x40)) 64)
  else if 0x100 ≤ w ∧ w < 0x200 then BitVec.ofNat 64 (fld (mregGet s ((w - 0x100) / 32)) (64 * ((w / 8) % 4)) 64)
  else if w = 0x208 then dbgStatWord s
  else if 0x220 ≤ w ∧ w < 0x240 then BitVec.ofNat 64 (fld (Config.challenge s.sec.challenge) (8 * (w - 0x220)) 64)
  else if 0x1000 ≤ w ∧ w < 0x2000 then listWord s.sec.attBuf (w - 0x1000)
  else if 0x4000 ≤ w ∧ w < 0x6000 then listWord Config.certificate (w - 0x4000)
  else if w = 0x08 then regGet s off
  else 0

/-- Registers that stand alone and are not kept as written. -/
def readSingle (s : State) (off : Nat) : Option Word :=
  if off = 0 then some 0x941020A0801000C1
  else if off = mModStat then some (modStatWord s)
  else if off = mEpochCur then some (s.disp.epoch.setWidth 64)
  else if off = mEpochPend then
    some (ofFields 64 [(32, s.disp.phase.toNat), (0, if s.disp.phase = 0 then 0 else ((s.disp.change.map (·.epoch.toNat)).getD 0))])
  else if off = mSlots then some (ofFields 64 [(32, runningCount s), (0, slotCount - s.disp.slots.length)])
  else if off = mCollStat then some (BitVec.ofNat 64 s.fab.insts.length)
  else if off = mSetStat then some (setStatWord s)
  else if off = mSetSeq 0 then some (setSeqWord s 0)
  else if off = mSetSeq 1 then some (setSeqWord s 1)
  else if off = mSnapStat then some (ofFields 64 [(32, s.dbg.snapSeq.toNat), (0, b2n (s.dbg.snap != .idle))])
  else if off = mSnapCommit then some s.dbg.snapNo
  else if off = mSnapCtl ∨ off = mDbgGlobal ∨ off = mGroupReg then some 0
  else none

/-- A word as it stands. -/
def wordNow (s : State) (off : Nat) : Word :=
  match readSingle s off with
  | some v => v
  | none =>
    match arrAt off 0x10000 64 256, arrAt off 0x80000 4096 32, arrAt off 0x800000 4096 1024 with
    | some (q, w), _, _ =>
      if w = 0x10 then (queueOf s q).tail.setWidth 64 else if w = 0x18 then (queueOf s q).head.setWidth 64
      else if w = 0x38 then 0 else regGet s off
    | _, some (l, w), _ =>
      if w = 0 then ofFields 64 [(48, (linkOf s l).peer.toNat), (32, (linkOf s l).fails.toNat), (0, (linkOf s l).state.toNat)]
      else regGet s off
    | _, _, some (c, w) => readCoreDbg s c w off
    | _, _, _ =>
      match arrAt off 0x40600 8 4, arrAt off 0x200000 0x20000 1, arrAt off 0x400000 0x6000 1 with
      | some (q, _), _, _ => BitVec.ofNat 64 (quadStep s q)
      | _, some (_, w), _ => readFault s w off
      | _, _, some (_, w) => readSec s w off
      | _, _, _ => regGet s off

/-- What a management read of the word at `off` gives; reserved and write-only bits, and offsets without a register, read zero (R10). Of a word that is
a count in part, that part is the latest snapshot's, once there is one. -/
def mgmtGet (s : State) (off : Nat) : Word :=
  if (regFields off).isNone then 0
  else if !(snapFields off).isEmpty then
    if s.dbg.snapSeq = 0 then wordNow s off
    else (snapFields off).foldl (fun v f => setFld v f.1 f.2 (fld (Map.get (fun _ => 0) s.dbg.copies off) f.1 f.2)) (wordNow s off)
  else if snapshotted off then snapWord s off
  else wordNow s off

/-! ### LATCH (R482 to R486) -/

/-- The charge that the running commands of queue q have accrued below a step: free values, as the model has no clock (R108). -/
def accruing (s : State) (q : Nat) : Nat :=
  (s.disp.slots.filter fun e => e.2.queue = q && e.2.active && !e.2.cores.isEmpty).zipIdx.foldl
    (fun a e => a + (Config.freeWord (1024 * s.fresh + mQacct q + e.2)).toNat % 65536) 0

/-- What the part has sent since READY, newest first. -/
def sentSince (s : State) : List Sent := s.sent.take (s.sent.length - s.dbg.sentAt)

/-- TX_BYTES or TX_FRAMES of port e at this instant (R482). -/
def txCount (s : State) (e : Nat) (bytes : Bool) : Word :=
  BitVec.ofNat 64 (((sentSince s).filter fun x => x.port = some e).map fun x => let l := x.frames (qpMtu s); if bytes then l.sum else l.length).sum

/-- What core c has slept after its n-th instruction, in cycles: a free value, as the model has no clock (R483, log 8). -/
def sleepOf (c n : Nat) : Nat := (Config.slept c n).toNat

/-- CC_ISSUE of core c: two for each instruction issued (R146, R483). -/
def ccIssues (s : State) (c : Nat) : Word := BitVec.ofNat 64 (2 * (coreOf s c).issues)

/-- CC_SLEEP of core c: it grows while the core sleeps in WAIT or DRAIN alone, and stands still while the core is halted (R483). -/
def ccSleeps (s : State) (c : Nat) : Word :=
  let k := coreOf s c
  let asleep := match k.act with
    | .waiting _ _ _ _ => true
    | .draining _ _ => true
    | _ => false
  let now := if asleep then (Config.freeWord (1024 * (s.fresh + 8192) + c)).toNat else 0
  BitVec.ofNat 64 (2 * (((List.range k.issues).map (sleepOf c)).sum + now))

/-- The read copies that LATCH takes: every count and sample, QACCT up to this instant, and the words of which a part is a count (R484). -/
def latchCopies (s : State) : Map Word :=
  let put := fun (m : Map Word) (o : Nat) (v : Word) => Map.set (fun _ => 0) m o v
  let m := (List.range 256).foldl (fun m q =>
    let n := accruing s q
    if n = 0 then m else put m (mQacct q) (Map.get (fun _ => 0) m (mQacct q) + BitVec.ofNat 64 n)) s.live
  let m := [0, 1].foldl (fun m e => put (put m (mEth e 8) (txCount s e true)) (mEth e 10) (txCount s e false)) m
  let m := (s.cores.map (·.1)).foldl (fun m c => put (put m (mCcnt c 9) (ccIssues s c)) (mCcnt c 10) (ccSleeps s c)) m
  snapParts.foldl (fun m o => put m o (wordNow s o)) m

/-- LATCH (R485, R486): once the commit under way has finished, the registers are copied. The counters of R483 that count cycles of an engine are free
values of this snapshot (log 8). -/
def execLatch (s : State) : Host.Outcome State Fault Refusal :=
  if s.dbg.snap = .hold ∧ s.disp.current = none then
    .next { s with
      fresh := s.fresh + 16384,
      dbg := { s.dbg with snap := .latched, snapSeq := s.dbg.snapSeq + 1, copies := latchCopies s, view := s.sync.counters,
                          snapFree := s.fresh } }
  else .next s

/-! ### Writes -/

def writeQctl (s : State) (q : Nat) (v : Word) : State :=
  let s := if bit v 1 then abortMatching s q (some (BitVec.ofNat 32 (fld v 32 32))) else s
  if bit v 2 then abortMatching s q none else s

/-- Report the reserved bits that a write sets (R10). -/
def reserved (s : State) (off : Nat) (v : Word) : State := reportReserved .mgmt off ((regFields off).getD []) v s

def isKvTable (off : Nat) : Bool :=
  off = mKvFut || off = mKvSess || off = mKvFrame || (arrAt off 0x44100 8 16).isSome || (arrAt off 0x45000 64 64).isSome

/-- Words whose write reports its reserved bits itself. -/
def reportsItself (off : Nat) : Bool :=
  isKvTable off || off = mFwSrc || (arrAt off 0xC00000 256 64).isSome || (arrAt off 0x110000 64 1024).isSome ||
  (arrAt off 0x120000 32 4096).isSome || (arrAt off 0x800000 4096 1024).any fun x => decide (0x040 ≤ x.2 ∧ x.2 < 0x080)

/-- A write that the present state refuses (R460 reason 0x06). Its reserved bits are reported too, and first (R10; DESIGN CHOICE, log 53). -/
def refuse (s : State) (off : Nat) (v : Word) : State :=
  reportRefused (if reportsItself off then reserved s off v else s) off v (mgmtGet s off)

/-- QP[n] (R382): STATE, and the other fields in RESET only. A reserved PMTU is rejected and keeps the old one (R11). ERROR is no state that
software writes: the write is refused whole (R461; DESIGN CHOICE, log 53). -/
def writeQp (s : State) (n w off : Nat) (v : Word) : State :=
  if w = 0x38 then reserved s off v
  else if w ≠ 0 then (if qpState s n = 0 then putWord .mgmt off v s else refuse s off v)
  else if fld v 62 2 = 2 then refuse s off v
  else if qpState s n = 0 then
    let old := cfg s off 58 3
    let bad := decide (2 < fld v 58 3)
    let s := putWord .mgmt off (setFld (if bad then setFld v 58 3 old else v) 62 2 0) s
    let s := if bad then reportClamp s .mgmt 0x03 off 58 3 (fld v 58 3) old else s
    if fld v 62 2 = 1 then qpReady s n
    else if fld v 62 2 = 3 then reportClamp s .mgmt 0x03 off 62 2 3 0
    else s
  else if fld v 62 2 = 0 then qpReset (reserved s off v) n
  else refuse s off v

/-- PKEY[k] word 0 (R384): VALID = 1 needs a range in the mapped pinned window or the HBM plane. -/
def writePkey (s : State) (k off : Nat) (v : Word) : State :=
  if bit v 63 ∧ !inPlane s (cfg s (mPkey k 1) 0 48) (cfg s (mPkey k 2) 0 48) then refuse s off v else putWord .mgmt off v s

/-- A word of a core's debug block (R494, R499). -/
def writeCoreDbg (s : State) (c w off : Nat) (v : Word) : State :=
  if w = 0 then
    let s := if bit v 1 then halt s c else s
    let s := if bit v 2 then resume s c false else s
    if bit v 3 then resume s c true else s
  else if 0x040 ≤ w ∧ w < 0x080 then
    let s := if fld v 61 2 = 3 then reportClamp s .mgmt 0x03 off 61 2 3 (cfg s off 61 2) else s
    putWord .mgmt off (if fld v 61 2 = 3 then setFld v 61 2 (cfg s off 61 2) else v) s
  else if w < 0x040 then s
  else if !coreStopped s c then refuse s off v
  else if w < 0x200 then updCore s c fun k => gSet k ((w - 0x100) / 8) v
  else if w = 0x200 then updCore s c fun k => { k with p := v.setWidth 8 }
  else updCore s c fun k => dSet k ((w - 0x400) / 32) (setFld (dGet k ((w - 0x400) / 32)) (64 * ((w / 8) % 4)) 64 v.toNat)

/-- A word of a watch point (R487). -/
def writeWatch (s : State) (i w off : Nat) (v : Word) : State :=
  if 0x28 ≤ w then reserved s off v
  else if w = 0 ∧ bit v 63 then watchEnable s i v
  else if cfgBit s (mWatch i 0) 63 ∧ w ≠ 0 then refuse s off v
  else
    let s := if w = 0 ∧ fld v 61 2 = 3 then reportClamp s .mgmt 0x03 off 61 2 3 (cfg s off 61 2) else s
    putWord .mgmt off (if w = 0 ∧ fld v 61 2 = 3 then setFld v 61 2 (cfg s off 61 2) else v) s

/-- A word of the security block (R475, R477, R480). -/
def writeSec (s : State) (w off : Nat) (v : Word) : State :=
  if w = 0x08 then putWord .mgmt off v s
  else if w = 0x10 then
    if s.sec.fwBusy.isSome then refuse s off v
    else match fld v 0 2 with
      | 1 => install s
      | 2 => commitSvn s
      | 3 => revokeKey0 s
      | _ => s
  else if w = 0x20 then
    if s.sec.attBusy.isSome then refuse s off v
    else match fld v 0 2 with
      | 1 => attReport s
      | 2 => extendHost s 6
      | 3 => extendHost s 7
      | _ => s
  else if 0x40 ≤ w ∧ w < 0x60 then
    if s.sec.attBusy.isSome then refuse s off v
    else { s with sec := { s.sec with attData := setFld s.sec.attData (8 * (w - 0x40)) 64 v.toNat } }
  else if w = 0x200 then
    if s.sec.dbgBusy then refuse s off v
    else
      let s := if bit v 0 then relock s else s
      if bit v 1 then verify s else s
  else if 0x2000 ≤ w ∧ w < 0x4000 then
    if s.sec.dbgBusy then refuse s off v
    else { s with sec := { s.sec with token := Map.setRun (fun _ => 0) s.sec.token (w - 0x2000) (natLE 8 v.toNat) } }
  else s

def writeGlobal (s : State) (v : Word) : State :=
  let s := if bit v 0 then (let s := haltAll s 2; if bit v 2 then sendDebug s 1 else s) else s
  if bit v 1 then (let s := resumeAll s none; if bit v 2 then sendDebug s 2 else s) else s

/-- The single registers whose writes do something. -/
def writeSingle (s : State) (off : Nat) (v : Word) : Option State :=
  if off = mKvCtl then some (if bit v 0 then kvEnable s else kvDisable s)
  else if off = mGroupReg then some (if bit v 16 then groupRegister s (fld v 0 12) v else groupUnregister s (fld v 0 12))
  else if off = mErrTail then some (errlogTailWrite s v)
  else if off = mChipStat then some (if bit v 1 then alertClear s else s)
  else if off = mModStat then some (if bit v 4 then coolantClear s else s)
  else if off = mSnapCtl then some (if bit v 0 then snapRequest s.tick (freeBit s) else s)
  else if off = mDbgGlobal then some (writeGlobal s v)
  else none

/-- The words whose write is more than a range-checked store, and what it does. -/
def writeSpecial (s : State) (off : Nat) (v : Word) : Option State :=
  match writeSingle s off v with
  | some t => some t
  | none =>
    if isKvTable off ∧ cfgBit s mKvCtl 0 then some (refuse s off v)
    else match arrAt off 0x10000 64 256, arrAt off 0x80000 4096 32, arrAt off 0x400000 0x6000 1 with
      | some (q, w), _, _ => if w = 0x38 then some (writeQctl s q v) else none
      | _, some (l, w), _ => if w = 0x10 then some (if bit v 0 then linkDisable s l else linkEnable s l) else none
      | _, _, some (_, w) => some (writeSec s w off v)
      | _, _, _ =>
        match arrAt off 0x110000 64 1024, arrAt off 0x800000 4096 1024, arrAt off 0xC00000 256 64 with
        | some (n, w), _, _ => some (writeQp s n w off v)
        | _, some (c, w), _ => some (writeCoreDbg s c w off v)
        | _, _, some (i, w) => some (writeWatch s i w off v)
        | _, _, _ =>
          match arrAt off 0x120000 32 4096 with
          | some (k, w) => if w = 0 then some (writePkey s k off v) else none
          | none => none

/-- A management write of `v` to the word at `off` (R395, R460). An offset without a register takes nothing. -/
def mgmtPut (s : State) (off : Nat) (v : Word) : State :=
  match regFields off with
  | none => s
  | some fs =>
    match arrAt off 0x10000 64 256 with
    | some (q, 0x10) => qtailWrite s q v
    | _ =>
      match writeSpecial s off v with
      | none => putWord .mgmt off v s
      | some _ =>
        let s := if reportsItself off then s else reportReserved .mgmt off fs v s
        (writeSpecial s off v).getD s

/-- An offset that a datagram may not name (R395, R480): outside management space, not a multiple of 8, or closed to the host. -/
def offDenied (s : State) (off : Nat) : Bool :=
  decide (mgmtSize ≤ off) || off % 8 != 0 || (decide (0x800000 ≤ off ∧ off < 0xC00000) && !permBit s 0)

/-- REGISTER_WRITE (R395, R460). -/
def execRegisterWrite (off : BitVec 24) (v : Word) (s : State) : Host.Outcome State Fault Refusal :=
  .next (if offDenied s off.toNat then s else mgmtPut s off.toNat v)

end Sys2Proof.Machine
end

