-- ==== Sys2Proof/Machine/Fct.lean ====
section
/-!
DEFINITION. The command transport (R391 to R398): submissions, completion datagrams, management datagrams with the sources they come from, and
the VC3 messages that carry management to other chips (R396, R497).
-/
namespace Sys2Proof.Machine

/-! ### Datagrams (R391) -/

def fctTseq (h : BitVec 128) : BitVec 32 := BitVec.ofNat 32 (fld h 96 32)
def fctChip (h : BitVec 128) : Nat := fld h 80 16
def fctQueue (h : BitVec 128) : Nat := fld h 72 8
def fctCount (h : BitVec 128) : Nat := fld h 64 8
def fctType (h : BitVec 128) : Nat := fld h 48 8

def fctHdr (tseq : BitVec 32) (chip queue count status type : Nat) : BitVec 128 :=
  ofFields 128 [(96, tseq.toNat), (80, chip), (72, queue), (64, count), (56, status), (48, type), (0, 1)]

/-- Two words of a register pair as one number. -/
def pairWord (s : State) (lo hi : Nat) : Nat := cfg s lo 0 64 + 2 ^ 64 * cfg s hi 0 64

/-- The source is listed in FCT_ALLOW (R391, R457). -/
def fctAllowed (s : State) (a : BitVec 128) : Bool :=
  (List.range 4).any fun i =>
    let v := pairWord s (mFctAllow i) (mFctAllow i + 8)
    v = 2 ^ 128 - 1 || (v != 0 && v = a.toNat)

/-- Bytes of an item, and the most items, of a type that the host sends. -/
def fctItems (type : Nat) : Nat × Nat :=
  if type = 1 then (64, 16) else if type = 5 then (8, 64) else if type = 6 then (16, 64) else (0, 0)

/-- The length disagrees with TYPE and COUNT, or VER is not 1. -/
def fctMalformed (h : BitVec 128) (n : Nat) : Bool :=
  let it := fctItems (fctType h)
  fld h 0 8 != 1 || n != it.1 * fctCount h || decide (it.2 < fctCount h) || (it.1 != 0 && fctCount h == 0)

/-- The type of an answer: SUBMIT_ACK, MGMT_RESP, or the type itself (log 28). -/
def fctAnswerType (type : Nat) : Nat := if type = 1 then 2 else if type = 5 ∨ type = 6 then 8 else type

/-- A datagram leaves. -/
def sendFct (s : State) (e : Nat) (t : Source) (h : BitVec 128) (body : List Byte) : State :=
  sendEth s e (.fct (fctWire s e t) e t h body)

/-- An answer without items; it names the chip as the request did (log 28). -/
def fctAnswer (s : State) (e : Nat) (src : Source) (h : BitVec 128) (tseq : BitVec 32) (status : Nat) : State :=
  sendFct s e src (fctHdr tseq (fctChip h) (fctQueue h) 0 status (fctAnswerType (fctType h))) []

/-- A datagram with `n` bytes after its header has arrived at a port (R482). -/
def hearFct (s : State) (e : Nat) (src : Source) (n : Nat) : State := hearFrame e s fun tag => frameLen tag (isV4 src.addr) (16 + n)

/-- What every datagram meets first (R391, R398). A reserved type has no length that agrees with it (DEDUCED, log 28). -/
def fctIn (s : State) (e : Nat) (src : Source) (h : BitVec 128) (n type : Nat) (k : State → State) : State :=
  if !fctAllowed s src.addr then countDrop s e
  else if fctType h ≠ type ∨ fctMalformed h n then fctAnswer s e src h (fctTseq h) 5
  else if s.mod.stage ≠ 8 ∧ type ≠ 5 then fctAnswer s e src h (fctTseq h) 6
  else k s

/-- The datagram addresses this chip. -/
def fctOurs (s : State) (h : BitVec 128) : Bool := fctChip h = 0xFFFF || fctChip h = chipNo s

/-! ### SUBMIT (R393) -/

/-- Write one record, which came in at base die `die`, at a ring index. -/
def ringWrite (die : Nat) (s : State) (q : Nat) (i : BitVec 32) (bs : List Byte) : State :=
  if inPlane s (ringEntry s q i) 64 && !inFrameTable s (ringEntry s q i) 64 then touchLines (planeWriteMsg s (ringEntry s q i) bs) die (ringEntry s q i) 64 else s

/-- Write records at TAIL and the indices after it. -/
def ringWrites (die : Nat) (s : State) (q : Nat) (t : BitVec 32) (recs : List (List Byte)) : State :=
  recs.zipIdx.foldl (fun s r => ringWrite die s q (t + BitVec.ofNat 32 r.2) r.1) s

def submit (s : State) (e : Nat) (src : Source) (h : BitVec 128) (body : List Byte) : State :=
  let q := fctQueue h
  let qu := queueOf s q
  let ack := fctAnswer s e src h (fctTseq h)
  if !fctOurs s h then ack 9
  else if s.flt.faulted then ack 6
  else if fctTseq h = qu.expected - 1 then ack 1
  else if fctTseq h ≠ qu.expected then fctAnswer s e src h qu.expected 2
  else if !cfgBit s (mQcfg q) 15 then ack 4
  else if ringSize s q < ringLoad s q + fctCount h then ack 3
  else
    let s := ringWrites (4 * e) s q qu.tail (chunksOf 64 17 body)
    let s := updQueue s q fun k => { k with tail := k.tail + BitVec.ofNat 32 (fctCount h), expected := k.expected + 1 }
    fctAnswer s e src h (fctTseq h) 0

/-- SUBMIT (R391, R393, R414). -/
def execSubmit (e : EthId) (src : Source) (hdr : BitVec 128) (body : List Byte) (s : State) : Host.Outcome State Fault Refusal :=
  .next (fctIn (hearFct s e.toNat src body.length) e.toNat src hdr body.length 1 fun s => submit s e.toNat src hdr body)

/-! ### Completion datagrams (R394) -/

/-- The destination of a port's completions. -/
def cqDest (s : State) (e : Nat) : Source :=
  { addr := BitVec.ofNat 128 (pairWord s (mCqIp e) (mCqIp e + 8)), port := BitVec.ofNat 16 (cfg s (mCqMac e) 48 16) }

/-- COMPLETION_ACK (R394): the datagram with its QUEUE and TSEQ is kept no longer. -/
def execCompletionAck (e : EthId) (src : Source) (d : Datagram) (s : State) : Host.Outcome State Fault Refusal :=
  .next (fctIn (hearFct s e.toNat src d.body.length) e.toNat src d.hdr d.body.length 4 fun s =>
    { s with eth := { s.eth with comps := s.eth.comps.filter fun c => !(c.queue = fctQueue d.hdr && fctTseq c.hdr = fctTseq d.hdr) } })

/-- COMPLETION_RESEND (R394): an unacknowledged datagram of the port is sent again, unchanged. -/
def execCompletionResend (x : KeptRecord) (s : State) : Host.Outcome State Fault Refusal :=
  match (s.eth.comps.filter fun c => c.port = x.e.toNat)[x.idx.toNat]? with
  | none => .next s
  | some c => .next (sendFct s c.port (cqDest s c.port) c.hdr c.body)

/-! ### Management sources (R395) -/

def isSource (e : Nat) (src : Source) (m : MgmtSource) : Bool := m.port = e && m.src = src

/-- The source becomes the most recently used of its port; of sixteen others the least recently used goes. -/
def keepSource (s : State) (m : MgmtSource) : State :=
  let rest := s.eth.sources.filter fun x => !isSource m.port m.src x
  let rest := if 16 ≤ (rest.filter fun x => x.port = m.port).length then dropFirst (fun x => x.port = m.port) rest else rest
  { s with eth := { s.eth with sources := rest ++ [m] } }

/-- The response to a management request is kept for its source, if that was its last datagram. -/
def storeResponse (s : State) (a : Ask) (h : BitVec 128) (body : List Byte) : State :=
  { s with eth := { s.eth with
      sources := mapIf (fun m => isSource a.port a.src m && m.next = fctTseq a.hdr + 1) (fun m => { m with hdr := h, body := body })
        s.eth.sources } }

/-- MGMT_RESP to the host, or to the chip that forwarded the request (R395, R396). -/
def mgmtRespond (s : State) (a : Ask) (status : Nat) (vals : List Byte) : State :=
  match a.far with
  | some (chip, tag) =>
    sendMsg s (mkMsg s chip 0x21 (ceilDiv vals.length 64) [(96, tag.toNat), (88, 8), (80, vals.length / 8), (72, status)] vals)
  | none =>
    let h := fctHdr (fctTseq a.hdr) (fctChip a.hdr) (fctQueue a.hdr) (vals.length / 8) status 8
    storeResponse (sendFct s a.port a.src h vals) a h vals

/-- MGMT_ACK: the response follows later (R392, R395). -/
def mgmtAckHdr (a : Ask) : BitVec 128 := fctHdr (fctTseq a.hdr) (fctChip a.hdr) (fctQueue a.hdr) 0 0 7

def mgmtAck (s : State) (a : Ask) : State := sendFct s a.port a.src (mgmtAckHdr a) []

/-! ### Management requests at this chip -/

/-- The word at byte `i` of the items. -/
def itemWord (body : List Byte) (i : Nat) : Nat := leNat ((body.drop i).take 8)

/-- The offsets that a request of n items names. -/
def mgmtOffs (type n : Nat) (body : List Byte) : List Nat :=
  (List.range n).map fun i => itemWord body ((fctItems type).1 * i)

/-- The values of a read. -/
def mgmtVals (s : State) (offs : List Nat) : List Byte := offs.flatMap fun o => natLE 8 (mgmtGet s o).toNat

/-- Apply the pairs of a write in item order. -/
def mgmtPuts (s : State) (n : Nat) (body : List Byte) : State :=
  (List.range n).foldl (fun s i => mgmtPut s (itemWord body (16 * i)) (BitVec.ofNat 64 (itemWord body (16 * i + 8)))) s

/-- A request whose offsets are open: a read that names a snapshotted register waits for a snapshot, which it joins or starts (R484). Whether
less than 10 us have passed since the last one started is a free value (log 8). -/
def mgmtRun (s : State) (a : Ask) (type n : Nat) (body : List Byte) : State :=
  if type = 6 then mgmtRespond (mgmtPuts s n body) a 0 []
  else if a.offs.any snapshotted then
    let s := snapRequest s.tick (freeBit s)
    { s with eth := { s.eth with asks := s.eth.asks ++ [a] } }
  else mgmtRespond s a 0 (mgmtVals s a.offs)

/-- The reads that a snapshot answers. -/
def answerAsks (s : State) : State :=
  s.eth.asks.foldl (fun s a => mgmtRespond s a 0 (mgmtVals s a.offs)) { s with eth := { s.eth with asks := [] } }

/-- A datagram of the right TSEQ, or the first of a new source; one that is refused leaves the TSEQ expected (R393). -/
def mgmtTake (s : State) (e : Nat) (src : Source) (h : BitVec 128) (body : List Byte) : State :=
  let a : Ask := { far := none, port := e, src := src, hdr := h, offs := mgmtOffs (fctType h) (fctCount h) body }
  let keep := fun s => keepSource s { port := e, src := src, next := fctTseq h + 1, hdr := mgmtAckHdr a, body := [] }
  if !fctOurs s h then
    if 64 ≤ s.fab.forwarded.length then fctAnswer s e src h (fctTseq h) 10
    else
      let tag := s.fab.tags
      let s := keep { s with fab := { s.fab with tags := tag + 1, forwarded := s.fab.forwarded ++ [⟨tag, e, src, h⟩] } }
      let s := sendMsg s (mkMsg s (fctChip h) 0x20 (ceilDiv body.length 64)
        [(96, tag.toNat), (88, fctType h), (80, fctCount h)] body)
      mgmtAck s a
  else if a.offs.any (offDenied s) then fctAnswer s e src h (fctTseq h) 7
  else
    let s := mgmtRun (keep s) a (fctType h) (fctCount h) body
    if s.eth.asks.contains a ∧ s.dbg.snap = .idle then mgmtAck s a else s

/-- A management datagram: the stored response for a duplicate, the TSEQ expected after a gap, or its effect. A source that the port does not track
takes an entry, in which its TSEQ is the one expected; every datagram of a source makes it the most recently used. -/
def mgmtIn (s : State) (e : Nat) (src : Source) (h : BitVec 128) (body : List Byte) : State :=
  match s.eth.sources.find? (isSource e src) with
  | none =>
    let m : MgmtSource := { port := e, src := src, next := fctTseq h, hdr := fctHdr (fctTseq h - 1) (fctChip h) (fctQueue h) 0 0 8, body := [] }
    mgmtTake (keepSource s m) e src h body
  | some m =>
    let s := keepSource s m
    if fctTseq h = m.next - 1 then sendFct s e src (setFld m.hdr 56 8 1) m.body
    else if fctTseq h ≠ m.next then fctAnswer s e src h m.next 2
    else mgmtTake s e src h body

/-- MGMT_READ (R395, R484). -/
def execMgmtRead (e : EthId) (src : Source) (hdr : BitVec 128) (body : List Byte) (s : State) : Host.Outcome State Fault Refusal :=
  .next (fctIn (hearFct s e.toNat src body.length) e.toNat src hdr body.length 5 fun s => mgmtIn s e.toNat src hdr body)

/-- MGMT_WRITE (R395). -/
def execMgmtWrite (e : EthId) (src : Source) (hdr : BitVec 128) (body : List Byte) (s : State) : Host.Outcome State Fault Refusal :=
  .next (fctIn (hearFct s e.toNat src body.length) e.toNat src hdr body.length 6 fun s => mgmtIn s e.toNat src hdr body)

/-! ### VC3 messages (R346, R396, R497) -/

def mgmtTag (m : Msg) : BitVec 32 := BitVec.ofNat 32 (fld m.hdr 96 32)
def mgmtType (m : Msg) : Nat := fld m.hdr 88 8
def mgmtCount (m : Msg) : Nat := fld m.hdr 80 8

/-- A forwarded request at its destination. -/
def mgmtReqIn (s : State) (m : Msg) : State :=
  let ty := mgmtType m
  let n := mgmtCount m
  let a : Ask := { far := some (m.src, mgmtTag m), port := 0, src := ⟨0, 0⟩, hdr := 0, offs := mgmtOffs ty n m.data }
  if ty ≠ 5 ∧ ty ≠ 6 then s
  else if n = 0 ∨ 64 < n ∨ m.data.length < (fctItems ty).1 * n then mgmtRespond s a 5 []
  else if a.offs.any (offDenied s) then mgmtRespond s a 7 []
  else mgmtRun s a ty n m.data

def dropForwarded (s : State) (tag : BitVec 32) : State :=
  { s with fab := { s.fab with forwarded := s.fab.forwarded.filter fun f => f.tag != tag } }

def Forwarded.ask (f : Forwarded) : Ask := { far := none, port := f.port, src := f.src, hdr := f.hdr, offs := [] }

/-- The response to a forwarded request is relayed. -/
def mgmtRespIn (s : State) (m : Msg) : State :=
  match s.fab.forwarded.find? fun f => f.tag = mgmtTag m with
  | none => s
  | some f => mgmtRespond (dropForwarded s f.tag) f.ask (fld m.hdr 72 8) (m.data.take (8 * mgmtCount m))

/-- What a VC3 message does. -/
def vc3Apply (s : State) (m : Msg) : State :=
  if m.kind = 0x20 then mgmtReqIn s m
  else if m.kind = 0x21 then mgmtRespIn s m
  else if m.kind = 0x22 then debugMsg s m
  else s

def vc3Expected (s : State) (src : Nat) : Nat := Map.get (fun _ => 0) s.fab.mseqIn (src * 4 + 3)

def vc3Take (s : State) (m : Msg) : State :=
  vc3Apply { s with fab := { s.fab with mseqIn := Map.put s.fab.mseqIn (m.src * 4 + 3) ((vc3Expected s m.src + 1) % 65536) } } m

/-- Messages that were held back for order follow; the count bounds the recursion. -/
def drainVc3 (src : Nat) : Nat → State → State
  | 0, s => s
  | n + 1, s =>
    match s.fab.reorder.find? fun m => decide (0x20 ≤ m.kind) && m.src = src && m.mseq = vc3Expected s src with
    | none => s
    | some m => drainVc3 src n (vc3Take { s with fab := { s.fab with reorder := dropFirst (· = m) s.fab.reorder } } m)

/-- How far a VC3 message is ahead of the next of its source (R346). -/
def vc3Ahead (s : State) (m : Msg) : Nat := (m.mseq + 65536 - vc3Expected s m.src) % 65536

/-- There is room for the message among the 512 that are held for reordering; one further ahead, which no source sends, stays where it has arrived until
there is (DESIGN CHOICE, log 38). -/
def vc3Room (s : State) (m : Msg) : Bool := decide (vc3Ahead s m < 512 ∨ 32768 ≤ vc3Ahead s m)

/-- A VC3 message arrives: it is applied in MSEQ order. -/
def vc3In (s : State) (m : Msg) : State :=
  let d := vc3Ahead s m
  if d = 0 then drainVc3 m.src 512 (vc3Take s m)
  else if d < 512 ∧ !s.fab.reorder.contains m then { s with fab := { s.fab with reorder := s.fab.reorder ++ [m] } }
  else s

/-- MGMT_REQ (R395, R396, R484). -/
def execMgmtReq (m : Msg) (s : State) : Host.Outcome State Fault Refusal :=
  if forUs s m ∧ m.kind = 0x20 ∧ vc3Room s m then .next (vc3In (takeMsg s m) m) else .next s

/-- MGMT_RESP (R395, R396). -/
def execMgmtResp (m : Msg) (s : State) : Host.Outcome State Fault Refusal :=
  if forUs s m ∧ m.kind = 0x21 ∧ vc3Room s m then .next (vc3In (takeMsg s m) m) else .next s

/-- DEBUG (R497). -/
def execDebugMsg (m : Msg) (s : State) : Host.Outcome State Fault Refusal :=
  if forUs s m ∧ m.kind = 0x22 ∧ vc3Room s m then .next (vc3In (takeMsg s m) m) else .next s

/-- MGMT_FORWARD_TIMEOUT (R395). -/
def execMgmtForwardTimeout (tag : BitVec 32) (dropped : Bool) (s : State) : Host.Outcome State Fault Refusal :=
  match s.fab.forwarded.find? fun f => f.tag = tag with
  | none => .next s
  | some f => .next (mgmtRespond (dropForwarded s tag) f.ask (if dropped then 9 else 8) [])

end Sys2Proof.Machine
end

