-- ==== Sys2Proof/Machine/Fills.lean ====
section
/-!
DEFINITION. HBM_LINE_FILL (R43, R50, R54): a line arrives from its channel, and what has waited for it goes on.
-/
namespace Sys2Proof.Machine

/-- A COPY whose last line has come may be done (R81). -/
def fillDone (s : State) (f : FillReq) : State :=
  match f.slot, f.asker with
  | some k, .cmd => copyDone s k
  | _, _ => s

/-- HBM_LINE_FILL (R43, R50, R54): the line that its channel serves next arrives. A channel under test holds its requests (R409). -/
def execHbmLineFill (a : BitVec 48) (flaw : Flaw) (s : State) : Host.Outcome State Fault Refusal :=
  let l := lineOf a.toNat
  match s.mem.fills.filter fun f => f.line = l with
  | [] => .next s
  | f :: rest =>
    if underTest s 4 (channelOf s l) ∨ (channelNext s (channelOf s l)).map (·.line) ≠ some l then .next s
    else .next (serveLines ((f :: rest).foldl fillDone (fillLine s l f rest flaw)))

end Sys2Proof.Machine
end

