-- ==== Sys2Proof/Machine/Grant.lean ====
section
/-!
DEFINITION. GRANT (R82, R88, R89, R108 to R111, R284, R356 to R361, R463): which ready command the dispatcher chooses, what it needs, what
ends it before it runs, and what it holds once it runs. Where several readings are open see log 26.
-/
namespace Sys2Proof.Machine

/-! ### Ready sets (R87, R88, R89) -/

/-- Every member of the set of k is admitted and ready. -/
def setReady (s : State) (k : Nat) : Bool :=
  match cmdOf s k with
  | none => false
  | some c => setWhole s c && (jointSet s k).all fun m => ((cmdOf s m).map fun x => decide (x.phase = .ready)).getD false

/-- The slot of the first command of each ready set, with that command. -/
def readySets (s : State) : List (Nat × Cmd) := s.disp.slots.filter fun e => e.2.order = e.2.lead && setReady s e.1

/-- A MODE command has been granted and its publish has not come (R115): only commands that the drain has killed are granted. -/
def draining (s : State) : Bool :=
  s.disp.phase != 0#2 || s.disp.slots.any fun e => e.2.active && e.2.isMode && !e.2.fin

/-- The oldest ready set of a queue; in a drain, of those that the drain has killed (R115). -/
def headOf (s : State) (q : Nat) : Option Nat :=
  (minBy? (fun e : Nat × Cmd => (e.2.order : Int)) ((readySets s).filter fun e => e.2.queue = q && (!draining s || e.2.redo))).map (·.1)

/-- Queues that hold a ready set, in ascending order. -/
def readyQueues (s : State) : List Nat := (List.range 256).filter fun q => (readySets s).any fun e => e.2.queue = q

/-! ### Cores (R79, R81, R285, R286, R291) -/

/-- The core field of a COPY or page command. -/
def Cmd.coreField (c : Cmd) : Nat :=
  if c.kind = 2 then fld c.record 430 10 else if c.kind = 4 then fld c.record 381 10
  else if c.kind = 5 then fld c.record 369 10 else fld c.record 416 10

/-- The cores that a command names, in ascending order. -/
def Cmd.named (c : Cmd) : List Nat :=
  if c.kind = 1 then
    ((List.range 32).filter fun i => bit c.record (416 + i)).flatMap fun i => span (32 * i + fld c.record 400 5) (fld c.record 405 6)
  else if (c.kind = 2 ∨ c.isPage) ∧ !c.anyCore then [c.coreField]
  else []

def Cmd.wantsAny (c : Cmd) : Bool := (c.kind = 2 || c.isPage) && c.anyCore

/-- The members of a set with their commands. -/
def members (s : State) (k : Nat) : List (Nat × Cmd) := (jointSet s k).filterMap fun m => (cmdOf s m).map fun c => (m, c)

def setNamed (s : State) (k : Nat) : List Nat := (members s k).flatMap fun e => e.2.named

/-- The core has been freed, or is being freed, for another ready set (R111); the promise lapses while that set is not the head of its queue. -/
def promisedElse (s : State) (k c : Nat) : Bool :=
  s.disp.slots.any fun e => e.2.phase = .ready && e.2.promised.contains c && !(jointSet s k).contains e.1 &&
    (headOf s e.2.queue).any fun h => (jointSet s h).contains e.1

/-- A core that may be given to the set of slot k (R88, R111, R413, R415). -/
def coreFree (s : State) (k c : Nat) : Bool :=
  (coreOf s c).slot.isNone && !coreFenced s c && !underTest s 1 c && !promisedElse s k c

/-- The cores in the order in which an ANY_CORE member takes them: the one that a pre-emption has freed for its set (R111), then ascending. -/
def anyOrder (s : State) (k : Nat) : List Nat := ((members s k).flatMap fun e => e.2.promised) ++ List.range coreCount

/-- The cores of each member, where all are free. An ANY_CORE member takes the first that is left. -/
def pickCores (s : State) (k : Nat) : Option (List (Nat × List Nat)) :=
  let fixed := setNamed s k
  if !(fixed.all (coreFree s k)) ∨ fixed.eraseDups.length ≠ fixed.length then none
  else
    ((members s k).foldl (fun (r : Option (List Nat × List (Nat × List Nat))) e =>
      match r with
      | none => none
      | some (used, l) =>
        if e.2.wantsAny then
          match (anyOrder s k).find? fun c => coreFree s k c && !used.contains c with
          | none => none
          | some c => some (c :: used, l ++ [(e.1, [c])])
        else some (used, l ++ [(e.1, e.2.named)])) (some (fixed, []))).map (·.2)

/-! ### Staging (R82, R88, R91, R284) -/

/-- Lines that a COPY, REPORT or VIEW_READ without an annex stages, by slice. -/
def Cmd.copyLines (s : State) (c : Cmd) : List (Nat × Nat) :=
  if c.kind = 2 then
    if c.bytes = 0 then []
    else if !c.dstHost ∧ isLocal s c.dst then linesBySlice s (planePart c.dst) c.bytes
    else linesBySlice s (planePart c.src) c.bytes
  else (c.destRange s).flatMap fun o => linesBySlice s o.addr o.bytes

/-- The units that a command reserves in the eight slices. -/
def Cmd.reserve (s : State) (c : Cmd) : List Nat :=
  if c.annexField.1 ≠ 0 then (c.annex.map (·.stage)).getD []
  else if c.isPage then List.replicate 8 32
  else (List.range 8).map fun b => ceilDiv (((c.copyLines s).filter fun e => e.1 = b).map (·.2)).sum 1024

/-- The staging that a COPY computes exceeds a slice's pool or 64 MiB (R82). -/
def Cmd.copyOver (s : State) (c : Cmd) : Bool :=
  c.kind = 2 && c.annexField.1 = 0 && ((c.reserve s).any (fun n => decide (448 < n)) || decide (1024 < (c.reserve s).sum))

def setReserve (s : State) (k b : Nat) : Nat := ((members s k).map fun e => (e.2.reserve s).getD b 0).sum

def stageRoom (s : State) (k : Nat) : Bool :=
  (List.range 8).all fun b => decide (1024 * (stagedUnits s b + setReserve s k b) + givenLines s b ≤ 458752)

/-! ### Locks and private ranges (R88, R92) -/

/-- Ranges under REDUCE locks. -/
def Cmd.softRanges (c : Cmd) : List (Nat × Nat) :=
  c.reduceRanges ++ c.page.locks.filterMap fun p => if p.2 then some (4096 * p.1, 4096) else none

/-- Commands outside the set that satisfy `p`. -/
def othersWith (p : Cmd → Bool) (s : State) (k : Nat) : List Cmd :=
  (s.disp.slots.filter fun e => p e.2 && !(jointSet s k).contains e.1).map (·.2)

/-- Commands outside the set that hold what their grant gave them. -/
def others (s : State) (k : Nat) : List Cmd := othersWith Cmd.active s k

/-- No overlap with the ranges of a command that runs or commits, until its completion record is handed over (R87, R88). -/
def rangesFree (s : State) (k : Nat) : Bool :=
  (members s k).all fun e => (othersWith Cmd.occupies s k).all fun o =>
    !anyOverlap e.2.writeRanges (o.lockRanges ++ o.softRanges) && !anyOverlap e.2.reduceRanges o.lockRanges

def lockEntries (cs : List Cmd) : Nat := (cs.map fun c => c.lockRanges.length + c.softRanges.length).sum

def locksFree (s : State) (k : Nat) : Bool :=
  decide (lockEntries (others s k) + lockEntries ((members s k).map (·.2)) ≤ 16384)

def privRange (c : Cmd) : Nat × Nat := (c.annex.map fun a => (a.privFirst, a.privCount)).getD (0, 0)

def Cmd.isRunning (c : Cmd) : Bool := c.phase = .running

/-- No overlap with the private range of a running command (R88). -/
def privFree (s : State) (k : Nat) : Bool :=
  (members s k).all fun e => (othersWith Cmd.isRunning s k).all fun o =>
    !overlap (privRange e.2).1 (privRange e.2).2 (privRange o).1 (privRange o).2

/-! ### Conditions of single kinds -/

/-- The descriptor of a COLLECTIVE as committed, in the layout of VERSION 0x02 (R359, R369). -/
def collDesc (s : State) (c : Cmd) : BitVec 512 := asV2 (BitVec.ofNat 512 (planeNat s (fld c.record 416 48) 64))

/-- MODE (R115, R117), STORE (R463), page commands (R284) and collectives (R356, R358, R359) wait for others of their kind. -/
def kindFree (s : State) (k : Nat) (m : Nat) (c : Cmd) : Bool :=
  let os := others s k
  if c.kind = 7 then
    (!c.isMode || (!os.any Cmd.isMode && (!splitChange s m c || s.disp.slots.all fun e => (jointSet s k).contains e.1))) &&
    (c.setOp != 2 || !os.any fun o => o.kind = 7) && !os.any fun o => o.kind = 7 && o.setOp = 2
  else if c.isPage then
    match pageSession s c with
    | none => true
    | some n => !(othersWith Cmd.occupies s k).any fun o => o.isPage && pageSession s o = some n
  else if c.kind = 3 then
    (match groupOf s c.group with
      | none => true
      | some x => x.next.toNat = c.gseq) &&
    !(s.fab.insts.any fun i => i.group = c.group) && (lockIn s (jointSet s k) (fld c.record 416 48) 64).isNone &&
    (lockIn s (jointSet s k) (bundleList (collDesc s c)).1 (bundleList (collDesc s c)).2).isNone &&
    decide (s.fab.insts.length + ((members s k).filter fun e => e.2.kind = 3).length ≤ 256)
  else true

/-- All but the cores of the set is to be had. -/
def restFree (s : State) (k : Nat) : Bool :=
  !s.flt.faulted && (members s k).all (fun e => e.2.kill.isNone && e.2.units.isEmpty && !e.2.retrying && kindFree s k e.1 e.2) &&
    stageRoom s k && rangesFree s k && locksFree s k && privFree s k

def grantable (s : State) (k : Nat) : Bool := restFree s k && (pickCores s k).isSome

/-! ### Commands that end at dispatch -/

/-- STAGE of the annexes of a set, up to and with member m: a set counts as one command (R89, R91). -/
def stageSum (s : State) (m : Nat) (c : Cmd) : Nat :=
  ((members s m).map fun e => if e.2.order ≤ c.order ∧ e.2.annexField.1 ≠ 0 then (e.2.reserve s).sum else 0).sum

/-- What ends a member that can never be granted: a fenced core (R88, R415), a STAGE sum above 1,024 units (R91), a COPY too large (R82), a
collective whose turn is past or that has been abandoned (R356, R373). -/
def headFail (s : State) (m : Nat) (c : Cmd) : Option State :=
  match c.named.find? (coreFenced s) with
  | some core => some (failFenced s m 1 core)
  | none =>
    if c.annexField.1 ≠ 0 ∧ 1024 < stageSum s m c then some (failDisp s m 0x34 c.annexField.1 512)
    else if c.copyOver s then
      some (failWith s m { code := eShapeOver, unitCls := 7, unit := 0, slot := some m, object := c.dst, detail := c.bytes })
    else if c.kind = 3 then
      match groupOf s c.group with
      | none => some (failCmd (groupRec s m eGroupMismatch 0x83 c.gseq c.group (chipNo s) 0) m)
      | some x =>
        if gseqPast x (BitVec.ofNat 32 c.gseq) then some (failCmd (groupRec s m eGroupMismatch 0x81 c.gseq c.group (chipNo s) 0) m)
        else if x.next.toNat = c.gseq then
          (s.fab.marks.find? fun t => t.1 = c.group && t.2.1.toNat = c.gseq).map fun t =>
            nextSeq' (failCmd (groupRec s m eGroupMismatch 0x82 c.gseq c.group t.2.2 0) m) c.group (BitVec.ofNat 32 c.gseq)
        else none
    else none

/-- The host virtual address of a COPY end that its key does not allow (R389). -/
def hostBad (s : State) (c : Cmd) : Option Nat :=
  if c.kind ≠ 2 then none
  else if c.srcHost ∧ !hkeyOk s c.key c.src c.bytes true false then some c.src
  else if c.dstHost ∧ !hkeyOk s c.key c.dst c.bytes false true then some c.dst
  else none

/-- What a collective's descriptor, and a bundle's list, give at grant (R361, R368, R374, R407, R415). -/
def collFail (s : State) (m : Nat) (c : Cmd) : Option State :=
  let at' := fld c.record 416 48
  let list := bundleList (collDesc s c)
  match poisonIn s at' 64, groupOf s c.group with
  | some l, _ => some (failPoison s m l none 0)
  | none, none => none
  | none, some x =>
    match fencedIn s list.1 list.2, poisonIn s list.1 list.2 with
    | some l, _ => some (failFenced s m 4 (channelOf s l))
    | none, some l => some (failPoison s m l none 0)
    | none, none => (collBad s m (BitVec.ofNat 512 (planeNat s at' 64)) x.entry).map fun b => failDisp s m 0x8F at' b

/-- A FLIP selector that the queue's CSETS do not reach (R64). -/
def flipBars (s : State) (c : Cmd) : Option Nat := c.flips.find? fun a => (queueBars s c.queue a 8).isSome

/-- What ends a member that is chosen: a host key (R389), a DEBUG command's checks (R498), a collective's descriptor (R361, R374), a destination
in the KV frame table (R277), a FLIP selector out of reach, which reports 0x35 with the selector (R64; DESIGN CHOICE, log 53). `core` is the one that it
would have. -/
def grantFail (s : State) (m core : Nat) (c : Cmd) : Option State :=
  match hostBad s c with
  | some va => some (failWith s m (farRec core m 0 7 va 0))
  | none =>
    if (c.destRange s).any fun o => inFrameTable s o.addr o.bytes then
      some (failDisp s m 0x33 (((c.destRange s).head?.map (·.addr)).getD 0) (if c.kind = 2 then 320 else if c.kind = 9 then 416 else 256))
    else if c.kind = 9 then (viewBad s c).map fun r => failDisp s m r.1 r.2.1 r.2.2
    else if let some a := flipBars s c then some (failDisp s m 0x35 a 0)
    else if c.kind = 3 then collFail s m c
    else none

/-! ### The choice (R109) -/

/-- SHARES of a queue, as its oldest ready command was admitted with (R76). -/
def shares (s : State) (q : Nat) : Nat :=
  match minBy? (fun e : Nat × Cmd => (e.2.order : Int)) ((readySets s).filter fun e => e.2.queue = q) with
  | some e => fld e.2.qcfg 48 16
  | none => cfg s (mQcfg q) 48 16

/-- The least k that lifts a queue's deficit above 0. -/
def liftBy (s : State) (q : Nat) : Nat :=
  let d := (queueOf s q).deficit
  if 0 < d then 0 else (-d).toNat / (shares s q * 4096) + 1

/-- Lift the deficits of the queues that hold a ready command, where no queue of `es` is above 0. -/
def liftDeficits (s : State) (es : List Nat) : State :=
  match minBy? (fun n : Nat => (n : Int)) (es.map (liftBy s)) with
  | none => s
  | some n => if n = 0 then s else
    (readyQueues s).foldl (fun s q => updQueue s q fun u => { u with deficit := clampDeficit (u.deficit + n * shares s q * 4096) }) s

/-- The queue of `es` with the largest deficit, ties to the lowest number. -/
def richest (s : State) (es : List Nat) : Option Nat := minBy? (fun q => -(queueOf s q).deficit) es

/-! ### What a granted command holds -/

/-- One member of a set begins its run (R80, R85, R88, R94, R106); with a MODE command a drain begins, which has killed nothing yet (R115). Its masks are QPART's at this grant, on a re-run too, which the rules leave open
(R65; DESIGN CHOICE, log 48). -/
def startMember (based : Bool) (s : State) (p : Nat × List Nat) : State :=
  let m := p.1
  match cmdOf s m with
  | none => s
  | some c =>
    let s := if c.runs = 0 ∧ c.rtc ∧ c.rtcMax = 0 then reportClamp s (.grant m) 0x06 0 9 1 1 0 else s
    let s := updCmd s m fun c => { c with
      phase := .running, runs := c.runs + 1, grantNo := s.disp.grants, cores := p.2, based := based, stage := c.reserve s, promised := [], redo := false,
      epochAt := s.disp.epoch, modeAt := BitVec.ofNat 8 (cfg s mArith 0 8),
      csets := BitVec.ofNat 48 (cfg s (mQpart c.queue) 0 48), ways := BitVec.ofNat 16 (cfg s (mQpart c.queue) 48 16) }
    let s := if c.isMode then { s with disp := { s.disp with slots := s.disp.slots.map fun e => (e.1, { e.2 with redo := false }) } } else s
    let s := p.2.zipIdx.foldl (fun s x => updCore s x.1 fun k => { k with slot := some m, rank := x.2, based := false }) s
    let scheds := ((c.annex.map (·.scheds)).getD []).map fun r =>
      ({ slice := r.slice, slot := m, w := r.w, count := r.count, first := r.first, next := 0, flying := [], urgent := [] } : Sched)
    let s := { s with mem := { s.mem with scheds := s.mem.scheds ++ scheds } }
    if c.kind = 3 then openInst s m c
    else if c.kind = 7 ∧ c.setOp = 2 ∧ c.setAddr = 0 then { s with mram := { s.mram with readImage := some (captureImage s) } }
    else s

/-- The set in slot k runs. A set without cores is charged 4,096 engine cycles at grant (R108). -/
def startSet (s : State) (k : Nat) (ps : List (Nat × List Nat)) : State :=
  let based := !(members s k).any fun e => e.2.kind = 1
  let s := ps.foldl (startMember based) s
  let s := { s with disp := { s.disp with grants := s.disp.grants + 1 } }
  if ps.all fun p => p.2.isEmpty then chargeCmd s k 4096 else s

/-! ### Pre-emption (R111, R372, R496) -/

/-- The commands of a set hold cores that a kill is about to free. -/
def beingFreed (s : State) (c : Nat) : Bool :=
  match (coreOf s c).slot with
  | none => false
  | some m => ((cmdOf s m).map fun x => x.kill.isSome).getD false

/-- The set of slot v may be pre-empted for queue a. MIN_RUN is a time: whether it has passed is a free value (log 8). -/
def victimOk (s : State) (a v : Nat) : Bool :=
  match cmdOf s v with
  | none => false
  | some c =>
    c.phase = .running && c.kill.isNone && !c.decided && !c.failSent && !rtcProtected s v && !setHasCollective s v &&
    ((members s v).all fun e => e.2.cores.all fun x => (coreOf s x).dbg.state.toNat < 2) &&
    (cfg s mSched 48 16 = 0 || Config.freeBool (s.fresh + v)) &&
    decide ((cfg s mSched 32 16 * 2 ^ 20 : Int) ≤ (queueOf s a).deficit - (queueOf s c.queue).deficit)

/-- Running sets in the order of R111: the lowest deficit, then the most recently granted. -/
def victims (s : State) (a : Nat) : List Nat :=
  let vs := s.disp.slots.filter fun e => e.2.order = e.2.lead && victimOk s a e.1
  let byGrant := vs.foldl (fun l e => insertNew e l) []
  (byGrant.foldl (fun l e => insertLow e l) []).map (·.1)
where
  insertNew (e : Nat × Cmd) : List (Nat × Cmd) → List (Nat × Cmd)
    | [] => [e]
    | f :: t => if f.2.grantNo < e.2.grantNo then e :: f :: t else f :: insertNew e t
  insertLow (e : Nat × Cmd) : List (Nat × Cmd) → List (Nat × Cmd)
    | [] => [e]
    | f :: t =>
      if (queueOf s e.2.queue).deficit < (queueOf s f.2.queue).deficit then e :: f :: t else f :: insertLow e t

def setCores (s : State) (k : Nat) : List Nat := (members s k).flatMap fun e => e.2.cores

/-- The victims whose kill lets the set of slot k have its cores; none where nothing can or need be killed, as for a set that names a core twice. -/
def chooseVictims (s : State) (a k : Nat) : List Nat :=
  let busy := (setNamed s k).filter fun c => !coreFree s k c
  if (setNamed s k).eraseDups.length ≠ (setNamed s k).length then []
  else if !busy.isEmpty then
    if busy.all (beingFreed s) then []
    else
      let r := (victims s a).foldl (fun (r : List Nat × List Nat) v =>
        if r.1.any fun c => (setCores s v).contains c then (r.1.filter fun c => !(setCores s v).contains c, r.2 ++ [v]) else r)
        (busy.filter fun c => !beingFreed s c, [])
      if r.1.isEmpty then r.2 else []
  else if !((members s k).any fun e => e.2.wantsAny) ∨ (List.range coreCount).any fun c => beingFreed s c && !coreFenced s c then []
  else (((victims s a).find? fun v => (setCores s v).any fun c => !coreFenced s c).map fun v => [v]).getD []

/-- The cores that the kill of the victims frees for the set of slot k: those that it names, or the lowest unfenced one (R111). -/
def promisedCores (s : State) (k : Nat) (vs : List Nat) : List Nat :=
  let freed := vs.flatMap (setCores s)
  let named := (setNamed s k).filter freed.contains
  if named.isEmpty then (minBy? (fun c : Nat => (c : Int)) (freed.filter fun c => !coreFenced s c)).toList else named

/-- Kill the victims of the richest queue whose head waits only for cores. That the queue with the largest deficit goes first, and that this is
looked at only where no head can be granted, the rules leave open (R111; DESIGN CHOICE, log 48). -/
def preempt (s : State) (qs : List Nat) : State :=
  if !cfgBit s mSched 0 then s
  else
    let rs := qs.filter fun q => decide (0 < (queueOf s q).deficit) && match headOf s q with
      | none => false
      | some k => restFree s k && !(chooseVictims s q k).isEmpty
    match richest s rs with
    | none => s
    | some q => match headOf s q with
      | none => s
      | some k =>
        let vs := chooseVictims s q k
        let t := updCmd { s with fresh := s.fresh + slotCount } k fun c => { c with promised := promisedCores s k vs }
        vs.foldl (fun s v => startKill .rerun s v) t

/-! ### GRANT -/

def grantSet (s : State) (k : Nat) : State :=
  match pickCores s k with
  | none => s
  | some ps =>
    match (members s k).findSome? fun e => grantFail s e.1 (((ps.find? fun p => p.1 = e.1).map fun p => p.2.headD 0).getD 0) e.2 with
    | some t => t
    | none => startSet s k ps

/-- GRANT (R88, R109): a command that cannot run ends; otherwise the queue chosen has its oldest ready set granted; where none can be,
running commands may be pre-empted. -/
def execGrant (s : State) : Host.Outcome State Fault Refusal :=
  let qs := readyQueues s
  let heads := qs.filterMap (headOf s)
  match heads.findSome? fun k => (members s k).findSome? fun e => headFail s e.1 e.2 with
  | some t => .next t
  | none =>
    let es := qs.filter fun q => ((headOf s q).map (grantable s)).getD false
    if es.isEmpty then .next (preempt s qs)
    else
      let s := liftDeficits s es
      match (richest s es).bind (headOf s) with
      | none => .next s
      | some k => .next (grantSet s k)

end Sys2Proof.Machine
end

