-- ==== Sys2Proof/Machine/Recur.lean ====
section
/-!
DEFINITION. VSCAN, the chunked linear recurrence (R261 to R265).
-/
namespace Sys2Proof.Machine

/-! ### Pairs (R261) -/

/-- A pair of FP32 patterns. -/
structure Pair where
  hi : Nat
  lo : Nat
  deriving DecidableEq, Repr

/-- Where hi is infinite or NaN, lo is +0. -/
def mkPair (hi lo : Nat) : Pair := { hi := hi, lo := if hi / 2 ^ 23 % 256 = 255 then 0 else lo }

/-- Pair steps round to FP32 nearest even and never flush. -/
def pa (a b : Nat) : Nat := add32 1 a b
def ps (a b : Nat) : Nat := sub32 1 a b
def pm (a b : Nat) : Nat := mul32 1 a b

def twoSum (x y : Nat) : Pair :=
  let s := pa x y
  let z := ps s x
  mkPair s (pa (ps x (ps s z)) (ps y z))

def fastTwoSum (x y : Nat) : Pair :=
  let s := pa x y
  mkPair s (ps y (ps s x))

def twoProd (x y : Nat) : Pair :=
  let p := pm x y
  mkPair p (fma32 1 x y (neg32 p))

def padd (a b : Pair) : Pair :=
  let s := twoSum a.hi b.hi
  fastTwoSum s.hi (pa s.lo (pa a.lo b.lo))

def pmul (a b : Pair) : Pair :=
  let p := twoProd a.hi b.hi
  fastTwoSum p.hi (pa p.lo (pa (pm a.hi b.lo) (pm a.lo b.hi)))

def pneg (a : Pair) : Pair := { hi := neg32 a.hi, lo := neg32 a.lo }

/-- A state: a real pair, and an imaginary one in complex sections. -/
abbrev Sect := Pair × Option Pair

def sadd (a b : Sect) : Sect :=
  (padd a.1 b.1, match a.2, b.2 with
    | some x, some y => some (padd x y)
    | _, _ => none)

def smul (a h : Sect) : Sect :=
  match a.2, h.2 with
  | some ai, some hi => (padd (pmul a.1 h.1) (pneg (pmul ai hi)), some (padd (pmul a.1 hi) (pmul ai h.1)))
  | _, _ => (pmul a.1 h.1, none)

/-! ### Leaves and blocks (R263, R264) -/

structure Leaf where
  f : Bool
  a : Sect
  b : Sect
  deriving DecidableEq, Repr

def recurLeaf (mark : Bool) (a b h0 : Sect) : Leaf := { f := mark, a := a, b := if mark then sadd (smul a h0) b else b }

def combine (p q : Leaf) : Leaf := if q.f then q else { f := p.f, a := smul q.a p.a, b := sadd (smul q.a p.b) q.b }

def applyLeaf (p : Leaf) (h : Sect) : Sect := if p.f then p.b else sadd (smul p.a h) p.b

/-- Phase 1: the prefixes of a block. -/
def prefixesFrom (p : Leaf) : List Leaf → List Leaf
  | [] => []
  | q :: t =>
    let r := combine p q
    r :: prefixesFrom r t

def blockPrefixes : List Leaf → List Leaf
  | [] => []
  | p :: t => p :: prefixesFrom p t

/-- Phases 2 and 3: the states of every step and the carry-out. -/
def scanBlocks (c : Sect) : List (List Leaf) → List Sect × Sect
  | [] => ([], c)
  | b :: t =>
    let ps := blockPrefixes b
    let c' := match ps.getLast? with
      | some p => applyLeaf p c
      | none => c
    let r := scanBlocks c' t
    (ps.map (fun p => applyLeaf p c) ++ r.1, r.2)

/-- scan_chunk of R264 for one channel and batch element; blocks of 64 steps. -/
def scanChunk (carry : Sect) (leaves : List Leaf) : List Sect × Sect := scanBlocks carry (chunksOf 64 65 leaves)

/-! ### The instruction (R262) -/

def scanCplx (i : EInstr) : Bool := bit i.raw 5
def scanMask (i : EInstr) : Bool := bit i.raw 6

/-- An input element as a pair (v, +0); subnormal inputs follow DENORM (R247). -/
def Job.plainPair (j : Job) (o : Opnd) (i0 : Nat) (r : List Nat) : Pair := mkPair (j.elem32 o i0 r) 0

/-- A stored pair, as it is. -/
def Job.pairAt (j : Job) (o : Opnd) (n : Nat) (r : List Nat) : Pair :=
  { hi := j.pattern o (2 * n) r, lo := j.pattern o (2 * n + 1) r }

/-- Channel ch as `g` reads its elements. -/
def sect (cplx : Bool) (g : Nat → Pair) (ch : Nat) : Sect := if cplx then (g (2 * ch), some (g (2 * ch + 1))) else (g ch, none)

/-- The chunk of a channel in batch element b. -/
def scanChannel (j : Job) (b ch : Nat) : List Sect × Sect :=
  let cx := scanCplx j.i
  let ds := getOp j.ops .x
  let at' := fun (o : Opnd) (t : Nat) => sect cx (fun n => j.plainPair o n [t, b, 0, 0]) ch
  let h0 := sect cx (fun n => j.pairAt ds n [1, b, 0, 0]) ch
  let mark := fun t => scanMask j.i && j.pattern (getOp j.ops .z) t [b, 0, 0, 0] != 0
  scanChunk (sect cx (fun n => j.pairAt ds n [0, b, 0, 0]) ch)
    ((List.range ((getOp j.ops .dc).e 1)).map fun t => recurLeaf (mark t) (at' (j.op .da) t) (at' (j.op .db) t) h0)

/-- The part of a state that element n of a row holds. -/
def sectElem (cx : Bool) (n : Nat) (z : Sect) : Pair := if cx ∧ n % 2 = 1 then z.2.getD z.1 else z.1

/-- A written operand shares bytes with another (R262). -/
def sharesBytes (j : Job) (o : Opnd) : Bool :=
  j.ops.any fun p => p.part != o.part && p.loc = o.loc && anyOverlap o.spans p.spans

def vscanForm : Form :=
  { alts := [0, 1, 2], redOk := true,
    ext := fun i => vecExt [(0, 5)] i ++ [if scanMask i then none else spanBit i 7 5], unused := vecUnused,
    parts := fun i => threeParts i ++ [(.x, 7, i.ext 17 5), (.y, 7, i.ext 12 5)] ++
      (if scanMask i then [(.z, 7, i.ext 7 5)] else []),
    need := fun i _ o => match mapPart i o.part with
      | .dc => (dstNeed i o).or (oneOf (o.fmt = 0x07 || o.fmt = 0x09) o)
      | .x => mustBe 0x09 o
      | .y => mustBe 0x09 o
      | .z => mustBe 0x04 o
      | _ => oneOf (o.fmt = 0x07 || o.fmt = 0x09) o,
    tmap := fun _ p k => match p, k with
      | .x, 0 => some (0, (2 * ·))
      | .x, 2 => same 2
      | .y, 0 => some (0, (2 * ·))
      | .y, 2 => same 2
      | .z, 0 => same 1
      | .z, 1 => same 2
      | .x, _ => none
      | .y, _ => none
      | .z, _ => none
      | .dalt, _ => none
      | _, 0 => same 0
      | _, 1 => same 1
      | _, 2 => same 2
      | _, _ => none,
    agree := fun j =>
      let a := getOp j.ops .da
      let b := getOp j.ops .db
      let c := getOp j.ops .dc
      let x := getOp j.ops .x
      let y := getOp j.ops .y
      let z := getOp j.ops .z
      let like := fun (o : Opnd) (e : List Nat) => e.zipIdx.map fun v => mustAgree o v.2 (o.e v.2 = v.1)
      let w := a.e 0
      [mustAgree a 0 (!scanCplx j.i || w % 2 = 0), mustAgree a 1 (1 ≤ a.e 1 && decide (a.e 1 ≤ 4096))] ++ like a [w, a.e 1, a.e 2, 1, 1] ++
        like b [w, a.e 1, a.e 2, 1, 1] ++ like c [w, a.e 1, a.e 2, 1, 1] ++ [mustAgree c 0 (!sharesBytes j c)] ++ altAgree j ++
        like x [2 * w, 2, a.e 2, 1, 1] ++ like y [2 * w, 1, a.e 2, 1, 1] ++ [mustAgree y 0 (!sharesBytes j y)] ++
        (if scanMask j.i then like z [a.e 1, a.e 2, 1, 1, 1] else []),
    zero := vecZero, locs := vecLocs, outs := [.dc, .y],
    ins := readsOf [.da, .db, .x, .z], writes := writesOf [.dc, .y],
    run := fun j s =>
      let cx := scanCplx j.i
      let c := getOp j.ops .dc
      let y := getOp j.ops .y
      let ch := fun n => if cx then n / 2 else n
      let res := (List.range (c.e 2)).map fun b => (List.range (ch (c.e 0 + if cx then 1 else 0))).map (scanChannel j b)
      let get := fun b n => ((res.getD b []).getD (ch n) ([], ((mkPair 0 0), none)))
      let zero : Sect := (mkPair 0 0, none)
      let carry := fun (i0 : Nat) (r : List Nat) =>
        let p := sectElem cx (i0 / 2) (get (r.getD 1 0) (i0 / 2)).2
        if i0 % 2 = 0 then p.hi else p.lo
      let s := putPieces j y.loc (j.pieces y carry) s
      putElems j c (fun i0 r =>
        let p := sectElem cx i0 (((get (r.getD 1 0) i0).1).getD (r.getD 0 0) zero)
        j.out c i0 r (exactly (fp32.value p.hi))) s }

/-- VSCAN (R262 to R266). -/
def execVscan (c : CoreId) (s : State) : Host.Outcome State Fault Refusal := .next (engineRow s c.toNat 2 0x19 vscanForm)

end Sys2Proof.Machine
end

