-- ==== Sys2Proof/Machine/Release.lean ====
section
/-!
DEFINITION. What ends: the release round of a commit (R93 to R96, R502), kills (R104, R105, R195), snapshots (R485), tests (R411, R413) and
commands with their completion records (R119, R120, R394).
-/
namespace Sys2Proof.Machine

/-! ### The release round (R95) -/

/-- RELEASE: slice b frees the lock entries of the commit under way, and what was held there goes on. -/
def execRelease (b : SliceId) (s : State) : Host.Outcome State Fault Refusal :=
  match s.disp.current with
  | none => .next s
  | some m =>
    if m.round ≠ .releasing ∨ !m.todo.contains b.toNat then .next s
    else .next (serveAll (setCommit s (some { m with todo := m.todo.filter (· != b.toNat) })))

/-- The external sums of a set, by counter (R94). -/
def setSums (s : State) (slots : List Nat) : Map Nat :=
  slots.foldl (fun m k => (((cmdOf s k).map (·.sums)).getD []).foldl (fun m e => sumAdd m e.1 e.2) m) []

/-- A write message for a peer leaves, in release order (R346, R352). -/
def sendPeerWrite (s : State) (k : Nat) (e : Egress) : State :=
  let m := mkMsg s e.dest 0x05 (ceilDiv e.data.length 64) [(0, e.addr), (192, e.sinc), (176, e.sctr)] e.data
  offerWrite (countQueue s k 3 e.data.length) { dst := e.dest, msg := m, resends := 0, slot := k }

/-- A write message for the host leaves, or is abandoned where its queue pair is not READY (R389, R390, R397). -/
def sendHostWrite (s : State) (k : Nat) (e : Egress) : State :=
  let n := hkeyQp s e.dest
  if qpState s n ≠ 1 then ethRec s eLinkDown 0xA3 (qpPort s n) (some k) n
  else sendWrite (countQueue s k 5 e.data.length) n (some k) (hkeyRkey s e.dest) e.addr e.data

/-- The staged egress of a command leaves, in order (R93). -/
def sendEgress (s : State) (k : Nat) : State :=
  (((cmdOf s k).map (·.egress)).getD []).foldl (fun s e => if e.host then sendHostWrite s k e else sendPeerWrite s k e) s

/-- A command's done signal (R77, R95). -/
def doneSignal (s : State) (k : Nat) : State :=
  match cmdOf s k with
  | none => s
  | some c => if c.doneInc = 0 then s else ctrAdd s c.doneCtr c.doneInc

/-- Distributor instances that commands own are emptied (R305). -/
def dropDists (s : State) (slots : List Nat) : State :=
  { s with mem := { s.mem with dists := s.mem.dists.filter fun e => !(slots.any fun k => e.2.owner = some k) } }

/-- What a run held is handed back: its charge is closed (R108), its walks and its cores go (R104). -/
def closeRun (s : State) (k : Nat) : State :=
  let cores := ((cmdOf s k).map (·.cores)).getD []
  dropWalks (updCores (chargeRest s k) cores fun _ => idleCore) k

/-- A member of a committed set hands back what it held. -/
def closeMember (s : State) (k : Nat) : State := instEnd (countQueue (closeRun s k) k 8 1) k false

def noChange (s : State) (slots : List Nat) : State :=
  { s with disp := { s.disp with change := s.disp.change.filter fun m => !slots.contains m.slot } }

/-- The commit ends: sums, done signals, egress, and what its commands held (R94, R95, R96). -/
def commitEnd (s : State) (m : Commit) : State :=
  let s := (setSums s m.slots).foldl (fun s e => ctrAdd s e.1 e.2) s
  let s := m.slots.foldl doneSignal s
  let s := m.slots.foldl sendEgress s
  let s := m.slots.foldl closeMember s
  let s := noChange (dropDists s m.slots) m.slots
  let s := endSet .committed s (m.slots.headD 0)
  serveAll (serveWaiting (setCommit s none))

/-- RELEASE_DONE (R95). -/
def execReleaseDone (s : State) : Host.Outcome State Fault Refusal :=
  match s.disp.current with
  | none => .next s
  | some m => if m.round ≠ .releasing ∨ !m.todo.isEmpty then .next s else .next (commitEnd s m)

/-! ### KILL_COMPLETE (R104, R105, R195) -/

/-- The internal signals of killed commands that have left their source are applied (R195). -/
def flushSignals (s : State) (ks : List Nat) : State :=
  let mine : Sig → Bool := fun g => ks.any fun k => g.slot = some k
  let sigs := s.sync.inflight.filter mine
  sigs.foldl (fun s g => ctrAdd s g.ctr g.inc)
    { s with sync := { s.sync with inflight := s.sync.inflight.filter fun g => !mine g } }

/-- A grant that the killed command holds is cancelled (R352). -/
def cancelGrants (s : State) (k : Nat) : State :=
  ((((cmdOf s k).map (·.egress)).getD []).filter fun e => !e.host && e.granted && !e.data.isEmpty).foldl
    (fun s e => sendMsg s (mkMsg s e.dest 0x07 (e.data.length / 64) [(0, e.addr)] [])) s

/-- A read request is no longer the command's. -/
def Packet.orphan (ks : List Nat) (p : Packet) : Packet :=
  if p.read && ks.any fun k => p.slot = some k then { p with slot := none } else p

/-- Units and requests no longer know the commands. -/
def forget (s : State) (ks : List Nat) : State :=
  let qps := s.eth.qps.map fun e => (e.1, { e.2 with kept := e.2.kept.map (Packet.orphan ks) })
  { s with
    flt := { s.flt with tests := s.flt.tests.map fun t => { t with slots := t.slots.filter fun k => !ks.contains k } },
    eth := { s.eth with qps := qps } }

/-- A STORE that is killed leaves the inactive slot without a valid image (R463, R464). -/
def dropStore (s : State) (ks : List Nat) : State :=
  if ks.any fun k => ((cmdOf s k).map fun c => decide (c.kind = 7 ∧ c.setOp = 2)).getD false then
    { s with mram := { s.mram with storing := none, readImage := none } }
  else s

/-- A member's run leaves nothing behind. -/
def undoMember (s : State) (k : Nat) : State :=
  match cmdOf s k with
  | none => s
  | some c => instEnd (countQueue (closeRun (pageUndo (cancelGrants s k) c) k) k 9 1) k true

/-- The member waits for its next grant (R106); `drain` says that a mode change drains (R115). -/
def rerunMember (drain retry : Bool) (c : Cmd) : Cmd :=
  { dropRun c with phase := .ready, kill := none, retrying := retry, redo := drain, fallback := false, summary := false }

/-- What follows the kill. -/
def afterKill (s : State) (k : Nat) (ks : List Nat) (w : AfterKill) : State :=
  match w with
  | .rerun => afterTests (updCmds s ks fun _ => rerunMember (draining s) false) k
  | .retry => afterTests (updCmds s ks fun _ => rerunMember (draining s) true) k
  | .abort => endSet .aborted s k
  | .fail => endSet .failed s k

def killEnd (s : State) (k : Nat) (w : AfterKill) : State :=
  let ks := jointSet s k
  let s := flushSignals (cancelMode s ks) ks
  let s := forget (dropStore (dropDists (ks.foldl undoMember s) ks) ks) ks
  serveAll (afterKill s k ks w)

/-- KILL_COMPLETE. A fail message is taken before the kill it starts has ended (R113). -/
def execKillComplete (k : SlotId) (s : State) : Host.Outcome State Fault Refusal :=
  match cmdOf s k.toNat with
  | none => .next s
  | some c =>
    match c.kill with
    | none => .next s
    | some w => if c.phase ≠ .running ∨ (w = .fail ∧ !c.failed) then .next s else .next (killEnd s k.toNat w)

/-! ### SNAPSHOT_RELEASE (R395, R485) -/

/-- SNAPSHOT_RELEASE: FREEZE falls, the reads that waited are answered, and the sequencer goes on. -/
def execSnapshotRelease (s : State) : Host.Outcome State Fault Refusal :=
  if s.dbg.snap = .latched then .next (serveWaiting (answerAsks { s with dbg := { s.dbg with snap := .idle } })) else .next s

/-! ### TEST_END (R409, R411, R412, R413) -/

/-- A link after its test: one that was fenced leaves its traffic to the others, one that is back sends again (R409, R415). -/
def linkTested (s : State) (t : UnitTest) : State := if t.cls = 5 then pump (leaveFenced s t.unit) t.unit else s

/-- TEST_END: what waited for the unit goes on. A core whose command is protected is tested after that command has ended. -/
def execTestEnd (cls : BitVec 4) (unit : BitVec 48) (pass : Bool) (s : State) : Host.Outcome State Fault Refusal :=
  match s.flt.tests.find? fun t => t.cls = cls.toNat && t.unit = unit.toNat with
  | none => .next s
  | some t =>
    if t.cls = 1 ∧ (cmdOnCore s t.unit).isSome then .next s
    else .next (serveAll (serveWaiting (linkTested (endTest s t pass) t)))

/-! ### COMPLETION_RECORD (R119, R120, R390, R394) -/

/-- Egress of the command is not acknowledged yet (R96). -/
def egressOut (s : State) (k : Nat) : Bool :=
  ((s.fab.unacked ++ s.fab.queued).any fun u => u.slot = k) || s.eth.qps.any fun e => e.2.kept.any fun p => !p.read && p.slot = some k

/-- The record goes to the host's ring by RDMA WRITE, as the command's QCOMP has it (R76, R120); QCOMP_VA is the register's. Where the queue pair is
not READY no rule says what becomes of it: it is dropped, and no error record is written (DESIGN CHOICE, logs 29 and 48). -/
def ringRecord (s : State) (c : Cmd) (r : BitVec 256) : State :=
  let n := fld c.qcomp 22 10
  let size := 2 ^ (fld c.qcomp 18 4 + 6)
  if qpState s n ≠ 1 then s
  else sendWrite s n none (BitVec.ofNat 32 (fld c.qcomp 32 32))
    (cfg s (mQcompVa c.queue) 0 64 + 32 * ((queueOf s c.queue).records % size)) (natLE 32 r.toNat)

/-- CQ_FCT and ETH_PORT of a command's queue at its admission (R76). -/
def Cmd.cqFct (c : Cmd) : Bool := bit c.qcfg 17
def Cmd.cqPort (c : Cmd) : Nat := fld c.qcfg 16 1

/-- The record goes in a COMPLETION datagram of its own (R394; log 29). -/
def fctRecord (s : State) (c : Cmd) (r : BitVec 256) : State :=
  let q := c.queue
  let e := c.cqPort
  let h := fctHdr (queueOf s q).ctseq (chipNo s) q 1 0 3
  let s := sendFct s e (cqDest s e) h (natLE 32 r.toNat)
  let s := updQueue s q fun u => { u with ctseq := u.ctseq + 1 }
  { s with eth := { s.eth with comps := s.eth.comps ++ [{ port := e, queue := q, hdr := h, body := natLE 32 r.toNat }] } }

/-- The slot is free. A fill still under way belongs to no command, and a queue without commands has no deficit (R109). -/
def closeSlot (s : State) (k q : Nat) : State :=
  let s := freeSlot (forget s [k]) k
  let s := { s with mem := { s.mem with fills := mapIf (fun f => f.slot = some k) (fun f => { f with slot := none }) s.mem.fills } }
  if admittedOf s q = 0 then updQueue s q fun u => { u with deficit := 0 } else s

/-- A core whose RESUME waited for the DEBUG command goes on (R496). -/
def letGo (s : State) (c : Cmd) : State :=
  if c.kind = 9 ∧ (coreOf s c.viewCore).dbg.resumeWait ∧ !debugNames s c.viewCore then
    resumeCore (updCore s c.viewCore fun k => { k with dbg := { k.dbg with resumeWait := false } }) c.viewCore false
  else s

/-- The command ends: its record is written and its slot is free (R87). -/
def completeCmd (s : State) (k : Nat) (c : Cmd) : State :=
  let r := completionBits s k c (queueOf s c.queue).records
  let s := if c.cqFct then fctRecord s c r else ringRecord s c r
  let s := updQueue s c.queue fun u => { u with records := u.records + 1 }
  letGo (closeSlot s k c.queue) c

/-- A command of the queue that ended earlier has not had its record (R120). -/
def endedBefore (s : State) (c : Cmd) : Bool :=
  s.disp.slots.any fun e => e.2.queue = c.queue && e.2.phase = .closing && match e.2.endNo, c.endNo with
    | some a, some b => decide (a < b)
    | _, _ => false

/-- COMPLETION_RECORD: a command that has ended waits for its egress, for the records of those of its queue that ended earlier, and for room among
the datagrams of its port. -/
def execCompletionRecord (k : SlotId) (s : State) : Host.Outcome State Fault Refusal :=
  match cmdOf s k.toNat with
  | none => .next s
  | some c =>
    if c.phase ≠ .closing ∨ egressOut s k.toNat ∨ endedBefore s c then .next s
    else if c.cqFct ∧ 64 ≤ (s.eth.comps.filter fun x => x.port = c.cqPort).length then .next s
    else .next (completeCmd s k.toNat c)

end Sys2Proof.Machine
end

