-- ==== Sys2Proof/Machine/SelfTest.lean ====
section
/-!
DEFINITION. The SELFTEST commands (R412, R413, R415).
-/
namespace Sys2Proof.Machine

def Cmd.testOp (c : Cmd) : Nat := fld c.record 248 8
def Cmd.testCls (c : Cmd) : Nat := fld c.record 240 8
def Cmd.testUnit (c : Cmd) : Nat := fld c.record 224 16

/-- TEST: a fenced unit fails the command; another is tested (R412). -/
def execTest (k : SlotId) (s : State) : Host.Outcome State Fault Refusal :=
  match atWork s k.toNat 0x08 with
  | none => .next s
  | some c =>
    if c.testOp ≠ 1 then .next s
    else if isFenced s c.testCls c.testUnit then .next (failFenced s k.toNat c.testCls c.testUnit)
    else .next (requestTest (begun s k.toNat) c.testCls c.testUnit [k.toNat] false)

/-- A command that runs on a core just fenced fails, unless it is decided (R415). -/
def failFencedRun (s : State) (m unit : Nat) : State :=
  match cmdOf s m with
  | none => s
  | some c => if c.decided ∨ c.phase ≠ .running then s else failFenced s m 1 unit

/-- FENCE: the unit is fenced without a test, and what a link holds goes over the other links of its port (R412, R415, R416). -/
def execFence (k : SlotId) (s : State) : Host.Outcome State Fault Refusal :=
  match atWork s k.toNat 0x08 with
  | none => .next s
  | some c =>
    if c.testOp ≠ 2 then .next s
    else
      let s := begun s k.toNat
      let s := if isFenced s c.testCls c.testUnit then s else fenceUnit s c.testCls c.testUnit 0xC1 c.seq
      let s := match c.testCls, cmdOnCore s c.testUnit with
        | 1, some m => failFencedRun s m c.testUnit
        | _, _ => s
      .next (finish (if c.testCls = 5 then leaveFenced s c.testUnit else s) k.toNat)

/-- UNFENCE: a fenced unit is tested and returned on a pass; a unit that is not fenced is tested (R412). -/
def execUnfence (k : SlotId) (s : State) : Host.Outcome State Fault Refusal :=
  match atWork s k.toNat 0x08 with
  | none => .next s
  | some c =>
    if c.testOp ≠ 3 then .next s
    else
      let s := begun s k.toNat
      if isFenced s c.testCls c.testUnit then .next (startTest s c.testCls c.testUnit 0xFFFFFFFF false [k.toNat] true)
      else .next (requestTest s c.testCls c.testUnit [k.toNat] false)

end Sys2Proof.Machine
end

