-- ==== Sys2Proof/Machine/Startup.lean ====
section
/-!
DEFINITION. Start-up stages 3 to 8 (R443 to R445), with the load of the settings (R458, R459). Stage 2 is in Security.lean.
-/
namespace Sys2Proof.Machine

/-- The part stands at the end of stage `n` and has not failed. -/
def atStage (s : State) (n : Nat) : Bool := s.mod.stage = BitVec.ofNat 4 n && s.mod.fail = 0#8

def setStageNo (s : State) (n : Nat) : State := { s with mod := { s.mod with stage := BitVec.ofNat 4 n } }

def failStage' (s : State) (code : Nat) : State := { s with mod := { s.mod with fail := BitVec.ofNat 8 code } }

/-- RAILS: stage 3 (R443, R445). -/
def execRails (ok : Bool) (s : State) : Host.Outcome State Fault Refusal :=
  if atStage s 2 then
    let s := setStageNo s 3
    .next (if ok then s else failStage' s 0x02)
  else .next s

/-- The error log starts with the records of the load (R443). -/
def startLog (s : State) : State :=
  liveSet { s with flt := { s.flt with log := ErrLog.reset } } mErrStat 0

/-- The load of the settings (R458, R459) and the extension of MREG4 (R473). -/
def loadSettings (s : State) : State :=
  let a := activeImage s.mram
  let s := startLog s
  let s := { s with mram := { s.mram with clamps := 0, report := [], locked := false, readImage := none, storing := none } }
  if a = 2 then
    let s := defaultWays (deriveWays (defaultSettings s))
    let s := reportClamp s .load 0x09 0 0 64 0 0
    let s := { s with mram := { s.mram with loaded := 2, loadSeq := 0, loadTag := regGet s mSetTag } }
    extend s 4 (List.replicate 32 0)
  else
    let i := imageOf s.mram a
    let s := applyImage .load (i.entries.take i.count) s
    let s := { s with mram := { s.mram with loaded := BitVec.ofNat 2 a, loadSeq := i.seq, loadTag := regGet s mSetTag } }
    extend s 4 (natLE 32 (imageDigest i).toNat)

/-- SETTINGS_LOAD: stage 4 (R443, R458); every Sheaf line is written to zero. -/
def execSettingsLoad (ok : Bool) (s : State) : Host.Outcome State Fault Refusal :=
  if atStage s 3 then
    let s := setStageNo s 4
    .next (if ok then { loadSettings s with mem := Memory.reset } else failStage' s 0x03)
  else .next s

/-- HBM_TRAINING: stage 5 (R443, R444): a channel that fails is fenced with reason 0xC3; every HBM line is written to zero. -/
def execHbmTraining (bad : List (BitVec 9)) (s : State) : Host.Outcome State Fault Refusal :=
  if atStage s 4 then
    let s := setStageNo s 5
    let s := { s with mem := { s.mem with plane := [], poison := [] } }
    .next ((bad.filter fun c => c.toNat < 384).foldl (fun s c => fenceUnit s 4 c.toNat 0xC3 0) s)
  else .next s

/-- The link belongs to an axis in use (R332). -/
def linkUsed (s : State) (l : Nat) : Bool := axisSize s (l / 8) != 1

/-- STARTUP_LINKS: stage 6 (R443, R444): the links of used axes are tested and begin to train. -/
def execStartupLinks (bad : List LinkId) (s : State) : Host.Outcome State Fault Refusal :=
  if atStage s 5 then
    let s := setStageNo s 6
    let used := (List.range 32).filter (linkUsed s)
    let s := used.foldl (fun s l => updLink s l fun k => { k with state := 1 }) s
    .next ((bad.filter fun l => used.contains l.toNat).foldl (fun s l => fenceUnit s 5 l.toNat 0xC3 0) s)
  else .next s

/-- STARTUP_ETHERNET: stage 7 (R443, R398): both PHYs are enabled and train. -/
def execStartupEthernet (s : State) : Host.Outcome State Fault Refusal :=
  if atStage s 6 then
    let s := setStageNo s 7
    let s := liveSet s (mEth 0 4) (setFld (liveGet s (mEth 0 4)) 62 2 1)
    .next (liveSet s (mEth 1 4) (setFld (liveGet s (mEth 1 4)) 62 2 1))
  else .next s

/-- PWR_STAT shows cap step 0, met. -/
def capZero (s : State) : State := liveSet s mPwrStat (setFld (setFld (liveGet s mPwrStat) 8 6 0) 15 1 0)

/-- A counter of R482 or R483: of a queue, a link, a port, the chip or a core. -/
def isCounter (off : Nat) : Bool :=
  let inArr := fun b st n lo hi => match arrAt off b st n with
    | none => false
    | some (_, w) => decide (lo ≤ w ∧ w < hi)
  off = mSysHbm || inArr 0x20000 128 256 0 0x50 || inArr 0x80000 4096 32 0x100 0x140 || inArr 0x100000 256 2 0x40 0x60 ||
  inArr 0xD80000 128 1024 0 0x58

/-- Every byte and cycle counter holds 0 (R482), and no snapshot has been taken (R499). -/
def countersZero (s : State) : State :=
  { s with
    live := s.live.filter (fun e => !isCounter e.1), cores := s.cores.map fun e => (e.1, { e.2 with issues := 0 }),
    dbg := { s.dbg with snapSeq := 0, copies := [], view := [], sentAt := s.sent.length } }

/-- READY: stage 8 (R443, R179, R435, R482): counters at zero, cap step 0, READY asserted; the alert of an input fault ends (R437). Reports and
snapshots count from here (R481, R499). -/
def execReady (s : State) : Host.Outcome State Fault Refusal :=
  if atStage s 7 then
    let s := setStageNo (capZero (countersZero s)) 8
    .next { s with
      sync := Sync.reset,
      sec := { s.sec with reports := 0 },
      mod := { s.mod with readyPin := true, inFault := false, capStep := 0, capHeld := 0, capHigh := 0 } }
  else .next s

/-- STAGE_TIMEOUT: a stage has not ended in time (R445). -/
def execStageTimeout (s : State) : Host.Outcome State Fault Refusal :=
  if s.mod.stage ≠ 0#4 ∧ s.mod.stage ≠ 8#4 ∧ s.mod.fail = 0#8 then .next (failStage' s 0x04) else .next s

end Sys2Proof.Machine
end

