-- ==== Sys2Proof/Machine/SyncOps.lean ====
section
/-!
DEFINITION. Signals that reach their counters, wakes, polling and timeouts (R182 to R189).
-/
namespace Sys2Proof.Machine

/-- The signals that were sent before the oldest one to counter n. -/
def sentBefore (n : Nat) (l : List Sig) : List Sig := l.takeWhile fun g => g.ctr != n

/-- COUNTER_SIGNAL (R20, R182, R183, R186): the oldest signal in flight to counter n is applied, once every signal that was sent before it
along the same path is. One whose counter's line has an uncorrectable error is lost with the chip (R405, R414). -/
def execCounterSignal (n : BitVec 16) (s : State) : Host.Outcome State Fault Refusal :=
  match s.sync.inflight.find? fun g => g.ctr = n.toNat with
  | none => .next s
  | some g =>
    if (sentBefore n.toNat s.sync.inflight).any g.sharesPath then .next s
    else
      let s := { s with sync := { s.sync with inflight := dropFirst (fun g => g.ctr = n.toNat) s.sync.inflight } }
      let r := ctrRead s g.slot 0 g.ctr
      .next (if r.2 then ctrAdd r.1 g.ctr g.inc else r.1)

/-- The waiter of a core: the control core, or an engine (who = ENG + 1). -/
def waiterAt (c who : Nat) : Waiter := if who = 0 then .control c else .engine c (who - 1)

/-- The waiter proceeds with the value it was told (R184): the control core goes past its WAIT, an engine's head may run. -/
def proceed (s : State) (c who : Nat) (v : Word) : State :=
  let s := watchDrop s fun w => w = waiterAt c who
  updCore s c fun k =>
    if who = 0 then
      match k.act with
      | .waiting _ _ gd pc => { gSet k gd v with act := .running, pc := pc + 4 }
      | _ => k
    else
      match queueOfEng k (who - 1) with
      | i :: rest => { k with queues := Map.put k.queues (who - 1) ({ i with asleep := false, woken := true } :: rest) }
      | [] => k

/-- WAKE (R184). -/
def execWake (c : CoreId) (who : BitVec 3) (s : State) : Host.Outcome State Fault Refusal :=
  match s.sync.wakes.find? fun w => w.who = waiterAt c.toNat who.toNat with
  | none => .next s
  | some w => .next (proceed s c.toNat who.toNat w.value)

/-- A polling watcher re-reads its counter, or takes an entry that has freed (R185). -/
def pollOne (n : Nat) (s : State) (w : Watch) : State :=
  let v := ctrGet s n
  if satisfied v w.target then
    fireWatch v { s with sync := { s.sync with watches := dropFirst (· = w) s.sync.watches } } w.who
  else if watchRoom s n then
    { s with sync := { s.sync with watches := updFirst (· = w) (fun w => { w with polling := false }) s.sync.watches } }
  else s

/-- COUNTER_POLL (R185). -/
def execCounterPoll (n : BitVec 16) (s : State) : Host.Outcome State Fault Refusal :=
  .next ((s.sync.watches.filter fun w => w.ctr = n.toNat && w.polling).foldl (pollOne n.toNat) s)

/-- The two records of a wait timeout (R189). -/
def timeoutRecs (s : State) (c slot who at' : Nat) (w : Watch) (v : Word) : State :=
  let base : ErrRec := { code := eWaitTimeout, unitCls := 1, unit := c, slot := some slot, object := w.target.toNat,
                         detail := 0x40 * 2 ^ 56 + who * 2 ^ 48 + at' % 2 ^ 48 }
  logAppend s [base, { base with object := v.toNat, detail := w.ticks % 2 ^ 32 * 2 ^ 32 + w.ctr }]

/-- The address of the waiting instruction. -/
def waitAddr (k : Core) (who : Nat) : Nat :=
  if who = 0 then k.pc.toNat else (((queueOfEng k (who - 1)).head?).map fun i => i.addr.toNat).getD 0

/-- WAIT_TIMEOUT (R188): one final reading decides; a waiter that it does not satisfy stops. Ticks of a halted core are not counted (R187). -/
def execWaitTimeout (c : CoreId) (who : BitVec 3) (s : State) : Host.Outcome State Fault Refusal :=
  let k := coreOf s c.toNat
  match s.sync.watches.find? fun w => w.who = waiterAt c.toNat who.toNat, k.slot with
  | some w, some slot =>
    let v := ctrGet s w.ctr
    if k.dbg.state = 2 ∨ k.dbg.state = 3 then .next s
    else if satisfied v w.target then .next (proceed s c.toNat who.toNat v)
    else
      match cmdOf s slot with
      | none => .next s
      | some m =>
        let t := watchDrop s fun x => x = waiterAt c.toNat who.toNat
        if m.decided ∨ m.kill.isSome then .next t
        else .next (failCmd (timeoutRecs t c.toNat slot who.toNat (waitAddr k who.toNat) w v) slot)
  | _, _ => .next s

end Sys2Proof.Machine
end

