-- ==== Sys2Proof/Machine/Dispatch.lean ====
section
/-!
DEFINITION. The dispatch of every command to its meaning.
-/
namespace Sys2Proof.Machine

def exec (i : Instr) (s : State) : Host.Outcome State Fault Refusal :=
  match i with
  | .qtailWrite q v => Sys2Proof.Machine.execQtailWrite q v s
  | .abortOne q seq => Sys2Proof.Machine.execAbortOne q seq s
  | .abortAll q => Sys2Proof.Machine.execAbortAll q s
  | .admission => Sys2Proof.Machine.execAdmit s
  | .commandReady k => Sys2Proof.Machine.execCommandReady k s
  | .grant => Sys2Proof.Machine.execGrant s
  | .deficitCharge k => Sys2Proof.Machine.execDeficitCharge k s
  | .epochWaitTimeout k => Sys2Proof.Machine.execEpochWaitTimeout k s
  | .rtcLapsed k => Sys2Proof.Machine.execRtcLapsed k s
  | .nop k => Sys2Proof.Machine.execNop k s
  | .launch k => Sys2Proof.Machine.execLaunch k s
  | .copy k => Sys2Proof.Machine.execCopy k s
  | .collective k => Sys2Proof.Machine.execCollective k s
  | .fork k => Sys2Proof.Machine.execFork k s
  | .append k => Sys2Proof.Machine.execAppend k s
  | .relocate k => Sys2Proof.Machine.execRelocate k s
  | .free k => Sys2Proof.Machine.execFree k s
  | .mode k => Sys2Proof.Machine.execMode k s
  | .prepare => Sys2Proof.Machine.execPrepare s
  | .unitConfirm cls unit => Sys2Proof.Machine.execUnitConfirm cls unit s
  | .publish => Sys2Proof.Machine.execPublish s
  | .modeTimeout => Sys2Proof.Machine.execModeTimeout s
  | .store k ok => Sys2Proof.Machine.execStore k ok s
  | .report k => Sys2Proof.Machine.execReport k s
  | .test k => Sys2Proof.Machine.execTest k s
  | .fence k => Sys2Proof.Machine.execFence k s
  | .unfence k => Sys2Proof.Machine.execUnfence k s
  | .viewRead k => Sys2Proof.Machine.execViewRead k s
  | .viewWrite k => Sys2Proof.Machine.execViewWrite k s
  | .doneReport c => Sys2Proof.Machine.execDoneReport c s
  | .commitRequest k => Sys2Proof.Machine.execCommitRequest k s
  | .failMessage k => Sys2Proof.Machine.execFailMessage k s
  | .abortMessage k => Sys2Proof.Machine.execAbortMessage k s
  | .killComplete k => Sys2Proof.Machine.execKillComplete k s
  | .apply b bad => Sys2Proof.Machine.execApply b bad s
  | .applyDone b => Sys2Proof.Machine.execApplyDone b s
  | .release b => Sys2Proof.Machine.execRelease b s
  | .releaseDone => Sys2Proof.Machine.execReleaseDone s
  | .completionRecord k => Sys2Proof.Machine.execCompletionRecord k s
  | .holdTimeout c who => Sys2Proof.Machine.execHoldTimeout c who s
  | .alu c => Sys2Proof.Machine.execAlu c s
  | .addi c => Sys2Proof.Machine.execAddi c s
  | .andi c => Sys2Proof.Machine.execAndi c s
  | .ori c => Sys2Proof.Machine.execOri c s
  | .xori c => Sys2Proof.Machine.execXori c s
  | .shi c => Sys2Proof.Machine.execShi c s
  | .li c => Sys2Proof.Machine.execLi c s
  | .lih c => Sys2Proof.Machine.execLih c s
  | .cmp c => Sys2Proof.Machine.execCmp c s
  | .cmpi c => Sys2Proof.Machine.execCmpi c s
  | .plog c => Sys2Proof.Machine.execPlog c s
  | .br c => Sys2Proof.Machine.execBr c s
  | .call c => Sys2Proof.Machine.execCall c s
  | .jr c => Sys2Proof.Machine.execJr c s
  | .ld c => Sys2Proof.Machine.execLd c s
  | .st c => Sys2Proof.Machine.execSt c s
  | .amo c => Sys2Proof.Machine.execAmo c s
  | .dld c => Sys2Proof.Machine.execDld c s
  | .dst c => Sys2Proof.Machine.execDst c s
  | .drd c => Sys2Proof.Machine.execDrd c s
  | .dwr c => Sys2Proof.Machine.execDwr c s
  | .issue c => Sys2Proof.Machine.execIssue c s
  | .wait c => Sys2Proof.Machine.execWait c s
  | .signal c => Sys2Proof.Machine.execSignal c s
  | .rdctr c => Sys2Proof.Machine.execRdctr c s
  | .drain c => Sys2Proof.Machine.execDrain c s
  | .mfs c => Sys2Proof.Machine.execMfs c s
  | .endProg c => Sys2Proof.Machine.execEndProg c s
  | .icacheFill c => Sys2Proof.Machine.execIcacheFill c s
  | .loadReturn c => Sys2Proof.Machine.execLoadReturn c s
  | .acceptance c who => Sys2Proof.Machine.execAcceptance c who s
  | .basePoint k => Sys2Proof.Machine.execBasePoint k s
  | .mm c => Sys2Proof.Machine.execMm c s
  | .mmf c => Sys2Proof.Machine.execMmf c s
  | .mmp c => Sys2Proof.Machine.execMmp c s
  | .conv c => Sys2Proof.Machine.execConv c s
  | .convg c => Sys2Proof.Machine.execConvg c s
  | .cwin c => Sys2Proof.Machine.execCwin c s
  | .crop c => Sys2Proof.Machine.execCrop c s
  | .kmm c => Sys2Proof.Machine.execKmm c s
  | .kmmf c => Sys2Proof.Machine.execKmmf c s
  | .kmmp c => Sys2Proof.Machine.execKmmp c s
  | .mv c => Sys2Proof.Machine.execMv c s
  | .vcvt c => Sys2Proof.Machine.execVcvt c s
  | .vadd c => Sys2Proof.Machine.execVadd c s
  | .vsub c => Sys2Proof.Machine.execVsub c s
  | .vmul c => Sys2Proof.Machine.execVmul c s
  | .vfma c => Sys2Proof.Machine.execVfma c s
  | .vmin c => Sys2Proof.Machine.execVmin c s
  | .vmax c => Sys2Proof.Machine.execVmax c s
  | .vdiv c => Sys2Proof.Machine.execVdiv c s
  | .vaff c => Sys2Proof.Machine.execVaff c s
  | .vfn c => Sys2Proof.Machine.execVfn c s
  | .vrow c => Sys2Proof.Machine.execVrow c s
  | .vred c => Sys2Proof.Machine.execVred c s
  | .vsmx c => Sys2Proof.Machine.execVsmx c s
  | .vcmul c => Sys2Proof.Machine.execVcmul c s
  | .vbfly c => Sys2Proof.Machine.execVbfly c s
  | .vtrans c => Sys2Proof.Machine.execVtrans c s
  | .vrng c => Sys2Proof.Machine.execVrng c s
  | .vgate c => Sys2Proof.Machine.execVgate c s
  | .vscan c => Sys2Proof.Machine.execVscan c s
  | .kdesc c => Sys2Proof.Machine.execKdesc c s
  | .kpost c => Sys2Proof.Machine.execKpost c s
  | .ktake c => Sys2Proof.Machine.execKtake c s
  | .engineCopy c => Sys2Proof.Machine.execEngineCopy c s
  | .sync c => Sys2Proof.Machine.execSync c s
  | .engineComplete c eng => Sys2Proof.Machine.execEngineComplete c eng s
  | .residueMismatch c x m k n => Sys2Proof.Machine.execResidueMismatch c x m k n s
  | .walk c future layer page => Sys2Proof.Machine.execWalk c future layer page s
  | .kvEnable => Sys2Proof.Machine.execKvEnable s
  | .kvDisable => Sys2Proof.Machine.execKvDisable s
  | .kvInitDone => Sys2Proof.Machine.execKvInitDone s
  | .counterSignal n => Sys2Proof.Machine.execCounterSignal n s
  | .wake c who => Sys2Proof.Machine.execWake c who s
  | .counterPoll n => Sys2Proof.Machine.execCounterPoll n s
  | .waitTimeout c who => Sys2Proof.Machine.execWaitTimeout c who s
  | .prefetchIssue b => Sys2Proof.Machine.execPrefetchIssue b s
  | .prefetchArrival b => Sys2Proof.Machine.execPrefetchArrival b s
  | .hbmLineFill a flaw => Sys2Proof.Machine.execHbmLineFill a flaw s
  | .scrub x flaw => Sys2Proof.Machine.execScrub x flaw s
  | .hbmTempSample st temp => Sys2Proof.Machine.execHbmTempSample st temp s
  | .testEnd cls unit pass => Sys2Proof.Machine.execTestEnd cls unit pass s
  | .errlogTailWrite v => Sys2Proof.Machine.execErrlogTailWrite v s
  | .alertClear => Sys2Proof.Machine.execAlertClear s
  | .coolantClear => Sys2Proof.Machine.execCoolantClear s
  | .registerWrite off v => Sys2Proof.Machine.execRegisterWrite off v s
  | .groupRegister g => Sys2Proof.Machine.execGroupRegister g s
  | .groupUnregister g => Sys2Proof.Machine.execGroupUnregister g s
  | .linkDisable l => Sys2Proof.Machine.execLinkDisable l s
  | .linkEnable l => Sys2Proof.Machine.execLinkEnable l s
  | .linkTrained l peer port => Sys2Proof.Machine.execLinkTrained l peer port s
  | .dataFlit l f => Sys2Proof.Machine.execDataFlit l f s
  | .idle l f => Sys2Proof.Machine.execIdle l f s
  | .retrainRequest l f => Sys2Proof.Machine.execRetrainRequest l f s
  | .retrainDone l f => Sys2Proof.Machine.execRetrainDone l f s
  | .downExchange l f => Sys2Proof.Machine.execDownExchange l f s
  | .replayTimeout l => Sys2Proof.Machine.execReplayTimeout l s
  | .retrainStart l => Sys2Proof.Machine.execRetrainStart l s
  | .retrainAttemptTimeout l => Sys2Proof.Machine.execRetrainAttemptTimeout l s
  | .forward p sub m => Sys2Proof.Machine.execForward p sub m s
  | .readReq m => Sys2Proof.Machine.execReadReq m s
  | .readResp m => Sys2Proof.Machine.execReadResp m s
  | .peerReadTimeout c => Sys2Proof.Machine.execPeerReadTimeout c s
  | .writeReq m => Sys2Proof.Machine.execWriteReq m s
  | .writeGrant m => Sys2Proof.Machine.execWriteGrant m s
  | .write m => Sys2Proof.Machine.execWrite m s
  | .writeAck m => Sys2Proof.Machine.execWriteAck m s
  | .writeCancel m => Sys2Proof.Machine.execWriteCancel m s
  | .grantExpiry src => Sys2Proof.Machine.execGrantExpiry src s
  | .writeResend dst => Sys2Proof.Machine.execWriteResend dst s
  | .piece m => Sys2Proof.Machine.execPiece m s
  | .credit m => Sys2Proof.Machine.execCredit m s
  | .count m => Sys2Proof.Machine.execCount m s
  | .abandon m => Sys2Proof.Machine.execAbandon m s
  | .mgmtReq m => Sys2Proof.Machine.execMgmtReq m s
  | .mgmtResp m => Sys2Proof.Machine.execMgmtResp m s
  | .mgmtForwardTimeout tag dropped => Sys2Proof.Machine.execMgmtForwardTimeout tag dropped s
  | .debugMsg m => Sys2Proof.Machine.execDebugMsg m s
  | .arpRequest e tpa => Sys2Proof.Machine.execArpRequest e tpa s
  | .neighbourSolicitation e target => Sys2Proof.Machine.execNeighbourSolicitation e target s
  | .pauseFrame e pri quanta => Sys2Proof.Machine.execPauseFrame e pri quanta s
  | .cnp qp => Sys2Proof.Machine.execCnp qp s
  | .cnpRateRecovery qp => Sys2Proof.Machine.execCnpRateRecovery qp s
  | .rdmaWrite p psn rkey va data => Sys2Proof.Machine.execRdmaWrite p psn rkey va data s
  | .rdmaReadRequest p rkey va len => Sys2Proof.Machine.execRdmaReadRequest p rkey va len s
  | .readHoldRnr qp => Sys2Proof.Machine.execReadHoldRnr qp s
  | .send p data => Sys2Proof.Machine.execSend p data s
  | .rdmaReadResponse p data => Sys2Proof.Machine.execRdmaReadResponse p data s
  | .acknowledge p psn => Sys2Proof.Machine.execAcknowledge p psn s
  | .sequenceErrorNak p psn => Sys2Proof.Machine.execSequenceErrorNak p psn s
  | .rnrNak p delay => Sys2Proof.Machine.execRnrNak p delay s
  | .rnrDelayExpiry qp => Sys2Proof.Machine.execRnrDelayExpiry qp s
  | .remoteAccessNak p => Sys2Proof.Machine.execRemoteAccessNak p s
  | .invalidRequestNak p => Sys2Proof.Machine.execInvalidRequestNak p s
  | .ackTimeout qp => Sys2Proof.Machine.execAckTimeout qp s
  | .qpReady qp => Sys2Proof.Machine.execQpReady qp s
  | .qpReset qp => Sys2Proof.Machine.execQpReset qp s
  | .ethLinkUp e => Sys2Proof.Machine.execEthLinkUp e s
  | .ethLinkDown e => Sys2Proof.Machine.execEthLinkDown e s
  | .submit e src hdr body => Sys2Proof.Machine.execSubmit e src hdr body s
  | .completionAck e src d => Sys2Proof.Machine.execCompletionAck e src d s
  | .completionResend x => Sys2Proof.Machine.execCompletionResend x s
  | .mgmtRead e src hdr body => Sys2Proof.Machine.execMgmtRead e src hdr body s
  | .mgmtWrite e src hdr body => Sys2Proof.Machine.execMgmtWrite e src hdr body s
  | .snapTake soon => Sys2Proof.Machine.execSnapTake soon s
  | .latch => Sys2Proof.Machine.execLatch s
  | .snapshotRelease => Sys2Proof.Machine.execSnapshotRelease s
  | .watchEnable n v => Sys2Proof.Machine.execWatchEnable n v s
  | .halt c => Sys2Proof.Machine.execHalt c s
  | .resume c => Sys2Proof.Machine.execResume c s
  | .step c => Sys2Proof.Machine.execStep c s
  | .halted c => Sys2Proof.Machine.execHalted c s
  | .haltAll fab => Sys2Proof.Machine.execHaltAll fab s
  | .resumeAll fab => Sys2Proof.Machine.execResumeAll fab s
  | .attReport => Sys2Proof.Machine.execAttReport s
  | .attReportDone => Sys2Proof.Machine.execAttReportDone s
  | .extendMreg6 => Sys2Proof.Machine.execExtendMreg6 s
  | .extendMreg7 => Sys2Proof.Machine.execExtendMreg7 s
  | .install => Sys2Proof.Machine.execInstall s
  | .installDone ok => Sys2Proof.Machine.execInstallDone ok s
  | .commitSvn => Sys2Proof.Machine.execCommitSvn s
  | .revokeKey0 => Sys2Proof.Machine.execRevokeKey0 s
  | .verify => Sys2Proof.Machine.execVerify s
  | .verifyDone => Sys2Proof.Machine.execVerifyDone s
  | .relock => Sys2Proof.Machine.execRelock s
  | .telemetryIndexWrite x => Sys2Proof.Machine.execTelemetryIndexWrite x s
  | .telemetryRead x => Sys2Proof.Machine.execTelemetryRead x s
  | .telemetrySample => Sys2Proof.Machine.execTelemetrySample s
  | .capSample watts volts amps => Sys2Proof.Machine.execCapSample watts volts amps s
  | .dieTempSample temps fall => Sys2Proof.Machine.execDieTempSample temps fall s
  | .coolantCheck inlet outlet => Sys2Proof.Machine.execCoolantCheck inlet outlet s
  | .thermalTrip => Sys2Proof.Machine.execThermalTrip s
  | .inputFault => Sys2Proof.Machine.execInputFault s
  | .inputUndervoltage => Sys2Proof.Machine.execInputUndervoltage s
  | .inputRestored => Sys2Proof.Machine.execInputRestored s
  | .powerLoss => Sys2Proof.Machine.execPowerLoss s
  | .pwrEnRise => Sys2Proof.Machine.execPwrEnRise s
  | .pwrEnFall => Sys2Proof.Machine.execPwrEnFall s
  | .resetNAssert => Sys2Proof.Machine.execResetNAssert s
  | .resetNDeassert => Sys2Proof.Machine.execResetNDeassert s
  | .modIdChange v => Sys2Proof.Machine.execModIdChange v s
  | .bootRom => Sys2Proof.Machine.execBootRom s
  | .rails ok => Sys2Proof.Machine.execRails ok s
  | .settingsLoad ok => Sys2Proof.Machine.execSettingsLoad ok s
  | .hbmTraining bad => Sys2Proof.Machine.execHbmTraining bad s
  | .startupLinks bad => Sys2Proof.Machine.execStartupLinks bad s
  | .startupEthernet => Sys2Proof.Machine.execStartupEthernet s
  | .ready => Sys2Proof.Machine.execReady s
  | .stageTimeout => Sys2Proof.Machine.execStageTimeout s
  | .peerHoldTimeout => Sys2Proof.Machine.execPeerHoldTimeout s
  | .snapshotDeferredStart => Sys2Proof.Machine.execSnapshotDeferredStart s
  | .thermTripRelease => Sys2Proof.Machine.execThermTripRelease s
  | .standbyPowerOn => Sys2Proof.Machine.execStandbyPowerOn s
  | .groupRegistrationDone => Sys2Proof.Machine.execGroupRegistrationDone s
  | .unrecognisedFrame f => Sys2Proof.Machine.execUnrecognisedFrame f s

end Sys2Proof.Machine
end

