-- ==== Sys2Proof/Safety.lean ====
section
/-!
DEFINITION. The terms in which the statements speak: what a command answers, what it leaves alone, and when a core may issue an instruction.
-/
namespace Sys2Proof
open Machine

/-! ### Answers and frames -/

/-- Command `c` at state `s` completes in state `t`. -/
abbrev Answers (c : Instr) (s t : State) : Prop := exec c s = Host.Outcome.next t

/-- Every byte of plane memory reads as before. -/
def SameMemory (s t : State) : Prop := ∀ a, planeByte t a = planeByte s a

/-- Core `c` is all that differs between `s` and `t`. -/
def OnlyCore (s t : State) (c : Nat) : Prop :=
  t = { s with cores := t.cores } ∧ ∀ o, o ≠ c → coreOf t o = coreOf s o

/-- What every step keeps: plane memory is in its canonical form; a slot of the dispatcher is listed once, in rising order, and so is every
byte that a command has staged; and a retained P has one factor for each of its rows (R233). -/
abbrev Inv (s : State) : Prop :=
  s.mem.wf ∧ Map.sorted s.disp.slots ∧ (∀ e ∈ s.disp.slots, Map.sorted e.2.staged) ∧
    ∀ e ∈ s.cores, (e.2.pbuf.all fun b => b.factors.length = b.rows.length) = true

/-- Nothing waits for a line or for the sequencer. -/
def Unhindered (s : State) : Bool := s.fab.heldReqs.isEmpty && s.fab.readWaits.isEmpty && s.eth.held.isEmpty && s.disp.waiting.isEmpty

/-- The command in slot `k` holds no page, no walk and no collective instance. -/
def Plain (s : State) (k : Nat) (c : Cmd) : Bool :=
  c.page = ⟨[], [], [], []⟩ && (instOf s k).isNone && s.mem.wcache.all fun w => w.trans.slot != k

/-- The command in slot `k` is all that differs in the dispatcher's slots and cores stay: `k` now holds `m`. -/
def SlotBecomes (s t : State) (k : Nat) (m : Cmd) : Prop :=
  cmdOf t k = some m ∧ (∀ j, j ≠ k → cmdOf t j = cmdOf s j) ∧ (∀ c, coreOf t c = coreOf s c) ∧ SameMemory s t

/-- Port `e` sends a frame at once: no pause holds it, and none waits for one (R380). -/
def portSends (s : State) (e : Nat) : Bool := !portPaused s e && s.eth.stalled.all fun y => y.1 != e

/-! ### A control core that may issue (R128, R145, R146, R193, R491) -/

/-- Core `c` runs the command in `slot`, the words of the instruction `w` at its PC are in its instruction cache, `w` is legal, and nothing
stops it: no register or queue that it waits for, no breakpoint, no single step, no base point still to be reached, and no error of R400 that a
read would find. -/
def issuable (s : State) (c slot : Nat) (w : BitVec 32) : Bool :=
  let k := coreOf s c
  let raw := (issueRaw k).getD 0
  s.flt.upsets.isEmpty && k.slot = some slot && mayIssue s k slot && missing k = none && icWord k k.pc.toNat = some w &&
    ccKnown (ccOp w) && !ccBad w raw && !ccStall s c k w raw && (k.dbg.skipOnce || (bpMatch s c k.pc).isNone) && !k.dbg.stepping &&
    (!isBase (ccOp w) || (cmdOf s slot).map (·.based) != some false)

/-- What every instruction does to its core besides its own effect: the instruction cache records the use of its line, the exemption from
breakpoints ends, and the instruction is counted (R145, R483, R494). -/
def issued (k : Core) : Core :=
  { icUse k k.pc.toNat with issues := k.issues + 1, dbg := { k.dbg with skipOnce := false } }

/-- Core `c` has written `v` to general register `gd` (R124: g0 discards it) and gone to the next word; nothing else has changed. -/
def WritesReg (s t : State) (c gd : Nat) (v : Word) : Prop :=
  OnlyCore s t c ∧
  coreOf t c = { issued (coreOf s c) with g := (coreOf t c).g, pc := (coreOf s c).pc + 4 } ∧
  ∀ r, gGet (coreOf t c) r = if r = gd ∧ r ≠ 0 then v else gGet (coreOf s c) r

/-- Core `c` has written predicate `pd` and gone to the next word; nothing else has changed. -/
def WritesPred (s t : State) (c pd : Nat) (v : Bool) : Prop :=
  OnlyCore s t c ∧
  coreOf t c = { issued (coreOf s c) with p := (coreOf t c).p, pc := (coreOf s c).pc + 4 } ∧
  ∀ r, r < 8 → pGet (coreOf t c) r = if r = pd then v else pGet (coreOf s c) r

/-- Core `c` has written descriptor register `dd` and gone to the next word; nothing else has changed. -/
def WritesDesc (s t : State) (c dd : Nat) (v : BitVec 256) : Prop :=
  OnlyCore s t c ∧
  coreOf t c = { issued (coreOf s c) with d := (coreOf t c).d, pc := (coreOf s c).pc + 4 } ∧
  ∀ r, dGet (coreOf t c) r = if r = dd then v else dGet (coreOf s c) r

/-- Every control-core instruction, by its opcode (R127). -/
def ctrlInstr (op : Nat) (c : CoreId) : Option Instr :=
  match op with
  | 0x00 => some (.alu c) | 0x01 => some (.addi c) | 0x02 => some (.andi c) | 0x03 => some (.ori c) | 0x04 => some (.xori c)
  | 0x05 => some (.shi c) | 0x06 => some (.li c) | 0x07 => some (.lih c) | 0x08 => some (.cmp c) | 0x09 => some (.cmpi c)
  | 0x0A => some (.plog c) | 0x10 => some (.br c) | 0x11 => some (.call c) | 0x12 => some (.jr c) | 0x18 => some (.ld c)
  | 0x19 => some (.st c) | 0x1A => some (.amo c) | 0x20 => some (.dld c) | 0x21 => some (.dst c) | 0x22 => some (.drd c)
  | 0x23 => some (.dwr c) | 0x28 => some (.issue c) | 0x29 => some (.wait c) | 0x2A => some (.signal c) | 0x2B => some (.rdctr c)
  | 0x2C => some (.drain c) | 0x2D => some (.mfs c) | 0x2F => some (.endProg c)
  | _ => none

/-! ### An engine at work (R172, R173) -/

/-- Every engine instruction by its engine and opcode, with its form (R153, R219, R235, R245, R298, R303, R309). -/
def engInstr (s : State) (c : CoreId) (e op : Nat) : Option (Instr × Form) :=
  match e, op with
  | 0, 0x01 => some (.mm c, mmForm 1024 64) | 0, 0x02 => some (.mmf c, mmfForm) | 0, 0x03 => some (.mmp c, mmpForm)
  | 0, 0x10 => some (.conv c, convForm) | 0, 0x11 => some (.convg c, convgForm) | 0, 0x18 => some (.cwin c, cwinForm)
  | 0, 0x20 => some (.crop c, cropForm) | 0, 0x30 => some (.kmm c, kmmForm s c.toNat) | 0, 0x31 => some (.kmmf c, kmmfForm s c.toNat)
  | 0, 0x32 => some (.kmmp c, kmmpForm s c.toNat) | 1, 0x01 => some (.mv c, mmForm 63 128) | 2, 0x01 => some (.vcvt c, vcvtForm)
  | 2, 0x02 => some (.vadd c, binForm (fun j a b => exactly (a.addD j.down b)) (· + ·))
  | 2, 0x03 => some (.vsub c, binForm (fun j a b => exactly (a.addD j.down b.neg)) (· - ·))
  | 2, 0x04 => some (.vmul c, binForm (fun _ a b => exactly (a.mul b)) (· * ·)) | 2, 0x05 => some (.vfma c, vfmaForm)
  | 2, 0x06 => some (.vmin c, binForm (fun _ a b => exactly (a.min2 b)) min)
  | 2, 0x07 => some (.vmax c, binForm (fun _ a b => exactly (a.max2 b)) max)
  | 2, 0x08 => some (.vdiv c, binForm (fun _ a b => fnDiv a b) fun a _ => a) | 2, 0x09 => some (.vaff c, vaffForm)
  | 2, 0x10 => some (.vfn c, vfnForm) | 2, 0x11 => some (.vrow c, vrowForm) | 2, 0x12 => some (.vred c, vredForm)
  | 2, 0x13 => some (.vsmx c, vsmxForm) | 2, 0x14 => some (.vcmul c, vcmulForm) | 2, 0x15 => some (.vbfly c, vbflyForm)
  | 2, 0x16 => some (.vtrans c, vtransForm) | 2, 0x17 => some (.vrng c, vrngForm) | 2, 0x18 => some (.vgate c, vgateForm)
  | 2, 0x19 => some (.vscan c, vscanForm) | 2, 0x30 => some (.kdesc c, kdescForm) | 2, 0x32 => some (.kpost c, kpostForm)
  | 2, 0x33 => some (.ktake c, ktakeForm) | 3, 0x01 => some (.engineCopy c, copyForm) | 4, 0x01 => some (.sync c, syncForm)
  | _, _ => none

/-- Job `j` is that of the instruction at the head of its engine's queue, which the running command's engine may take; no error of R400 is there
for a read to find. -/
def atHead (f : Form) (op : Nat) (j : Job) : Bool :=
  let k := coreOf j.s j.core
  j.s.flt.upsets.isEmpty && !k.broken.contains j.eng && k.slot = some j.k && (queueOfEng k j.eng).head? = some j.i && runs j.s j.k && j.i.op = op && (knownOps j.eng).contains op && j.i.eng = j.eng &&
    (!j.i.asleep || j.i.woken) && decide (j.ops = operandsOf f j.i) && (cmdOf j.s j.k).map (·.decided) = some false

/-- The wait of the instruction holds nothing up: its counter is reached, and no signal is still ahead of its reading (R20, R61). -/
def waitMet (j : Job) : Bool :=
  let n := (nameCtr j.core j.i.wctr).getD 0
  j.i.woken || j.i.wreg = 0 || (!readBehind j.s j.core n && satisfied (ctrGet j.s n) j.i.target)

/-- The job as it runs: a fused pair that another has begun takes that one's path (R302). -/
def starting (f : Form) (j : Job) : Job := if j.i.woken then j else { j with i := { j.i with alt := (f.path j).getD false } }

/-- The instruction passes the checks of R176, waits for no earlier one of its engine (R173), passes its wait and has all it needs; no line of it
is fenced, held or poisoned; its effective shape holds no zero. -/
def startsNow (f : Form) (op : Nat) (j : Job) : Bool :=
  let g := starting f j
  atHead f op j && (allChecks f j).isNone && !f.zero j.ops && (j.i.woken || !depends f j) && waitMet j && (f.late g).isNone && f.ready g &&
    ((f.reads g ++ f.writes g).all fun p => (fencedIn j.s p.1 p.2).isNone) &&
    (f.reads g).all fun p => !heldFor j.s j.k p.1 p.2 && (seenPoison j.s j.k p.1 p.2).isNone

/-- Byte ranges of an operand, with its location. -/
def places (o : Opnd) : List (Nat × Nat × Nat) := o.spans.map fun p => (o.loc, p.1, p.2)

/-- The byte at `a` of location `loc` lies in none of `outs`. -/
def apart (outs : List (Nat × Nat × Nat)) (loc a : Nat) : Bool := outs.all fun o => o.1 != loc || a < o.2.1 || o.2.1 + o.2.2 ≤ a

/-- The instruction of job `j` has left its queue and is in flight, and all else is as it was, but for the bytes in `outs` (location,
address, length) and, where `att`, the retained P and the look-aside buffer of the core. -/
def Started (j : Job) (t : State) (att : Bool) (outs : List (Nat × Nat × Nat)) : Prop :=
  let k := coreOf j.s j.core
  let u := coreOf t j.core
  SameMemory j.s t ∧ (∀ o, o ≠ j.core → coreOf t o = coreOf j.s o) ∧ (∀ n, ctrGet t n = ctrGet j.s n) ∧
  u = { k with started := k.started + 1, queues := u.queues, flying := u.flying, held := u.held, scratch := u.scratch, acc := u.acc, pbuf := u.pbuf,
               kmmSum := u.kmmSum, lab := u.lab } ∧
  (att = false → u.pbuf = k.pbuf ∧ u.kmmSum = k.kmmSum ∧ u.lab = k.lab) ∧
  (∀ e, queueOfEng u e = if e = j.eng then (queueOfEng k e).drop 1 else queueOfEng k e) ∧
  (∃ f, flyingOf u j.eng = flyingOf k j.eng ++ [f] ∧ f.addr = j.i.addr ∧ f.sctr = j.i.sctr ∧ f.op.toNat = j.i.op) ∧
  (∀ a, apart outs 0 a = true → scratchByte u a = scratchByte k a) ∧ (∀ a, apart outs 3 a = true → accByte u a = accByte k a) ∧
  ∀ a, apart outs 1 a = true → seenByte t j.k a = seenByte j.s j.k a

/-- The memories as they stand, whatever is in flight on core `c` (R137). -/
def still (s : State) (c : Nat) : State := updCore s c fun k => { k with flying := [] }

/-- The engine of the job goes on: it has not failed. -/
def goesOn (t : State) (j : Job) : Bool := !(coreOf t j.core).broken.contains j.eng

/-- In `t` every element of operand `o` inside its effective extents holds what `fn` gives for its index and row. -/
def Holds (j : Job) (t : State) (o : Opnd) (fn : Nat → List Nat → Nat) : Prop :=
  ∀ r ∈ o.rows, ∀ i0 < o.e 0, Job.stored { j with s := still t j.core } o i0 r = fn i0 r % 2 ^ o.w

/-- The deltas that a reduction contributes, element by element (R48, R154). -/
def contributions (j : Job) (o : Opnd) (fn : Nat → List Nat → Nat) : List Delta :=
  o.rows.flatMap fun r => (List.range (o.e 0)).map fun i0 =>
    { addr := o.rowAt r + i0 * o.w / 8, bytes := o.w / 8, op := j.i.red, contrib := j.i.contrib, core := j.core, eng := j.eng,
      value := BitVec.ofNat 64 (if j.i.red = 9 then fn i0 r * 65536 else fn i0 r) }

/-- Instruction `op` of engine `e` completes its start: each element of DC takes what `fn` gives, or contributes it where RED is not 0, and
`more` holds; unless a destination in the plane overruns the command's staging, which fails the command and stops the engine. `outs` are the bytes written beside
DC's; `ok` says which forms are meant. -/
def Produces (e op : Nat) (att : Bool) (ok : Job → Bool) (fn : Job → Nat → List Nat → Nat) (outs : Job → List (Nat × Nat × Nat)) (more : Job → State → Prop) :
    Prop :=
  ∀ (s : State) (c : CoreId) (i : Instr) (f : Form) (j : Job), engInstr s c e op = some (i, f) →
    Inv s → j.s = s → j.core = c.toNat → j.eng = e → startsNow f op j = true →
    let g := starting f j
    ok g = true →
    let o := getOp j.ops .dc
    let all := (if j.i.red = 0 then places o else []) ++ outs g
    ∃ t, Answers i s t ∧ ((all.all fun p => p.1 != 1) = true → j.i.red = 0 → goesOn t j = true) ∧
      (goesOn t j = true → Started j t att all ∧ more g t ∧
        if j.i.red = 0 then Holds g t o (fn g) ∧ (cmdOf t j.k).map (·.deltas) = (cmdOf s j.k).map (·.deltas)
        else (cmdOf t j.k).map (·.deltas) = (cmdOf s j.k).map fun m => (contributions g o (fn g)).foldl (fun l d => foldDelta g.denorm d l) m.deltas)

end Sys2Proof
end

