-- ==== Sys2Proof/WellFormed.lean ====
section
/-!
DEFINITION. Well-formed commands: the checks on operands that the types do not make. A command that is not well formed cannot happen: it
names a unit that the part does not have, or a message under the name of another.
-/
namespace Sys2Proof

/-- A flit carries 1 to 240 payload bytes, and a control flit goes on VC0 (R336). -/
def Flit.wf (f : Flit) : Bool := decide (1 ≤ f.data.length ∧ f.data.length ≤ 240) && (!f.ctrl || f.vc == 0)

/-- A control flit of kind `k` (R336). -/
def Flit.isCtrl (f : Flit) (k : Nat) : Bool := f.ctrl && (f.data.headD 0).toNat == k

/-- The payload is of whole 64-byte units (R350). -/
def Msg.wf (m : Msg) : Bool := m.data.length % 64 == 0

/-- A message of kind `k` (R350). -/
def Msg.wfKind (m : Msg) (k : Nat) : Bool := m.wf && m.hdr.toNat / 2 ^ 216 % 256 == k

/-- An FCT datagram of type `k` (R391). -/
def fctIs (h : BitVec 128) (k : Nat) : Bool := h.toNat / 2 ^ 48 % 256 == k

/-- The operands of a command name things that the part has. -/
def Instr.wf (i : Instr) : Bool :=
  match i with
  | .qtailWrite _ _ => true
  | .abortOne _ _ => true
  | .abortAll _ => true
  | .admission => true
  | .commandReady _ => true
  | .grant => true
  | .deficitCharge _ => true
  | .epochWaitTimeout _ => true
  | .rtcLapsed _ => true
  | .nop _ => true
  | .launch _ => true
  | .copy _ => true
  | .collective _ => true
  | .fork _ => true
  | .append _ => true
  | .relocate _ => true
  | .free _ => true
  | .mode _ => true
  | .prepare => true
  | .unitConfirm cls _ => decide (1 ≤ cls.toNat ∧ cls.toNat ≤ 8)
  | .publish => true
  | .modeTimeout => true
  | .store _ _ => true
  | .report _ => true
  | .test _ => true
  | .fence _ => true
  | .unfence _ => true
  | .viewRead _ => true
  | .viewWrite _ => true
  | .doneReport _ => true
  | .commitRequest _ => true
  | .failMessage _ => true
  | .abortMessage _ => true
  | .killComplete _ => true
  | .apply _ _ => true
  | .applyDone _ => true
  | .release _ => true
  | .releaseDone => true
  | .completionRecord _ => true
  | .holdTimeout _ who => decide (who.toNat ≤ 5)
  | .alu _ => true
  | .addi _ => true
  | .andi _ => true
  | .ori _ => true
  | .xori _ => true
  | .shi _ => true
  | .li _ => true
  | .lih _ => true
  | .cmp _ => true
  | .cmpi _ => true
  | .plog _ => true
  | .br _ => true
  | .call _ => true
  | .jr _ => true
  | .ld _ => true
  | .st _ => true
  | .amo _ => true
  | .dld _ => true
  | .dst _ => true
  | .drd _ => true
  | .dwr _ => true
  | .issue _ => true
  | .wait _ => true
  | .signal _ => true
  | .rdctr _ => true
  | .drain _ => true
  | .mfs _ => true
  | .endProg _ => true
  | .icacheFill _ => true
  | .loadReturn _ => true
  | .acceptance _ who => decide (who.toNat ≤ 5)
  | .basePoint _ => true
  | .mm _ => true
  | .mmf _ => true
  | .mmp _ => true
  | .conv _ => true
  | .convg _ => true
  | .cwin _ => true
  | .crop _ => true
  | .kmm _ => true
  | .kmmf _ => true
  | .kmmp _ => true
  | .mv _ => true
  | .vcvt _ => true
  | .vadd _ => true
  | .vsub _ => true
  | .vmul _ => true
  | .vfma _ => true
  | .vmin _ => true
  | .vmax _ => true
  | .vdiv _ => true
  | .vaff _ => true
  | .vfn _ => true
  | .vrow _ => true
  | .vred _ => true
  | .vsmx _ => true
  | .vcmul _ => true
  | .vbfly _ => true
  | .vtrans _ => true
  | .vrng _ => true
  | .vgate _ => true
  | .vscan _ => true
  | .kdesc _ => true
  | .kpost _ => true
  | .ktake _ => true
  | .engineCopy _ => true
  | .sync _ => true
  | .engineComplete _ eng => decide (eng.toNat ≤ 4)
  | .residueMismatch _ x _ _ n => decide (1 ≤ x.chk.toNat ∧ x.chk.toNat ≤ 4) && decide (n.toNat < (if x.chk.toNat ≤ 2 then 64 else 128))
  | .walk _ _ _ _ => true
  | .kvEnable => true
  | .kvDisable => true
  | .kvInitDone => true
  | .counterSignal _ => true
  | .wake _ who => decide (who.toNat ≤ 5)
  | .counterPoll _ => true
  | .waitTimeout _ who => decide (who.toNat ≤ 5)
  | .prefetchIssue _ => true
  | .prefetchArrival _ => true
  | .hbmLineFill a _ => decide (a.toNat % 64 = 0 ∧ a.toNat < 0x009000000000)
  | .scrub x _ => decide (x.a.toNat % 64 = 0)
  | .hbmTempSample n _ => decide (n.toNat < 12)
  | .testEnd cls _ _ => decide (1 ≤ cls.toNat ∧ cls.toNat ≤ 8)
  | .errlogTailWrite _ => true
  | .alertClear => true
  | .coolantClear => true
  | .registerWrite off _ => decide (off.toNat % 8 = 0)
  | .groupRegister _ => true
  | .groupUnregister _ => true
  | .linkDisable _ => true
  | .linkEnable _ => true
  | .linkTrained _ _ _ => true
  | .dataFlit _ f => f.wf && !f.ctrl
  | .idle _ f => f.wf && f.isCtrl 0
  | .retrainRequest _ f => f.wf && f.isCtrl 1
  | .retrainDone _ f => f.wf && f.isCtrl 2
  | .downExchange _ f => f.wf && f.isCtrl 3
  | .replayTimeout _ => true
  | .retrainStart _ => true
  | .retrainAttemptTimeout _ => true
  | .forward _ _ m => m.wf
  | .readReq m => m.wfKind 0x01
  | .readResp m => m.wfKind 0x02
  | .peerReadTimeout c => decide (c.toNat < 1032)
  | .writeReq m => m.wfKind 0x03
  | .writeGrant m => m.wfKind 0x04
  | .write m => m.wfKind 0x05
  | .writeAck m => m.wfKind 0x06
  | .writeCancel m => m.wfKind 0x07
  | .grantExpiry _ => true
  | .writeResend _ => true
  | .piece m => m.wfKind 0x10
  | .credit m => m.wfKind 0x11
  | .count m => m.wfKind 0x12
  | .abandon m => m.wfKind 0x13
  | .mgmtReq m => m.wfKind 0x20
  | .mgmtResp m => m.wfKind 0x21
  | .mgmtForwardTimeout _ _ => true
  | .debugMsg m => m.wfKind 0x22
  | .arpRequest _ _ => true
  | .neighbourSolicitation _ _ => true
  | .pauseFrame _ _ _ => true
  | .cnp _ => true
  | .cnpRateRecovery _ => true
  | .rdmaWrite _ _ _ _ _ => true
  | .rdmaReadRequest _ _ _ _ => true
  | .readHoldRnr _ => true
  | .send _ _ => true
  | .rdmaReadResponse _ _ => true
  | .acknowledge _ _ => true
  | .sequenceErrorNak _ _ => true
  | .rnrNak _ _ => true
  | .rnrDelayExpiry _ => true
  | .remoteAccessNak _ => true
  | .invalidRequestNak _ => true
  | .ackTimeout _ => true
  | .qpReady _ => true
  | .qpReset _ => true
  | .ethLinkUp _ => true
  | .ethLinkDown _ => true
  | .submit _ _ hdr _ => !(fctIs hdr 0x04 || fctIs hdr 0x05 || fctIs hdr 0x06)
  | .completionAck _ _ d => fctIs d.hdr 0x04
  | .completionResend _ => true
  | .mgmtRead _ _ hdr _ => fctIs hdr 0x05
  | .mgmtWrite _ _ hdr _ => fctIs hdr 0x06
  | .snapTake _ => true
  | .latch => true
  | .snapshotRelease => true
  | .watchEnable _ v => v.getLsbD 63
  | .halt _ => true
  | .resume _ => true
  | .step _ => true
  | .halted _ => true
  | .haltAll _ => true
  | .resumeAll _ => true
  | .attReport => true
  | .attReportDone => true
  | .extendMreg6 => true
  | .extendMreg7 => true
  | .install => true
  | .installDone _ => true
  | .commitSvn => true
  | .revokeKey0 => true
  | .verify => true
  | .verifyDone => true
  | .relock => true
  | .telemetryIndexWrite _ => true
  | .telemetryRead _ => true
  | .telemetrySample => true
  | .capSample _ _ _ => true
  | .dieTempSample temps _ => temps.length == 16
  | .coolantCheck _ _ => true
  | .thermalTrip => true
  | .inputFault => true
  | .inputUndervoltage => true
  | .inputRestored => true
  | .powerLoss => true
  | .pwrEnRise => true
  | .pwrEnFall => true
  | .resetNAssert => true
  | .resetNDeassert => true
  | .modIdChange _ => true
  | .bootRom => true
  | .rails _ => true
  | .settingsLoad _ => true
  | .hbmTraining bad => bad.all fun c => decide (c.toNat < 384)
  | .startupLinks _ => true
  | .startupEthernet => true
  | .ready => true
  | .stageTimeout => true
  | .peerHoldTimeout => true
  | .snapshotDeferredStart => true
  | .thermTripRelease => true
  | .standbyPowerOn => true
  | .groupRegistrationDone => true
  | .unrecognisedFrame _ => true

end Sys2Proof
end

