-- ==== Sys2Proof/Certificates/Slice0/Obligations.lean ====
section
/-!
DEFINITION. What is to be proved of the model. Each statement's docstring names the rules of the manual that it formalises.
-/
open Sys2Proof
open Sys2Proof.Machine

/-! ### The block (log 1, log 2) -/

/-- A step takes the command at the front of the queue and answers what it does to the state with the rest of the queue. With nothing waiting the
block idles (the model's choice, log 2): where no unit's logic holds an error (R414), no frame waits for a pause (R380) and no message for room or for lines (R346, R351), nothing changes. -/
def Obligations.StepRunsFront : Prop :=
  (∀ (c : Instr) (rest : List Instr) (s : State), step { s with pending := c :: rest } = exec c { s with pending := rest }) ∧
  ∀ s : State, s.pending = [] → step s = .next (idle s) ∧
    ((∀ u ∈ s.flt.upsets, ∀ cls unit, u.cell = .logic cls unit → u.bad = false) → s.eth.stalled = [] → s.eth.held = [] →
      s.fab.vc3Held = [] → s.fab.readWaits = [] → idle s = s)

/-- No command touches the queue of waiting commands: every step leaves those behind the front one as they were, in their order. -/
def Obligations.StepKeepsQueue : Prop := ∀ s t : State, step s = .next t → t.pending = s.pending.drop 1

/-- Every step keeps the invariant: plane memory is in its canonical form, the dispatcher's slots and the bytes each command has staged are listed
once and in rising order, and a retained P has a factor for each of its rows. -/
def Obligations.StepKeepsInvariant : Prop := ∀ s t : State, Inv s → step s = .next t → Inv t

/-- The part once READY is asserted (R12): it meets the invariant; plane memory and the counters are zero (R443, R179); each register reads the
reset value of its table, and a setting the default of R456 (that the settings image holds nothing else is the model's choice, log 4). -/
def Obligations.ResetLeaves : Prop :=
  Inv State.reset ∧ (∀ a, planeByte State.reset a = 0) ∧ (∀ n, ctrGet State.reset n = 0) ∧
  (∀ x ∈ [(0x0, 0, 64, 0x941020A0801000C1), (mArith, 6, 2, 1), (mArith, 3, 3, 1), (mPwrCfg, 40, 2, 1), (mPwrCfg, 48, 16, 3800), (mSscCfg, 4, 4, 6),
      (mSscCfg, 0, 4, 6), (mModCfg, 56, 8, 100), (mModCfg, 48, 8, 20), (mModStat, 12, 4, 8), (mModStat, 16, 8, 0), (mModStat, 4, 1, 0),
      (mSched, 48, 16, 16), (mSched, 32, 16, 64), (mSched, 2, 2, 2), (mSched, 0, 1, 1), (mTimeout, 48, 16, 1024), (mTimeout, 32, 16, 2000),
      (mTimeout, 16, 16, 100), (mSyncCfg, 48, 16, 2442), (mEpochCur, 0, 32, 1), (mEpochPend, 0, 34, 0), (mSlots, 0, 14, 8192), (mSlots, 32, 14, 0), (mSheaf, 0, 3, 2),
      (mSheaf, 12, 4, 8), (mTherm, 8, 4, 2), (mTherm, 0, 8, 85), (mKvCtl, 0, 2, 0), (mTorus, 0, 32, 0), (mVcWeight, 0, 24, 0x084080),
      (mGroupStat, 0, 64, 0), (mCollStat, 0, 64, 0), (mFct, 48, 16, 100), (mFct, 32, 16, 1000), (mFctAllow 0, 0, 64, 2 ^ 64 - 1),
      (mFctAllow 0 + 8, 0, 64, 2 ^ 64 - 1), (mFctAllow 1, 0, 64, 0), (mCqMac 0, 48, 16, 61607), (mErrHead, 0, 64, 0), (mErrTail, 0, 64, 0),
      (mErrStat, 0, 64, 0), (mErrCfg, 48, 16, 16), (mErrCfg, 40, 8, 3), (mErrCfg, 32, 8, 24), (mChipStat, 0, 64, 0), (mSetTag, 0, 64, 0),
      (mFwStat, 0, 64, 0), (mAttStat, 0, 64, 0), (mDbgStat, 0, 64, 0), (mSnapStat, 0, 64, 0), (mDbgFab, 0, 64, 0)],
    fld (mgmtGet State.reset x.1) x.2.1 x.2.2.1 = x.2.2.2) ∧
  (∀ q < 256, mgmtGet State.reset (mQhead q) = 0 ∧ mgmtGet State.reset (mQtail q) = 0 ∧
    mgmtGet State.reset (mQcfg q) = ofFields 64 [(48, 1), (20, 4), (17, 1), (0, 64)] ∧ mgmtGet State.reset (mQring q) = 0 ∧
    mgmtGet State.reset (mQpart q) = ofFields 64 [(48, 0xFF), (0, 2 ^ 48 - 1)] ∧ ∀ k < 10, mgmtGet State.reset (mQcnt q k) = 0) ∧
  (∀ i < 48, mgmtGet State.reset (mCset i) = 0x32) ∧ (∀ l < 32, mgmtGet State.reset (mLinkStat l) = 0 ∧ mgmtGet State.reset (mLinkErr l) = 0) ∧
  (∀ w < 16, mgmtGet State.reset (mCoreFence w) = 0) ∧ ∀ w < 6, mgmtGet State.reset (mChanFence w) = 0

/-- The fuses only move forward: no step lowers the security version or takes back the revocation of key 0 (R469, R478). -/
def Obligations.FusesMoveForward : Prop := ∀ s t : State, step s = .next t → s.sec.svn ≤ t.sec.svn ∧ (s.sec.key0Rev = true → t.sec.key0Rev = true)

/-! ### The control core (R124 to R149) -/

/-- ALU (R129): the operations of its table in numbers, its reserved encodings, and the instruction, which writes GD and goes on whatever its
operands are. -/
def Obligations.AluTable : Prop :=
  (∀ a b : Word,
      (aluFn 0x00 a b).toNat = (a.toNat + b.toNat) % 2 ^ 64 ∧
      (aluFn 0x01 a b).toInt = (a.toInt - b.toInt).bmod (2 ^ 64) ∧
      (∀ i < 64, (aluFn 0x02 a b).getLsbD i = (a.getLsbD i && b.getLsbD i)) ∧
      (∀ i < 64, (aluFn 0x03 a b).getLsbD i = (a.getLsbD i || b.getLsbD i)) ∧
      (∀ i < 64, (aluFn 0x04 a b).getLsbD i = (a.getLsbD i ^^ b.getLsbD i)) ∧
      (aluFn 0x05 a b).toNat = a.toNat * 2 ^ (b.toNat % 64) % 2 ^ 64 ∧
      (aluFn 0x06 a b).toNat = a.toNat / 2 ^ (b.toNat % 64) ∧
      (aluFn 0x07 a b).toInt = a.toInt / 2 ^ (b.toNat % 64) ∧
      (aluFn 0x08 a b).toNat = a.toNat * b.toNat % 2 ^ 64 ∧
      (aluFn 0x09 a b).toNat = a.toNat * b.toNat / 2 ^ 64 ∧
      (aluFn 0x0A a b).toInt = a.toInt * b.toInt / 2 ^ 64 ∧
      (aluFn 0x0B a b).toNat = (if b = 0 then 2 ^ 64 - 1 else a.toNat / b.toNat) ∧
      (aluFn 0x0C a b).toInt = (if b = 0 then -1 else if a.toInt = -2 ^ 63 ∧ b.toInt = -1 then -2 ^ 63 else a.toInt.tdiv b.toInt) ∧
      (aluFn 0x0D a b).toNat = (if b = 0 then a.toNat else a.toNat % b.toNat) ∧
      (aluFn 0x0E a b).toInt = (if b = 0 then a.toInt else a.toInt.tmod b.toInt) ∧
      (aluFn 0x0F a b).toInt = min a.toInt b.toInt ∧
      (aluFn 0x10 a b).toInt = max a.toInt b.toInt ∧
      (aluFn 0x11 a b).toNat = min a.toNat b.toNat ∧
      (aluFn 0x12 a b).toNat = max a.toNat b.toNat ∧
      (∀ n, (aluFn 0x13 a b).toNat = n ↔ (a = 0 ∧ n = 64) ∨ (n < 64 ∧ 2 ^ (63 - n) ≤ a.toNat ∧ a.toNat < 2 ^ (64 - n))) ∧
      (aluFn 0x14 a b).toNat = ((List.range 64).filter fun i => a.getLsbD i).length) ∧
  (∀ (w : BitVec 32) (raw : BitVec 128), ccOp w = 0x00 → fld w 28 3 = 0 →
    (ccBad w raw = true ↔ 0x14 < ccFn w ∨ (ccFn w = 0x13 ∨ ccFn w = 0x14) ∧ ccGb w ≠ 0)) ∧
  ∀ (s : State) (c : CoreId) (slot : Nat) (w : BitVec 32),
    issuable s c.toNat slot w = true → ccTrue (coreOf s c.toNat) w = true → ccOp w = 0x00 →
    let k := coreOf s c.toNat
    ∃ t, Answers (.alu c) s t ∧ WritesReg s t c.toNat (ccGd w) (aluFn (ccFn w) (gGet k (ccGa w)) (gGet k (ccGb w)))

/-- The immediate instructions (R130), with the words of R127 for LI and LIH and SHI's reserved encodings; each writes GD and nothing else. -/
def Obligations.IntegerInstructions : Prop :=
  (∀ (s : State) (c : CoreId) (slot : Nat) (w : BitVec 32),
      issuable s c.toNat slot w = true → ccTrue (coreOf s c.toNat) w = true →
      let k := coreOf s c.toNat
      let a := gGet k (ccGa w)
      let imm : Word := BitVec.ofInt 64 (toSigned 12 (ccImm w))
      let sh := fld w 0 6
      (ccOp w = 0x01 → ∃ t, Answers (.addi c) s t ∧ WritesReg s t c.toNat (ccGd w) (a + imm)) ∧
      (ccOp w = 0x02 → ∃ t, Answers (.andi c) s t ∧ WritesReg s t c.toNat (ccGd w) (a &&& imm)) ∧
      (ccOp w = 0x03 → ∃ t, Answers (.ori c) s t ∧ WritesReg s t c.toNat (ccGd w) (a ||| imm)) ∧
      (ccOp w = 0x04 → ∃ t, Answers (.xori c) s t ∧ WritesReg s t c.toNat (ccGd w) (a ^^^ imm)) ∧
      (ccOp w = 0x05 → ∃ t, Answers (.shi c) s t ∧ WritesReg s t c.toNat (ccGd w)
        (if fld w 10 2 = 0 then a <<< sh else if fld w 10 2 = 1 then a >>> sh else a.sshiftRight sh)) ∧
      (ccOp w = 0x06 → ∃ t, Answers (.li c) s t ∧ WritesReg s t c.toNat (ccGd w) (BitVec.ofInt 64 (toSigned 17 (fld w 0 17)))) ∧
      (ccOp w = 0x07 → ∃ t, Answers (.lih c) s t ∧ WritesReg s t c.toNat (ccGd w)
        (BitVec.ofNat 64 ((gGet k (ccGd w)).toNat * 65536 + fld w 0 16)))) ∧
  ∀ (w : BitVec 32) (raw : BitVec 128), ccOp w = 0x05 → fld w 28 3 = 0 → (ccBad w raw = true ↔ fld w 10 2 = 3 ∨ fld w 6 4 ≠ 0)

/-- CMP, CMPI and PLOG write only PD (R131).

DRD and DWR (R139). -/
def Obligations.PredicatesAndDescriptors : Prop :=
  (∀ (s : State) (c : CoreId) (slot : Nat) (w : BitVec 32),
      issuable s c.toNat slot w = true → ccTrue (coreOf s c.toNat) w = true →
      let k := coreOf s c.toNat
      let test := fun (cond : Nat) (a b : Word) =>
        if cond = 0 then decide (a = b) else if cond = 1 then decide (a ≠ b) else if cond = 2 then decide (a.toInt < b.toInt)
        else if cond = 3 then decide (b.toInt ≤ a.toInt) else if cond = 4 then decide (a.toNat < b.toNat) else decide (b.toNat ≤ a.toNat)
      let pa := pGet k (fld w 16 3)
      let pb := pGet k (fld w 13 3)
      let f := fld w 10 3
      (ccOp w = 0x08 → ∃ t, Answers (.cmp c) s t ∧ WritesPred s t c.toNat (fld w 19 3) (test (fld w 0 4) (gGet k (ccGa w)) (gGet k (ccGb w)))) ∧
      (ccOp w = 0x09 → ∃ t, Answers (.cmpi c) s t ∧ WritesPred s t c.toNat (fld w 19 3)
        (test (fld w 15 4) (gGet k (fld w 10 5)) (BitVec.ofInt 64 (toSigned 10 (fld w 0 10))))) ∧
      (ccOp w = 0x0A → ∃ t, Answers (.plog c) s t ∧ WritesPred s t c.toNat (fld w 19 3)
        (if f = 0 then pa && pb else if f = 1 then pa || pb else if f = 2 then pa ^^ pb else if f = 3 then pa && !pb
         else if f = 4 then !pa else if f = 5 then decide (gGet k (fld w 5 5) ≠ 0) else decide (f = 6)))) ∧
  (∀ (s : State) (c : CoreId) (slot : Nat) (w : BitVec 32),
      issuable s c.toNat slot w = true → ccTrue (coreOf s c.toNat) w = true →
      let k := coreOf s c.toNat
      let n := fld w 0 2
      (ccOp w = 0x22 → ∃ t, Answers (.drd c) s t ∧
        WritesReg s t c.toNat (ccGd w) (BitVec.ofNat 64 ((dGet k (ccGa w)).toNat / 2 ^ (64 * n)))) ∧
      (ccOp w = 0x23 → ∃ t v, Answers (.dwr c) s t ∧ WritesDesc s t c.toNat (ccGd w) v ∧
        ∀ i < 256, v.getLsbD i = if i / 64 = n then (gGet k (ccGa w)).getLsbD (i % 64) else (dGet k (ccGd w)).getLsbD i))

/-- BR, CALL and JR (R132), with the JR that raises FETCH. -/
def Obligations.BranchInstructions : Prop :=
  ∀ (s : State) (c : CoreId) (slot : Nat) (w : BitVec 32),
    issuable s c.toNat slot w = true → ccTrue (coreOf s c.toNat) w = true →
    let k := coreOf s c.toNat
    let far : BitVec 48 := k.pc + BitVec.ofInt 48 (4 * toSigned 22 (fld w 0 22))
    let back : Word := (k.pc + 4).setWidth 64
    let goes := fun (t : State) (pc : BitVec 48) (link : Option Nat) =>
      OnlyCore s t c.toNat ∧ coreOf t c.toNat = { issued k with g := (coreOf t c.toNat).g, pc := pc } ∧
      ∀ r, gGet (coreOf t c.toNat) r = if some r = link ∧ r ≠ 0 then back else gGet k r
    (ccOp w = 0x10 → ∃ t, Answers (.br c) s t ∧ goes t far none) ∧
    (ccOp w = 0x11 → ∃ t, Answers (.call c) s t ∧ goes t far (some 31)) ∧
    (ccOp w = 0x12 → (gGet k (ccGa w)).toNat % 4 = 0 → (gGet k (ccGa w)).toNat < 2 ^ 48 →
      ∃ t, Answers (.jr c) s t ∧ goes t (BitVec.ofNat 48 (gGet k (ccGa w)).toNat) (some (ccGd w))) ∧
    (ccOp w = 0x12 → ((gGet k (ccGa w)).toNat % 4 ≠ 0 ∨ 2 ^ 48 ≤ (gGet k (ccGa w)).toNat) →
      Answers (.jr c) s (ccExc (updCore s c.toNat issued) c.toNat slot 0x04 (gGet k (ccGa w)).toNat))

/-- Reserved encodings come before the predicate (R128): a word with one raises ILLEGAL whatever its predicate is, and a word whose check passes
and whose predicate is 0 changes nothing but the PC, which passes its words. `issued` names what the instruction cache and the debug unit note of
any instruction; where its opcode is known, the step is the one that names it (log 1). -/
def Obligations.ReservedThenPredicate : Prop :=
  (∀ (s : State) (c : CoreId) (slot op : Nat) (w : BitVec 32) (i : Instr),
    let k := coreOf s c.toNat
    s.flt.upsets = [] → k.slot = some slot → mayIssue s k slot = true → missing k = none → icWord k k.pc.toNat = some w →
    (k.dbg.skipOnce || (bpMatch s c.toNat k.pc).isNone) = true → k.dbg.stepping = false → ctrlInstr op c = some i →
    ccKnown (ccOp w) = false ∨ op = ccOp w ∧ ccBad w ((issueRaw k).getD 0) = true →
    Answers i s (ccExc (updCore s c.toNat issued) c.toNat slot 0x01 w.toNat)) ∧
  ∀ (s : State) (c : CoreId) (slot : Nat) (w : BitVec 32) (i : Instr),
    issuable s c.toNat slot w = true → ccTrue (coreOf s c.toNat) w = false → ctrlInstr (ccOp w) c = some i →
    let k := coreOf s c.toNat
    ∃ t, Answers i s t ∧ OnlyCore s t c.toNat ∧
      coreOf t c.toNat = { issued k with pc := k.pc + (if ccOp w = 0x28 then 20 else 4) }

/-! ### Loads, stores and atomics (R134 to R139, R146) -/

/-- LD and DLD from the core's own scratchpad (R134, R139): each byte is the one the scratchpad holds, or, while an engine's instruction that
writes it is in flight, the one it held before (R137).

ST and DST to the core's own scratchpad: the bytes stored, every other byte of the scratchpad and every byte of memory as before
(R134, R139). A byte that an instruction in flight has written keeps the engine's value for a reader without order (`storeOver`, R137). -/
def Obligations.ScratchpadAccess : Prop :=
  (∀ (s : State) (c : CoreId) (slot : Nat) (w : BitVec 32),
      issuable s c.toNat slot w = true → ccTrue (coreOf s c.toNat) w = true → bit w 8 = true →
      let k := coreOf s c.toNat
      let n : Nat := 2 ^ (fld w 9 2)
      let a := (gGet k (ccGa w) + BitVec.ofInt 64 (toSigned 8 (fld w 0 8) * (n : Int))).toNat
      let b := (gGet k (ccGa w) + BitVec.ofInt 64 (toSigned 8 (fld w 0 8) * 32)).toNat
      let held := fun (bs : List Byte) (a n : Nat) => bs.length = n ∧
        ∀ x < n, bs[x]? = some (scratchByte k (a + x)) ∨ bs[x]? = (oldByte k none (a + x))
      (ccOp w = 0x18 → a % n = 0 → a < scratchSize → ∃ t bs, Answers (.ld c) s t ∧ held bs a n ∧
        WritesReg s t c.toNat (ccGd w) (if bit w 11 then BitVec.ofInt 64 (toSigned (8 * n) (leNat bs)) else BitVec.ofNat 64 (leNat bs))) ∧
      (ccOp w = 0x20 → b % 32 = 0 → b < scratchSize → ∃ t bs, Answers (.dld c) s t ∧ held bs b 32 ∧
        WritesDesc s t c.toNat (ccGd w) (BitVec.ofNat 256 (leNat bs)))) ∧
  (∀ (s : State) (c : CoreId) (slot : Nat) (w : BitVec 32),
      issuable s c.toNat slot w = true → ccTrue (coreOf s c.toNat) w = true → bit w 8 = true →
      let k := coreOf s c.toNat
      let n : Nat := 2 ^ (fld w 9 2)
      let a := (gGet k (ccGa w) + BitVec.ofInt 64 (toSigned 8 (fld w 0 8) * (n : Int))).toNat
      let b := (gGet k (ccGa w) + BitVec.ofInt 64 (toSigned 8 (fld w 0 8) * 32)).toNat
      let stores := fun (t : State) (a n v : Nat) =>
        OnlyCore s t c.toNat ∧ SameMemory s t ∧
        coreOf t c.toNat = { storeOver (issued k) (scratchByte k) 0 a n with scratch := (coreOf t c.toNat).scratch, pc := k.pc + 4 } ∧
        ∀ x, scratchByte (coreOf t c.toNat) x = if a ≤ x ∧ x < a + n then BitVec.ofNat 8 (v / 256 ^ (x - a)) else scratchByte k x
      (ccOp w = 0x19 → a % n = 0 → a < scratchSize → ∃ t, Answers (.st c) s t ∧ stores t a n (gGet k (ccGd w)).toNat) ∧
      (ccOp w = 0x21 → b % 32 = 0 → b < scratchSize → ∃ t, Answers (.dst c) s t ∧ stores t b 32 (dGet k (ccGd w)).toNat))

/-- LD and DLD from plane memory: the load is outstanding with the bytes that the command sees, or without them while another command holds the
line (R91, R93, R136, R146); a byte that an instruction in flight writes may still be its old one (R137). Memory reads as before.

LOAD_RETURN writes the oldest outstanding load's data, extended as the load says, into its register (R134, R138, R146): the data that it read,
or, where its line was locked then and is free now, what the command sees (R93). -/
def Obligations.LoadsFromMemory : Prop :=
  (∀ (s : State) (c : CoreId) (slot : Nat) (w : BitVec 32),
      issuable s c.toNat slot w = true → ccTrue (coreOf s c.toNat) w = true → bit w 8 = false →
      let k := coreOf s c.toNat
      let loads := fun (i : Instr) (n : Nat) (d : LoadDest) =>
        let a := (gGet k (ccGa w) + BitVec.ofInt 64 (toSigned 8 (fld w 0 8) * (n : Int))).toNat
        a % n = 0 → a < 2 ^ 48 → inPlane s a n = true → csetOk s slot a = true → fencedIn s a n = none → seenPoison s slot a n = none →
        ∃ t bs, Answers i s t ∧ SameMemory s t ∧ (∀ o, o ≠ c.toNat → coreOf t o = coreOf s o) ∧ bs.length = n ∧
          (∀ x < n, bs[x]? = some (seenByte s slot (a + x)) ∨ bs[x]? = oldByte k none (locKey 1 (a + x))) ∧
          t = { s with cores := t.cores, mem := { s.mem with fills := t.mem.fills, plru := t.mem.plru } } ∧
          coreOf t c.toNat = { issued k with pc := k.pc + 4, loads := k.loads ++
            [⟨a, k.pc.toNat, false, n, d, if (lockIn s (jointSet s slot) a n).isSome then none else some (BitVec.ofNat 256 (leNat bs))⟩] }
      (ccOp w = 0x18 → loads (.ld c) (2 ^ fld w 9 2) (.g (ccGd w) (2 ^ fld w 9 2) (bit w 11))) ∧
      (ccOp w = 0x20 → loads (.dld c) 32 (.d (ccGd w)))) ∧
  (∀ (s : State) (c : CoreId) (slot : Nat) (l : Load) (rest : List Load) (v : BitVec 256),
      let k := coreOf s c.toNat
      k.slot = some slot → k.loads = l :: rest → heldByTest s l.addr l.size = false → fencedIn s l.addr l.size = none → s.flt.upsets = [] →
      (l.value = some v ∨ l.value = none ∧ lockIn s (jointSet s slot) l.addr l.size = none ∧ seenPoison s slot l.addr l.size = none ∧
        v = BitVec.ofNat 256 (leNat (seenRead s slot l.addr l.size))) →
      (awaits s fun f => f.asker = .control c.toNat l.at' && f.line = lineOf l.addr) = false →
      ∃ t, Answers (.loadReturn c) s t ∧ SameMemory s t ∧ t = { s with cores := t.cores, live := t.live } ∧
        coreOf t c.toNat = { k with g := (coreOf t c.toNat).g, d := (coreOf t c.toNat).d, loads := rest } ∧
        match l.dest with
        | .g r n signed => (∀ x, dGet (coreOf t c.toNat) x = dGet k x) ∧ ∀ x, gGet (coreOf t c.toNat) x =
            if x = r ∧ r ≠ 0 then (if signed then BitVec.ofInt 64 (toSigned (8 * n) (v.toNat % 2 ^ (8 * n)))
              else BitVec.ofNat 64 (v.toNat % 2 ^ (8 * n))) else gGet k x
        | .d r => (∀ x, gGet (coreOf t c.toNat) x = gGet k x) ∧ ∀ x, dGet (coreOf t c.toNat) x = if x = r then v else dGet k x)

/-- ST and DST to plane memory: the bytes are staged by the command, which alone sees them; committed memory stays (R91, R92, R136).

A plane store outside the command's WRITE ranges raises OUT_OF_RANGE, and one that is not aligned raises ALIGN: nothing is staged and the
command fails with the record of R148 (R135, R136, R148). -/
def Obligations.StoresToMemory : Prop :=
  (∀ (s : State) (c : CoreId) (slot : Nat) (w : BitVec 32),
      Inv s → issuable s c.toNat slot w = true → ccTrue (coreOf s c.toNat) w = true → bit w 8 = false →
      let k := coreOf s c.toNat
      let stores := fun (i : Instr) (n v : Nat) =>
        let a := (gGet k (ccGa w) + BitVec.ofInt 64 (toSigned 8 (fld w 0 8) * (n : Int))).toNat
        a % n = 0 → a < 2 ^ 48 → inPlane s a n = true → csetOk s slot a = true → inWrite s slot a n = true → fencedIn s a n = none →
        stageOver (stagePut s slot a (natLE n v)) slot = none →
        ∃ t, Answers i s t ∧ SameMemory s t ∧ (∀ o, o ≠ c.toNat → coreOf t o = coreOf s o) ∧
          coreOf t c.toNat = storeOver { issued k with pc := k.pc + 4, stq := k.stq ++ [a] } (seenByte s slot) 1 a n ∧
          ∀ x, seenByte t slot x = if a ≤ x ∧ x < a + n then BitVec.ofNat 8 (v / 256 ^ (x - a)) else seenByte s slot x
      (ccOp w = 0x19 → stores (.st c) (2 ^ fld w 9 2) (gGet k (ccGd w)).toNat) ∧
      (ccOp w = 0x21 → stores (.dst c) 32 (dGet k (ccGd w)).toNat)) ∧
  (∀ (s : State) (c : CoreId) (slot : Nat) (w : BitVec 32),
      issuable s c.toNat slot w = true → ccTrue (coreOf s c.toNat) w = true → ccOp w = 0x19 → bit w 8 = false →
      let k := coreOf s c.toNat
      let n : Nat := 2 ^ fld w 9 2
      let a := (gGet k (ccGa w) + BitVec.ofInt 64 (toSigned 8 (fld w 0 8) * (n : Int))).toNat
      let s' := updCore s c.toNat issued
      (a % n ≠ 0 → Answers (.st c) s (ccExc s' c.toNat slot 0x03 a)) ∧
      (a % n = 0 → (2 ^ 48 ≤ a ∨ inPlane s a n = false ∨ csetOk s slot a = false) → Answers (.st c) s (ccExc s' c.toNat slot 0x02 a)) ∧
      (a % n = 0 → a < 2 ^ 48 → inPlane s a n = true → csetOk s slot a = true → inWrite s slot a n = false →
        Answers (.st c) s (ccExc s' c.toNat slot 0x05 a)))

/-- AMO on a line of the command's own WRITE or REDUCE ranges: the old value is on its way to GD and the new one is staged (R47, R138). -/
def Obligations.ImmediateAtomics : Prop :=
  ∀ (s : State) (c : CoreId) (slot : Nat) (w : BitVec 32),
    Inv s → issuable s c.toNat slot w = true → ccTrue (coreOf s c.toNat) w = true → ccOp w = 0x1A →
    let k := coreOf s c.toNat
    let n : Nat := if fld w 2 2 = 1 then 8 else 4
    let a := (gGet k (ccGa w)).toNat
    let old := leNat (seenRead s slot a n)
    let v := (gGet k (ccGb w)).toNat % 2 ^ (8 * n)
    let want := (gGet k (ccGd w)).toNat % 2 ^ (8 * n)
    let less := toSigned (8 * n) old ≤ toSigned (8 * n) v
    let op := fld w 4 3
    let new := if fld w 2 2 = 2 then fp32Add (denormOf s slot) old v else if op = 0 then (old + v) % 2 ^ (8 * n)
      else if op = 1 then (if less then old else v) else if op = 2 then (if less then v else old) else if op = 3 then min old v
      else if op = 4 then max old v else if op = 5 then old &&& v else if op = 6 then old ||| v else if old = want then v else old
    a % n = 0 → a < 2 ^ 48 → inPlane s a n = true → csetOk s slot a = true → inReduce s slot a n = true → fencedIn s a n = none →
    seenPoison s slot a n = none → stageOver (stagePut s slot a (natLE n new)) slot = none →
    ∃ t, Answers (.amo c) s t ∧ SameMemory s t ∧ (∀ o, o ≠ c.toNat → coreOf t o = coreOf s o) ∧
      coreOf t c.toNat = storeOver { issued k with pc := k.pc + 4, loads := k.loads ++
        [⟨a, k.pc.toNat, true, n, .g (ccGd w) n false, some (BitVec.ofNat 256 old)⟩] } (seenByte s slot) 1 a n ∧
      ∀ x, seenByte t slot x = if a ≤ x ∧ x < a + n then BitVec.ofNat 8 (new / 256 ^ (x - a)) else seenByte s slot x

/-! ### Issue, counters, DRAIN, MFS, END (R140 to R144) -/

/-- ISSUE copies the registers and puts the instruction that follows at the end of its engine's queue (R140, R172); DRAIN passes when the
engines it selects are empty, none of them having failed an instruction, and otherwise waits (R142); MFS reads a special register, CCYCLES being a free value (R144; log 8); END stops
fetch (R143). -/
def Obligations.IssueDrainMfsEnd : Prop :=
  ∀ (s : State) (c : CoreId) (slot : Nat) (w : BitVec 32) (m : Cmd),
    issuable s c.toNat slot w = true → ccTrue (coreOf s c.toNat) w = true → cmdOf s slot = some m →
    let k := coreOf s c.toNat
    let raw := (issueRaw k).getD 0
    let eng := fld raw 116 4
    let idle := (List.range 5).all fun e => !bit w e || ((queueOfEng k e).isEmpty && (flyingOf k e).isEmpty && !k.broken.contains e)
    (ccOp w = 0x28 → ∃ t, Answers (.issue c) s t ∧ OnlyCore s t c.toNat ∧
      coreOf t c.toNat = { issued k with pc := k.pc + 20, queues := (coreOf t c.toNat).queues } ∧
      ∀ e, queueOfEng (coreOf t c.toNat) e = if e = eng then queueOfEng k e ++
        [{ raw := raw, addr := k.pc, g := k.g, d := k.d, asleep := false, woken := false, alt := false, descs := [],
           checked := false, flight := 0 }]
        else queueOfEng k e) ∧
    (ccOp w = 0x2C → idle = true → ∃ t, Answers (.drain c) s t ∧ OnlyCore s t c.toNat ∧
      coreOf t c.toNat = { issued k with pc := k.pc + 4 }) ∧
    (ccOp w = 0x2C → idle = false → ∃ t, Answers (.drain c) s t ∧ OnlyCore s t c.toNat ∧
      coreOf t c.toNat = { issued k with act := .draining (BitVec.ofNat 5 (fld w 0 5)) k.pc }) ∧
    (ccOp w = 0x2D → ∃ t v, Answers (.mfs c) s t ∧ t = { s with cores := t.cores, fresh := s.fresh + 1 } ∧
      (∀ o, o ≠ c.toNat → coreOf t o = coreOf s o) ∧
      coreOf t c.toNat = { issued k with g := (coreOf t c.toNat).g, pc := k.pc + 4 } ∧
      (∀ r, gGet (coreOf t c.toNat) r = if r = ccGd w ∧ r ≠ 0 then v else gGet k r) ∧
      (ccImm w = 0 → v = BitVec.ofNat 64 c.toNat) ∧ (ccImm w = 1 → v = BitVec.ofNat 64 (chipNo s)) ∧
      (ccImm w = 2 → v = BitVec.ofNat 64 m.runs) ∧ (ccImm w = 4 → v = BitVec.ofNat 64 m.epochAt.toNat) ∧
      (ccImm w = 5 → v = BitVec.ofNat 64 slot) ∧ (ccImm w = 6 → v = BitVec.ofNat 64 m.queue)) ∧
    (ccOp w = 0x2F → ∃ t, Answers (.endProg c) s t ∧ OnlyCore s t c.toNat ∧
      coreOf t c.toNat = { issued k with act := .ended, pc := k.pc + 4 })

/-- WAIT, RDCTR and SIGNAL on a counter that GA names, and the COUNTER exception where it names none (R141, R180, R184, R94). The reading of a chip
counter also counts at the core's port (R15; `readPort`), and the external counters of a set are no more than 1,024 (R92). -/
def Obligations.CounterInstructions : Prop :=
  ∀ (s : State) (c : CoreId) (slot : Nat) (w : BitVec 32) (m : Cmd),
    Inv s → issuable s c.toNat slot w = true → ccTrue (coreOf s c.toNat) w = true → cmdOf s slot = some m →
    let k := coreOf s c.toNat
    let a := (gGet k (ccGa w)).toNat
    let n := if a < 48 then 48 * c.toNat + a else a
    let target := gGet k (ccGb w)
    let named : Prop := a < 48 ∨ (0xC000 ≤ a ∧ a < 0x10000)
    (ccOp w = 0x2B → named → ∃ t, Answers (.rdctr c) s t ∧ WritesReg (readPort s c.toNat n) t c.toNat (ccGd w) (ctrGet s n)) ∧
    (ccOp w = 0x29 → named → target.toNat ≤ (ctrGet s n).toNat →
      ∃ t, Answers (.wait c) s t ∧ WritesReg (readPort s c.toNat n) t c.toNat (ccGd w) (ctrGet s n)) ∧
    (ccOp w = 0x29 → named → (ctrGet s n).toNat < target.toNat → ∃ t wt, Answers (.wait c) s t ∧ SameMemory s t ∧
      coreOf t c.toNat = { issued k with act := .waiting n target (ccGd w) k.pc } ∧
      t.sync = { s.sync with watches := s.sync.watches ++ [wt] } ∧ wt.ctr = n ∧ wt.target = target ∧ wt.who = .control c.toNat) ∧
    (ccOp w = 0x2A → named → k.stq = [] → isInternal s slot n = true → ∃ t, Answers (.signal c) s t ∧ SameMemory s t ∧
      coreOf t c.toNat = { issued k with pc := k.pc + 4 } ∧
      t.sync = { s.sync with inflight := s.sync.inflight ++
        [{ ctr := n, inc := fld w 0 4, slot := some slot, core := some c.toNat, die := dieOf c.toNat }] }) ∧
    (ccOp w = 0x2A → named → k.stq = [] → isInternal s slot n = false →
      (extCounters (setCmd s slot { m with sums := sumAdd m.sums n (fld w 0 4) }) slot).length ≤ 1024 →
      ∃ t, Answers (.signal c) s t ∧ SameMemory s t ∧ coreOf t c.toNat = { issued k with pc := k.pc + 4 } ∧ t.sync = s.sync ∧
      cmdOf t slot = some { m with sums := sumAdd m.sums n (fld w 0 4) }) ∧
    (ccOp w = 0x2A → named → k.stq ≠ [] → ∃ t, Answers (.signal c) s t ∧ OnlyCore s t c.toNat ∧
      coreOf t c.toNat = { issued k with pc := k.pc + 4, sigs := k.sigs ++ [{ ctr := n, inc := fld w 0 4, stores := k.stq.length }] }) ∧
    (¬named → ∀ i, ctrlInstr (ccOp w) c = some i → ccOp w = 0x29 ∨ ccOp w = 0x2A ∨ ccOp w = 0x2B →
      Answers i s (ccExc (updCore s c.toNat issued) c.toNat slot 0x06 a))

/-! ### Events at a control core (R143, R145, R193, R500) -/

/-- A requested line reaches the instruction cache with its committed bytes (R145).

ACCEPTANCE: the oldest plane store leaves the store queue, and a signal that waited for it alone takes effect; an engine's oldest
instruction that has staged its lines and waits for their acceptance is accepted (R141, R174, R500).

BASE_POINT: once every core of the run is at its base point, all of them run (R193).

DONE_REPORT: a core that has ended, with nothing of its own outstanding, reports done; the last core's report ends the command's work and
sends the commit request (R95, R143).

HOLD_TIMEOUT: a held read that has outlasted HOLD on a locked line fails its command with WAIT_TIMEOUT, reason 0x41, and its
control core stops (R93, R189). -/
def Obligations.CoreEvents : Prop :=
  (∀ (s : State) (c : CoreId) (slot line : Nat) (rest : List Nat),
      let k := coreOf s c.toNat
      k.icReqs = line :: rest → k.slot = some slot → (awaits s fun f => f.asker.ofControl c.toNat && icLineOf f.line = line) = false →
      heldFor s slot line 128 = false → fencedIn s line 128 = none → s.flt.upsets = [] → poisonIn s line 128 = none →
      ∃ t l, Answers (.icacheFill c) s t ∧ t = { s with cores := t.cores, live := t.live } ∧ SameMemory s t ∧
        coreOf t c.toNat = { k with icReqs := rest, icache := (coreOf t c.toNat).icache, icPlru := (coreOf t c.toNat).icPlru } ∧
        l ∈ (coreOf t c.toNat).icache ∧ l.line = line ∧ l.data = planeRead s line 128) ∧
  (∀ (s : State) (c : CoreId) (slot a : Nat) (rest : List Nat),
      let k := coreOf s c.toNat
      k.slot = some slot →
      (k.stq = a :: rest → k.sigs = [] → ∃ t, Answers (.acceptance c 0) s t ∧ OnlyCore s t c.toNat ∧
        coreOf t c.toNat = { k with stq := rest }) ∧
      (∀ p, k.stq = a :: rest → k.sigs = [p] → p.stores = 1 → p.inc ≠ 0 → isInternal s slot p.ctr = true →
        ∃ t, Answers (.acceptance c 0) s t ∧ coreOf t c.toNat = { k with stq := rest, sigs := [] } ∧
        t.sync.inflight = s.sync.inflight ++ [{ ctr := p.ctr, inc := p.inc, slot := some slot, core := some c.toNat, die := dieOf c.toNat }]) ∧
      (∀ (e : Nat) (f : Flying) (fs : List Flying), e < 5 → flyingOf k e = f :: fs → f.accepted = false → f.reads = 0 →
        ∃ t, Answers (.acceptance c (BitVec.ofNat 3 (e + 1))) s t ∧ OnlyCore s t c.toNat ∧
        flyingOf (coreOf t c.toNat) e = { f with accepted := true } :: fs)) ∧
  (∀ (s : State) (k : SlotId) (m : Cmd), Inv s →
      cmdOf s k.toNat = some m → m.phase = .running → m.kill = none → m.based = false → m.kind = 1 → jointSet s k.toNat = [k.toNat] →
      (∀ c ∈ m.cores, (coreOf s c).act = .atBase) →
      ∃ t, Answers (.basePoint k) s t ∧ SameMemory s t ∧ cmdOf t k.toNat = some { m with based := true } ∧
        (∀ c ∈ m.cores, coreOf t c = { coreOf s c with act := .running }) ∧ ∀ c, c ∉ m.cores → coreOf t c = coreOf s c) ∧
  (∀ (s : State) (c : CoreId) (slot : Nat) (m : Cmd), Inv s →
      let k := coreOf s c.toNat
      k.slot = some slot → cmdOf s slot = some m → k.act = .ended → enginesIdle k = true → k.stq = [] → k.sigs = [] →
      (k.loads.any (·.amo)) = false → (s.sync.inflight.any fun g => g.core = some c.toNat && g.slot = some slot) = false →
      m.phase = .running → m.kill = none → m.failSent = false → c.toNat ∉ m.done →
      ((∃ x ∈ m.cores, x ≠ c.toNat ∧ x ∉ m.done) → ∃ t, Answers (.doneReport c) s t ∧ t = { s with disp := t.disp } ∧
        cmdOf t slot = some { m with done := m.done ++ [c.toNat] }) ∧
      ((∀ x ∈ m.cores, x = c.toNat ∨ x ∈ m.done) → jointSet s slot = [slot] → stagedFenced s m = none → partialPoison s [slot] = none →
        ∃ t, Answers (.doneReport c) s t ∧ t = { s with disp := t.disp } ∧
        cmdOf t slot = some { m with done := m.done ++ [c.toNat], fin := true, reqSent := true })) ∧
  (∀ (s : State) (c : CoreId) (slot : Nat) (m : Cmd) (l : Load),
      let k := coreOf s c.toNat
      k.slot = some slot → cmdOf s slot = some m → m.decided = false →
      (k.loads.find? fun x => x.value.isNone && (lockIn s (jointSet s slot) x.addr x.size).isSome) = some l →
      Answers (.holdTimeout c 0) s (breakUnit c.toNat none (failWith s slot
        { code := 0x03, unitCls := 1, unit := c.toNat, slot := some slot, object := l.addr,
          detail := 0x41 * 2 ^ 56 + l.at' % 2 ^ 48 })))

/-! ### Queues, admission and grant (R72 to R90, R108 to R112) -/

/-- QTAIL_WRITE: a tail within the ring is taken; one further ahead of HEAD than the ring holds is refused with a DESC_INVALID record, reason
0x31, and changes no queue (R74).

ABORT_ONE and ABORT_ALL: an admitted command ends ABORTED, a running one is told, a waiting record is marked, and an ABORT_ONE that finds
nothing writes ABORT_TOO_LATE, reason 0x38 (R112). -/
def Obligations.DoorbellAndAborts : Prop :=
  (∀ (s : State) (q : QueueId) (v : Word), v.toNat < 2 ^ 32 →
      let tail : BitVec 32 := BitVec.ofNat 32 v.toNat
      let head := (queueOf s q.toNat).head
      ((tail - head).toNat ≤ ringSize s q.toNat → ∃ t, Answers (.qtailWrite q v) s t ∧ t = { s with disp := t.disp } ∧
        queueOf t q.toNat = { queueOf s q.toNat with tail := tail } ∧ (∀ p, p ≠ q.toNat → queueOf t p = queueOf s p) ∧
        t.disp.slots = s.disp.slots) ∧
      (ringSize s q.toNat < (tail - head).toNat → Answers (.qtailWrite q v) s (logRec s
        { code := 0x02, unitCls := 7, unit := 0, slot := none, object := v.toNat, detail := 0x31 * 2 ^ 56 + q.toNat }))) ∧
  (∀ (s : State) (q : QueueId) (seq : BitVec 32), Inv s →
      (∀ (k : Nat) (c : Cmd), s.disp.slots = [(k, c)] → c.queue = q.toNat → c.seq = seq.toNat → c.phase = .admitted ∨ c.phase = .ready →
        ∀ i ∈ [Instr.abortOne q seq, Instr.abortAll q], ∃ t m, Answers i s t ∧ SameMemory s t ∧ cmdOf t k = some m ∧ m.phase = .closing ∧
        m.status = some .aborted) ∧
      (∀ (k : Nat) (c : Cmd), s.disp.slots = [(k, c)] → c.queue = q.toNat → c.seq = seq.toNat → c.phase = .running →
        ∀ i ∈ [Instr.abortOne q seq, Instr.abortAll q], ∃ t, Answers i s t ∧ SlotBecomes s t k { c with aborts := c.aborts ++ [(c.reqSent, c.failSent)] }) ∧
      (∀ n : BitVec 32, (n - (queueOf s q.toNat).head).toNat < ((queueOf s q.toNat).tail - (queueOf s q.toNat).head).toNat →
        (planeNat s (ringEntry s q.toNat n + 8) 4 = seq.toNat → ∃ t, Answers (.abortOne q seq) s t ∧ n ∈ (queueOf t q.toNat).marks) ∧
        ∃ t, Answers (.abortAll q) s t ∧ n ∈ (queueOf t q.toNat).marks) ∧
      (s.disp.slots = [] → (queueOf s q.toNat).head = (queueOf s q.toNat).tail → (queueOf s q.toNat).marks = [] →
        ∃ t, Answers (.abortOne q seq) s t ∧
        let r := logRec s { code := 0x0C, unitCls := 7, unit := 0, slot := none, object := seq.toNat, detail := 0x38 * 2 ^ 56 + q.toNat }
        t.flt = r.flt ∧ t.live = r.live))

/-- ADMIT takes the record at the head of the queue whose turn it is into a free slot, the members of a joint set one after the other, and turns away a
record that its checks, an abort mark or the end of its set ends (R73, R78, R89, R90, R112). That the slot is the lowest free one is the model's choice
(log 53). -/
def Obligations.Admission : Prop :=
  ∀ (s : State) (q k : Nat), admissionStopped s = false → nextQueue s = some q → lowestFree s = some k →
    let u := queueOf s q
    let r := headRecord s q
    let c := fun lead => newCmd r q (ringEntry s q u.head) s.disp.orders lead (fld r 40 4 + 1) (regGet s (mQcfg q)) (regGet s (mQcomp q))
    let passes : Prop := u.marks.contains u.head = false ∧ recordBad r = none ∧
      (fld r 0 8 = 3 → (Map.find? s.fab.groups (fld r 360 12)).isSome = true) ∧ (fld r 96 32 = 0xFFFFFFFF ∨ s.disp.epoch.toNat ≤ fld r 96 32)
    let goesOn := fun (t : State) => (queueOf t q).head = u.head + 1 ∧ (queueOf t q).tail = u.tail ∧ t.disp.nextRR = (q + 1) % 256
    (u.joinLeft = 0 → passes → ∃ t, Answers .admission s t ∧ SlotBecomes s t k (c s.disp.orders) ∧ goesOn t ∧
      (queueOf t q).joinLeft = fld r 40 4 ∧ (queueOf t q).joinLead = s.disp.orders) ∧
    (0 < u.joinLeft → u.joinEnd = none → fld r 40 4 = 0 → passes → ∃ t, Answers .admission s t ∧ SlotBecomes s t k (c u.joinLead) ∧ goesOn t ∧
      (queueOf t q).joinLeft = u.joinLeft - 1 ∧ (queueOf t q).joinLead = u.joinLead) ∧
    (∀ st idx, 0 < u.joinLeft → u.joinEnd = some (st, idx) → ∃ t m, Answers .admission s t ∧ cmdOf t k = some m ∧ m.record = r ∧
      m.phase = .closing ∧ m.status = some st ∧ m.errIdx = idx ∧ goesOn t) ∧
    (u.joinLeft = 0 → u.marks.contains u.head = true → fld r 40 4 = 0 → ∃ t m, Answers .admission s t ∧ cmdOf t k = some m ∧ m.record = r ∧
      m.phase = .closing ∧ m.status = some .aborted ∧ (queueOf t q).head = u.head + 1) ∧
    (u.joinLeft = 0 → u.marks.contains u.head = false → fld r 40 4 = 0 → (recordBad r).isSome = true → ∃ t m, Answers .admission s t ∧ cmdOf t k = some m ∧
      m.record = r ∧ m.phase = .closing ∧ m.status = some .failed ∧ (queueOf t q).head = u.head + 1)

/-- COMMAND_READY: a command whose conditions hold takes its copy of the annex and is ready; one whose start counter is short registers a
watch (R77, R85, R87, R184).

What ends a wait or is counted: DEFICIT_CHARGE, EPOCH_WAIT_TIMEOUT and RTC_LAPSED (R90, R108, R110, R118). -/
def Obligations.ReadinessAndLimits : Prop :=
  (∀ (s : State) (k : SlotId) (c : Cmd), cmdOf s k.toNat = some c → c.phase = .admitted →
      (c.epoch = 0xFFFFFFFF ∨ c.epoch = s.disp.epoch.toNat) →
      (∀ a, startReady s c = true → (c.ordered && olderLeft s c) = false → setWhole s c = true → addressBad s c = none →
        readAnnex s k.toNat c = .ok a → ∃ t m, Answers (.commandReady k) s t ∧ SlotBecomes s t k.toNat m ∧
        m = { c with phase := .ready, annex := m.annex, stage := (a.map (·.stage)).getD [] } ∧
        (a = none → c.destRange s = [] → m.annex = none) ∧
        (∀ x, a = some x → m.annex = some { x with outs := x.outs ++ c.destRange s })) ∧
      (startReady s c = false → (s.sync.watches.any fun w => w.who = .start k.toNat) = false → ∃ t w, Answers (.commandReady k) s t ∧
        t = { s with sync := { s.sync with watches := s.sync.watches ++ [w] } } ∧ w.who = .start k.toNat ∧ w.ctr = c.startCtr ∧
        w.target = BitVec.ofNat 64 c.startTarget)) ∧
  (∀ (s : State) (k : SlotId) (c : Cmd), cmdOf s k.toNat = some c →
      (c.active = true → c.cores ≠ [] → ∃ t, Answers (.deficitCharge k) s t ∧ SlotBecomes s t k.toNat { c with charge := c.charge + 65536 } ∧
        (queueOf t c.queue).deficit = max (-(2 ^ 47)) (min (2 ^ 47) ((queueOf s c.queue).deficit - 65536)) ∧
        liveGet t (mQacct c.queue) = liveGet s (mQacct c.queue) + 65536) ∧
      (c.phase = .admitted → c.epoch ≠ 0xFFFFFFFF → s.disp.epoch.toNat < c.epoch → Answers (.epochWaitTimeout k) s (failWith s k.toNat
        { code := 0x14, unitCls := 7, unit := 0, slot := some k.toNat, object := c.epoch, detail := 0x21 * 2 ^ 56 + s.disp.epoch.toNat })) ∧
      (c.phase = .running → c.rtc = true → fld c.qcfg 32 16 ≠ 0 → ∃ t, Answers (.rtcLapsed k) s t ∧
        SlotBecomes s t k.toNat { c with lapsed := true }))

/-- GRANT: where one queue's head can be granted, that command runs with what its queue and the epoch give it, and its cores are its own, in
rank order (R79, R88, R94, R106, R109). -/
def Obligations.Grant : Prop :=
  ∀ (s : State) (q k : Nat) (m : Cmd) (cs : List Nat),
    readyQueues s = [q] → headOf s q = some k → jointSet s k = [k] → cmdOf s k = some m → headFail s k m = none →
    grantable s k = true → 0 < (queueOf s q).deficit → pickCores s k = some [(k, cs)] → cs.Nodup → grantFail s k (cs.headD 0) m = none →
    m.kind ≠ 3 → m.kind ≠ 7 → m.rtc = false →
    ∃ t c, Answers .grant s t ∧ SameMemory s t ∧ cmdOf t k = some c ∧ c.phase = .running ∧ c.runs = m.runs + 1 ∧ c.cores = cs ∧
      c.stage = m.reserve s ∧ c.epochAt = s.disp.epoch ∧ c.csets = BitVec.ofNat 48 (cfg s (mQpart m.queue) 0 48) ∧
      c.ways = BitVec.ofNat 16 (cfg s (mQpart m.queue) 48 16) ∧ c.record = m.record ∧
      (∀ i, (h : i < cs.length) → coreOf t cs[i] = { coreOf s cs[i] with slot := some k, rank := i, based := false }) ∧
      ∀ x, x ∉ cs → coreOf t x = coreOf s x

/-- LAUNCH: every core of the set starts at PROG with its registers as R80 gives them.

A NOP runs and asks to commit at once (R78, R95). -/
def Obligations.CommandsStart : Prop :=
  (∀ (s : State) (k : SlotId) (m : Cmd),
      cmdOf s k.toNat = some m → m.phase = .running → m.kind = 1 → m.work = false → m.kill = none → m.failSent = false → m.cores.Nodup →
      (∀ c ∈ m.cores, (coreOf s c).dbg.request = none) →
      let prog := fld m.record 240 48
      fetchable s k.toNat prog = true → fencedIn s (icLineOf prog) 128 = none →
      ∃ t, Answers (.launch k) s t ∧ SameMemory s t ∧ (∀ x, x ∉ m.cores → coreOf t x = coreOf s x) ∧
        ∀ i, (h : i < m.cores.length) →
          let c := coreOf t m.cores[i]
          c.pc.toNat = prog ∧ c.act = .running ∧ c.p = 0 ∧ c.dbg.state = 1 ∧ (∀ r, dGet c r = 0) ∧
          ∀ r, gGet c r = if r = 1 then BitVec.ofNat 64 (fld m.record 288 48) else if r = 2 then BitVec.ofNat 64 i
            else if r = 3 then BitVec.ofNat 64 m.cores.length else if r = 4 then BitVec.ofNat 64 (fld m.record 448 64) else 0) ∧
  (∀ (s : State) (k : SlotId) (c : Cmd), Inv s → cmdOf s k.toNat = some c → jointSet s k.toNat = [k.toNat] → c.phase = .running → c.kind = 0 →
      c.work = false → c.kill = none → c.failSent = false → stagedFenced s c = none → partialPoison s [k.toNat] = none →
      ∃ t, Answers (.nop k) s t ∧ SlotBecomes s t k.toNat { c with work := true, fin := true, reqSent := true })

/-! ### Commit, kill and completion (R93 to R107, R113, R119, R502) -/

/-- The messages of a command to the sequencer, which takes them in the order in which they left (`aborts` notes what had left before each abort): a commit
request decides the set and begins the apply round, in all eight slices (the model's choice, log 37), under the next commit number; a fail message marks the set failed and
starts its kill; an abort that comes in time starts the kill, and one that does not is ABORT_TOO_LATE (R95, R112, R113). -/
def Obligations.SequencerMessages : Prop :=
  ∀ (s : State) (k : SlotId) (c : Cmd), cmdOf s k.toNat = some c → jointSet s k.toNat = [k.toNat] → c.kind = 1 →
    (c.reqSent = true → c.decided = false → c.phase = .running → c.kill = none → (c.aborts.all (·.1)) = true → s.disp.current = none →
      s.dbg.snap = .idle → stagedFenced s c = none → c.staged ≠ [] → ∃ t, Answers (.commitRequest k) s t ∧ SameMemory s t ∧
      cmdOf t k.toNat = some { c with decided := true, phase := .committing, commitNo := s.disp.lastNo + 1 } ∧
      t.disp.lastNo = s.disp.lastNo + 1 ∧
      t.disp.current = some ⟨[k.toNat], s.disp.lastNo + 1, .applying, List.range 8, []⟩) ∧
    (c.failSent = true → c.decided = false → c.failed = false → (c.reqSent && c.kill.isNone) = false → (c.aborts.all (·.2)) = true → ∃ t, Answers (.failMessage k) s t ∧ SameMemory s t ∧
      cmdOf t k.toNat = some { c with failed := true, kill := some (if c.kill = some .abort then .abort else .fail) } ∧
      ∀ x ∈ c.cores, (coreOf t x).act = .stopped) ∧
    (∀ a rest, c.aborts = a :: rest → c.abortWaits = false → c.decided = false → c.failed = false → c.phase = .running → c.kill = none →
      s.disp.change = none →
      ∃ t, Answers (.abortMessage k) s t ∧ SameMemory s t ∧
      cmdOf t k.toNat = some { c with decided := true, aborts := rest, kill := some .abort } ∧
      ∀ x ∈ c.cores, (coreOf t x).act = .stopped) ∧
    (∀ a rest, c.aborts = a :: rest → c.decided = true → ∃ t m, Answers (.abortMessage k) s t ∧ SameMemory s t ∧ cmdOf t k.toNat = some m ∧
      m.tooLate = true ∧ m.aborts = rest ∧ m.phase = c.phase ∧ m.kill = c.kill)

/-- APPLY in a slice puts the staged bytes of that slice in committed memory, then merges the staged deltas of each element there in the ascending order
of their (contributor index, core, engine), and changes no other byte (R48, R95).

APPLY inverts bit 0 of each FLIP selector of its slice (R86, R95), outside the KV frame table, which no command writes (R277). -/
def Obligations.ApplyWritesMemory : Prop :=
  (∀ (s : State) (b : SliceId) (m : Commit) (k : Nat) (c : Cmd), Inv s →
      s.disp.current = some m → m.slots = [k] → m.round = .applying → b.toNat ∈ m.todo → cmdOf s k = some c → c.kind = 1 →
      Plain s k c = true → c.annex.map (·.outs.all (·.kind != 2)) ≠ some false →
      (∀ x ∈ c.deltas, ∀ y ∈ c.deltas, (x.addr, x.bytes) = (y.addr, y.bytes) ∨ x.addr + x.bytes ≤ y.addr ∨ y.addr + y.bytes ≤ x.addr) →
      let after : Nat → Byte := fun a => match Map.find? c.staged a with
          | some v => if sliceOf s (lineOf a) = b.toNat then v else planeByte s a
          | none => planeByte s a
      ∃ t, Answers (.apply b none) s t ∧
        (∀ a, (∀ x ∈ c.deltas, sliceOf s x.addr = b.toNat → a < x.addr ∨ x.addr + x.bytes ≤ a) → planeByte t a = after a) ∧
        (∀ x ∈ c.deltas, sliceOf s x.addr = b.toNat → ∀ ds : List Delta,
          ds.Perm (c.deltas.filter fun d => d.addr = x.addr && d.bytes = x.bytes) → ds.Pairwise (fun d e => deltaKey d < deltaKey e) →
          planeRead t x.addr x.bytes = natLE x.bytes (mergeDeltas (denormOf s k) x.bytes (leNat ((span x.addr x.bytes).map after)) ds)) ∧
        (s.flt.upsets = [] → ∀ n, ctrGet t n = ctrGet s n) ∧
        t.disp.current = some { m with todo := m.todo.filter (· != b.toNat), answered := m.answered ++ [b.toNat] }) ∧
  (∀ (s : State) (b : SliceId) (m : Commit) (k : Nat) (c : Cmd) (x : Annex) (o : OutEntry), Inv s →
      s.disp.current = some m → m.slots = [k] → m.round = .applying → b.toNat ∈ m.todo → cmdOf s k = some c → c.kind = 1 → c.deltas = [] →
      Plain s k c = true → c.staged = [] → c.annex = some x → x.outs = [o] → o.kind = 2 → sliceOf s o.addr = b.toNat → inFrameTable s o.addr 8 = false →
      ∃ t, Answers (.apply b none) s t ∧ planeByte t o.addr = planeByte s o.addr ^^^ 1 ∧ ∀ a, a ≠ o.addr → planeByte t a = planeByte s a)

/-- The rounds of a commit: the last apply_done begins the release round, in all eight slices (the model's choice, log 37), a release frees its slice, and
once every slice has released the done signal is applied and the command ends COMMITTED (R95, R502). -/
def Obligations.CommitRounds : Prop :=
  ∀ (s : State) (b : SliceId) (m : Commit), s.disp.current = some m → Unhindered s = true →
    (m.round = .applying → m.todo = [] → m.answered = [b.toNat] → ∃ t, Answers (.applyDone b) s t ∧
      t = { s with disp := { s.disp with current := some { m with round := .releasing, todo := List.range 8, answered := [] } } }) ∧
    (m.round = .releasing → b.toNat ∈ m.todo → ∃ t, Answers (.release b) s t ∧
      t = { s with disp := { s.disp with current := some { m with todo := m.todo.filter (· != b.toNat) } } }) ∧
    (∀ (k : Nat) (c : Cmd), m.round = .releasing → m.todo = [] → m.slots = [k] → cmdOf s k = some c → c.phase = .committing → c.kind = 1 →
      jointSet s k = [k] → Plain s k c = true → c.sums = [] → c.egress = [] → c.doneInc ≠ 0 → (queueOf s c.queue).joinLeft = 0 →
      ∃ t d, Answers .releaseDone s t ∧ SameMemory s t ∧ t.disp.current = none ∧ cmdOf t k = some d ∧ d.phase = .closing ∧
      d.status = some .committed ∧ (ctrGet t c.doneCtr).toNat = min ((ctrGet s c.doneCtr).toNat + c.doneInc) (2 ^ 64 - 1) ∧
      (∀ n, n ≠ c.doneCtr → ctrGet t n = ctrGet s n) ∧ ∀ x ∈ c.cores, (coreOf t x).slot = none ∧ (coreOf t x).act = .idle)

/-- A kill leaves nothing behind: no byte of memory and no counter changes, the staged lines are gone and the cores are free; a command that is
killed to run again is ready, one that failed or was aborted has ended so (R104, R105, R106). -/
def Obligations.KillLeavesNothing : Prop :=
  ∀ (s : State) (k : SlotId) (c : Cmd), cmdOf s k.toNat = some c → jointSet s k.toNat = [k.toNat] → c.kind = 1 → c.phase = .running →
    Unhindered s = true → s.disp.change = none → s.sync.inflight = [] → c.egress = [] → c.units = [] → c.sigOnEnd = false →
    (queueOf s c.queue).joinLeft = 0 → c.lost = none → Plain s k.toNat c = true →
    ∀ w, c.kill = some w → (w = .rerun ∨ w = .abort ∨ (w = .fail ∧ c.failed = true)) →
    ∃ t d, Answers (.killComplete k) s t ∧ SameMemory s t ∧ (∀ n, ctrGet t n = ctrGet s n) ∧ cmdOf t k.toNat = some d ∧
      d.staged = [] ∧ d.deltas = [] ∧ d.sums = [] ∧ d.cores = [] ∧ d.kill = none ∧ d.record = c.record ∧
      (w = .rerun → d.phase = .ready ∧ d.runs = c.runs) ∧
      (w = .abort → d.phase = .closing ∧ d.status = some .aborted) ∧ (w = .fail → d.phase = .closing ∧ d.status = some .failed) ∧
      ∀ x ∈ c.cores, (coreOf t x).slot = none ∧ (coreOf t x).act = .idle

/-- COMPLETION_RECORD frees the slot and sends the record of R119: in a datagram of its queue's port, or with CQ_FCT = 0 by RDMA WRITE to its place in the
host's ring (R119, R120, R394). That a datagram carries one record, where R391 allows up to 32, is the model's reading (DEDUCED, log 29). -/
def Obligations.CompletionRecord : Prop :=
  ∀ (s : State) (k : SlotId) (c : Cmd), cmdOf s k.toNat = some c → c.phase = .closing → egressOut s k.toNat = false → c.kind ≠ 9 → c.queue < 256 →
    endedBefore s c = false →
    let i := (queueOf s c.queue).records
    let size := 2 ^ (fld c.qcomp 18 4 + 6)
    let record := fun (bytes : List Byte) => bytes.length = 32 ∧
      let r : BitVec 256 := BitVec.ofNat 256 (leNat bytes)
      fld r 0 1 = 1 - i / size % 2 ∧
      fld r 12 4 = (match c.status with | some .committed => 0 | some .aborted => 1 | _ => 2) ∧ fld r 24 8 = min c.runs 255 ∧
      fld r 32 8 = c.kind ∧ fld r 48 16 = k.toNat ∧ fld r 96 32 = c.seq ∧ fld r 128 64 = c.commitNo.toNat ∧ fld r 192 64 = c.charge.toNat ∧
      fld r 64 32 = (c.errIdx.getD 0xFFFFFFFF#32).toNat
    let ends := fun (t : State) => Answers (.completionRecord k) s t ∧ SameMemory s t ∧ cmdOf t k.toNat = none ∧
      (∀ j, j ≠ k.toNat → cmdOf t j = cmdOf s j) ∧ (queueOf t c.queue).records = i + 1
    (bit c.qcfg 17 = true → portSends s (fld c.qcfg 16 1) = true → (s.eth.comps.filter fun x => x.port = fld c.qcfg 16 1).length < 64 →
      ∃ t wire e src h bytes, ends t ∧ t.sent = .fct wire e src h bytes :: s.sent ∧ e = fld c.qcfg 16 1 ∧
      wire.dmac.toNat = cfg s (mCqMac e) 0 48 ∧ fctType h = 3 ∧ fctCount h = 1 ∧ fctQueue h = c.queue ∧ record bytes) ∧
    let n := fld c.qcomp 22 10
    (bit c.qcfg 17 = false → qpState s n = 1 → (qpOf s n).rnr = false → portSends s (qpPort s n) = true →
      ∃ t p, ends t ∧ t.sent = .rdma (qpWire s n) n p :: s.sent ∧ p.read = false ∧ p.rkey.toNat = fld c.qcomp 32 32 ∧
      p.va = BitVec.ofNat 64 (cfg s (mQcompVa c.queue) 0 64 + 32 * (i % size)) ∧ p.psn.toNat = qpNext s n ∧ record p.data ∧
      (qpOf t n).kept = (qpOf s n).kept ++ [p])

/-! ### The engines (R61 to R63, R150 to R177) -/

/-- The checks of R176, which are made once: the first that fails writes the record of R177, fails the command, stops the engine and frees the entry, and
nothing else happens. A reserved opcode, and a reserved format, fail check 1 at the lowest bit of their field, whatever the fields that check 1 reads after
them hold (that order inside check 1 is the model's reading, log 30). -/
def Obligations.EngineChecks : Prop :=
  ∀ (s : State) (c : CoreId) (e op slot : Nat) (i : Instr) (f : Form) (x : EInstr),
    engInstr s c e op = some (i, f) → (coreOf s c.toNat).slot = some slot → (queueOfEng (coreOf s c.toNat) e).head? = some x →
    runs s slot = true → (cmdOf s slot).map (·.decided) = some false → e ∉ (coreOf s c.toNat).broken → s.flt.upsets = [] →
    let fails := fun (b : Bad) => Answers i s (stopHead c.toNat e (failWith s slot ⟨b.code, 1, c.toNat, some slot,
      b.reg * 2 ^ 59 + b.role * 2 ^ 56 + b.value % 2 ^ 56, b.reason * 2 ^ 56 + (e + 1) * 2 ^ 48 + x.addr.toNat⟩))
    let j : Job := { s := s, k := slot, core := c.toNat, eng := e, i := x, ops := operandsOf f x }
    ((knownOps e).contains x.op = false → fails ⟨0x02, 0x01, 0, 7, 120⟩) ∧
    (x.op = op → x.asleep = false → x.woken = false → x.checked = false →
      (fmtKnown x.fmt = false → fails ⟨0x02, 0x01, 0, 7, 108⟩) ∧ ∀ b, allChecks f j = some b → fails b)

/-- The one reading of R61, which waits while an earlier instruction of the engine in flight writes what this one touches (R173), and behind the signals sent before it
on its path (R20). An instruction without a cheaper path sleeps until its counter reaches the target; one with a cheaper path counts a
deadline miss and runs on it at once, or sleeps where the command is strict; the first miss writes the record of R63. A zero shape reads and
writes nothing and is in flight once its wait is met (R168), as every SYNC is (R153). -/
def Obligations.EngineWaits : Prop :=
  ∀ (s : State) (c : CoreId) (e op : Nat) (i : Instr) (f : Form) (j : Job) (m : Cmd),
    engInstr s c e op = some (i, f) → j.s = s → j.core = c.toNat → j.eng = e → atHead f op j = true → j.i.woken = false →
    allChecks f j = none → cmdOf s j.k = some m → 
    let waits := Answers i s (updHead s c.toNat e fun x => { x with checked := true })
    (depends f j = true → waits) ∧ (depends f j = false →
    let k := coreOf s c.toNat
    let n := (nameCtr c.toNat j.i.wctr).getD 0
    let passes := waitMet j
    let short := !waitMet j && !readBehind s c.toNat n
    let s₁ := if j.i.wreg = 0 then s else readPort s c.toNat n
    let sleeps := fun (t : State) => ∃ w, t.sync = { s.sync with watches := s.sync.watches ++ [w] } ∧ w.ctr = n ∧ w.target = j.i.target ∧
      w.who = .engine c.toNat e ∧ (∀ o, o ≠ c.toNat → coreOf t o = coreOf s o) ∧
      (queueOfEng (coreOf t c.toNat) e).head?.map (·.asleep) = some true ∧ SameMemory s t ∧
      coreOf t c.toNat = { k with queues := (coreOf t c.toNat).queues }
    (j.i.wreg ≠ 0 → readBehind s c.toNat n = true → waits) ∧
    (short = true → j.i.altsel = 0 → f.path j ≠ some true → ∃ t, Answers i s t ∧ sleeps t ∧ cmdOf t j.k = some m ∧ t.flt = s.flt) ∧
    (short = true → j.i.altsel ≠ 0 → f.path j = none → m.strict = true → ∃ t, Answers i s t ∧ sleeps t ∧
      (∃ d, cmdOf t j.k = some d ∧ d.missed = true ∧ { d with missed := m.missed, errIdx := m.errIdx } = m) ∧
      (m.missed = true → t.flt = s.flt) ∧
      (m.missed = false → t.flt = (logRec s ⟨0x0A, 1, c.toNat, some j.k, j.i.target.toNat, n * 2 ^ 48 + j.i.addr.toNat⟩).flt)) ∧
    (short = true → j.i.altsel ≠ 0 → f.path j = none → m.strict = false → ∃ t d, Answers i s t ∧
      cmdOf t j.k = some d ∧ d.missed = true ∧ d.fallback = true ∧ d.summary = (m.summary || decide (j.i.altsel = 3))) ∧
    (passes = true → f.zero j.ops = true → f.remote j.i j.ops = false → ∃ t x, Answers i s t ∧ OnlyCore s₁ t c.toNat ∧
      coreOf t c.toNat = { k with started := k.started + 1, queues := (coreOf t c.toNat).queues, flying := (coreOf t c.toNat).flying, held := (coreOf t c.toNat).held } ∧
      queueOfEng (coreOf t c.toNat) e = (queueOfEng k e).drop 1 ∧ flyingOf (coreOf t c.toNat) e = flyingOf k e ++ [x] ∧
      x.addr = j.i.addr ∧ x.sctr = j.i.sctr ∧ x.sinc = j.i.sinc ∧ x.zero = true ∧ x.accepted = true) ∧
    (op = 0x01 → e = 4 → f.zero j.ops = true))

/-- The chain of an output (R202): products are added in lane order, each sum formed exactly and rounded once. -/
def Obligations.MatrixProducts : Prop :=
  let product := fun (j : Job) (n : Nat) (r : List Nat) =>
    let m := r.getD 0 0
    (List.range 64).foldl (fun acc k =>
        fp32Rne j.denorm ((fp32.value acc).add ((j.value (j.op .da) k [m, 0, 0, 0]).mul (j.value (j.op .db) k [n, 0, 0, 0]))))
      (if bit j.i.raw 30 then j.elem32 (getOp j.ops .dc) n [m, 0, 0, 0] else 0x80000000)
  let start := fun (j : Job) (n : Nat) (r : List Nat) => if bit j.i.raw 30 then j.elem32 (getOp j.ops .dc) n [r.getD 0 0, 0, 0, 0] else 0x80000000
  let any := fun (_ : Job) => true
  let no := fun (_ : Job) => ([] : List (Nat × Nat × Nat))
  let tt := fun (_ : Job) (_ : State) => True
  -- MM and MV (R218, R235)
  Produces 0 0x01 false any product no tt ∧ Produces 1 0x01 false any product no tt ∧
  -- CONV (R318): the channels of its tiles in ascending order
  Produces 0 0x10 false any (fun j n r =>
    (span (64 * j.geo.ct0) (64 * convTiles j.i)).foldl (fun acc ch =>
        fp32Rne j.denorm ((fp32.value acc).add ((gathered j (rowSrc j (r.getD 0 0) 0) ch).mul
          (j.value (j.op .db) ch [n, j.geo.tap 0, j.geo.tap 1, j.geo.tap 2])))) (start j n r)) no tt ∧
  -- CONVG (R321): the lanes of the block of column n
  Produces 0 0x11 false any (fun j n r =>
    let b := n / cgNb j.i
    (List.range (cgKb j.i)).foldl (fun acc u =>
        fp32Rne j.denorm ((fp32.value acc).add ((gathered j (rowSrc j (r.getD 0 0) (u % cgUx j.i))
          (j.geo.cbase + b * (cgKb j.i / cgUx j.i) + u / cgUx j.i)).mul (j.value (j.op .db) (b * cgKb j.i + u) [n, 0, 0, 0])))) (start j n r)) no tt ∧
  -- CWIN (R323)
  Produces 0 0x18 false any (fun j n r =>
    let v := gathered j (rowSrc j (r.getD 0 0) 0) (64 * j.geo.ct0 + n)
    fp32Of j.denorm (if j.i.ext 29 2 = 0 then v else if j.i.ext 29 2 = 1 then (j.value (getOp j.ops .dc) n r).max2 v
      else (j.value (getOp j.ops .dc) n r).add v)) no tt ∧
  -- CROP (R325)
  Produces 0 0x20 false any (fun j n r => cropElem j (r.getD 0 0) n) no tt

/-- The fused pair: scores, row function, second product, and what is retained for MMP (R228 to R233). -/
def Obligations.FusedPairs : Prop :=
  let acc := fun (j : Job) (factor n : Nat) (r : List Nat) =>
    if bit j.i.raw 30 then mul32 j.denorm (j.elem32 (getOp j.ops .dc) n [r.getD 0 0, 0, 0, 0]) factor else 0x80000000
  let second := fun (j : Job) (code : Nat) (row : Nat × List Nat) (w : List FVal) (n : Nat) (r : List Nat) =>
    chain j.denorm (acc j row.1 n r) (products (pLanes j.denorm code row.2) w)
  let any := fun (_ : Job) => true
  let rowsOf := fun (j : Job) => (getOp j.ops .da).e 1
  let scoresOf := fun (j : Job) =>
    stageOne j (scoreBase j.i) (bit j.i.raw 29) (rowsOf j) (j.lanes (j.op .da)) ((List.range ((getOp j.ops .db).e 1)).map (j.lanes (j.op .db)))
  let states := fun (j : Job) => if mmfFn j.i = 1 then [(3, stateBase j.i, 8 * rowsOf j)] else []
  let kept := fun (j : Job) (t : State) (k pages : Nat) (rows : List (Nat × List Nat)) => ∃ b, (coreOf t j.core).pbuf = some b ∧
    b.rows = (rows.map fun r => r.2.map (BitVec.ofNat 16)) ∧ b.factors = (rows.map fun r => BitVec.ofNat 32 r.1) ∧ b.k = k ∧
    b.pages = pages ∧ b.pfmt.toNat = mmfCode j.i
  -- MMF
  Produces 0 0x02 true any (fun j n r => second j (mmfCode j.i) ((mmfRows j (scoresOf j)).1.getD (r.getD 0 0) (0, [])) (j.lanes (getOp j.ops .x) n) n r)
    (fun j => ((scoreRows (scoreBase j.i) (rowsOf j) ((getOp j.ops .db).e 1)).map fun p => (3, p.1, p.2)) ++ states j)
    (fun j t => (∀ m < rowsOf j, ∀ n < (getOp j.ops .db).e 1,
        acc32 { j with s := still t j.core } (scoreBase j.i + 256 * m + 4 * n) = ((scoresOf j).getD m []).getD n 0 % 2 ^ 32) ∧
      kept j t (if mmfFn j.i = 1 then (getOp j.ops .db).e 1 else (getOp j.ops .db).e 1 / 2) 0 (mmfRows j (scoresOf j)).1) ∧
  -- MMP, on the P that the core retains
  Produces 0 0x03 true any (fun j n r => match j.pbuf with
      | some p => second j p.pfmt.toNat ((retained p).getD (r.getD 0 0) (0, [])) (j.lanes (j.op .db) n) n r
      | none => 0) (fun _ => []) (fun j t => (coreOf t j.core).pbuf = j.pbuf) ∧
  -- KMM (R299): the keys of the block's columns
  Produces 0 0x30 true any (fun j n r =>
      chain j.denorm (if bit j.i.raw 30 then j.elem32 (getOp j.ops .dc) n [r.getD 0 0, 0, 0, 0] else 0x80000000)
        (products (j.lanes (j.op .da) (r.getD 0 0)) (kvLanes j j.block false (j.i.ext 29 1) (kcol j j.block n)))) (fun _ => [])
    (fun j t => (coreOf t j.core).kmmSum = j.i.alt) ∧
  -- KMMF (R299, R300)
  Produces 0 0x31 true any (fun j n r =>
      let rows := kRows j j.block (kScores j j.block (rowsOf j) (j.i.ext 28 1) (bit j.i.raw 29))
      let row := ((rows.map fun x => (x.2.c, x.2.p)).getD (r.getD 0 0) (0, []))
      second j (mmfCode j.i) row ((kcols j j.block).map fun x => (blank j.block (r.getD 0 0) x (kvLanes j j.block true (j.i.ext 27 1) x)).getD n (.zero false))
        n r)
    (fun j => ((scoreRows (scoreBase j.i) (rowsOf j) 64).map fun p => (3, p.1, p.2)) ++ [(3, stateBase j.i, 8 * rowsOf j)])
    (fun j t => kept j t 64 j.block.pages
      ((kRows j j.block (kScores j j.block (rowsOf j) (j.i.ext 28 1) (bit j.i.raw 29))).map fun x => (x.2.c, x.2.p))) ∧
  -- KMMP (R302): the values of the block whose P is retained
  Produces 0 0x32 true any (fun j n r => match j.pbuf with
      | some p => second j p.pfmt.toNat ((retained p).getD (r.getD 0 0) (0, []))
          ((kcols j j.block).map fun x => (blank j.block (r.getD 0 0) x (kvLanes j j.block true (j.i.ext 29 1) x)).getD n (.zero false)) n r
      | none => 0) (fun _ => []) (fun j t => (coreOf t j.core).pbuf = j.pbuf)

/-- The element-wise operations of the vector engine (R247 to R251): exact, then rounded once into DC's format; the integer class wraps. -/
def Obligations.VectorElements : Prop :=
  let any := fun (_ : Job) => true
  let no := fun (_ : Job) => ([] : List (Nat × Nat × Nat))
  let tt := fun (_ : Job) (_ : State) => True
  let a := fun (j : Job) i0 r => j.value (j.op .da) i0 r
  let b := fun (j : Job) i0 r => j.value (j.op .db) i0 r
  let out := fun (j : Job) (i0 : Nat) (r : List Nat) (v : Near) => j.out (getOp j.ops .dc) i0 r v
  let two := fun (fn : Job → FVal → FVal → Near) (ifn : Int → Int → Int) (j : Job) i0 r =>
    if intClass j.i then ((ifn (j.int (j.op .da) i0 r) (j.int (j.op .db) i0 r)) % 2 ^ (getOp j.ops .dc).w).toNat
    else out j i0 r (fn j (a j i0 r) (b j i0 r))
  Produces 2 0x02 false any (two (fun j x y => exactly (x.addD j.down y)) (· + ·)) no tt ∧
  Produces 2 0x03 false any (two (fun j x y => exactly (x.addD j.down y.neg)) (· - ·)) no tt ∧
  Produces 2 0x04 false any (two (fun _ x y => exactly (x.mul y)) (· * ·)) no tt ∧
  Produces 2 0x05 false any (fun j i0 r =>
    out j i0 r (exactly (((a j i0 r).mul (b j i0 r)).addD j.down (j.value (getOp j.ops .dc) i0 r)))) no tt ∧
  Produces 2 0x06 false any (two (fun _ x y => exactly (x.min2 y)) min) no tt ∧
  Produces 2 0x07 false any (two (fun _ x y => exactly (x.max2 y)) max) no tt ∧
  Produces 2 0x08 false any (fun j i0 r => out j i0 r (fnDiv (a j i0 r) (b j i0 r))) no tt ∧
  Produces 2 0x09 false any (fun j i0 r =>
    let g := j.i.gReg (j.i.ext 17 5)
    out j i0 r (exactly (((val32 j.denorm (fld g 0 32)).mul (a j i0 r)).addD j.down (val32 j.denorm (fld g 32 32))))) no tt ∧
  Produces 2 0x10 false any (fun j i0 r => out j i0 r (vecFn j.denorm (j.i.ext 0 5) (a j i0 r))) no tt ∧
  Produces 2 0x11 false any (fun j i0 r =>
    let y := b j (j.i.ext 0 13) r
    out j i0 r (if j.i.ext 19 3 = 0 then exactly ((a j i0 r).mul y) else if j.i.ext 19 3 = 1 then fnDiv (a j i0 r) y
      else if j.i.ext 19 3 = 2 then exactly ((a j i0 r).addD j.down y) else exactly ((a j i0 r).addD j.down y.neg))) no tt ∧
  -- VCVT (R248): into an MX format with the scale bytes of the blocks
  Produces 2 0x01 false any (fun j i0 r =>
      if (getOp j.ops .dc).mx then j.mxElem (j.op .da) (getOp j.ops .dc) i0 r else out j i0 r (exactly (a j i0 r))) no
    (fun j t =>
      let o := getOp j.ops .dc
      o.mx = true → ∀ r ∈ o.rows, ∀ n < ceilDiv (o.e 0) 32,
        Job.byte { j with s := still t j.core } o.loc (o.scaleAt r + n) = BitVec.ofNat 8 (j.mxBlock (j.op .da) o (32 * n) r))

/-- The other operations of the vector engine: reductions along a row in the tree of R252, softmax rows (R253), complex products and
butterflies (R256, R257), transposition (R258), random numbers (R255), gates (R260) and the recurrence (R264). -/
def Obligations.VectorRows : Prop :=
  let any := fun (_ : Job) => true
  let no := fun (_ : Job) => ([] : List (Nat × Nat × Nat))
  let tt := fun (_ : Job) (_ : State) => True
  let dc := fun (j : Job) => getOp j.ops .dc
  let x := fun (j : Job) => places (getOp j.ops .x)
  let unshared := fun (j : Job) => (dc j).loc ≠ (getOp j.ops .x).loc ∨ anyOverlap (dc j).spans (getOp j.ops .x).spans = false
  Produces 2 0x12 false any (fun j i0 r =>
    let a := j.op .da
    let rop := j.i.ext 0 3
    if intClass j.i then
      let vs := (List.range (a.e 0)).map fun n => j.int a n r
      ((if rop = 1 then vs.foldl max (vs.headD 0) else if rop = 2 then vs.foldl min (vs.headD 0) else vs.sum) % 2 ^ (dc j).w).toNat
    else j.out (dc j) i0 r (exactly ((treeReduce (vredNode j.denorm rop) 13
      ((List.range (a.e 0)).map fun n => vredLeaf j.denorm rop (j.value a n r))).headD (.zero false)))) no tt ∧
  Produces 2 0x13 false any (fun j i0 r => (vsmxRow j r).p.getD i0 0) x
    (fun j t => unshared j → Holds j t (getOp j.ops .x) fun i0 r => [(vsmxRow j r).mx, (vsmxRow j r).l, (vsmxRow j r).c].getD i0 0) ∧
  Produces 2 0x14 false any (fun j i0 r => half i0 (cmul j.denorm (j.cplx (j.op .da) (i0 / 2) r) (j.cplx (j.op .db) (i0 / 2) r))) no tt ∧
  Produces 2 0x15 false any (fun j i0 r => half i0 (butterfly j r (i0 / 2))) no tt ∧
  Produces 2 0x16 false any (fun j i0 r => j.pattern (j.op .da) (r.getD 0 0) (i0 :: r.drop 1)) no tt ∧
  Produces 2 0x17 false any (fun j i0 r =>
    let e := (dc j).index i0 r
    let v := rng (j.i.gReg (j.i.ext 22 5)) (BitVec.ofNat 64 e + j.i.gReg (j.i.ext 15 5)) (j.i.ext 0 15)
    if j.i.ext 20 2 = 1 then v.toNat / 2 ^ 32
    else if j.i.ext 20 2 = 2 then j.out (dc j) i0 r (exactly (drawUniform v)) else j.out (dc j) i0 r (exactly (drawNormal j.denorm v))) no tt ∧
  Produces 2 0x18 false any gateA x (fun j t => unshared j → Holds j t (getOp j.ops .x) (gateB j)) ∧
  Produces 2 0x19 false any (fun j i0 r =>
      let h := ((scanChannel j (r.getD 1 0) (if scanCplx j.i then i0 / 2 else i0)).1).getD (r.getD 0 0) (mkPair 0 0, none)
      j.out (dc j) i0 r (exactly (fp32.value (if scanCplx j.i ∧ i0 % 2 = 1 then h.2.getD h.1 else h.1).hi)))
    (fun j => places (getOp j.ops .y))
    (fun j t => Holds j t (getOp j.ops .y) fun i0 r =>
      let n := i0 / 2
      let z := (scanChannel j (r.getD 1 0) (if scanCplx j.i then n / 2 else n)).2
      let p := if scanCplx j.i ∧ n % 2 = 1 then z.2.getD z.1 else z.1
      if i0 % 2 = 0 then p.hi else p.lo)

/-- KDESC, KPOST and KTAKE (R303 to R306). -/
def Obligations.DescriptorsAndItems : Prop :=
  let any := fun (_ : Job) => true
  let no := fun (_ : Job) => ([] : List (Nat × Nat × Nat))
  let words := fun (ws : Job → List Nat) (j : Job) (i0 : Nat) (r : List Nat) =>
    if r = [0, 0, 0, 0] ∧ i0 < (ws j).length then (ws j).getD i0 0 else j.stored (getOp j.ops .dc) i0 r
  let halves := fun (d : BitVec 128) => [d.toNat % 2 ^ 64, d.toNat / 2 ^ 64]
  let d := fun (j : Job) => distOf j.s (j.i.ext 0 3)
  Produces 2 0x30 true any (words fun j =>
      let loc := j.i.gReg j.i.gi
      (span (locPage loc) (j.i.ext 0 6 + 1)).flatMap fun p =>
        halves ((haveDesc (coreOf j.s j.core) j.k j.i (locFuture loc) (locLayer loc) p).getD descAbsent)) no (fun _ _ => True) ∧
  Produces 2 0x32 false any (fun _ _ _ => 0) no (fun j t =>
    let a := getOp j.ops .da
    let n := a.e 0 / 2
    let u := distOf t (j.i.ext 0 3)
    u.owner = some ((d j).owner.getD j.k) ∧ u.posted = (d j).posted + n ∧
    u.items = (d j).items ++ (List.range n).map fun x => ((d j).posted + x,
      BitVec.ofNat 128 (j.pattern a (2 * x) [0, 0, 0, 0] + 2 ^ 64 * j.pattern a (2 * x + 1) [0, 0, 0, 0]))) ∧
  Produces 2 0x33 false any (words fun j => halves ((minBy? itemKey (d j).items).elim (BitVec.ofNat 128 (2 ^ 96 - 1)) (·.2))) no
    (fun j t => (distOf t (j.i.ext 0 3)).items = match minBy? itemKey (d j).items with
      | none => (d j).items
      | some e => (d j).items.filter fun x => x.1 != e.1)

/-- WALK (R294, R295): a descriptor that the walker finds, or already holds, goes to the instruction that waits for it, and into the look-aside
buffer; a page that is absent is all ones to KDESC and a PAGE_FAULT, reason 0x62, to an attention instruction, whose engine stops. A read pin is counted in the
frame's entry, and no other byte of memory changes. -/
def Obligations.WalkAnswers : Prop :=
  ∀ (s : State) (c : CoreId) (f : BitVec 20) (l : BitVec 8) (p : BitVec 27) (k e : Nat) (i : EInstr) (rest : List EInstr),
    (coreOf s c.toNat).slot = some k → walkFor s c.toNat k f.toNat l.toNat p.toNat = some (e, i) → queueOfEng (coreOf s c.toNat) e = i :: rest →
    runs s k = true → (cmdOf s k).map (·.decided) = some false →
    let tag := fun (d : BitVec 128) => ({ slot := k, future := f.toNat, layer := l.toNat, page := p.toNat, desc := d } : Trans)
    let gets := fun (t : State) (d : BitVec 128) => queueOfEng (coreOf t c.toNat) e = { i with descs := Map.put i.descs p.toNat d } :: rest ∧
      (∀ o, o ≠ c.toNat → coreOf t o = coreOf s o) ∧ (∀ n, ctrGet t n = ctrGet s n) ∧ (∀ n, cmdOf t n = cmdOf s n)
    let mine := s.mem.wcache.filter fun w => w.cluster = clusterOf c.toNat && walkSet w.trans = walkSet (tag 0)
    let hit := s.mem.wcache.find? fun w => w.cluster = clusterOf c.toNat && w.trans.sameTag (tag 0)
    (∀ w, hit = some w → ∃ t, Answers (.walk c f l p) s t ∧ gets t w.trans.desc ∧ SameMemory s t ∧ w.trans ∈ (coreOf t c.toNat).lab) ∧
    (∀ d, hit = none → walkTables s k f.toNat l.toNat p.toNat = .found d → mine.length < 8 → ∃ t, Answers (.walk c f l p) s t ∧ gets t d ∧
      tag d ∈ (coreOf t c.toNat).lab ∧ framePins (frameEntry t (descFrame d)) = (framePins (frameEntry s (descFrame d)) + 1) % 2 ^ 17 ∧
      ∀ a, a < frameAt s (descFrame d) ∨ frameAt s (descFrame d) + 16 ≤ a → planeByte t a = planeByte s a) ∧
    (hit = none → walkTables s k f.toNat l.toNat p.toNat = .absent → e ≠ 0 → ∃ t, Answers (.walk c f l p) s t ∧ gets t descAbsent ∧
      SameMemory s t) ∧
    (hit = none → walkTables s k f.toNat l.toNat p.toNat = .absent → e = 0 → ∃ r u, Answers (.walk c f l p) s (stopHead c.toNat e (failWith u k r)) ∧
      u = { s with live := u.live } ∧ r.code = 0x0D ∧ r.detail / 2 ^ 56 = 0x62)

/-- The copy engine (R155, R503): elements move bit for bit between the memories of the chip; a source elsewhere is requested in runs of at most 64 KiB, of
whole lines from a peer (R351) and of the bytes themselves from the host (R389; how the runs are cut is the model's choice, log 34); a destination at a peer is staged as egress
for the commit (R93, R352), after its lines have been read where the elements do not fill them (log 22), and one at the host as messages of at most 1 MiB, after the bytes at the
elements' edges have been read (R389). -/
def Obligations.EngineCopies : Prop :=
  Produces 3 0x01 false (fun j => j.i.far = 0) (fun j i0 r => j.stored (j.op .da) i0 r) (fun _ => [])
    (fun j t =>
      let o := getOp j.ops .dc
      j.i.red = 0 → o.mx = true → ∀ r ∈ o.rows, ∀ n < ceilDiv (o.e 0) 32,
        Job.byte { j with s := still t j.core } o.loc (o.scaleAt r + n) = j.byte (j.op .da).loc ((j.op .da).scaleAt r + n)) ∧
  ∀ (s : State) (c : CoreId) (j : Job) (m : Cmd), Inv s → j.s = s → j.core = c.toNat → j.eng = 3 → startsNow copyForm 0x01 j = true →
    cmdOf s j.k = some m →
    let g := starting copyForm j
    let src := g.op .da
    let dst := getOp j.ops .dc
    (j.i.far = 1 → ∃ t x, Answers (.engineCopy c) s t ∧ SameMemory s t ∧ cmdOf t j.k = some m ∧ x ∈ t.fab.transfers ∧ x.who = .engine c.toNat ∧
      x.slot = j.k ∧ x.host = decide (src.loc = 2) ∧ x.dest = j.i.selector ∧ x.buf = [] ∧
      x.left ++ x.todo = (runsOf (if src.loc = 2 then src.spans else src.spans.map wholeLines)).flatMap (cutRun 65536)) ∧
    (j.i.far = 2 → dst.loc = 1 → peerEdges dst ≠ [] → ∃ t x, Answers (.engineCopy c) s t ∧ SameMemory s t ∧ cmdOf t j.k = some m ∧
      x ∈ t.fab.transfers ∧ x.who = .engine c.toNat ∧ x.slot = j.k ∧ x.host = false ∧ x.dest = j.i.selector ∧ x.buf = [] ∧
      x.left ++ x.todo = (runsOf [wholeLines (peerLines dst)]).flatMap (cutRun 65536)) ∧
    (j.i.far = 2 → dst.loc = 2 → edgeBytes dst ≠ [] → ∃ t x, Answers (.engineCopy c) s t ∧ SameMemory s t ∧ cmdOf t j.k = some m ∧
      x ∈ t.fab.transfers ∧ x.who = .engine c.toNat ∧ x.slot = j.k ∧ x.host = true ∧ x.dest = j.i.selector ∧ x.buf = [] ∧
      x.left ++ x.todo = (runsOf (edgeBytes dst)).flatMap (cutRun 65536)) ∧
    (j.i.far = 2 → dst.loc = 2 → edgeBytes dst = [] → ∃ t, Answers (.engineCopy c) s t ∧ SameMemory s t ∧ (goesOn t j = true → ∃ xs,
      cmdOf t j.k = some { m with egress := m.egress ++ xs } ∧
      (∀ x ∈ xs, x.host = true ∧ x.core = some c.toNat ∧ x.dest = j.i.selector ∧ x.data.length ≤ 1048576 ∧ x.granted = true) ∧
      ∀ r ∈ dst.rows, ∀ n < dst.e 0 * dst.w / 8, ∃ x ∈ xs, x.addr ≤ dst.rowAt r + n ∧
        x.data[dst.rowAt r + n - x.addr]? = some (g.byte src.loc (src.rowAt r + n)))) ∧
    (j.i.far = 2 → dst.loc = 1 → peerEdges dst = [] → ∃ t, Answers (.engineCopy c) s t ∧ SameMemory s t ∧ (goesOn t j = true → ∃ x,
      cmdOf t j.k = some { m with egress := m.egress ++ [x] } ∧ x.host = false ∧ x.core = some c.toNat ∧ x.dest = j.i.selector ∧
      x.addr = lineOf dst.base ∧ x.sctr = j.i.sctr ∧ x.sinc = j.i.sinc ∧
      ∀ r ∈ dst.rows, ∀ n < dst.e 0 * dst.w / 8, x.data[dst.rowAt r + n - x.addr]? = some (g.byte src.loc (src.rowAt r + n))))

/-- ENGINE_COMPLETE signals for the oldest instruction in flight, and a drain ends once the engines that it selects hold nothing more, the PC then past
it (R142, R151, R174). RESIDUE_MISMATCH is an error of the core: a record, a kill with a later re-run, and a targeted test, or, where the core has passed
STRIKES tests already, its fence (R239, R404, R410, R411). -/
def Obligations.EngineEvents : Prop :=
  ∀ (s : State) (c : CoreId) (e : BitVec 3) (slot : Nat) (x : Flying) (rest : List Flying) (m : Cmd), Inv s →
    (coreOf s c.toNat).slot = some slot → flyingOf (coreOf s c.toNat) e.toNat = x :: rest → runs s slot = true → cmdOf s slot = some m →
    e.toNat ∉ (coreOf s c.toNat).broken →
    let done := x.accepted = true ∧ x.reads = 0 ∧ x.grants = 0 ∧
      (awaits s fun q => q.asker.ofEngine c.toNat e.toNat x.addr.toNat) = false
    let k := coreOf s c.toNat
    let goes := fun (t : State) =>
      let u := coreOf t c.toNat
      let clear := fun (mask : BitVec 5) => ∀ o < 5, bit mask o = true → queueOfEng k o = [] ∧ flyingOf u o = [] ∧ o ∉ k.broken
      Answers (.engineComplete c e) s t ∧ SameMemory s t ∧ (∀ o, o ≠ c.toNat → coreOf t o = coreOf s o) ∧
      (∀ o, flyingOf u o = if o = e.toNat then rest else flyingOf k o) ∧ u = { k with flying := u.flying, act := u.act, pc := u.pc } ∧
      ((∀ mask pc, k.act ≠ .draining mask pc) → u.act = k.act ∧ u.pc = k.pc) ∧
      ∀ mask pc, k.act = .draining mask pc → (clear mask → u.act = .running ∧ u.pc = pc + 4) ∧ (¬ clear mask → u.act = k.act ∧ u.pc = k.pc)
    (∀ n, done → nameCtr c.toNat x.sctr = some n → x.sinc ≠ 0 → isInternal s slot n = true → ∃ t, goes t ∧
      t.sync = { s.sync with inflight := s.sync.inflight ++ [{ ctr := n, inc := x.sinc, slot := some slot, core := some c.toNat, die := dieOf c.toNat }] }) ∧
    (∀ n, done → nameCtr c.toNat x.sctr = some n → x.sinc ≠ 0 → isInternal s slot n = false →
      (extCounters (setCmd s slot { m with sums := sumAdd m.sums n x.sinc }) slot).length ≤ 1024 → ∃ t, goes t ∧ t.sync = s.sync ∧ cmdOf t slot = some { m with sums := sumAdd m.sums n x.sinc }) ∧
    (done → x.sinc = 0 → ∃ t, goes t ∧ t.sync = s.sync ∧ cmdOf t slot = some m) ∧
    (∀ (chk i : BitVec 8) (row : BitVec 16) (lane col : BitVec 8) (y : Flying), (e = 0 ∧ (chk = 1 ∨ chk = 2)) ∨ (e = 1 ∧ (chk = 3 ∨ chk = 4)) →
      (x :: rest)[i.toNat]? = some y →
      y.zero = false → m.decided = false → m.failSent = false → y.op ≠ 0x18 → y.op ≠ 0x20 → setHasCollective s slot = false → underTest s 1 c.toNat = false →
      let strikes := cfg s mErrCfg 40 8
      let r := logRec s ⟨0x06, 1, c.toNat, some slot, chk.toNat * 2 ^ 56 + row.toNat * 2 ^ 16 + lane.toNat * 2 ^ 8 + col.toNat,
        0x50 * 2 ^ 56 + (e.toNat + 1) * 2 ^ 48 + y.addr.toNat⟩
      ∃ t d, Answers (.residueMismatch c ⟨chk, i⟩ row lane col) s t ∧ SameMemory s t ∧ cmdOf t slot = some d ∧ d.kill = some .retry ∧
      (strikes = 0 ∨ Map.get (fun _ => 0) s.flt.passes (unitKey 1 c.toNat) < strikes → d.units = (1, c.toNat) :: m.units ∧
        underTest t 1 c.toNat = true ∧ t.flt.coreFence = s.flt.coreFence ∧ t.flt.log = r.flt.log) ∧
      (0 < strikes → strikes ≤ Map.get (fun _ => 0) s.flt.passes (unitKey 1 c.toNat) → d.lost = some (1, c.toNat) ∧ (1, c.toNat) ∉ d.units ∧
        underTest t 1 c.toNat = false ∧ coreFenced t c.toNat = true ∧
        t.flt.log = (logRec r ⟨0x09, 1, c.toNat, none, nextIndex s, 0xC2 * 2 ^ 56⟩).flt.log))

/-! ### Counters, wakes and timeouts (R178 to R189) -/

/-- COUNTER_SIGNAL applies the oldest signal in flight to its counter, once those sent before it along the same path are applied (R20); the counter stops at its largest value, and sends a wake to each watch that the
new value satisfies (R179, R182, R184); WAKE lets the waiter go on with the value it reports (R184); COUNTER_POLL wakes a polling watcher that
its counter satisfies, or gives it an entry that has freed (R185); WAIT_TIMEOUT takes one last reading, and fails the command with the two
records of R189 where that does not satisfy the wait (R188). -/
def Obligations.CounterEvents : Prop :=
  ∀ s : State,
    (∀ (n : BitVec 16) (g : Sig) (before after : List Sig), s.sync.inflight = before ++ g :: after → (∀ x ∈ before, x.ctr ≠ n.toNat) →
      g.ctr = n.toNat → ((∃ x ∈ before, g.sharesPath x = true) → Answers (.counterSignal n) s s) ∧ ((∀ x ∈ before, g.sharesPath x = false) →
      (n.toNat < 0xC000 ∨ s.flt.upsets = []) →
      let v : Word := BitVec.ofNat 64 (min ((ctrGet s n.toNat).toNat + g.inc) (2 ^ 64 - 1))
      ∃ t, Answers (.counterSignal n) s t ∧ SameMemory s t ∧ (∀ c, coreOf t c = coreOf s c) ∧ t.sync.inflight = before ++ after ∧
        (∀ x, ctrGet t x = if x = n.toNat then v else ctrGet s x) ∧
        ∀ w ∈ s.sync.watches, if w.ctr = n.toNat ∧ w.polling = false ∧ w.target.toNat ≤ v.toNat then
          w ∉ t.sync.watches ∧ (∀ c, w.who = .control c → ⟨w.who, v⟩ ∈ t.sync.wakes) ∧ ∀ c e, w.who = .engine c e → ⟨w.who, v⟩ ∈ t.sync.wakes
        else w ∈ t.sync.watches)) ∧
    (∀ (c : CoreId) (v : Word) (n gd : Nat) (target : Word) (pc : BitVec 48) (before after : List WakeUp),
      (coreOf s c.toNat).act = .waiting n target gd pc →
      let goes := fun (t : State) => SameMemory s t ∧ (∀ o, o ≠ c.toNat → coreOf t o = coreOf s o) ∧
        coreOf t c.toNat = { coreOf s c.toNat with g := (coreOf t c.toNat).g, act := .running, pc := pc + 4 } ∧
        (∀ r, gGet (coreOf t c.toNat) r = if r = gd ∧ r ≠ 0 then v else gGet (coreOf s c.toNat) r) ∧
        t.sync.watches = (s.sync.watches.filter fun w => w.who ≠ .control c.toNat) ∧
        t.sync.wakes = s.sync.wakes.filter fun w => w.who ≠ .control c.toNat
      (s.sync.wakes = before ++ ⟨.control c.toNat, v⟩ :: after → (∀ w ∈ before, w.who ≠ .control c.toNat) →
        ∃ t, Answers (.wake c 0) s t ∧ goes t) ∧
      (∀ w slot, (s.sync.watches.find? fun w => w.who = .control c.toNat) = some w → (coreOf s c.toNat).slot = some slot →
        (coreOf s c.toNat).dbg.state = 1 → v = ctrGet s w.ctr → w.target.toNat ≤ v.toNat → ∃ t, Answers (.waitTimeout c 0) s t ∧ goes t)) ∧
    (∀ (c : CoreId) (e : Nat) (v : Word) (i : EInstr) (rest : List EInstr), e < 5 → queueOfEng (coreOf s c.toNat) e = i :: rest →
      (s.sync.wakes.find? fun w => w.who = .engine c.toNat e) = some ⟨.engine c.toNat e, v⟩ →
      ∃ t, Answers (.wake c (BitVec.ofNat 3 (e + 1))) s t ∧ SameMemory s t ∧ (∀ o, o ≠ c.toNat → coreOf t o = coreOf s o) ∧
        coreOf t c.toNat = { coreOf s c.toNat with queues := (coreOf t c.toNat).queues } ∧
        ∀ x, queueOfEng (coreOf t c.toNat) x = if x = e then { i with asleep := false, woken := true } :: rest
          else queueOfEng (coreOf s c.toNat) x) ∧
    (∀ (n : BitVec 16) (w : Watch), (s.sync.watches.filter fun x => x.ctr = n.toNat && x.polling) = [w] →
      (w.target.toNat ≤ (ctrGet s n.toNat).toNat → ∀ c, w.who = .control c → ∃ t, Answers (.counterPoll n) s t ∧ SameMemory s t ∧
        t.sync.wakes = s.sync.wakes ++ [⟨w.who, ctrGet s n.toNat⟩] ∧ w ∉ t.sync.watches) ∧
      ((ctrGet s n.toNat).toNat < w.target.toNat → watchRoom s n.toNat = true → ∃ t, Answers (.counterPoll n) s t ∧
        t = { s with sync := { s.sync with watches := t.sync.watches } } ∧ w ∉ t.sync.watches ∧ { w with polling := false } ∈ t.sync.watches)) ∧
    (∀ (c : CoreId) (w : Watch) (slot : Nat) (m : Cmd), (s.sync.watches.find? fun w => w.who = .control c.toNat) = some w →
      (coreOf s c.toNat).slot = some slot → (coreOf s c.toNat).dbg.state = 1 → cmdOf s slot = some m → m.decided = false → m.kill = none →
      (ctrGet s w.ctr).toNat < w.target.toNat →
      let at' := (coreOf s c.toNat).pc.toNat
      Answers (.waitTimeout c 0) s (failCmd (logAppend (watchDrop s fun x => x = .control c.toNat)
        [⟨0x03, 1, c.toNat, some slot, w.target.toNat, 0x40 * 2 ^ 56 + at'⟩,
         ⟨0x03, 1, c.toNat, some slot, (ctrGet s w.ctr).toNat, w.ticks % 2 ^ 32 * 2 ^ 32 + w.ctr⟩]) slot))

/-! ### Mode epochs and the settings (R114 to R118, R453 to R468) -/

/-- A mode change (R115, R116): MODE reads its block and begins the drain; PREPARE follows once no other command is left; each unit confirms
once, a unit under test when its test has ended (R417); PUBLISH moves the values into effect and advances the epoch by one, and with a new split empties the cache, the
pinned window, the records not admitted and the group registrations, and disables the KV tables (R38, R117); MODE_TIMEOUT cancels the change and fails the command. -/
def Obligations.ModeEpochs : Prop :=
  ∀ s : State,
    (∀ (k : SlotId) (c : Cmd), atWork s k.toNat 0x07 = some c → c.setOp = 1 → heldFor s k.toNat c.setAddr 8 = false →
      csetBad s k.toNat c.setAddr 8 = none → fencedIn s c.setAddr 8 = none → poisonIn s c.setAddr 8 = none →
      let b : BitVec 64 := BitVec.ofNat 64 (planeNat s c.setAddr 8)
      modeBad b = none → c.newEpoch = (s.disp.epoch + 1).toNat → fld b 48 16 = 0 →
      ∃ t m, Answers (.mode k) s t ∧ SlotBecomes s t k.toNat { c with work := true } ∧ t.disp.phase = 1 ∧ t.disp.epoch = s.disp.epoch ∧
        t.disp.change = some m ∧ m.slot = k.toNat ∧ m.epoch = s.disp.epoch + 1 ∧ m.shadow = b ∧ m.confirmed = [] ∧ t.regs = s.regs) ∧
    (∀ m : ModeChange, s.disp.change = some m →
      (s.disp.phase = 1 → drained s m.slot = true → (m.split = false ∨ s.flt.upsets = []) → ∃ t, Answers .prepare s t ∧ SameMemory s t ∧ t.regs = s.regs ∧ t.disp.change = some m ∧
        t.disp.phase = 2 ∧ t.disp.slots = s.disp.slots ∧
        (m.split = true → ∀ l ∈ t.mem.cache, cacheWays (fld m.shadow 0 3) ≤ l.way → l.dirty = false)) ∧
      (∀ (cls : BitVec 4) (unit : BitVec 16), s.disp.phase = 2 → (cls.toNat, unit.toNat) ∈ modeUnits s → (cls.toNat, unit.toNat) ∉ m.confirmed →
        (unitInTest s cls.toNat unit.toNat = true → Answers (.unitConfirm cls unit) s s) ∧
        (unitInTest s cls.toNat unit.toNat = false → ∃ t, Answers (.unitConfirm cls unit) s t ∧
        t = { s with disp := { s.disp with change := some { m with confirmed := m.confirmed ++ [(cls.toNat, unit.toNat)] } } })) ∧
      (∀ c : Cmd, s.disp.phase = 2 → (∀ u ∈ modeUnits s, u ∈ m.confirmed) → m.split = false → cmdOf s m.slot = some c → c.phase = .running →
        c.kill = none → c.failSent = false → jointSet s m.slot = [m.slot] → stagedFenced s c = none → partialPoison s [m.slot] = none → s.disp.slots = [(m.slot, c)] →
        ∃ t d, Answers .publish s t ∧ SameMemory s t ∧ t.disp.epoch = m.epoch ∧ t.disp.phase = 0 ∧ cmdOf t m.slot = some d ∧ d.reqSent = true ∧
        d.fin = true ∧
        ∀ f ∈ [(6, 2, mArith, 6), (3, 3, mArith, 3), (16, 8, mVcWeight, 0), (24, 8, mVcWeight, 8), (32, 8, mVcWeight, 16), (40, 2, mPwrCfg, 40)],
          cfg t f.2.2.1 f.2.2.2 f.2.1 = if fld m.shadow f.1 f.2.1 = 0 then cfg s f.2.2.1 f.2.2.2 f.2.1 else fld m.shadow f.1 f.2.1) ∧
      (∀ c : Cmd, s.disp.phase = 2 → (∀ u ∈ modeUnits s, u ∈ m.confirmed) → m.split = true → 0 < fld m.shadow 0 3 → fld m.shadow 0 3 ≤ 4 →
        cmdOf s m.slot = some c → c.phase = .running → c.kill = none → c.failSent = false → jointSet s m.slot = [m.slot] → stagedFenced s c = none →
        partialPoison s [m.slot] = none → s.disp.slots = [(m.slot, c)] → s.flt.upsets = [] →
        let p := fld m.shadow 0 3
        ∃ t d, Answers .publish s t ∧ t.disp.epoch = m.epoch ∧ t.disp.phase = 0 ∧ cmdOf t m.slot = some d ∧ d.reqSent = true ∧ d.fin = true ∧
        (∀ a, planeByte t a = if a < hbmSize then planeByte s a else 0) ∧ t.mem.cache = [] ∧ t.mem.wcache = [] ∧ t.fab.groups = [] ∧
        (∀ l ∈ t.mem.poison, l < hbmSize ∧ l ∈ s.mem.poison) ∧ (∀ q < 256, (queueOf t q).head = (queueOf s q).head ∧ (queueOf t q).tail = (queueOf t q).head) ∧
        (∀ f ∈ t.mem.fills, f.ways.toNat < 2 ^ cacheWays p) ∧
        cfg t mSheaf 0 3 = p ∧ cfg t mSheaf 12 4 = cacheWays p ∧ regGet t mKvCtl = 0 ∧
        ∀ q < 256, cfg t (mQpart q) 48 16 = cfg s (mQpart q) 48 16 % 2 ^ cacheWays p) ∧
      (∀ (c : Cmd) (u : Nat × Nat), s.disp.phase = 2 → u ∈ modeUnits s → u ∉ m.confirmed → cmdOf s m.slot = some c → c.phase = .running →
        c.kill = none → c.decided = false → ∃ t d, Answers .modeTimeout s t ∧ SameMemory s t ∧ t.disp.change = none ∧ t.disp.phase = 0 ∧
        t.disp.epoch = s.disp.epoch ∧ t.regs = s.regs ∧ cmdOf t m.slot = some d ∧ d.failSent = true))

/-- SETTINGS STORE writes the entries of the inactive image, from the registers or from the image that ADDR names, whose header is not valid before the
commit, and changes no register (R462, R463); REPORT stages the report of the last load at its address and asks to commit (R466). A management write of a
setting takes each field's value, a value outside its range the nearest bound, and of an enumerated field with a reserved encoding nothing; an adjusted field is
reported, and bits that the write does not own stay (R460, R461). An offset that a datagram may not name, or where no register lies, takes nothing (R395). -/
def Obligations.SettingsCommands : Prop :=
  (∀ (s : State) (k : SlotId) (c : Cmd), Inv s → atWork s k.toNat 0x07 = some c → jointSet s k.toNat = [k.toNat] →
    (∀ es, c.setOp = 2 → stagedFenced s c = none → partialPoison s [k.toNat] = none →
      (c.setAddr = 0 ∧ es = s.mram.readImage.getD (captureImage s) ∨
        c.setAddr ≠ 0 ∧ heldFor s k.toNat c.setAddr 64 = false ∧ heldFor s k.toNat c.setAddr (namedBytes s c.setAddr) = false ∧
        namedImage s c.setAddr = some es) →
      let i := storeSlot s.mram
      (∃ t d, Answers (.store k true) s t ∧ SameMemory s t ∧ t.regs = s.regs ∧ t.mram.storing = some k.toNat ∧
        (imageOf t.mram i).entries = es ∧ (imageOf t.mram i).valid = false ∧ imageOf t.mram (1 - i) = imageOf s.mram (1 - i) ∧
        cmdOf t k.toNat = some d ∧ d.fin = true ∧ d.reqSent = true) ∧
      (c.decided = false → ∃ t d, Answers (.store k false) s t ∧ SameMemory s t ∧ t.regs = s.regs ∧ t.mram.storing = none ∧
        (imageOf t.mram i).valid = false ∧ cmdOf t k.toNat = some d ∧ d.failSent = true)) ∧
    (c.setOp = 2 → c.setAddr ≠ 0 → heldFor s k.toNat c.setAddr 64 = false → heldFor s k.toNat c.setAddr (namedBytes s c.setAddr) = false →
      namedImage s c.setAddr = none → ∀ ok, Answers (.store k ok) s (failDisp s k.toNat 0x33 c.setAddr 256)) ∧
    (c.setOp = 3 → c.decided = false → ∃ t, Answers (.report k) s t ∧ SameMemory s t ∧ (live t k.toNat = true →
      seenRead t k.toNat c.setAddr (reportBytes s).length = reportBytes s)) ∧
    (c.setOp = 3 →
      let u := stagePut (begun s k.toNat) k.toNat c.setAddr (reportBytes s)
      stageOver u k.toNat = none → setFenced u [k.toNat] = none → partialPoison u [k.toNat] = none →
      ∃ t d, Answers (.report k) s t ∧ SameMemory s t ∧ (∀ o, coreOf t o = coreOf s o) ∧
        seenRead t k.toNat c.setAddr (reportBytes s).length = reportBytes s ∧
        (∀ a, a < c.setAddr ∨ c.setAddr + (reportBytes s).length ≤ a → seenByte t k.toNat a = seenByte s k.toNat a) ∧
        cmdOf t k.toNat = some d ∧ d.fin = true ∧ d.reqSent = true)) ∧
  (∀ (s : State) (off : BitVec 24) (v : Word), offDenied s off.toNat = true ∨ regFields off.toNat = none → Answers (.registerWrite off v) s s) ∧
  -- a register and its fields: bit, width, what they admit (any value, a range, an enumeration)
  let free : Chk := .any
  let rows : List (Nat × List (Nat × Nat × Chk)) :=
    [(mModCfg, [(56, 8, .range 85 105)]), (mSched, [(48, 16, free), (32, 16, free), (2, 2, free), (0, 1, free)]),
     (mTimeout, [(48, 16, .range 1 65535), (32, 16, .range 1 65535), (16, 16, .range 1 65535)]), (mSyncCfg, [(48, 16, .range 1 65535)]),
     (mErrCfg, [(48, 16, free), (40, 8, free), (32, 8, .range 1 255)]), (mFct, [(48, 16, .range 1 65535), (32, 16, .range 1 65535)])] ++
    ((List.range 8).map fun p => (mDetour p, [(12, 3, .enc 0 4), (0, 12, free)])) ++
    ((List.range 2).flatMap fun e => [(mEth e 0, [(48, 12, .range 0 4094), (0, 48, free)]),
      (mEth e 1, [(63, 1, free), (60, 3, free), (59, 1, free), (56, 3, free), (0, 32, free)]), (mEth e 2, [(0, 64, free)]), (mEth e 3, [(0, 64, free)])])
  ∀ (s : State) (v : Word), ∀ x ∈ rows,
    let takes := fun (f : Nat × Nat × Chk) => match f.2.2 with
      | .any => fld v f.1 f.2.1
      | .range lo hi => max lo (min hi (fld v f.1 f.2.1))
      | .enc lo hi => if lo ≤ fld v f.1 f.2.1 ∧ fld v f.1 f.2.1 ≤ hi then fld v f.1 f.2.1 else cfg s x.1 f.1 f.2.1
    let reason := fun (f : Nat × Nat × Chk) => match f.2.2 with
      | .any => 0
      | .range lo _ => if fld v f.1 f.2.1 < lo then 0x01 else 0x02
      | .enc _ _ => 0x03
    let owns := fun b => ∃ f ∈ x.2, f.1 ≤ b ∧ b < f.1 + f.2.1
    ∃ t, Answers (.registerWrite (BitVec.ofNat 24 x.1) v) s t ∧ SameMemory s t ∧ (∀ off, off ≠ x.1 → regGet t off = regGet s off) ∧
      (∀ f ∈ x.2, cfg t x.1 f.1 f.2.1 = takes f) ∧ (∀ b < 64, ¬ owns b → (regGet t x.1).getLsbD b = (regGet s x.1).getLsbD b) ∧
      ((∀ b < 64, ¬ owns b → v.getLsbD b = false) →
        ((∀ f ∈ x.2, takes f = fld v f.1 f.2.1) → t = { s with regs := t.regs }) ∧
        ∀ f ∈ x.2, takes f ≠ fld v f.1 f.2.1 → (∀ g ∈ x.2, g.1 ≠ f.1 → takes g = fld v g.1 g.2.1) →
          t.flt = (reportClamp s .mgmt (reason f) x.1 f.1 f.2.1 (fld v f.1 f.2.1) (takes f)).flt)

/-! ### Faults, tests and memory events (R400 to R419, R66) -/

/-- SELFTEST TEST starts a test of its unit, FENCE puts the unit out of service at once, UNFENCE tests a fenced unit to return it (R412); a test
that passes counts for its unit and returns it where asked, and one that fails fences it (R411).

SCRUB, ERRLOG_TAIL_WRITE, ALERT_CLEAR, COOLANT_CLEAR and HBM_LINE_FILL (R43, R402, R403, R406, R418, R419, R439). No read of a line changes
its bytes; an uncorrectable line is poisoned.

An error that a read finds (R400, R401, R404). A load of the control core from a scratchpad word that is wrong past correction writes the record
of R401 and changes no register: the command is killed to run again, and its core is tested; one that is corrected is counted, and the load goes
on. A core that has passed as many tests as ERR_CFG.STRIKES, where that is not 0, is fenced in place of the test (R411). An error in the logic of a unit that is never fenced makes the chip faulted (R414; that it shows when the block idles is the model's choice,
log 50). -/
def Obligations.TestsLinesAndLog : Prop :=
  (∀ (s : State) (k : SlotId) (c : Cmd), atWork s k.toNat 0x08 = some c → c.testCls = 1 → c.testUnit < 1024 → cmdOnCore s c.testUnit = none →
      underTest s 1 c.testUnit = false → jointSet s k.toNat = [k.toNat] → stagedFenced s c = none → partialPoison s [k.toNat] = none →
      let u := c.testUnit
      let starts := fun (t : State) (back : Bool) => SameMemory s t ∧ cmdOf t k.toNat = some { c with work := true } ∧ ∃ x, t.flt =
        { s.flt with tests := s.flt.tests ++ [x] } ∧ x.cls = 1 ∧ x.unit = u ∧ x.slots = [k.toNat] ∧ x.back = back
      (c.testOp = 1 → coreFenced s u = false → ∃ t, Answers (.test k) s t ∧ starts t false) ∧
      (c.testOp = 3 → coreFenced s u = true → ∃ t, Answers (.unfence k) s t ∧ starts t true) ∧
      (c.testOp = 2 → coreFenced s u = false → (∀ e ∈ s.disp.slots, (1, u) ∉ e.2.units) → ∃ t d, Answers (.fence k) s t ∧ SameMemory s t ∧
        coreFenced t u = true ∧ (∀ o, o ≠ u → coreFenced t o = coreFenced s o) ∧ cmdOf t k.toNat = some d ∧ d.reqSent = true ∧
        t.flt.log = (logRec s ⟨0x09, 1, u, none, c.seq, 0xC1 * 2 ^ 56⟩).flt.log) ∧
      (∀ x : UnitTest, c.work = false → (s.flt.tests.find? fun t => t.cls = 1 && t.unit = u) = none → x.cls = 1 → x.unit = u → x.slots = [k.toNat] →
        x.bad = false → (∀ e ∈ s.disp.slots, (1, u) ∉ e.2.units) → Unhindered s = true →
        let s' := { s with flt := { s.flt with tests := s.flt.tests ++ [x] } }
        (∃ t d, Answers (.testEnd 1 (BitVec.ofNat 48 u) true) s' t ∧ SameMemory s t ∧ underTest t 1 u = false ∧
          coreFenced t u = (coreFenced s u && !x.back) ∧
          Map.get (fun _ => 0) t.flt.passes (unitKey 1 u) = Map.get (fun _ => 0) s.flt.passes (unitKey 1 u) + 1 ∧ cmdOf t k.toNat = some d ∧
          d.reqSent = true) ∧
        ∃ t d, Answers (.testEnd 1 (BitVec.ofNat 48 u) false) s' t ∧ SameMemory s t ∧ underTest t 1 u = false ∧ coreFenced t u = true ∧
          cmdOf t k.toNat = some d ∧ (c.decided = false → d.failSent = true))) ∧
  (∀ s : State,
      (∀ (a : BitVec 48) (hbm : Bool), ∃ t, Answers (.scrub ⟨a, hbm⟩ .clean) s t ∧ t = { s with live := t.live } ∧ t.mem = s.mem) ∧
      (∀ (a : BitVec 48) (hbm : Bool), inPlane s (lineOf a.toNat) 64 = true → systemLine s (lineOf a.toNat) = false → regionLocked s (lineOf a.toNat) = false →
        (∀ e ∈ s.disp.slots, (∀ b ∈ e.2.staged, lineOf b.1 ≠ lineOf a.toNat) ∧ ∀ d ∈ e.2.deltas, lineOf d.addr ≠ lineOf a.toNat) →
        (isPoisoned s a.toNat = false → underTest s 3 (lineOf a.toNat) = false → hbmSize ≤ lineOf a.toNat → cachedLine s (lineOf a.toNat) = none →
          ∃ t, Answers (.scrub ⟨a, hbm⟩ .uncorrected) s t ∧ SameMemory s t ∧ isPoisoned t a.toNat = true ∧
          t.flt.log = (logRec s ⟨0x05, 3, sliceOf s (lineOf a.toNat), none, lineOf a.toNat, 0xB2 * 2 ^ 56⟩).flt.log)) ∧
      (∀ (a : BitVec 48) (f : FillReq) (fs : List FillReq), (s.mem.fills.filter fun x => x.line = lineOf a.toNat) = f :: fs →
        (∀ x ∈ f :: fs, x.asker ≠ .cmd) → s.flt.upsets = [] → s.fab.readWaits = [] → s.eth.held = [] → underTest s 4 (channelOf s (lineOf a.toNat)) = false → isPoisoned s a.toNat = false →
        (channelNext s (channelOf s (lineOf a.toNat))).map (·.line) = some (lineOf a.toNat) →
        ∃ t, Answers (.hbmLineFill a .clean) s t ∧ SameMemory s t ∧ (∀ c, coreOf t c = coreOf s c) ∧ t.disp = s.disp ∧ t.sync = s.sync ∧
          t.mem.fills = (s.mem.fills.filter fun x => x.line ≠ lineOf a.toNat) ∧
          ((∃ x ∈ f :: fs, x.ways ≠ 0) → ∃ l ∈ t.mem.cache, l.line = lineOf a.toNat) ∧ t.mem.poison = s.mem.poison) ∧
      (∀ v : Word, v.toNat % 2 ^ 32 ≠ 2 ^ 32 - 1 →
        let high := v.toNat / 2 ^ 32
        let answers := Answers (.errlogTailWrite v) s
        let s := if high = 0 then s else reportClamp s .mgmt 0x05 mErrTail 32 32 high 0
        let h := s.flt.log.head
        let req := v.toNat % 2 ^ 32
        let back := fun (x : Nat) => (h + (2 ^ 32 - 1) - x) % (2 ^ 32 - 1)
        let oldest := if 1024 ≤ s.flt.log.written then back 1024 else 0
        let moved := fun (x : Nat) => { s with flt := { s.flt with log := { s.flt.log with tail := x } } }
        (back req < 2 ^ 31 → back req ≤ back oldest → answers (moved req)) ∧
        (back req < 2 ^ 31 → back oldest < back req → oldest ≠ req →
          answers (reportClamp (moved oldest) .mgmt 0x04 mErrTail 0 32 req oldest)) ∧
        (2 ^ 31 ≤ back req → h ≠ req → answers (reportClamp (moved h) .mgmt 0x04 mErrTail 0 32 req h))) ∧
      (∃ t, Answers .alertClear s t ∧ t = { s with flt := { s.flt with alert := false } }) ∧
      (∃ t, Answers .coolantClear s t ∧ t = { s with mod := { s.mod with coolant := false } })) ∧
  ((∀ (s : State) (c : CoreId) (slot off : Nat) (w : BitVec 32) (u : Upset) (m : Cmd),
      let sound := { s with flt := { s.flt with upsets := [] } }
      let k := coreOf s c.toNat
      let n : Nat := 2 ^ (fld w 9 2)
      let a := (gGet k (ccGa w) + BitVec.ofInt 64 (toSigned 8 (fld w 0 8) * (n : Int))).toNat
      s.flt.upsets = [u] → u.cell = .scratch c.toNat off → issuable sound c.toNat slot w = true → ccTrue k w = true → ccOp w = 0x18 → bit w 8 = true →
      a % n = 0 → a < scratchSize → overlap (off - off % 8) 8 a n = true → cmdOf s slot = some m →
      (u.bad = true → m.decided = false → m.failSent = false → setHasCollective s slot = false → underTest s 1 c.toNat = false →
        let strikes := cfg s mErrCfg 40 8
        let passes := Map.get (fun _ => 0) s.flt.passes (unitKey 1 c.toNat)
        let r := logRec s ⟨0x05, 1, c.toNat, some slot, off, 0xB0 * 2 ^ 56 + k.pc.toNat⟩
        ∃ t d, Answers (.ld c) s t ∧ SameMemory s t ∧ t.flt.upsets = [] ∧ (coreOf t c.toNat).g = k.g ∧ cmdOf t slot = some d ∧ d.kill = some .retry ∧
        (strikes = 0 ∨ passes < strikes → d.units = (1, c.toNat) :: m.units ∧ underTest t 1 c.toNat = true ∧
          t.flt.coreFence = s.flt.coreFence ∧ t.flt.log = r.flt.log) ∧
        (0 < strikes → strikes ≤ passes → d.lost = some (1, c.toNat) ∧ (1, c.toNat) ∉ d.units ∧ underTest t 1 c.toNat = false ∧
          coreFenced t c.toNat = true ∧ t.flt.log = (logRec r ⟨0x09, 1, c.toNat, none, nextIndex s, 0xC2 * 2 ^ 56⟩).flt.log)) ∧
      (u.bad = false → cfg s mErrCfg 48 16 = 0 → ∃ t bs, Answers (.ld c) s t ∧ SameMemory s t ∧ t.flt.upsets = [] ∧ t.flt.tests = s.flt.tests ∧
        bs.length = n ∧ (∀ x < n, bs[x]? = some (scratchByte k (a + x)) ∨ bs[x]? = oldByte k none (a + x)) ∧
        coreOf t c.toNat = { issued k with g := (coreOf t c.toNat).g, pc := k.pc + 4 } ∧
        ∀ r, gGet (coreOf t c.toNat) r = if r = ccGd w ∧ r ≠ 0 then
          (if bit w 11 then BitVec.ofInt 64 (toSigned (8 * n) (leNat bs)) else BitVec.ofNat 64 (leNat bs)) else gGet k r)) ∧
    ∀ (s : State) (u : Upset) (cls unit : Nat), s.pending = [] → s.flt.upsets = [u] → u.cell = .logic cls unit → u.bad = true →
      s.flt.faulted = false → s.eth.stalled = [] → ∃ t, step s = .next t ∧ t.flt.faulted = true ∧ t.flt.upsets = [] ∧ alertAsserted t = true)

/-! ### Debug: views, halts, snapshots, watches (R484 to R499) -/

/-- Halts and what lets a core go on (R492 to R494, R496, R497, R499), under the permission of a debug token (R480). A core that runs no LAUNCH
yet holds the request to its next one (R492); that a request also waits at a core whose LAUNCH is granted and not started, and that the first of two
requests stands, is the model's choice (log 53).

DEBUG VIEW_READ stages a halted core's bytes at PLANE; VIEW_WRITE takes committed bytes, which reach the core as the command applies
(R498). -/
def Obligations.HaltsAndViews : Prop :=
  (∀ (s : State) (c : CoreId),
      let k := coreOf s c.toNat
      let goes := fun (t : State) (st : Bool) => SameMemory s t ∧ OnlyCore s t c.toNat ∧
        coreOf t c.toNat = { k with dbg := { k.dbg with state := 1, cause := 0, bp := 0, skipOnce := true, stepping := st } }
      (permBit s 0 = true → k.act = .running → k.dbg.state = 1 → ∃ t, Answers (.halt c) s t ∧ SameMemory s t ∧
        (∀ o, o ≠ c.toNat → coreOf t o = coreOf s o) ∧
        coreOf t c.toNat = { k with dbg := { k.dbg with state := 2, cause := 2, bp := 0, stepping := false } } ∧
        t.flt.log = (logRec s ⟨0x13, 1, c.toNat, k.slot, k.pc.toNat, 0xF1 * 2 ^ 56⟩).flt.log) ∧
      (permBit s 0 = true → k.act = .idle → ∃ t, Answers (.halt c) s t ∧ OnlyCore s t c.toNat ∧
        coreOf t c.toNat = { k with dbg := { k.dbg with request := k.dbg.request.or (some 2) } }) ∧
      (permBit s 0 = false → ∀ i ∈ [Instr.halt c, .resume c, .step c], Answers i s s) ∧
      (permBit s 0 = true → (k.dbg.state = 2 ∨ k.dbg.state = 3) → debugNames s c.toNat = false →
        (∃ t, Answers (.resume c) s t ∧ goes t false) ∧ ∃ t, Answers (.step c) s t ∧ goes t true) ∧
      (k.dbg.state = 2 → (∀ e ∈ k.queues, e.2 = []) → (∀ e ∈ k.flying, e.2 = []) → k.broken = [] → ∃ t, Answers (.halted c) s t ∧ OnlyCore s t c.toNat ∧
        coreOf t c.toNat = { k with dbg := { k.dbg with state := 3 } }) ∧
      (∃ t, Answers (.haltAll false) s t ∧ SameMemory s t ∧ ∀ o,
        if o ∈ launchCores s ∧ (coreOf s o).act = .idle then
          coreOf t o = { coreOf s o with dbg := { (coreOf s o).dbg with request := (coreOf s o).dbg.request.or (some 2) } }
        else if o ∈ launchCores s ∧ (coreOf s o).dbg.state = 1 then
          (coreOf t o).dbg.state = 2 ∧ (coreOf t o).dbg.cause = 2 ∧ (coreOf t o).pc = (coreOf s o).pc
        else coreOf t o = coreOf s o) ∧
      (∃ t, Answers (.resumeAll false) s t ∧ SameMemory s t ∧
        ∀ o, ((coreOf s o).dbg.state = 2 ∨ (coreOf s o).dbg.state = 3) → debugNames s o = false → (coreOf t o).dbg.state = 1)) ∧
  (∀ (s : State) (k : SlotId) (c : Cmd), Inv s → atWork s k.toNat 0x09 = some c → jointSet s k.toNat = [k.toNat] → c.decided = false →
      (coreOf s c.viewCore).dbg.state = 3 → stagedFenced s c = none → partialPoison s [k.toNat] = none →
      let x := coreOf s c.viewCore
      (c.viewOp = 1 → ∃ t, Answers (.viewRead k) s t ∧ SameMemory s t ∧ (∀ o, coreOf t o = coreOf s o) ∧
        (live t k.toNat = true → ∀ n < c.viewBytes, seenByte t k.toNat (c.viewPlane + n) =
          if c.viewAcc then accByte x (c.viewOff + n) else scratchByte x (c.viewOff + n))) ∧
      (c.viewOp = 2 → heldFor s k.toNat c.viewPlane c.viewBytes = false → poisonIn s c.viewPlane c.viewBytes = none →
        ∃ t, Answers (.viewWrite k) s t ∧
        SlotBecomes s t k.toNat { c with work := true, view := planeRead s c.viewPlane c.viewBytes, fin := true, reqSent := true }))

/-- Snapshots and watches (R484 to R488). A snapshot begins with SNAP_TAKE, or later where one has just ended; LATCH copies the counts once the
commit under way has finished; SNAPSHOT_RELEASE ends it. WATCH_ENABLE takes a region that may be watched. -/
def Obligations.SnapshotsAndWatches : Prop :=
  ∀ s : State,
    (s.dbg.snap = .idle → s.dbg.snapWaits = false →
      (∃ t, Answers (.snapTake false) s t ∧ t = { s with dbg := { s.dbg with snap := .hold, snapNo := s.disp.lastNo, snapWaits := false } }) ∧
      ∃ t, Answers (.snapTake true) s t ∧ t = { s with dbg := { s.dbg with snapWaits := true } }) ∧
    (s.dbg.snap = .idle → s.dbg.snapWaits = true → ∃ t, Answers .snapshotDeferredStart s t ∧
      t = { s with dbg := { s.dbg with snap := .hold, snapNo := s.disp.lastNo, snapWaits := false } }) ∧
    (s.dbg.snap = .hold → s.disp.current = none → ∃ t, Answers .latch s t ∧ t.dbg.snap = .latched ∧ t.dbg.snapSeq = s.dbg.snapSeq + 1 ∧
      t = { s with dbg := t.dbg, fresh := t.fresh } ∧ t.dbg.view = s.sync.counters ∧
      (∀ off ∈ snapParts, Map.get (fun _ => 0) t.dbg.copies off = wordNow s off) ∧
      (∀ c : CoreId, c.toNat ∈ s.cores.map (·.1) →
        Map.get (fun _ => 0) t.dbg.copies (mCcnt c.toNat 9) = BitVec.ofNat 64 (2 * (coreOf s c.toNat).issues)) ∧
      ∀ off, off ∉ snapParts → (∀ q < 256, off ≠ mQacct q) → (∀ e < 2, off ≠ mEth e 8 ∧ off ≠ mEth e 10) →
        (∀ c ∈ s.cores.map (·.1), off ≠ mCcnt c 9 ∧ off ≠ mCcnt c 10) → Map.get (fun _ => 0) t.dbg.copies off = liveGet s off) ∧
    (s.dbg.snap = .latched → s.disp.waiting = [] → s.eth.asks = [] → ∃ t, Answers .snapshotRelease s t ∧
      t = { s with dbg := { s.dbg with snap := .idle } }) ∧
    (∀ (i : BitVec 6) (v : Word), bit v 63 = true → cfgBit s (mWatch i.toNat 0) 63 = false → watchRegionOk s i.toNat v = true →
      v.toNat % 2 ^ 32 = 0 → fld v 48 11 = 0 → fld v 61 2 ≠ 3 → ∃ t, Answers (.watchEnable i v) s t ∧ SameMemory s t ∧
      regGet t (mWatch i.toNat 0) = v ∧ (∀ off, off ≠ mWatch i.toNat 0 → regGet t off = regGet s off) ∧
      liveGet t (mWatch i.toNat 16) = 0 ∧ t.flt = s.flt)

/-! ### Sessions, futures and pages (R269 to R292) -/

/-- KV_ENABLE takes tables, pools and classes that meet their conditions, and the initialisation begins; KV_DISABLE with no command running
clears ENABLE and is refused otherwise; KV_INIT_DONE leaves every future FREE with LENGTH 0, every session without futures, every frame of an
enabled pool free in its ring, and no other byte changed (R270, R278, R279). -/
def Obligations.KvTables : Prop :=
  ∀ s : State,
    (cfgBit s mKvCtl 0 = false → tablesGood s = true → (∀ i < 64, poolOn s i = true → poolGood s ((List.range i).filter (poolOn s)) i = true) →
      (∀ c < 16, clsValid (clsWord s c) = true → classGood s (clsWord s c) = true) →
      ∃ t, Answers .kvEnable s t ∧ t = { s with regs := t.regs } ∧ regGet t mKvCtl = 3 ∧ ∀ off, off ≠ mKvCtl → regGet t off = regGet s off) ∧
    (cfgBit s mKvCtl 0 = true → (runningCount s = 0 → ∃ t, Answers .kvDisable s t ∧ t = { s with regs := t.regs } ∧
        cfgBit t mKvCtl 0 = false ∧ ∀ off, off ≠ mKvCtl → regGet t off = regGet s off) ∧
      (runningCount s ≠ 0 → Answers .kvDisable s (reportRefused s mKvCtl 0 (regGet s mKvCtl)))) ∧
    (let areas := (futAt s 0, 16 * futCount s) :: (sessAt s 0, 8 * sessCount s) :: ((List.range 64).filter (poolOn s)).flatMap fun i =>
        [(poolRing s i, 4 * poolCount s i), (frameAt s (poolFirst s i), 16 * poolCount s i)]
     cfgBit s mKvCtl 1 = true → (areas.Pairwise fun x y => overlap x.1 x.2 y.1 y.2 = false) →
     ∃ t, Answers .kvInitDone s t ∧ t = { s with mem := { s.mem with plane := t.mem.plane }, live := t.live, regs := t.regs } ∧
       cfgBit t mKvCtl 1 = false ∧ (∀ off, off ≠ mKvCtl → regGet t off = regGet s off) ∧
       (∀ f < futCount s, (BitVec.ofNat 128 (planeNat t (futAt s f) 16) : BitVec 128) =
         setFld (setFld (BitVec.ofNat 128 (planeNat s (futAt s f) 16)) 64 2 0) 32 32 0) ∧
       (∀ n < sessCount s, (BitVec.ofNat 64 (planeNat t (sessAt s n) 8) : Word) = setFld (BitVec.ofNat 64 (planeNat s (sessAt s n) 8)) 16 20 0) ∧
       (∀ i < 64, poolOn s i = true → poolFree t i = poolCount s i ∧ ∀ j < poolCount s i,
         planeNat t (poolRing s i + 4 * j) 4 = poolFirst s i + j ∧
         frameState (frameEntry t (poolFirst s i + j)) = fFree ∧ framePool (frameEntry t (poolFirst s i + j)) = i ∧
         frameRef (frameEntry t (poolFirst s i + j)) = 0 ∧ framePins (frameEntry t (poolFirst s i + j)) = 0) ∧
       ∀ a, (areas.all fun r => a < r.1 || r.1 + r.2 ≤ a) = true → planeByte t a = planeByte s a)

/-- FORK (R285) and FREE (R291), where their work meets no fault, no locked line, no lost data and no overrun: what the command stages, and the
changes of REFCNT, which reach the tables as it commits. Blocks that overlap are excluded (R285). -/
def Obligations.ForkAndFree : Prop :=
  ∀ (s : State) (k : SlotId) (c : Cmd) (u : State) (d : Cmd), Inv s →
    cmdOf s k.toNat = some c → jointSet s k.toNat = [k.toNat] → kvOn s = true → cmdOf u k.toNat = some d → live u k.toNat = true → stagedFenced u d = none →
    partialPoison u [k.toNat] = none → c.egress = [] →
    let n := k.toNat
    let r := c.record
    let fut := fun (x : State) (f : Nat) => (BitVec.ofNat 128 (seenNat x n (futAt s f) 16) : BitVec 128)
    let sess := fun (x : State) (i : Nat) => (BitVec.ofNat 64 (seenNat x n (sessAt s i) 8) : Word)
    let leaves := fun (root : Nat) (cls : Word) =>
      ((List.range (l1Count cls)).map fun j => leafOf (seenNat s n (root + 8 * j) 8)).filter (· != noFrame)
    let areas := fun (i : Nat) (cls : Word) (fs : List Nat) =>
      (sessAt s i, 8) :: fs.flatMap fun f => [(futAt s f, 16), (futRoot (fut s f), 8 * l1Count cls)]
    let apartAll := fun (l : List (Nat × Nat)) => l.Pairwise fun x y => overlap x.1 x.2 y.1 y.2 = false
    let ends := fun (i : Instr) (P : State → Prop) => ∃ t, Answers i s t ∧ SameMemory s t ∧
      cmdOf t n = some { d with work := true, fin := true, reqSent := true } ∧ P t
    -- FORK
    (atWork s n 0x04 = some c → forkWork n c s = .ok () u →
      let cnt := fld r 407 17
      let fs := span (fld r 424 20) cnt
      let new := bit r 392
      let parent := fld r 444 20
      let sn := if new then fld r 393 14 else futSession (fut s parent)
      let cls := clsWord s (sessClass (sess s sn))
      let root := futRoot (fut s parent)
      apartAll ((if new then [] else [(root, 8 * l1Count cls)]) ++ areas sn cls fs) →
      ends (.fork k) fun t =>
        (∀ f ∈ fs, futState (fut t f) = 1 ∧ futSession (fut t f) = sn ∧ futLength (fut t f) = (if new then 0 else futLength (fut s parent)) ∧
          fld (fut t f) 0 20 = (if new then f else parent) ∧ futRoot (fut t f) = futRoot (fut s f) ∧
          ∀ j < l1Count cls, if new then leafOf (seenNat t n (futRoot (fut s f) + 8 * j) 8) = noFrame
            else seenNat t n (futRoot (fut s f) + 8 * j) 8 = seenNat s n (root + 8 * j) 8) ∧
        sessFutures (sess t sn) = (sessFutures (sess s sn) + cnt) % 2 ^ 20 ∧
        ∀ x, refNow t d x = refNow s c x + (if new then 0 else cnt * (leaves root cls).count x)) ∧
    -- FREE
    (atWork s n 0x06 = some c → freeWork n c s = .ok () u →
      let cnt := fld r 427 17
      let fs := span (fld r 444 20) cnt
      let sn := futSession (fut s (fld r 444 20))
      let cls := clsWord s (sessClass (sess s sn))
      let all := fs.flatMap fun f => leaves (futRoot (fut s f)) cls
      0 < cnt → apartAll (areas sn cls fs) →
      ends (.free k) fun t =>
        (∀ f ∈ fs, futState (fut t f) = 0 ∧ futLength (fut t f) = 0) ∧
        sessFutures (sess t sn) = (sessFutures (sess s sn) + (2 ^ 20 - cnt)) % 2 ^ 20 ∧
        ((∀ x ∈ all, (all.count x : Int) < refNow s c x) → ∀ x, refNow t d x = refNow s c x - all.count x) ∧
        ∀ x, cnt = 1 → all = [x] → refNow s c x = 1 → ∀ y, refNow t d y = refNow s c y - (if y = x then 1 else 0) -
          (((List.range 256).map fun p => descFrame (BitVec.ofNat 128 (seenNat s n (frameAddr s x + 16 * p) 16))).filter (· != noFrame)).count y)

/-- APPEND (R286 to R289, R276) and RELOCATE (R290), where their work meets no fault, no locked line, no lost data and no overrun: the new LENGTH;
the bytes and the descriptor of the page that is filled in place in every layer; and, for a class of one layer, those of a page or a leaf taken anew,
of one that was shared and is copied (R288), of one that is sealed with its summary (R289), and of one that is moved. That a page without a summary
takes no summary frame as it moves is the model's reading (DEDUCED, log 40). -/
def Obligations.AppendAndRelocate : Prop :=
  ∀ (s : State) (k : SlotId) (c : Cmd) (u : State) (d : Cmd), Inv s →
    cmdOf s k.toNat = some c → jointSet s k.toNat = [k.toNat] → kvOn s = true → cmdOf u k.toNat = some d → live u k.toNat = true → stagedFenced u d = none →
    partialPoison u [k.toNat] = none → d.egress = [] → atWork s k.toNat 0x05 = some c →
    (awaits u fun q => q.slot = some k.toNat && q.asker = .cmd) = false →
    let n := k.toNat
    let r := c.record
    let f := fld r 396 20
    let fut := fun (x : State) => (BitVec.ofNat 128 (seenNat x n (futAt s f) 16) : BitVec 128)
    let cls := clsWord s (sessClass (BitVec.ofNat 64 (seenNat s n (sessAt s (futSession (fut s))) 8)))
    let root := futRoot (fut s)
    let at1 := fun (p : Nat) => l1At root cls 0 (p / 256)
    let leafIn := fun (l p : Nat) => leafOf (seenNat s n (l1At root cls l (p / 256)) 8)
    let leaf := leafIn 0
    let slotIn := fun (l p : Nat) => frameAddr s (leafIn l p) + 16 * (p % 256)
    let slotAt := slotIn 0
    let descAt := fun (x : State) (a : Nat) => (BitVec.ofNat 128 (seenNat x n a 16) : BitVec 128)
    let desc := fun (x : State) (p : Nat) => descAt x (slotAt p)
    let apartAll := fun (l : List (Nat × Nat)) => l.Pairwise fun x y => overlap x.1 x.2 y.1 y.2 = false
    let ownIn := fun (l p : Nat) => leafIn l p ≠ noFrame ∧ refNow s c (leafIn l p) ≤ 1 ∧ descFrame (descAt s (slotIn l p)) ≠ noFrame ∧
      descTier (descAt s (slotIn l p)) < 2
    let own := ownIn 0
    let ring := fun (i j : Nat) => poolRing s i + 4 * ((liveGet s (mKvPool i 3) + BitVec.ofNat 64 j).toNat % poolCount s i)
    let nth := fun (i j : Nat) => planeNat s (ring i j) 4
    let table := (frameAt s 0, 16 * frameCount s)
    let rings := fun (i : Nat) => (poolRing s i, 4 * poolCount s i)
    let ends := fun (i : Instr) (P : State → Prop) => ∃ t, Answers i s t ∧ (∀ a, planeByte t a = planeByte u a) ∧
      cmdOf t n = some { d with work := true, fin := true, reqSent := true } ∧ P t
    -- APPEND
    (appendOp c = 0 → appendWork n (denormOf s n) c s = .ok () u →
      let len := futLength (fut s)
      let cnt := fld r 383 13
      let shut := bit r 382
      let src := fld r 416 48
      let stop := len + cnt
      let hd := clsHd cls
      let el := clsEl cls
      let p := len / 16
      let d0 := desc s p
      let slotOf := fun (l : Nat) => descLocator (descAt s (slotIn l p)) % 2 ^ 48
      let slot := slotOf 0
      let kvh := clsKvh cls
      -- the bytes of the tokens that the buffer of layer l brings to a slot, and of those that a slot held before
      let fills := fun (t : State) (l to' : Nat) => ∀ h < kvh, ∀ i < cnt, ∀ e < hd, ∀ b < el,
        seenByte t n (to' + ((h * 16 + len % 16 + i) * hd + e) * el + b) =
          seenByte s n (src + l * tokenBlock cls cnt + ((h * cnt + i) * hd + e) * el + b) ∧
        seenByte t n (to' + (16 * kvh * hd + (h * hd + e) * 16 + len % 16 + i) * el + b) =
          seenByte s n (src + l * tokenBlock cls cnt + (kvh * cnt * hd + (h * hd + e) * cnt + i) * el + b)
      let keeps := fun (t : State) (to' : Nat) => ∀ h < kvh, ∀ i < len % 16, ∀ e < hd, ∀ b < el,
        seenByte t n (to' + ((h * 16 + i) * hd + e) * el + b) = seenByte s n (slot + ((h * 16 + i) * hd + e) * el + b) ∧
        seenByte t n (to' + (16 * kvh * hd + (h * hd + e) * 16 + i) * el + b) = seenByte s n (slot + (16 * kvh * hd + (h * hd + e) * 16 + i) * el + b)
      let inPage := 0 < cnt ∧ shut = false ∧ len % 16 + cnt < 16
      let one := fun (b : Bool) => if b then (1 : Int) else 0
      (cnt = 0 → shut = false → ends (.append k) fun t => SameMemory s t ∧ d = c) ∧
      (0 < cnt → ends (.append k) fun t =>
        fut t = setFld (fut s) 32 32 (if shut = true ∧ stop % 16 ≠ 0 then 16 * ((stop + 15) / 16) else stop)) ∧
      -- in place, in every layer
      (inPage → (∀ l < clsLayers cls, ownIn l p ∧ refNow s c (descFrame (descAt s (slotIn l p))) ≤ 1) →
        apartAll ((futAt s f, 16) :: (List.range (clsLayers cls)).flatMap fun l =>
          [(slotIn l p, 16), (slotOf l, slotUsed cls), (src + l * tokenBlock cls cnt, tokenBlock cls cnt)]) →
        ends (.append k) fun t => SameMemory s t ∧ ∀ l < clsLayers cls,
          descAt t (slotIn l p) = setFld (descAt s (slotIn l p)) 3 5 (len % 16 + cnt) ∧ fills t l (slotOf l)) ∧
      -- a page taken anew, and its leaf where there is none
      (let anew := leaf p == noFrame
       let x := nth (clsLeafPool cls) 0
       let y := nth (clsPagePool cls) (if anew ∧ clsLeafPool cls = clsPagePool cls then 1 else 0)
       let lf := if anew then x else leaf p
       let at' := fun (q : Nat) => frameAddr s lf + 16 * q
       let new := frameLoc s (clsPagePool cls) y % 2 ^ 48
       inPage → len % 16 = 0 → clsLayers cls = 1 → poolTier s (clsPagePool cls) < 2 → y < frameCount s →
       (if anew then x ≠ y ∧ x < frameCount s else refNow s c (leaf p) ≤ 1 ∧ descFrame d0 = noFrame) →
       apartAll [(futAt s f, 16), (at1 p, 8), (frameAddr s lf, 4096), (new, slotUsed cls), (src, tokenBlock cls cnt), table,
         rings (clsPagePool cls)] →
       ends (.append k) fun t => leafOf (seenNat t n (at1 p) 8) = lf ∧
         descAt t (at' (p % 256)) = setFld (newDesc s (clsPagePool cls) y 0) 3 5 cnt ∧
         (∀ q < 256, q ≠ p % 256 → descAt t (at' q) = if anew then descAbsent else descAt s (at' q)) ∧ fills t 0 new ∧
         frameState (frameEntry t y) = fHeld ∧ frameKind (frameEntry t y) = 0 ∧
         (anew = true → frameState (frameEntry t x) = fHeld ∧ frameKind (frameEntry t x) = 2) ∧
         ∀ z, refNow t d z = refNow s c z + one (anew && z == x) + one (z == y)) ∧
      -- a page that is shared, or that a shared leaf names, is copied
      (let cut := decide (1 < refNow s c (leaf p))
       let x := nth (clsLeafPool cls) 0
       let y := nth (clsPagePool cls) (if cut ∧ clsLeafPool cls = clsPagePool cls then 1 else 0)
       let lf := if cut then x else leaf p
       let new := frameLoc s (clsPagePool cls) y % 2 ^ 48
       let named := ((List.range 256).map fun q => descFrame (descAt s (frameAddr s (leaf p) + 16 * q))).filter (· != noFrame)
       inPage → clsLayers cls = 1 → leaf p ≠ noFrame → descFrame d0 ≠ noFrame → descSealed d0 = false → descTier d0 < 2 → descValid d0 = len % 16 →
       (1 < refNow s c (descFrame d0) ∨ cut = true ∧ 0 < refNow s c (descFrame d0)) → poolTier s (clsPagePool cls) < 2 →
       y < frameCount s → [y, leaf p, descFrame d0].Nodup → (cut = true → x < frameCount s ∧ x ∉ [y, leaf p, descFrame d0]) →
       apartAll ([(futAt s f, 16), (at1 p, 8), (frameAddr s (leaf p), 4096), (slot, slotUsed cls), (new, slotUsed cls), (src, tokenBlock cls cnt),
         table, rings (clsPagePool cls)] ++ if cut then [(frameAddr s x, 4096)] else []) →
       ends (.append k) fun t => leafOf (seenNat t n (at1 p) 8) = lf ∧
         descAt t (frameAddr s lf + 16 * (p % 256)) = setFld (newDesc s (clsPagePool cls) y 0) 3 5 (len % 16 + cnt) ∧
         (∀ q < 256, q ≠ p % 256 → descAt t (frameAddr s lf + 16 * q) = descAt s (frameAddr s (leaf p) + 16 * q)) ∧
         keeps t new ∧ fills t 0 new ∧ frameState (frameEntry t y) = fHeld ∧
         ∀ z, refNow t d z = refNow s c z + (if cut then named.count z + one (z == x) - one (z == leaf p) else 0) -
           one (z == descFrame d0) + one (z == y)) ∧
      -- a page that is sealed
      (let y := nth (clsSumPool cls) 0
       let new := frameLoc s (clsSumPool cls) y % 2 ^ 48
       let valid := len % 16 + cnt
       0 < cnt → (shut = true ∧ valid ≤ 16 ∨ valid = 16) → clsLayers cls = 1 → own p → refNow s c (descFrame d0) ≤ 1 → descSealed d0 = false →
       descValid d0 = len % 16 → y < frameCount s →
       apartAll [(futAt s f, 16), (slotAt p, 16), (slot, slotUsed cls), (src, tokenBlock cls cnt), (new, slotUsed cls / 16), table] →
       ends (.append k) fun t =>
         let mean := fun (o : Nat → Nat) => meanOf (denormOf s n) (clsFmt cls)
           ((List.range valid).map fun j => leNat ((span (slot + o j * el) el).map (seenByte t n)))
         desc t p = setFld (setFld (setFld d0 3 5 valid) 2 1 1) 8 28 y ∧ fills t 0 slot ∧ keeps t slot ∧
         (descFrame d0, y) ∈ d.page.links ∧ frameState (frameEntry t y) = fHeld ∧ frameKind (frameEntry t y) = 1 ∧
         ∀ h < kvh, ∀ e < hd, ∀ b < el,
           seenByte t n (new + (h * hd + e) * el + b) = BitVec.ofNat 8 (mean (fun j => (h * 16 + j) * hd + e) / 256 ^ b) ∧
           seenByte t n (new + ((kvh + h) * hd + e) * el + b) = BitVec.ofNat 8 (mean (fun j => 16 * kvh * hd + (h * hd + e) * 16 + j) / 256 ^ b))) ∧
    -- RELOCATE
    (appendOp c = 1 → relocateWork n c s = .ok () u →
      let pool := fld r 363 6
      let p := fld r 336 27
      let d0 := desc s p
      let x := nth pool 0
      let y := nth (clsSumPool cls) 0
      let new := frameLoc s pool x % 2 ^ 48
      let newSum := frameLoc s (clsSumPool cls) y % 2 ^ 48
      (fld r 309 27 = 0 → ends (.relocate k) fun t => SameMemory s t ∧ d = c) ∧
      (fld r 309 27 = 1 → clsLayers cls = 1 → p < 2 ^ (clsL1 cls + 8) → own p → descSealed d0 = true →
        framePool (frameEntry s (descFrame d0)) ≠ pool → poolTier s pool < 2 → clsSumPool cls ≠ pool → x < frameCount s → y < frameCount s →
        [x, y, descFrame d0, descSum d0, leaf p].Nodup →
        apartAll ([(at1 p, 8), (slotAt p, 16), (descLocator d0 % 2 ^ 48, slotUsed cls), (new, slotUsed cls), table, rings (clsSumPool cls)] ++
          (if descSum d0 = noFrame then [] else [(frameAddr s (descSum d0), slotUsed cls / 16), (newSum, slotUsed cls / 16)])) →
        ends (.relocate k) fun t =>
          let d1 := desc t p
          descFrame d1 = x ∧ descLocator d1 = frameLoc s pool x % 2 ^ 64 ∧ descTier d1 = poolTier s pool ∧ descSealed d1 = true ∧
          descValid d1 = descValid d0 ∧ (∀ i < slotUsed cls, seenByte t n (new + i) = seenByte s n (descLocator d0 % 2 ^ 48 + i)) ∧
          refNow t d (descFrame d0) = refNow s c (descFrame d0) - 1 ∧ refNow t d x = refNow s c x + 1 ∧
          (descSum d0 = noFrame → descSum d1 = noFrame) ∧
          (descSum d0 ≠ noFrame → descSum d1 = y ∧
            ∀ i < slotUsed cls / 16, seenByte t n (newSum + i) = seenByte s n (frameAddr s (descSum d0) + i))))

/-! ### COPY and the prefetch runners (R55 to R60, R81) -/

/-- COPY within the chip stages the bytes of SRC at DST, to another memory stages them as egress, and from another memory asks for them in
runs; the work of one of 0 bytes is done at once, that of one whose lines are not in the Sheaf cache with the last of them; one whose queue pair is not READY
fails (R43, R81, R93, R351, R389, R390). PREFETCH_ISSUE issues the next entry of the schedule whose turn it is, and PREFETCH_ARRIVAL puts the bytes of an entry
at its destination and signals ACTR by SINC (R55 to R60). The model's readings (DEDUCED): the oldest entry that can be in place arrives (log 39), the record
of a bad entry (log 18), and requests of whole lines cut at 64 KiB (log 34). -/
def Obligations.CopiesAndPrefetch : Prop :=
  ∀ s : State, Inv s →
    (∀ (k : SlotId) (c : Cmd), atWork s k.toNat 0x02 = some c → jointSet s k.toNat = [k.toNat] → c.egress = [] → c.fin = false →
      (s.fab.transfers.any fun t => t.slot = k.toNat && t.who = .copy k.toNat) = false →
      (awaits s fun f => f.slot = some k.toNat && f.asker = .cmd) = false →
      let n := k.toNat
      let near := fun (host : Bool) (g : Nat) => !host && isLocal s g
      let a := planePart c.src
      let b := planePart c.dst
      let open' := fun (x : Nat) => csetBad s n x c.bytes = none ∧ fencedIn s x c.bytes = none
      let ready := ((c.srcHost || c.dstHost) = true → qpState s (hkeyQp s c.key) = 1)
      let fine := fun (d : Cmd) => stageOver (setCmd s n d) n = none ∧ stagedFenced s d = none ∧ partialPoison (setCmd s n d) [n] = none
      let done := fun (d : Cmd) => some { d with work := true, fin := true, reqSent := true }
      (c.bytes = 0 → fine c → ∃ t, Answers (.copy k) s t ∧ SameMemory s t ∧ cmdOf t n = done c) ∧
      (c.bytes ≠ 0 → ready → s.flt.upsets = [] → near c.srcHost c.src = true → open' a → heldFor s n a c.bytes = false →
        seenPoison s n a c.bytes = none →
        let d := { c with staged := Map.putRun c.staged b (seenRead s n a c.bytes), thru := thruAfter c c.nonalloc (linesOf b c.bytes) }
        let absent := (neededLines s n a c.bytes).filter fun l => decide (l < hbmSize) && (cachedLine s l).isNone
        (near c.dstHost c.dst = true → open' b → inFrameTable s b c.bytes = false → fine d → ∃ t, Answers (.copy k) s t ∧ SameMemory s t ∧
          cmdOf t n = (if absent = [] then done d else some { d with work := true }) ∧
          (∀ l ∈ absent, ∃ f ∈ t.mem.fills, f.line = l ∧ f.asker = .cmd ∧ f.slot = some n) ∧ ∀ x, seenByte t n x = if b ≤ x ∧ x < b + c.bytes then seenByte s n (a + (x - b)) else seenByte s n x) ∧
        (near c.dstHost c.dst = false → ∃ t, Answers (.copy k) s t ∧ SameMemory s t ∧ (live t n = true → ∃ m es, cmdOf t n = some m ∧
          m.egress = es ∧ m.staged = c.staged ∧ es.flatMap (·.data) = seenRead s n a c.bytes ∧
          let size := if c.dstHost then 1048576 else 8388608
          ∀ i, (h : i < es.length) → es[i].host = c.dstHost ∧ es[i].dest = (if c.dstHost then c.key else c.dst / 2 ^ 48) ∧
            es[i].addr = (if c.dstHost then c.dst else b) + size * i ∧ es[i].data.length ≤ size ∧ es[i].granted = c.dstHost))) ∧
      ((c.srcHost || c.dstHost) = true → c.bytes ≠ 0 → qpState s (hkeyQp s c.key) ≠ 1 →
        Answers (.copy k) s (failWith s n (holdRec (c.cores.headD 0) (some 3) n (if c.srcHost then c.src else c.dst) 0))) ∧
      (c.bytes ≠ 0 → ready → near c.srcHost c.src = false → near c.dstHost c.dst = true → open' b → inFrameTable s b c.bytes = false →
        ∃ t x, Answers (.copy k) s t ∧ SameMemory s t ∧ cmdOf t n = some { c with work := true } ∧ x ∈ t.fab.transfers ∧ x.who = .copy n ∧
        x.host = c.srcHost ∧ x.dest = (if c.srcHost then c.key else c.src / 2 ^ 48) ∧ x.buf = [] ∧
        x.left ++ x.todo = (runsOf [if c.srcHost then (c.src, c.bytes) else wholeLines (a, c.bytes)]).flatMap (cutRun 65536))) ∧
    -- the last line of a COPY
    (∀ (k : SlotId) (c : Cmd) (l : BitVec 48) (f : FillReq), cmdOf s k.toNat = some c → c.kind = 2 → c.work = true → c.fin = false →
      live s k.toNat = true → jointSet s k.toNat = [k.toNat] → (c.egress.all (·.granted)) = true →
      (s.fab.transfers.any fun t => t.slot = k.toNat && t.who = .copy k.toNat) = false → stagedFenced s c = none → partialPoison s [k.toNat] = none →
      (s.mem.fills.filter fun x => x.line = lineOf l.toNat) = [f] → f.slot = some k.toNat → f.asker = .cmd →
      (∀ x ∈ s.mem.fills, x.slot = some k.toNat → x.asker = .cmd → x = f) → isPoisoned s l.toNat = false → s.flt.upsets = [] →
      s.fab.readWaits = [] → s.eth.held = [] → underTest s 4 (channelOf s (lineOf l.toNat)) = false →
      (channelNext s (channelOf s (lineOf l.toNat))).map (·.line) = some (lineOf l.toNat) →
      ∃ t, Answers (.hbmLineFill l .clean) s t ∧ SameMemory s t ∧ cmdOf t k.toNat = some { c with fin := true, reqSent := true }) ∧
    -- PREFETCH_ISSUE
    (∀ (b : SliceId) (r : Sched), schedNext s b.toNat = some r → s.flt.upsets = [] →
      let i := r.first + r.next
      let e := entryOf s b.toNat i
      let a := planePart (peSrc e)
      let step := fun (fly : Bool) => mapIf (fun q => q.slice = b.toNat && q.slot = r.slot)
        (fun q => { q with next := q.next + 1, flying := if fly then q.flying ++ [i] else q.flying }) s.mem.scheds
      (peBad s r.slot e = true → Answers (.prefetchIssue b) s (failWith s r.slot (entryRec r.slot b.toNat i 0))) ∧
      (peBad s r.slot e = false → peBytes e = 0 → isInternal s r.slot (peActr e) = true → ∃ t, Answers (.prefetchIssue b) s t ∧ SameMemory s t ∧
        t.mem.scheds = step false ∧ t.sync = { s.sync with inflight := s.sync.inflight ++ [⟨peActr e, peSinc e, some r.slot, none, b.toNat⟩] }) ∧
      (peBad s r.slot e = false → peBytes e ≠ 0 → isLocal s (peSrc e) = true → fencedIn s a (peBytes e) = none →
        ∃ t, Answers (.prefetchIssue b) s t ∧ SameMemory s t ∧ t.disp = s.disp ∧ t.cores = s.cores ∧
        (∀ l ∈ if entryKind e = 1 then neededLines s r.slot a (peBytes e) else linesOf a (peBytes e), l < hbmSize → cachedLine s l = none → ∃ f ∈ t.mem.fills, f.line = l ∧ f.asker = .entry b.toNat i) ∧
        (peDue s e = true → t.sync = s.sync ∧ ∀ q ∈ t.mem.scheds, q.slice = b.toNat → q.slot = r.slot → i ∈ q.urgent ∧ i ∈ q.flying) ∧
        (peDue s e = false → t.mem.scheds = step true ∧ ∃ w, t.sync = { s.sync with watches := s.sync.watches ++ [w] } ∧ w.ctr = peDctr e ∧
          w.target = peTarget e ∧ w.who = .prefetch b.toNat r.slot i)) ∧
      (peBad s r.slot e = false → peBytes e ≠ 0 → isLocal s (peSrc e) = false → (∀ x ∈ s.fab.transfers, x.who ≠ .prefetch b.toNat r.slot i) →
        ∃ t x, Answers (.prefetchIssue b) s t ∧ SameMemory s t ∧ t.mem.scheds = step true ∧ x ∈ t.fab.transfers ∧
        x.who = .prefetch b.toNat r.slot i ∧ x.host = false ∧ x.dest = peSrc e / 2 ^ 48 ∧
        x.left ++ x.todo = (runsOf [wholeLines (a, peBytes e)]).flatMap (cutRun 65536))) ∧
    -- PREFETCH_ARRIVAL
    ∀ (b : SliceId) (k i : Nat), entryNext s b.toNat = some (k, i) →
      let e := entryOf s b.toNat i
      let a := planePart (peSrc e)
      let n := peBytes e
      let lands := fun (t : State) (rd : Nat → Byte) => SameMemory s t ∧
        t.mem.scheds = mapIf (fun q => q.slice = b.toNat && q.slot = k)
          (fun q => { q with flying := dropFirst (· = i) q.flying, urgent := q.urgent.filter (· != i) }) s.mem.scheds ∧
        (∀ w ∈ t.sync.watches, w.who ≠ .prefetch b.toNat k i) ∧
        t.sync.inflight = s.sync.inflight ++ [⟨peActr e, peSinc e, some k, none, b.toNat⟩] ∧
        ∀ x, seenByte t k x = if entryKind e ≠ 0 ∧ peDst e ≤ x ∧ x < peDst e + n then rd (a + (x - peDst e)) else seenByte s k x
      peSinc e ≠ 0 → isInternal s k (peActr e) = true →
      (entryKind e = 0 → ∃ t, Answers (.prefetchArrival b) s t ∧ lands t (seenByte s k)) ∧
      (entryKind e ≠ 0 → entryTransfer s b.toNat k i = none → s.flt.upsets = [] → fencedIn s a n = none → seenPoison s k a n = none →
        stageOver (stagePut s k (peDst e) (seenRead s k a n)) k = none → ∃ t, Answers (.prefetchArrival b) s t ∧ lands t (seenByte s k)) ∧
      ∀ x, entryKind e ≠ 0 → entryTransfer s b.toNat k i = some x → stageOver (stagePut s k (peDst e) ((span a n).map x.byte)) k = none →
        ∃ t, Answers (.prefetchArrival b) s t ∧ lands t x.byte

/-! ### Groups and collectives (R354 to R375) -/

/-- Registration (R355): GROUP_REGISTER begins it, GROUP_REGISTRATION_DONE registers a group whose entry passes the checks with NEXT_SEQ at
FIRST_SEQ and otherwise names the check that failed (a locked line of the entry or of the member table holds it, R93), and GROUP_UNREGISTER removes a group that no COLLECTIVE names. A member of a ring sends and
receives chunks as R364 says. COLLECTIVE reads the member's contribution and begins its plan, or waits for counts; the messages of an instance:
a PIECE lands in a slot of the group's window and is combined or copied, a CREDIT adds to those held, a COUNT lands in the count area, and an
ABANDON fails the instance or is remembered
(R356, R357, R366, R373). That a piece goes into the lowest free slot, which R357 does not name, and that an ABANDON marks its GSEQ also where the group is
not registered here yet, are the model's readings (DEDUCED, log 25). -/
def Obligations.GroupsAndCollectives : Prop :=
  (∀ (s : State) (g : BitVec 12),
    let e : BitVec 512 := BitVec.ofNat 512 (planeNat s (groupAddr s g.toNat) 64)
    let r := if inPinned s (groupAddr s g.toNat) 64 then groupCheck s g.toNat e else 0x01
    (s.fab.regGroup = none → ∃ t, Answers (.groupRegister g) s t ∧
      t = { s with regs := t.regs, fab := { s.fab with regGroup := some g.toNat } } ∧ cfg t mGroupStat 16 1 = 1) ∧
    let locked := (lockIn s [] (groupAddr s g.toNat) 64).isSome || (lockIn s [] (fld e 464 48) (2 * grpP e)).isSome
    (s.fab.regGroup = some g.toNat → locked = true → Answers .groupRegistrationDone s s) ∧
    (s.fab.regGroup = some g.toNat → locked = false → ∃ t, Answers .groupRegistrationDone s t ∧ SameMemory s t ∧ t.fab.regGroup = none ∧
      cfg t mGroupStat 16 1 = 0 ∧ cfg t mGroupStat 8 8 = r ∧ (∀ o, o ≠ g.toNat ∨ r ≠ 0 → groupOf t o = groupOf s o) ∧
      (r = 0 → t.flt = s.flt ∧ groupOf t g.toNat = some ⟨e, (List.range (fld e 400 16 + 1)).map fun i => planeNat s (fld e 464 48 + 2 * i) 2,
        BitVec.ofNat 32 (fld e 352 32), []⟩)) ∧
    ((∀ x ∈ s.disp.slots, x.2.kind = 3 → x.2.group = g.toNat → x.2.phase = .closing) → ∃ t, Answers (.groupUnregister g) s t ∧
      SameMemory s t ∧ groupOf t g.toNat = none ∧ (∀ o, o ≠ g.toNat → groupOf t o = groupOf s o) ∧ cfg t mGroupStat 8 8 = 0)) ∧
  (∀ c : CPlan, cKind c.d = 1 → cAlg c.d = 2 → cBidir c.d = false → 1 < c.p → c.r < c.p →
    let chunk := fun (x : Nat) => (x % c.p * c.n / c.p, (x % c.p + 1) * c.n / c.p)
    let move := fun (rank x : Nat) =>
      [CMove.mk rank ((chunk x).1 * cWe c.d) (((chunk x).2 - (chunk x).1) * cWe c.d) ((chunk x).1 * cWe c.d)]
    (planSteps c).length = 2 * (c.p - 1) ∧
    ∀ i < c.p - 1,
      (planSteps c)[i]? = some ⟨move ((c.r + 1) % c.p) (c.r + 2 * c.p - i - 1), move ((c.r + c.p - 1) % c.p) (c.r + 2 * c.p - i - 2), true⟩ ∧
      (planSteps c)[c.p - 1 + i]? =
        some ⟨move ((c.r + 1) % c.p) (c.r + 2 * c.p - i), move ((c.r + c.p - 1) % c.p) (c.r + 2 * c.p - i - 1), false⟩) ∧
  -- COLLECTIVE
  (∀ (s : State) (k : SlotId) (c : Cmd) (i0 : Inst) (st : CStep) (rest : List CStep), atWork s k.toNat 0x03 = some c →
    instOf s k.toNat = some i0 → i0.started = false → i0.wrote = false → i0.window = [] → i0.waits = [] → i0.out = [] → i0.credits = [] →
    cFeed i0.desc = false → s.flt.upsets = [] →
    let n := k.toNat
    let e := instEntry s i0
    let size := 2 ^ grpLog2 e
    let own := if i0.dynamic then Map.put [] (grpRank e) (ownCount s n e i0.desc) else []
    let sends := if i0.dynamic ∧ cKind i0.desc = kAllToAllV then (List.range (grpP e)).map fun j => leNat (seenRead s n (cCnt i0.desc + 4 * j) 4)
      else []
    let p := planCtx s { i0 with counts := own, sends := sends }
    let ranges := srcRanges p { i0 with counts := own, sends := sends } ++ cntRange p
    let early := fun (x : BitVec 32 × Nat × Nat) => ∃ g, groupOf s i0.group = some g ∧ x ∈ g.early ∧ x.1 = i0.gseq
    (∀ r ∈ ranges, heldFor s n r.1 r.2 = false ∧ csetBad s n r.1 r.2 = none ∧ (r.2 ≠ 0 → inPlane s r.1 r.2 = true) ∧ fencedIn s r.1 r.2 = none ∧
      seenPoison s n r.1 r.2 = none) →
    let bytes := (srcRanges p { i0 with counts := own, sends := sends }).flatMap fun r => seenRead s n r.1 r.2
    (i0.dynamic = false → (∀ x, ¬ early x) → planSteps p = st :: rest → stepPieces size st.recvs ≠ [] → cKind i0.desc ≠ kAllGather →
      ∃ t i, Answers (.collective k) s t ∧ SameMemory s t ∧ cmdOf t n = some { c with work := true } ∧ instOf t n = some i ∧ i.started = true ∧
      i.plan = rest ∧ i.waits = stepPieces size st.recvs ∧ i.combine = st.combine ∧ i.vec = Map.putRun [] 0 (widen i0.desc bytes) ∧
      i.out = (stepPieces size st.sends).map fun m => pieceOf i m) ∧
    (i0.dynamic = true → (∃ j ∈ needCounts p, ∀ x, early x → x.2.1 ≠ j) →
      ∃ t i, Answers (.collective k) s t ∧ (∀ a, a < grpBase e ∨ grpBase e + grpCounts e ≤ a → planeByte t a = planeByte s a) ∧
      cmdOf t n = some { c with work := true } ∧ instOf t n = some i ∧ i.started = false ∧
      i.counted = true ∧ i.vec = Map.putRun [] 0 (widen i0.desc bytes))) ∧
  -- PIECE, CREDIT, COUNT and ABANDON
  ∀ (s : State) (m : Msg), Inv s → forUs s m = true →
    let took := fun (t : State) => SameMemory s t ∧ (∀ c, coreOf t c = coreOf s c)
    let s' := takeMsg s m
    (∀ (i : Inst) (c : Cmd) (w : CMove) (more : List CMove), instFor s m = some i → instOf s i.slot = some i → cmdOf s i.slot = some c →
      i.wrote = false → i.window = [] → i.waits = w :: more → more ≠ [] → w.rank = m.srank → lineOf w.wire = 64 * fld m.hdr 0 36 →
      fld m.hdr 96 32 = (cDigest i.desc).toNat →
      let whole := m.data.take m.span
      let slot := grpSlotAt (instEntry s i) 0
      let data := (whole.drop (w.wire - lineOf w.wire)).take w.len
      0 < grpSlots (instEntry s i) → whole.length ≤ 2 ^ grpLog2 (instEntry s i) → w.wire - lineOf w.wire + w.len ≤ whole.length →
      poisonIn s slot whole.length = none → s.flt.upsets = [] →
      ∃ t j, Answers (.piece m) s t ∧ (∀ c, coreOf t c = coreOf s c) ∧
      (∀ a, planeByte t a = if slot ≤ a ∧ a < slot + whole.length then whole.getD (a - slot) 0 else planeByte s a) ∧ instOf t i.slot = some j ∧ j.waits = more ∧ j.window = [] ∧ j.plan = i.plan ∧
      j.vec = Map.putRun i.vec w.at' (if i.combine then combineBytes (fld c.modeAt 6 2) i.desc (i.bytes w.at' w.len) data else data)) ∧
    (∀ i, instFor s m = some i → fld m.hdr 96 32 ≠ (cDigest i.desc).toNat → ∃ t, Answers (.piece m) s t ∧
      t = failColl (countQueue s' i.slot 4 m.span) i 0x0F 0x80 m.src (fld m.hdr 96 32)) ∧
    (∀ i, instFor s m = some i → instOf s i.slot = some i → i.wrote = false → i.window = [] → i.waits ≠ [] → i.out = [] →
      ∃ t j, Answers (.credit m) s t ∧ took t ∧ instOf t i.slot = some j ∧ j.vec = i.vec ∧ j.waits = i.waits ∧ j.plan = i.plan ∧
      Inst.num j.credits m.srank = Inst.num i.credits m.srank + fld m.hdr 0 16 ∧
      Inst.num j.unret m.srank = Inst.num i.unret m.srank - fld m.hdr 0 16 ∧ ∀ r, r ≠ m.srank → Inst.num j.credits r = Inst.num i.credits r) ∧
    (∀ g, groupOf s m.group = some g → (∀ i, instFor s m = some i → i.counted = false) → (instFor s m = none → gseqPast g m.gseq = false ∧
        instAt s m.group m.gseq = none) →
      ∃ t, Answers (.count m) s t ∧ took t ∧ groupOf t m.group = some { g with early := g.early ++ [(m.gseq, m.srank, fld m.hdr 0 32)] }) ∧
    (∀ i g j, instFor s m = some i → groupOf s m.group = some g → i.counted = true → i.dynamic = true → instOf s i.slot = some i →
      j ∈ needCounts (planCtx s i) → j ≠ m.srank → Map.find? i.counts j = none →
      ∃ t x, Answers (.count m) s t ∧ (∀ c, coreOf t c = coreOf s c) ∧
      (∀ a, planeByte t a = if m.srank < grpP g.entry ∧ grpBase g.entry + 4 * m.srank ≤ a ∧ a < grpBase g.entry + 4 * m.srank + 4 then
        BitVec.ofNat 8 (fld m.hdr 0 32 / 256 ^ (a - (grpBase g.entry + 4 * m.srank))) else planeByte s a) ∧
      instOf t i.slot = some x ∧ Map.find? x.counts m.srank = some (fld m.hdr 0 32) ∧ x.started = i.started) ∧
    (∀ i, instAt s m.group m.gseq = some i → live s i.slot = true → (cmdOf s i.slot).map (·.decided) = some false →
      Answers (.abandon m) s (failColl s' i 0x0F 0x82 m.src 0)) ∧
    (instAt s m.group m.gseq = none → (∀ g, groupOf s m.group = some g → gseqPast g m.gseq = false) →
      ∃ t, Answers (.abandon m) s t ∧ took t ∧ t.fab.marks = s.fab.marks ++ [(m.group, m.gseq, m.src)])

/-! ### Links (R334 to R349) -/

/-- Flits on a link that is up (R336, R337, R342): a data flit with the next FSEQ and a right CRC is taken, and its message waits in the inbox
once it is whole, unless its kind or its number of detour ports is reserved (R11, R350); another is discarded, and a NAK goes out if one has been accepted
since the last. Acknowledgement and credits act with every flit whose CRC is right. A replay sends every unacknowledged flit again, in order; a retrain
stops data flits until RETRAIN_DONE gives the point to replay from (R338). That an acknowledgement removes the flit that it names and all before it, that
credits never fall below zero, and that a retrain before any data flit reports the number before the first are the model's readings (DEDUCED, log 13); that a
flit of reserved LEN is discarded is its choice (log 36). -/
def Obligations.LinkFlits : Prop :=
  ∀ (s : State) (l : LinkId) (f : Flit),
    let k := linkOf s l.toNat
    let still := fun (t : State) => SameMemory s t ∧ (∀ c, coreOf t c = coreOf s c) ∧ t.disp = s.disp ∧
      ∀ j, j ≠ l.toNat → linkOf t j = linkOf s j
    let tells := fun (t : State) (bytes : List Byte) => ∃ g, t.sent.head? = some (.flit l.toNat g) ∧ g.ctrl = true ∧ g.data = bytes
    let again := fun (t : State) => ∃ gs : List Flit, t.sent = (gs.map (Sent.flit l.toNat)).reverse ++ s.sent ∧
      gs.map (fun g => (g.fseq, g.data)) = k.replay.map (fun x => (x.flit.fseq, x.flit.data)) ∧ (linkOf t l.toNat).replay = k.replay
    let acks := fun (i : Instr) => f.crcOk = true → f.data.length ≤ 240 → k.waiting = [] → ∃ t, Answers i s t ∧ still t ∧
      (∀ before x after, f.ackV = true → k.replay = before ++ x :: after → x.flit.fseq = f.ackSeq → (∀ y ∈ before, y.flit.fseq ≠ f.ackSeq) →
        (linkOf t l.toNat).replay = after) ∧
      (f.ackV = false → (linkOf t l.toNat).replay = k.replay) ∧
      ∀ key, Map.get (fun _ => 0) (linkOf t l.toNat).used key = Map.get (fun _ => 0) k.used key -
        (if key = laneKey f.cvc.toNat f.ccls f.csub then f.cred.toNat else 0)
    k.state = 2 →
    -- DATA_FLIT
    (f.ctrl = false → (f.crcOk = true → f.data.length ≤ 240 → f.fseq = k.rxNext → ∃ t, Answers (.dataFlit l f) s t ∧ still t ∧
        (linkOf t l.toNat).rxNext = k.rxNext + 1 ∧ (linkOf t l.toNat).rxLast = some f.fseq ∧
        let key := laneKey f.vc.toNat f.cls f.sub
        let m := Msg.ofBytes ((if f.som then [] else Map.get (fun _ => []) k.parts key) ++ f.data)
        t.fab.inbox = if f.eom ∧ !(forUs s m && !kindDefined m.kind) ∧ m.dtrn ≤ 4 then s.fab.inbox ++ [⟨m, some (l.toNat, key)⟩] else s.fab.inbox) ∧
      (f.crcOk = true → f.data.length ≤ 240 → f.fseq ≠ k.rxNext → ∃ t, Answers (.dataFlit l f) s t ∧ still t ∧ t.fab.inbox = s.fab.inbox ∧
        (linkOf t l.toNat).rxNext = k.rxNext ∧ (linkOf t l.toNat).rxLast = k.rxLast ∧ (linkOf t l.toNat).gotOne = false) ∧
      (f.crcOk = false ∨ 240 < f.data.length → ∃ t g, Answers (.dataFlit l f) s t ∧ still t ∧ t.fab.inbox = s.fab.inbox ∧ (linkOf t l.toNat).rxNext = k.rxNext ∧
        t.sent = .flit l.toNat g :: s.sent ∧ g.ctrl = true ∧ g.nak = (k.nakDue || k.gotOne) ∧ g.ackSeq = k.rxLast.getD 0) ∧
      acks (.dataFlit l f)) ∧
    -- IDLE
    (ctrlOk s l.toNat f 0 = true → acks (.idle l f) ∧ (f.crcOk = false → Answers (.idle l f) s (liveSat s (mLinkErr l.toNat) 0 32 1))) ∧
    -- REPLAY_TIMEOUT, RETRAIN_START
    (k.training = false → k.await = false → k.replay ≠ [] → (∃ t, Answers (.replayTimeout l) s t ∧ still t ∧ again t) ∧
      ∃ t, Answers (.retrainStart l) s t ∧ still t ∧ tells t [1] ∧ (linkOf t l.toNat).training = true ∧ (linkOf t l.toNat).replay = k.replay) ∧
    -- RETRAIN_REQUEST, RETRAIN_DONE
    (ctrlOk s l.toNat f 1 = true → f.crcOk = true → ∃ t, Answers (.retrainRequest l f) s t ∧ still t ∧ (linkOf t l.toNat).training = true ∧
      tells t (2 :: natLE 2 (k.rxNext - 1).toNat)) ∧
    (∀ before x after, ctrlOk s l.toNat f 2 = true → f.crcOk = true → f.ackV = false → f.nak = false → k.training = true → k.waiting = [] →
      k.replay = before ++ x :: after → x.flit.fseq.toNat = leNat ((f.data.drop 1).take 2) → (∀ y ∈ before, y.flit.fseq ≠ x.flit.fseq) →
      ∃ t, Answers (.retrainDone l f) s t ∧ still t ∧ (linkOf t l.toNat).training = false ∧ (linkOf t l.toNat).fails = 0 ∧
      (linkOf t l.toNat).replay = after)

/-- Links in and out of service (R334, R338, R340, R345 to R349, R375): LINK_TRAINED with the right neighbour opens a link with its numbering
begun anew and with another leaves it wrongly connected; LINK_DISABLE takes a link down and LINK_ENABLE trains it again; after three attempts a
retrain ends in a test of the link, or in its fence where it has passed ERR_CFG.STRIKES tests (R411); what a link that went down had not delivered goes out
again on one that is up; FORWARD routes a message for another chip on; and a message that is taken from the inbox returns a credit (R342). That it returns
as the message is taken, by an idle flit where the link is up, is the model's choice (DESIGN CHOICE, log 13). -/
def Obligations.LinkStates : Prop :=
  ∀ (s : State) (l : LinkId),
    let k := linkOf s l.toNat
    let i := l.toNat
    (∀ (peer : BitVec 16) (port : BitVec 2), k.state = 1 → underTest s 5 i = false → cfgBit s (mLinkCtl i) 0 = false →
      (peer.toNat = neighbour s (i / 4) → port.toNat = i % 4 → ∃ t, Answers (.linkTrained l peer port) s t ∧ SameMemory s t ∧
        (linkOf t i).state = 2 ∧ (linkOf t i).peer = peer ∧ (linkOf t i).rxNext = 0 ∧ (linkOf t i).rxLast = none ∧ (linkOf t i).fails = 0 ∧
        (k.replay = [] → k.waiting = [] → (linkOf t i).txSeq = 0 ∧ (linkOf t i).replay = [] ∧ (linkOf t i).waiting = []) ∧ t.flt = s.flt) ∧
      (peer.toNat ≠ neighbour s (i / 4) ∨ port.toNat ≠ i % 4 → ∃ t, Answers (.linkTrained l peer port) s t ∧ SameMemory s t ∧
        linkOf t i = { k with state := 5, peer := peer } ∧
        t.flt.log = (logRec s ⟨0x08, 5, i, none, neighbour s (i / 4) * 65536 + peer.toNat, 0x93 * 2 ^ 56⟩).flt.log)) ∧
    ((k.state = 1 ∨ k.state = 2 ∨ k.state = 5) → ∃ t, Answers (.linkDisable l) s t ∧ SameMemory s t ∧ (linkOf t i).state = 3 ∧
      regGet t (mLinkCtl i) = 1) ∧
    ((k.state = 0 ∨ k.state = 3 ∨ k.state = 4) → ∃ t, Answers (.linkDisable l) s t ∧ t = { s with regs := t.regs } ∧
      regGet t (mLinkCtl i) = 1) ∧
    (∃ t, Answers (.linkEnable l) s t ∧ SameMemory s t ∧ regGet t (mLinkCtl i) = 0 ∧
      linkOf t i = (if k.state = 3 ∨ k.state = 5 then { k with state := 1 } else k) ∧ ∀ j, j ≠ i → linkOf t j = linkOf s j) ∧
    (k.state = 2 → k.training = true → k.fails.toNat < 2 → ∃ t g, Answers (.retrainAttemptTimeout l) s t ∧ SameMemory s t ∧
      (linkOf t i).fails.toNat = k.fails.toNat + 1 ∧ (linkOf t i).state = 2 ∧ t.sent = .flit i g :: s.sent ∧ g.ctrl = true ∧ g.data = [1]) ∧
    (k.state = 2 → k.training = true → 2 ≤ k.fails.toNat → underTest s 5 i = false →
      let strikes := cfg s mErrCfg 40 8
      let passes := Map.get (fun _ => 0) s.flt.passes (unitKey 5 i)
      let r := logRec s ⟨0x08, 5, i, none, k.accepted.toNat, 0x94 * 2 ^ 56⟩
      ∃ t, Answers (.retrainAttemptTimeout l) s t ∧ SameMemory s t ∧ (linkOf t i).training = false ∧
      (strikes = 0 ∨ passes < strikes → (linkOf t i).state ≠ 2 ∧ underTest t 5 i = true) ∧
      (0 < strikes → strikes ≤ passes → (linkOf t i).state = 4 ∧ underTest t 5 i = false ∧
        ((∃ j ∈ portLinks (i / 4), j ≠ i ∧ (linkOf s j).state = 2) →
          t.flt.log = (logRec r ⟨0x09, 5, i, none, nextIndex s, 0xC2 * 2 ^ 56⟩).flt.log))) ∧
    (∀ f : Flit, ctrlOk s i f 3 = true → f.crcOk = true → f.ackV = false → f.nak = false →
      let d := i / 4 * 4 + (f.data.getD 1 0).toNat % 4
      (linkOf s d).state = 3 → ∃ t, Answers (.downExchange l f) s t ∧ SameMemory s t ∧ (linkOf t d).state = 3 ∧ (linkOf t d).replay = [] ∧
      (linkOf t d).waiting = [] ∧ (linkOf t d).msgs = [] ∧ t.fab.inbox = s.fab.inbox ∧
      t.fab.mids = s.fab.mids + (openMsgs (ackTo (linkOf s d) (BitVec.ofNat 16 (leNat ((f.data.drop 2).take 2))))).length) ∧
    (∀ (p : PortId) (sub : Bool) (m : Msg) (o j : Nat), forUs s m = false → m.dtrn = 0 → nextPort s m.dst = some o → linkFor s o = some j →
      ∃ t, Answers (.forward p sub m) s t ∧ SameMemory s t ∧ t.fab.inbox = dropFirst (fun e => e.msg = m) s.fab.inbox ∧
      (linkOf t j).msgs = (linkOf s j).msgs ++ [⟨s.fab.mids, (p.toNat / 2 = o / 2 && sub) || crosses s o, m⟩] ∧
      ∀ x, x ≠ j → linkOf t x = linkOf (takeMsg s m) x) ∧
    -- the credit that a message returns as it is taken
    ∀ (m : Msg) (e : Arrival) (x key : Nat), (s.fab.inbox.find? fun e => e.msg = m) = some e → e.via = some (x, key) →
      ((linkOf s x).state ≠ 2 → linkOf (takeMsg s m) x = oweCredit key (linkOf s x)) ∧
      ((linkOf s x).state = 2 →
        let k := oweCredit key (linkOf s x)
        let r := refresh k (ctrlFlit k [0])
        (takeMsg s m).sent = .flit x r.1 :: s.sent ∧ linkOf (takeMsg s m) x = r.2)

/-! ### Peer memory (R351 to R353) -/

/-- What peers ask of this chip (R351, R352, R353, R346, R99): a read is answered with the line's committed bytes, refused, or held; a write
request is granted room; a write in its source's order puts its bytes in committed memory under a commit number of its own, its signal after it,
and is acknowledged; one that is early waits, and one that comes again is only answered; reservations end by WRITE_CANCEL or GRANT_EXPIRY, and
a request held too long is refused. A read waits for the lines that its channels must bring (R43). The model's own: STATUS 1 for a line on a fenced channel
(DEDUCED, log 23), a WRITE into the frame table that changes nothing (DESIGN CHOICE, log 23), and a WRITE 512 or more ahead that is discarded (DESIGN
CHOICE, log 38). -/
def Obligations.PeerRequests : Prop :=
  ∀ (s : State) (m : Msg), forUs s m = true →
    let s' := takeMsg s m
    let reply := fun (u : State) (kind status len : Nat) (data : List Byte) =>
      (sendMsg u (mkMsg u m.src kind len [(196, status), (0, m.addr)] data)).fab
    let room := fun (u : State) (gs : List Reservation) => { u with fab := { u.fab with given := gs } }
    let fewer := dropFirst (fun (g : Reservation) => g.chip = m.src && g.addr = m.addr) s.fab.given
    let holds := { s' with fab := { s'.fab with heldReqs := s.fab.heldReqs ++ [m] } }
    (replyRoom s m = false → Answers (.readReq m) s s ∧ Answers (.writeReq m) s s ∧ Answers (.write m) s s) ∧
    (replyRoom s m = true →
    -- READ_REQ
    (inPlane s m.addr m.span = false → ∃ t, Answers (.readReq m) s t ∧ SameMemory s t ∧ t.fab = reply s' 0x02 2 0 []) ∧
    (inPlane s m.addr m.span = true → (fencedIn s m.addr m.span).isSome = true → ∃ t, Answers (.readReq m) s t ∧ SameMemory s t ∧
      t.fab = reply s' 0x02 1 0 []) ∧
    (inPlane s m.addr m.span = true → fencedIn s m.addr m.span = none →
      (reqHeld s m = true → Answers (.readReq m) s holds) ∧
      (reqHeld s m = false → s.flt.upsets = [] → absentLines s m.addr m.span = [] → poisonIn s m.addr m.span = none →
        ∃ t, Answers (.readReq m) s t ∧ SameMemory s t ∧ t.fab = reply s' 0x02 0 m.len64 (planeRead s m.addr m.span)) ∧
      (reqHeld s m = false → s.flt.upsets = [] → absentLines s m.addr m.span = [] → (poisonIn s m.addr m.span).isSome = true →
        ∃ t, Answers (.readReq m) s t ∧ SameMemory s t ∧ t.fab = reply s' 0x02 1 0 []) ∧
      (reqHeld s m = false → s.flt.upsets = [] → absentLines s m.addr m.span ≠ [] → ∃ t, Answers (.readReq m) s t ∧ SameMemory s t ∧
        t.fab = { s'.fab with readWaits := s.fab.readWaits ++ [(m, absentLines s m.addr m.span)] } ∧
        ∀ x ∈ absentLines s m.addr m.span, ∃ f ∈ t.mem.fills, f.line = x ∧ f.asker = .system) ∧
      (∀ (a : BitVec 48) (f : FillReq), reqHeld s m = false → poisonIn s m.addr m.span = none → s.flt.upsets = [] → s.eth.held = [] →
        s.fab.readWaits = [(m, [lineOf a.toNat])] → (s.mem.fills.filter fun x => x.line = lineOf a.toNat) = [f] → f.asker = .system →
        underTest s 4 (channelOf s (lineOf a.toNat)) = false → (channelNext s (channelOf s (lineOf a.toNat))).map (·.line) = some (lineOf a.toNat) →
        isPoisoned s a.toNat = false → ∃ t, Answers (.hbmLineFill a .clean) s t ∧ SameMemory s t ∧
        t.fab = reply { s with fab := { s.fab with readWaits := [] } } 0x02 0 m.len64 (planeRead s m.addr m.span))) ∧
    -- WRITE_REQ
    (inPlane s m.addr m.span = true → (∀ h ∈ s.fab.heldReqs, h.kind ≠ 0x03) → poolRoom s m.addr m.span = true →
      ∃ t, Answers (.writeReq m) s t ∧ SameMemory s t ∧
      t.fab = reply (room s' (s.fab.given ++ [⟨m.src, m.addr, m.len64⟩])) 0x04 0 m.len64 []) ∧
    (inPlane s m.addr m.span = true → poolRoom s m.addr m.span = false → Answers (.writeReq m) s holds) ∧
    -- WRITE
    ((∀ h ∈ s.fab.heldReqs ++ s.fab.reorder, h.src ≠ m.src) →
      (m.mseq = mseqExpected s m.src → inPlane s m.addr m.span = false ∨ inFrameTable s m.addr m.span = true → ∃ t, Answers (.write m) s t ∧
        SameMemory s t ∧ mseqExpected t m.src = (m.mseq + 1) % 65536) ∧
      (m.mseq = mseqExpected s m.src → inPlane s m.addr m.span = true → inFrameTable s m.addr m.span = false → m.data.length = m.span →
        (reqHeld s m = false → sequencerFree s = true → s.flt.upsets = [] → ∃ t, Answers (.write m) s t ∧
          (∀ a, planeByte t a = if m.addr ≤ a ∧ a < m.addr + m.span then m.data.getD (a - m.addr) 0 else planeByte s a) ∧
          t.disp.lastNo = s.disp.lastNo + 1 ∧ (∀ n, cmdOf t n = cmdOf s n) ∧ mseqExpected t m.src = (m.mseq + 1) % 65536 ∧
          ((∀ h ∈ s.fab.heldReqs, h.kind ≠ 0x03) → t.fab.given = fewer) ∧
          (∀ n, (ctrGet t n).toNat = if n = m.sctr ∧ 0xC000 ≤ n then min ((ctrGet s n).toNat + m.sinc) (2 ^ 64 - 1) else (ctrGet s n).toNat) ∧
          ∀ l ∈ s.mem.poison, m.addr ≤ l ∧ l + 64 ≤ m.addr + m.span → l ∉ t.mem.poison) ∧
        (reqHeld s m = false → sequencerFree s = false → ∃ t, Answers (.write m) s t ∧ SameMemory s t ∧
          t.disp = { s.disp with waiting := s.disp.waiting ++ [.peer m] }) ∧
        (reqHeld s m = true → ∃ t, Answers (.write m) s t ∧ SameMemory s t ∧ t.fab.heldReqs = s.fab.heldReqs ++ [m])) ∧
      ((m.mseq + 65536 - mseqExpected s m.src) % 65536 ≠ 0 →
        ((m.mseq + 65536 - mseqExpected s m.src) % 65536 < 512 → ∃ t, Answers (.write m) s t ∧
          t = { s' with fab := { s'.fab with reorder := s.fab.reorder ++ [m] } }) ∧
        (512 ≤ (m.mseq + 65536 - mseqExpected s m.src) % 65536 → (m.mseq + 65536 - mseqExpected s m.src) % 65536 < 32768 →
          Answers (.write m) s s') ∧
        (32768 ≤ (m.mseq + 65536 - mseqExpected s m.src) % 65536 → ∃ t, Answers (.write m) s t ∧ SameMemory s t ∧ t.fab = reply s' 0x06 0 0 [])))) ∧
    -- WRITE_CANCEL, GRANT_EXPIRY, PEER_HOLD_TIMEOUT
    (s.fab.heldReqs = [] → (∃ t, Answers (.writeCancel m) s t ∧ t = room s' fewer) ∧
      ∀ src : BitVec 16, ∃ t, Answers (.grantExpiry src) s t ∧
        t = room s (dropFirst (fun (g : Reservation) => g.chip = src.toNat) s.fab.given)) ∧
    ∀ h : Msg, (s.fab.heldReqs.find? fun h => h.kind != 0x03 && (lockIn s [] h.addr h.span).isSome) = some h →
      let u := { s with fab := { s.fab with heldReqs := dropFirst (· = h) s.fab.heldReqs } }
      ∃ t, Answers .peerHoldTimeout s t ∧ SameMemory s t ∧ t.fab = (sendMsg u (mkMsg u h.src (h.kind + 1) 0 [(196, 1), (0, h.addr)] [])).fab

/-- Answers to this chip's own requests (R351, R352, R353): data joins its transfer and, once a COPY has it all, is staged at DST; a refusal or a
request that is not answered fails the command; a grant lets the egress go; an acknowledged write is forgotten and the next one of
its destination that waits leaves (R346), a refused one is sent again, and
after 16 resends it is abandoned with a record of reason 0x97; an acknowledgement of reserved STATUS takes nothing (R11). The record of a prefetch entry
that is not answered names the slice and the entry (DEDUCED, log 39), and that of reason 0x97 the first link of the port that leads to the chip
(DEDUCED, log 39). -/
def Obligations.PeerAnswers : Prop :=
  ∀ (s : State) (m : Msg), forUs s m = true →
    let s' := takeMsg s m
    -- READ_RESP, PEER_READ_TIMEOUT
    (∀ (x : Transfer) (r : Nat × Nat), (s.fab.transfers.find? fun t => !t.host && t.dest = m.src && t.left.any fun r => r.1 = m.addr) = some x →
      (x.left.find? fun r => r.1 = m.addr) = some r →
      (m.status = 0 → x.todo = [] → dropFirst (· = r) x.left ≠ [] → ∃ t u, Answers (.readResp m) s t ∧ SameMemory s t ∧ u ∈ t.fab.transfers ∧
        u.who = x.who ∧ u.slot = x.slot ∧ u.left = dropFirst (· = r) x.left ∧ u.buf = Map.putRun x.buf r.1 (m.data.take r.2)) ∧
      (∀ k c, m.status = 0 → x.todo = [] → dropFirst (· = r) x.left = [] → x.who = .copy k → cmdOf s k = some c → c.kind = 2 →
        c.dstHost = false → isLocal s c.dst = true → c.srcHost = false → jointSet s k = [k] →
        let got := fun (a : Nat) => Map.get (fun _ => 0) (Map.putRun x.buf r.1 (m.data.take r.2)) a
        stageOver (stagePut s k (planePart c.dst) ((span (planePart c.src) c.bytes).map got)) k = none →
        ∃ t, Answers (.readResp m) s t ∧ SameMemory s t ∧
        ∀ i < c.bytes, seenByte t k (planePart c.dst + i) = got (planePart c.src + i)) ∧
      (m.status = 1 → Answers (.readResp m) s (failTransfer s' x true (x.dest * 2 ^ 48 + m.addr))) ∧
      (m.status = 2 → Answers (.readResp m) s (failTransfer s' x false m.addr))) ∧
    (∀ (c : BitVec 11) (x : Transfer) (r : Nat × Nat) (rest : List (Nat × Nat)),
      (s.fab.transfers.find? fun t => !t.host && t.who.key s = c.toNat && !t.left.isEmpty) = some x → x.left = r :: rest → live s x.slot = true →
      (∀ b i, x.who = .prefetch b x.slot i → Answers (.peerReadTimeout c) s (failWith s x.slot ⟨0x03, 3, b, some x.slot, x.dest * 2 ^ 48 + r.1,
        0x41 * 2 ^ 56 + i⟩)) ∧
      (x.who = .engine c.toNat ∨ x.who = .copy x.slot → Answers (.peerReadTimeout c) s (failWith s x.slot ⟨0x03, 1, c.toNat, some x.slot, x.dest * 2 ^ 48 + r.1,
        0x41 * 2 ^ 56 + 4 * 2 ^ 48 + (x.ins.map fun i => i.addr.toNat).getD 0 % 2 ^ 48⟩))) ∧
    -- WRITE_GRANT
    (∀ (k : Nat) (c : Cmd) (e : Egress), waitsGrant s m = some (k, e) → cmdOf s k = some c →
      let got := { c with egress := updFirst (· = e) (fun e => { e with granted := true }) c.egress }
      (m.status = 0 → e.core = none → (got.egress.all (·.granted)) = false → ∃ t, Answers (.writeGrant m) s t ∧ SlotBecomes s t k got) ∧
      (∀ (o : Nat) (before : List Flying) (x : Flying) (after : List Flying), m.status = 0 → e.core = some o →
        flyingOf (coreOf s o) 3 = before ++ x :: after → x.id = e.flight → (∀ y ∈ before, y.id ≠ e.flight) →
        ∃ t, Answers (.writeGrant m) s t ∧ SameMemory s t ∧ cmdOf t k = some got ∧
        flyingOf (coreOf t o) 3 = before ++ { x with grants := 0 } :: after ∧ ∀ p, p ≠ o → coreOf t p = coreOf s p) ∧
      (m.status = 2 → Answers (.writeGrant m) s (failEgress s' k e false e.addr))) ∧
    -- WRITE_ACK, WRITE_RESEND
    (∀ u : Unacked, (s.fab.unacked.find? fun u => u.dst = m.src && u.msg.addr = m.addr) = some u →
      let less := dropFirst (· = u) s.fab.unacked
      (m.status = 0 → (∀ x ∈ s.fab.queued, x.dst ≠ u.dst) → Answers (.writeAck m) s { s' with fab := { s'.fab with unacked := less } }) ∧
      (∀ x, m.status = 0 → (s.fab.queued.find? fun x => x.dst = u.dst) = some x → ∃ t v, Answers (.writeAck m) s t ∧ SameMemory s t ∧
        t.fab.unacked = less ++ [v] ∧ v.dst = x.dst ∧ v.slot = x.slot ∧ v.msg.data = x.msg.data ∧
        t.fab.queued = dropFirst (· = x) s.fab.queued) ∧
      (m.status = 1 → ∃ t, Answers (.writeAck m) s t ∧ SameMemory s t ∧
        t.fab.unacked = updFirst (· = u) (fun u => { u with resends := 0 }) s.fab.unacked ∧
        t.fab = (routeMsg { s' with fab := { s'.fab with unacked := t.fab.unacked } } u.msg none false).fab) ∧
      (2 < m.status → Answers (.writeAck m) s s')) ∧
    ∀ (dst : BitVec 16) (u : Unacked), (s.fab.unacked.find? fun u => u.dst = dst.toNat) = some u →
      (u.resends < 16 → ∃ t, Answers (.writeResend dst) s t ∧ SameMemory s t ∧
        t.fab.unacked = updFirst (· = u) (fun u => { u with resends := u.resends + 1 }) s.fab.unacked ∧
        t.fab = (routeMsg { s with fab := { s.fab with unacked := t.fab.unacked } } u.msg none false).fab) ∧
      (16 ≤ u.resends → (∀ x ∈ s.fab.queued, x.dst ≠ u.dst) → ∃ t, Answers (.writeResend dst) s t ∧ SameMemory s t ∧ t.fab.unacked = dropFirst (· = u) s.fab.unacked ∧
        t.flt.log = (logRec s ⟨0x08, 5, 4 * (nextPort s u.dst).getD 0, none, u.dst, 0x97 * 2 ^ 56⟩).flt.log)

/-! ### The command transport and management (R391 to R396, R484, R497) -/

/-- SUBMIT appends its records to the ring of its queue and moves TAIL and the expected TSEQ; a repeated one is only answered (R391, R393);
one of another type or length is answered with STATUS 5. COMPLETION_ACK ends the keeping of a datagram and COMPLETION_RESEND sends one again (R394). A management read answers with the values of
its offsets and a write applies its pair; a repeated request gets the stored answer again (R395); a read that names a snapshotted register waits
for a snapshot (R484). That a datagram of another or a reserved type is answered with STATUS 5, and that an answer names CHIP and QUEUE as the request did,
are the model's readings (DEDUCED, log 28); the length of a datagram's frame is PRESUMED (log 54). -/
def Obligations.HostTransport : Prop :=
  ∀ (s0 : State) (e : EthId) (src : Source) (h : BitVec 128) (body : List Byte), fctAllowed s0 src.addr = true → portSends s0 e.toNat = true →
    -- the state once the port has counted the frame
    let s := hearFct s0 e.toNat src body.length
    let q := fctQueue h
    let u := queueOf s q
    let n := fctCount h
    let tells := fun (status type count : Nat) (data : List Byte) =>
      Sent.fct (fctWire s e.toNat src) e.toNat src (fctHdr (fctTseq h) (fctChip h) q count status type) data :: s.sent
    -- SUBMIT
    (fctType h ≠ 1 ∨ fctMalformed h body.length = true →
      Answers (.submit e src h body) s0 { s with sent := tells 5 (fctAnswerType (fctType h)) 0 [] }) ∧
    (fctType h = 1 → fctMalformed h body.length = false → s.mod.stage = 8 → fctOurs s h = true → s.flt.faulted = false →
      (fctTseq h = u.expected - 1 → Answers (.submit e src h body) s0 { s with sent := tells 1 2 0 [] }) ∧
      (fctTseq h = u.expected → cfgBit s (mQcfg q) 15 = true → ringLoad s q + n ≤ ringSize s q → s.flt.upsets = [] → ∃ t, Answers (.submit e src h body) s0 t ∧
        queueOf t q = { u with tail := u.tail + BitVec.ofNat 32 n, expected := u.expected + 1 } ∧ (∀ p, p ≠ q → queueOf t p = queueOf s p) ∧
        t.disp.slots = s.disp.slots ∧ t.sent = tells 0 2 0 [] ∧
        (∀ i < n, inPlane s (ringEntry s q (u.tail + BitVec.ofNat 32 i)) 64 = true →
          inFrameTable s (ringEntry s q (u.tail + BitVec.ofNat 32 i)) 64 = false → ∀ j < 64,
          planeByte t (ringEntry s q (u.tail + BitVec.ofNat 32 i) + j) = body.getD (64 * i + j) 0) ∧
        ∀ a, (∀ i < n, a < ringEntry s q (u.tail + BitVec.ofNat 32 i) ∨ ringEntry s q (u.tail + BitVec.ofNat 32 i) + 64 ≤ a) →
          planeByte t a = planeByte s a)) ∧
    -- COMPLETION_ACK, COMPLETION_RESEND
    (fctType h = 4 → fctMalformed h body.length = false → s.mod.stage = 8 → ∃ t, Answers (.completionAck e src ⟨h, body⟩) s0 t ∧
      t = { s with eth := { s.eth with comps := t.eth.comps } } ∧
      ∀ c, c ∈ t.eth.comps ↔ c ∈ s.eth.comps ∧ ¬(c.queue = q ∧ fctTseq c.hdr = fctTseq h)) ∧
    (∀ (i : BitVec 6) (c : Completion), (s0.eth.comps.filter fun c => c.port = e.toNat)[i.toNat]? = some c → ∃ t, Answers (.completionResend ⟨e, i⟩) s0 t ∧
      t = { s0 with sent := .fct (fctWire s0 e.toNat (cqDest s0 e.toNat)) e.toNat (cqDest s0 e.toNat) c.hdr c.body :: s0.sent }) ∧
    -- MGMT_READ, MGMT_WRITE
    (let open' := fun (type : Nat) => fctType h = type ∧ fctMalformed h body.length = false ∧ fctOurs s h = true ∧
      (∀ m, s.eth.sources.find? (isSource e.toNat src) = some m → fctTseq h = m.next ∧ fctTseq h ≠ m.next - 1) ∧
      (∀ o ∈ mgmtOffs type n body, offDenied s o = false) ∧ s.eth.asks = []
     let offs := mgmtOffs 5 n body
     (open' 5 → (∀ o ∈ offs, snapshotted o = false) → ∃ t, Answers (.mgmtRead e src h body) s0 t ∧
        t = { s with eth := t.eth, sent := tells 0 8 n (offs.flatMap fun o => natLE 8 (mgmtGet s o).toNat) } ∧ t.eth.qps = s.eth.qps) ∧
     (open' 5 → (∃ o ∈ offs, snapshotted o = true) → ∃ t, Answers (.mgmtRead e src h body) s0 t ∧ SameMemory s t ∧ t.regs = s.regs ∧
        t.eth.asks = [⟨none, e.toNat, src, h, offs⟩]) ∧
     (open' 6 → s.mod.stage = 8 → n = 1 →
        let m0 := (s.eth.sources.find? (isSource e.toNat src)).getD
          ⟨e.toNat, src, fctTseq h, fctHdr (fctTseq h - 1) (fctChip h) q 0 0 8, []⟩
        let s1 := keepSource (keepSource s m0) ⟨e.toNat, src, fctTseq h + 1, fctHdr (fctTseq h) (fctChip h) q 0 0 7, []⟩
        let u := mgmtPut s1 (itemWord body 0) (BitVec.ofNat 64 (itemWord body 8))
        portSends u e.toNat = true → ∃ t, Answers (.mgmtWrite e src h body) s0 t ∧
        t = { u with eth := t.eth, sent := .fct (fctWire u e.toNat src) e.toNat src (fctHdr (fctTseq h) (fctChip h) q 0 0 8) [] :: u.sent }) ∧
     ∀ m : MgmtSource, s.eth.sources.find? (isSource e.toNat src) = some m → fctTseq h = m.next - 1 → fctMalformed h body.length = false →
      s.mod.stage = 8 → ∀ type i, (type = 5 ∧ i = Instr.mgmtRead e src h body) ∨ (type = 6 ∧ i = Instr.mgmtWrite e src h body) →
      fctType h = type → ∃ t, Answers i s0 t ∧
        t = { s with eth := t.eth, sent := .fct (fctWire s e.toNat src) e.toNat src (setFld m.hdr 56 8 1) m.body :: s.sent })

/-- Management and debug messages of other chips (R396, R497): a request is answered over VC3, a response goes on to the source that asked, or a
status where none comes in time (R395); with the permission of R480 a DEBUG message halts or resumes the cores. That the answers name CHIP and QUEUE as
the request did is the model's reading (DEDUCED, log 28), and that the halt of a core whose LAUNCH is granted and not started waits there its choice (log 53). -/
def Obligations.ManagementMessages : Prop :=
  ∀ (s : State) (m : Msg),
    (forUs s m = true → m.mseq = vc3Expected s m.src → (∀ x ∈ s.fab.reorder, x.src ≠ m.src) →
      let s0 := takeMsg s m
      let s1 := { s0 with fab := { s0.fab with mseqIn := Map.put s0.fab.mseqIn (m.src * 4 + 3) ((m.mseq + 1) % 65536) } }
      let n := mgmtCount m
      let offs := mgmtOffs (mgmtType m) n m.data
      let reply := fun (u : State) (vals : List Byte) => (sendMsg u (mkMsg u m.src 0x21 ((vals.length + 63) / 64)
        [(96, (mgmtTag m).toNat), (88, 8), (80, vals.length / 8), (72, 0)] vals)).fab
      -- MGMT_REQ
      (m.kind = 0x20 → 0 < n → n ≤ 64 → (∀ o ∈ offs, offDenied s o = false) →
        (mgmtType m = 5 → 8 * n ≤ m.data.length → (∀ o ∈ offs, snapshotted o = false) → ∃ t, Answers (.mgmtReq m) s t ∧ SameMemory s t ∧
          t.regs = s.regs ∧ t.fab = reply s1 (offs.flatMap fun o => natLE 8 (mgmtGet s1 o).toNat)) ∧
        (mgmtType m = 6 → n = 1 → 16 ≤ m.data.length → (mgmtPut s1 (itemWord m.data 0) (BitVec.ofNat 64 (itemWord m.data 8))).fab.reorder = s.fab.reorder →
          let u := mgmtPut s1 (itemWord m.data 0) (BitVec.ofNat 64 (itemWord m.data 8))
          ∃ t, Answers (.mgmtReq m) s t ∧ t.regs = u.regs ∧ (∀ c, coreOf t c = coreOf u c) ∧ SameMemory u t ∧ t.disp = u.disp ∧
          t.fab = reply u [])) ∧
      -- MGMT_RESP
      (∀ f : Forwarded, m.kind = 0x21 → (s.fab.forwarded.find? fun f => f.tag = mgmtTag m) = some f → portSends s f.port = true → ∃ t, Answers (.mgmtResp m) s t ∧
        SameMemory s t ∧ (∀ x ∈ t.fab.forwarded, x.tag ≠ f.tag) ∧
        let vals := m.data.take (8 * n)
        t.sent = .fct (fctWire s f.port f.src) f.port f.src
          (fctHdr (fctTseq f.hdr) (fctChip f.hdr) (fctQueue f.hdr) (vals.length / 8) (fld m.hdr 72 8) 8) vals :: s0.sent) ∧
      -- DEBUG
      (m.kind = 0x22 → permBit s 3 = true →
        (fld m.hdr 88 8 = 1 → ∃ t, Answers (.debugMsg m) s t ∧ SameMemory s t ∧ ∀ o,
          if o ∈ launchCores s ∧ (coreOf s o).act = .idle then
            coreOf t o = { coreOf s o with dbg := { (coreOf s o).dbg with request := (coreOf s o).dbg.request.or (some 5) } }
          else if o ∈ launchCores s ∧ (coreOf s o).dbg.state = 1 then (coreOf t o).dbg.state = 2 ∧ (coreOf t o).dbg.cause = 5
          else coreOf t o = coreOf s o) ∧
        (fld m.hdr 88 8 = 2 → ∃ t, Answers (.debugMsg m) s t ∧ SameMemory s t ∧ ∀ o,
          ((coreOf s o).dbg.state = 2 ∨ (coreOf s o).dbg.state = 3) → debugNames s o = false →
          if (coreOf s o).dbg.cause = 5 then (coreOf t o).dbg.state = 1 else coreOf t o = coreOf s o)) ∧
      (m.kind = 0x22 → permBit s 3 = false → Answers (.debugMsg m) s s1)) ∧
    -- MGMT_FORWARD_TIMEOUT
    ∀ (tag : BitVec 32) (dropped : Bool) (f : Forwarded), (s.fab.forwarded.find? fun f => f.tag = tag) = some f → portSends s f.port = true →
      ∃ t, Answers (.mgmtForwardTimeout tag dropped) s t ∧ SameMemory s t ∧ (∀ x ∈ t.fab.forwarded, x.tag ≠ tag) ∧
      t.sent = .fct (fctWire s f.port f.src) f.port f.src (fctHdr (fctTseq f.hdr) (fctChip f.hdr) (fctQueue f.hdr) 0 (if dropped then 9 else 8) 8) [] :: s.sent

/-! ### Ethernet and queue pairs (R97 to R101, R378 to R390, R397) -/

/-- What the host does at a port and to memory (R379, R380, R397, R384, R386 to R388): addresses are answered for, pause and link changes kept,
other frames counted, and an opcode that R381 does not list refused; a request comes in the order of its PSN, a gap is answered with a
sequence-error NAK and one taken already with an acknowledgement; an RDMA WRITE puts its bytes in committed memory under a commit number of its own and is acknowledged, is refused where a
command holds the range, or waits for the commit under way; of one that its port's receive buffer cannot take whole the first packets are taken; a READ
answers with committed bytes once its lines are there or is held, and is turned away by RNR when held too long; a SEND takes the next slot of the receive
ring and signals its counter. Each frame is counted at its port (R482). The model's own: a request taken already is acknowledged again, with the PSN of RNR
as published for reliable connections (PRESUMED, log 27); a queue pair that stays READY after more than 1 MiB and the refusal in the frame table (DESIGN
CHOICE, log 27); the lengths of frames (PRESUMED, log 54). -/
def Obligations.HostAccess : Prop :=
  ∀ s : State,
    -- a frame that arrives: RX_FRAMES and RX_BYTES of its port
    (∀ (e : Nat) (len : Bool → Nat), let h := hearFrame e s len
      h = { s with live := h.live } ∧ liveGet h (mEth e 11) = liveGet s (mEth e 11) + 1 ∧
      (∃ tag, liveGet h (mEth e 9) = liveGet s (mEth e 9) + BitVec.ofNat 64 (len tag)) ∧
      ∀ off, off ≠ mEth e 9 → off ≠ mEth e 11 → liveGet h off = liveGet s off) ∧
    (∀ (e : EthId) (ip : BitVec 32), ip ≠ 0 → portSends s e.toNat = true → ∃ t, Answers (.arpRequest e ip) s t ∧
      let h := hearFrame e.toNat s fun tag => max 64 (46 + 4 * b2n tag)
      if portIp4 s e.toNat = ip.toNat then t = { h with sent := .arpReply (fctWire s e.toNat ⟨0, 0⟩) e.toNat (portMac s e.toNat) ip :: s.sent } else t = countDrop h e.toNat) ∧
    (∀ (e : EthId) (ip : BitVec 128), ip ≠ 0 → portSends s e.toNat = true → ∃ t, Answers (.neighbourSolicitation e ip) s t ∧
      let h := hearFrame e.toNat s fun tag => 90 + 4 * b2n tag
      if portIp6 s e.toNat = ip.toNat then t = { h with sent := .advert (fctWire s e.toNat ⟨0, 0⟩) e.toNat (portMac s e.toNat) ip :: s.sent } else t = countDrop h e.toNat) ∧
    (∀ (e : EthId) (pri : BitVec 3) (quanta : BitVec 16), ∃ t, Answers (.pauseFrame e pri quanta) s t ∧
      let ours := cfgBit s (mEth e.toNat 1) 59 = true ∧ cfg s (mEth e.toNat 1) 56 3 = pri.toNat
      let h := hearFrame e.toNat s fun _ => 64
      t = { h with eth := { s.eth with paused := t.eth.paused, stalled := t.eth.stalled }, sent := t.sent } ∧
      (ours → quanta = 0 → t.eth.stalled = s.eth.stalled.filter (fun y => y.1 != e.toNat) ∧
        t.sent = ((s.eth.stalled.filter fun y => y.1 = e.toNat).map (·.2)).reverse ++ s.sent) ∧
      (¬ (ours ∧ quanta = 0) → t.eth.stalled = s.eth.stalled ∧ t.sent = s.sent) ∧ ∀ p < 8,
        bit (Map.get (fun _ => 0) t.eth.paused e.toNat) p =
          if p = pri.toNat ∧ cfgBit s (mEth e.toNat 1) 59 = true ∧ cfg s (mEth e.toNat 1) 56 3 = p then decide (quanta ≠ 0)
          else bit (Map.get (fun _ => 0) s.eth.paused e.toNat) p) ∧
    (∀ (e : EthId) (ce : Bool), (∃ t, Answers (.unrecognisedFrame ⟨e, none, ce⟩) s t ∧ t = { s with live := t.live } ∧
        fld (liveGet t (mEth e.toNat 4)) 0 32 = min (fld (liveGet s (mEth e.toNat 4)) 0 32 + 1) (2 ^ 32 - 1)) ∧
      (∃ t, Answers (.ethLinkUp e) s t ∧ t = { s with live := t.live } ∧ fld (liveGet t (mEth e.toNat 4)) 62 2 = 2) ∧
      (fld (liveGet s (mEth e.toNat 4)) 62 2 = 2 → ∃ t, Answers (.ethLinkDown e) s t ∧ SameMemory s t ∧
        fld (liveGet t (mEth e.toNat 4)) 62 2 = 0 ∧ t.flt.log = (logRec s ⟨0x08, 6, e.toNat, none, 0, 0xA0 * 2 ^ 56⟩).flt.log)) ∧
    ∀ qp : QpId, qpTakes s qp.toNat = true → portSends s (qpPort s qp.toNat) = true →
      let n := qp.toNat
      let psn := qpExpected s n
      let w := qpWire s n
      -- the state once the frames are counted and the PSN is seen to be the one expected
      let took := fun (lens : List Nat) => updQp (hearQp s n lens) n fun q => { q with seqNak := false }
      let mtu := qpMtu s n
      let wrote := fun (t : State) (a : Nat) (data : List Byte) =>
        (∀ x, planeByte t x = if a ≤ x ∧ x < a + data.length then data.getD (x - a) 0 else planeByte s x) ∧ t.disp.lastNo = s.disp.lastNo + 1 ∧
        (∀ k, cmdOf t k = cmdOf s k) ∧ t.sent = .rdmaAck w n (lastPsn s n psn data.length) :: s.sent
      (∀ e : EthId, Answers (.unrecognisedFrame ⟨e, some qp, false⟩) s (nakError (hearOdd s e.toNat) n 3 4 psn)) ∧
      (∀ (p : BitVec 24) (i : Instr), p ≠ psn → (∃ rkey va data, i = .rdmaWrite ⟨qp, false⟩ p rkey va data) ∨ (∃ data, i = .send ⟨qp, p, false⟩ data) ∨
          (psnLe p psn = false ∧ ∃ rkey va len, i = .rdmaReadRequest ⟨qp, p, false⟩ rkey va len) →
        (psnLe p psn = true → ∃ t, Answers i s t ∧ SameMemory s t ∧ (∀ x, qpOf t x = qpOf s x) ∧
          t.sent = (if qpWaits s n then s.sent else .rdmaAck w n (psn - 1) :: s.sent)) ∧
        (psnLe p psn = false → (qpOf s n).seqNak = true → ∃ t, Answers i s t ∧ t = { s with live := t.live }) ∧
        (psnLe p psn = false → (qpOf s n).seqNak = false → ∃ t, Answers i s t ∧ SameMemory s t ∧ (qpOf t n).seqNak = true ∧
          t.sent = .rdmaNak w n 0 psn :: s.sent)) ∧
      (∀ (rkey : BitVec 32) (va : BitVec 48) (data : List Byte), (qpOf s n).part = none → 1048576 < data.length →
        Answers (.rdmaWrite ⟨qp, false⟩ psn rkey va data) s (nak (took (messageLens mtu 16 0 data.length)) n 3 psn)) ∧
      -- a message that the receive buffer cannot take whole
      (∀ (rkey : BitVec 32) (va : BitVec 48) (data : List Byte), (qpOf s n).part = none → data.length ≤ 1048576 →
        let fit := (2097152 - bufferUsed s (qpPort s n)) / mtu * mtu
        2097152 < bufferUsed s (qpPort s n) + data.length → fit ≠ 0 → pkeyOk s n rkey va.toNat data.length true = true → 1 < packetsOf s n (data.length - fit) →
        ∃ t, Answers (.rdmaWrite ⟨qp, false⟩ psn rkey va data) s t ∧ SameMemory s t ∧ t.disp = s.disp ∧
        qpExpected t n = psn + BitVec.ofNat 24 (fit / mtu) ∧ (qpOf t n).part = some ⟨psn, va.toNat, data.length, data.take fit⟩ ∧
        t.sent = .rdmaNak w n 0 (psn + BitVec.ofNat 24 (fit / mtu)) ::
          (if cfgBit s (mEth (qpPort s n) 1) 59 then [Sent.pause (qpPort s n)] else []) ++ s.sent) ∧
      (∀ (rkey : BitVec 32) (va : BitVec 48) (data : List Byte), (qpOf s n).part = none → data.length ≤ 1048576 →
        bufferUsed s (qpPort s n) + data.length < 1572864 →
        let s1 := took (messageLens mtu 16 0 data.length)
        let s2 := updQp s1 n fun q => { q with part := none }
        (pkeyOk s n rkey va.toNat data.length true = false → Answers (.rdmaWrite ⟨qp, false⟩ psn rkey va data) s (nakError s1 n 2 3 psn)) ∧
        (pkeyOk s n rkey va.toNat data.length true = true → heldByTest s va.toNat data.length = false → qpWaits s n = false →
          (sequencerFree s = true → lockIn s [] va.toNat data.length = none → inFrameTable s va.toNat data.length = false → s.flt.upsets = [] →
            ∃ t, Answers (.rdmaWrite ⟨qp, false⟩ psn rkey va data) s t ∧
            wrote t va.toNat data ∧ (∀ c, ctrGet t c = ctrGet s c) ∧
            ∀ l ∈ s.mem.poison, va.toNat ≤ l ∧ l + 64 ≤ va.toNat + data.length → l ∉ t.mem.poison) ∧
          (sequencerFree s = true → (lockIn s [] va.toNat data.length).isSome = true ∨ inFrameTable s va.toNat data.length = true →
            Answers (.rdmaWrite ⟨qp, false⟩ psn rkey va data) s (nakError (takePackets s2 n data.length) n 2 3 psn)) ∧
          (sequencerFree s = false → ∃ t, Answers (.rdmaWrite ⟨qp, false⟩ psn rkey va data) s t ∧ SameMemory s t ∧
            t.disp.waiting = s.disp.waiting ++ [.host n psn va.toNat data]))) ∧
      (∀ (rkey : BitVec 32) (va : BitVec 48) (len : BitVec 32), pkeyOk s n rkey va.toNat len.toNat false = true →
        (∀ x ∈ s.eth.held, x.qp ≠ n) → heldByTest s va.toNat len.toNat = false →
        (lockIn s [] va.toNat len.toNat = none → s.flt.upsets = [] → poisonIn s va.toNat len.toNat = none → fencedIn s va.toNat len.toNat = none →
          let absent := absentLines s va.toNat len.toNat
          (absent = [] → ∃ t, Answers (.rdmaReadRequest ⟨qp, psn, false⟩ rkey va len) s t ∧ SameMemory s t ∧ t.disp = s.disp ∧
            t.sent = .rdmaReadResp w n (planeRead s va.toNat len.toNat) :: s.sent) ∧
          (absent ≠ [] → ∃ t, Answers (.rdmaReadRequest ⟨qp, psn, false⟩ rkey va len) s t ∧ SameMemory s t ∧ t.disp = s.disp ∧ t.sent = s.sent ∧
            t.eth.held = s.eth.held ++ [⟨n, psn, va.toNat, len.toNat, some absent⟩] ∧
            ∀ x ∈ absent, ∃ f ∈ t.mem.fills, f.line = x ∧ f.asker = .system)) ∧
        ((lockIn s [] va.toNat len.toNat).isSome = true → ∃ t, Answers (.rdmaReadRequest ⟨qp, psn, false⟩ rkey va len) s t ∧ SameMemory s t ∧
          t.sent = s.sent ∧ t.eth.held = s.eth.held ++ [⟨n, psn, va.toNat, len.toNat, none⟩])) ∧
      -- the last line that a READ waits for
      (∀ (x : HeldRead) (a : BitVec 48) (f : FillReq), s.eth.held = [x] → x.qp = n → x.wait = some [lineOf a.toNat] → s.fab.readWaits = [] →
        (s.mem.fills.filter fun f => f.line = lineOf a.toNat) = [f] → f.asker = .system → underTest s 4 (channelOf s (lineOf a.toNat)) = false →
        (channelNext s (channelOf s (lineOf a.toNat))).map (·.line) = some (lineOf a.toNat) → isPoisoned s a.toNat = false → s.flt.upsets = [] →
        lockIn s [] x.va x.len = none → heldByTest s x.va x.len = false → fencedIn s x.va x.len = none → poisonIn s x.va x.len = none →
        ∃ t, Answers (.hbmLineFill a .clean) s t ∧ SameMemory s t ∧ t.eth.held = [] ∧
        t.sent = .rdmaReadResp w n (planeRead s x.va x.len) :: s.sent) ∧
      (∀ x : HeldRead, (s.eth.held.find? fun h => h.qp = n) = some x → (lockIn s [] x.va x.len).isSome = true →
        ∃ t, Answers (.readHoldRnr qp) s t ∧ SameMemory s t ∧ t.sent = .rdmaNak w n 1 x.psn :: s.sent ∧ qpExpected t n = x.psn ∧
        ∀ h, h ∈ t.eth.held ↔ h ∈ s.eth.held ∧ h.qp ≠ n) ∧
      ∀ data : List Byte, data.length ≤ rxSize s n → qpWaits s n = false → sequencerFree s = true →
        let used := (ctrGet s (rxCtr s n) - ctrGet s (cfg s (mQp n 6) 48 16)).toNat
        let a := cfg s (mQp n 5) 0 48 + (ctrGet s (rxCtr s n)).toNat % rxSlots s n * rxSize s n
        heldByTest s a data.length = false →
        (used < rxSlots s n → inPinned s a (rxSize s n) = true → lockIn s [] a data.length = none → inFrameTable s a data.length = false →
          s.flt.upsets = [] → ∃ t, Answers (.send ⟨qp, psn, false⟩ data) s t ∧
          wrote t a data ∧ (ctrGet t (rxCtr s n)).toNat = min ((ctrGet s (rxCtr s n)).toNat + 1) (2 ^ 64 - 1) ∧
          ∀ c, c ≠ rxCtr s n → ctrGet t c = ctrGet s c) ∧
        (used < rxSlots s n → inPinned s a (rxSize s n) = false ∨ (lockIn s [] a data.length).isSome = true ∨ inFrameTable s a data.length = true →
          Answers (.send ⟨qp, psn, false⟩ data) s (nakError (takePackets (took (messageLens mtu 0 0 data.length)) n data.length) n 2 3 psn)) ∧
        (rxSlots s n ≤ used → ∃ t, Answers (.send ⟨qp, psn, false⟩ data) s t ∧ SameMemory s t ∧ t.sent = .rdmaNak w n 1 psn :: s.sent ∧ qpExpected t n = psn ∧
          ∀ c, ctrGet t c = ctrGet s c)

/-- What the part has sent on a queue pair (R380, R382, R383, R389, R390, R397): an acknowledgement or a READ's data ends the keeping of packets,
a NAK or a timeout sends the rest again, in order, while retries are left, and otherwise the queue pair is in ERROR; a CNP halves the injection
rate and the rate rises by a sixteenth; the first packet marked CE brings a CNP, and a later one may; STATE moves as it is written. That a READ's data
acknowledges the packets before it is PRESUMED (log 17), and that progress ends a run of resends the model's reading (DEDUCED, log 27). -/
def Obligations.QueuePairs : Prop :=
  ∀ (s : State) (qp : QpId), portSends s (qpPort s qp.toNat) = true →
    let n := qp.toNat
    let q := qpOf s n
    let w := qpWire s n
    let others := fun (t : State) => SameMemory s t ∧ ∀ p, p ≠ n → qpOf t p = qpOf s p
    let resends := fun (t : State) (ps : List Packet) => t.sent = (ps.map (Sent.rdma w n)).reverse ++ s.sent
    let fails := fun (i : Instr) => ∃ t, Answers i s t ∧ SameMemory s t ∧ qpState t n = 2 ∧ (qpOf t n).kept = []
    (qpTakes s n = false → ∃ t, Answers (.cnp qp) s t ∧ t = { s with live := t.live }) ∧
    (qpTakes s n = true → ∃ t, Answers (.cnp qp) s t ∧ others t ∧
      ((qpOf t n).slow = 2 ^ 32 - max ((2 ^ 32 - q.slow) / 2) (2 ^ 24) ∨ (q.slow ≠ 0 ∧ qpOf t n = q)) ∧ (qpOf t n).kept = q.kept) ∧
    (∃ t, Answers (.cnpRateRecovery qp) s t ∧ others t ∧ qpOf t n = { q with slow := q.slow - 2 ^ 28 }) ∧
    -- a packet marked CE
    (qpTakes s n = true →
      let u := cnpSend s n true
      (u.sent = s.sent ∨ u.sent = .cnp w n :: s.sent) ∧ (q.marked = false → u.sent = .cnp w n :: s.sent) ∧ (qpOf u n).marked = true ∧
      (∀ e : EthId, exec (.unrecognisedFrame ⟨e, some qp, true⟩) s = exec (.unrecognisedFrame ⟨e, some qp, false⟩) u) ∧
      (∀ psn rkey va data, exec (.rdmaWrite ⟨qp, true⟩ psn rkey va data) s = exec (.rdmaWrite ⟨qp, false⟩ psn rkey va data) u) ∧
      (∀ psn rkey va len, exec (.rdmaReadRequest ⟨qp, psn, true⟩ rkey va len) s = exec (.rdmaReadRequest ⟨qp, psn, false⟩ rkey va len) u) ∧
      (∀ psn data, exec (.send ⟨qp, psn, true⟩ data) s = exec (.send ⟨qp, psn, false⟩ data) u) ∧
      (∀ psn, exec (.acknowledge ⟨qp, true⟩ psn) s = exec (.acknowledge ⟨qp, false⟩ psn) u ∧
        exec (.sequenceErrorNak ⟨qp, true⟩ psn) s = exec (.sequenceErrorNak ⟨qp, false⟩ psn) u) ∧
      (∀ d, exec (.rnrNak ⟨qp, true⟩ d) s = exec (.rnrNak ⟨qp, false⟩ d) u) ∧
      exec (.remoteAccessNak ⟨qp, true⟩) s = exec (.remoteAccessNak ⟨qp, false⟩) u ∧
      exec (.invalidRequestNak ⟨qp, true⟩) s = exec (.invalidRequestNak ⟨qp, false⟩) u ∧
      ∀ (data : List Byte) (p : Packet), q.kept.find? (·.read) = some p → data.length = p.len →
        exec (.rdmaReadResponse ⟨qp, true⟩ data) s = exec (.rdmaReadResponse ⟨qp, false⟩ data) u) ∧
    (qpTakes s n = true →
      (∀ psn : BitVec 24, ∃ t, Answers (.acknowledge ⟨qp, false⟩ psn) s t ∧ others t ∧ t.sent = s.sent ∧
        (qpOf t n).kept = q.kept.filter fun p => p.read || !psnLe p.psn psn) ∧
      (∀ psn : BitVec 24,
        let left := q.kept.filter fun p => p.read || !psnLe p.psn (psn - 1)
        ((if left.length < q.kept.length then 0 else q.retries) < cfg s (mQp n 0) 16 3 → ∃ t, Answers (.sequenceErrorNak ⟨qp, false⟩ psn) s t ∧ others t ∧
          (qpOf t n).kept = left ∧ resends t (left.filter fun p => psnLe psn p.psn))) ∧
      (∀ d : BitVec 5, ∃ t, Answers (.rnrNak ⟨qp, false⟩ d) s t ∧ others t ∧ qpOf t n = { q with rnr := true } ∧ t.sent = s.sent) ∧
      fails (.remoteAccessNak ⟨qp, false⟩) ∧ fails (.invalidRequestNak ⟨qp, false⟩) ∧
      (q.kept ≠ [] → q.rnr = false →
        (q.retries < cfg s (mQp n 0) 16 3 → ∃ t, Answers (.ackTimeout qp) s t ∧ others t ∧ qpOf t n = { q with retries := q.retries + 1, unsent := 0 } ∧
          resends t q.kept) ∧
        (cfg s (mQp n 0) 16 3 ≤ q.retries → fails (.ackTimeout qp))) ∧
      (∀ (data : List Byte) (p : Packet), q.kept.find? (·.read) = some p → data.length = p.len → (∀ x ∈ s.fab.transfers, x.todo = []) →
        ((s.fab.transfers.find? fun t => t.host && hkeyQp s t.dest = n && p.slot = some t.slot && t.left.contains (p.va.toNat, p.len)) = none →
          ∃ t, Answers (.rdmaReadResponse ⟨qp, false⟩ data) s t ∧ others t ∧
          (qpOf t n).kept = (dropFirst (· = p) q.kept).filter fun x => x.read || !psnLe x.psn p.psn) ∧
        ∀ x : Transfer, (s.fab.transfers.find? fun t => t.host && hkeyQp s t.dest = n && p.slot = some t.slot &&
            t.left.contains (p.va.toNat, p.len)) = some x → dropFirst (· = (p.va.toNat, p.len)) x.left ≠ [] →
          ∃ t u, Answers (.rdmaReadResponse ⟨qp, false⟩ data) s t ∧ others t ∧ u ∈ t.fab.transfers ∧ u.slot = x.slot ∧
          u.left = dropFirst (· = (p.va.toNat, p.len)) x.left ∧ u.buf = Map.putRun x.buf p.va.toNat data)) ∧
    (q.rnr = true → ∃ t, Answers (.rnrDelayExpiry qp) s t ∧ others t ∧ qpOf t n = { q with rnr := false, unsent := 0 } ∧ resends t q.kept) ∧
    (qpState s n = 0 → ∃ t, Answers (.qpReady qp) s t ∧ t = { s with regs := t.regs } ∧ qpState t n = 1) ∧
    (∃ t, Answers (.qpReset qp) s t ∧ SameMemory s t ∧ qpState t n = 0 ∧ (qpOf t n).kept = [] ∧ (qpOf t n).rnr = false)

/-! ### Security, the module and start-up (R426 to R450, R469 to R481) -/

/-- Attestation takes its report when it is asked for and shows it once it is signed (R475, R476); MREG6 and MREG7 extend with the host's data
(R473, R475); INSTALL writes only the slot not running, and one that a check or the read-back refuses loses its MAGIC (R477); COMMIT_SVN and
REVOKE_KEY0 burn fuses (R478); VERIFY draws a fresh challenge whatever it finds, and RELOCK ends the permissions (R480, R481). The model's own: the bytes of
the slot past the image's length stay (DEDUCED, log 43), a poisoned source is malformed (DESIGN CHOICE, log 53), and a COMMIT_SVN that a loss of power
follows at once is caught by it (DESIGN CHOICE, log 43). -/
def Obligations.SecurityEngine : Prop :=
  ∀ s : State,
    let m := s.sec
    let other := 1 - m.bootSlot.toNat
    let at' := fun (b : List Byte) (off n : Nat) => leNat ((b.drop off).take n)
    -- ATT_REPORT, ATT_REPORT_DONE
    (m.attBusy = none → ∃ b, Answers .attReport s { s with sec := { m with attBusy := some b } } ∧ b.length = 0x1D0 ∧
      at' b 0 4 = 1 ∧ at' b 4 4 = fld (secStatWord s) 0 32 ∧ at' b 8 8 = 0x941020A0801000C1 ∧ (b.drop 0x10).take 16 = padTo 16 Config.fruSerial ∧
      at' b 0x20 32 = m.attData.toNat ∧ at' b 0x40 8 = m.reports.toNat + 1 ∧
      at' b 0x48 8 = m.svn % 2 ^ 64 ∧ at' b 0x50 8 = m.runVer.toNat ∧
      at' b 0x58 8 = (if slotValid s other then fwNat (fwSlot s other) 8 8 else 0) ∧
      at' b 0x60 8 = s.mram.loadSeq.toNat ∧ at' b 0x68 8 = (regGet s mSetTag).toNat ∧ at' b 0x70 8 = m.perm.toNat ∧ at' b 0x78 24 = 0 ∧
      (∀ i < 8, at' b (0x90 + 32 * i) 32 = (mregGet s i).toNat) ∧ at' b 0x190 32 = (Config.keyHash m.keySlot.toNat).toNat ∧
      at' b 0x1B0 32 = Config.dbgKeyHash.toNat) ∧
    (m.attBusy.isSome = true → Answers .attReport s (reportRefused s mAttCtl 1 0)) ∧
    (∀ b, m.attBusy = some b → ∃ sig : List Byte, sig.length = 3309 ∧ Answers .attReportDone s
      { s with sec := { m with attBuf := b ++ sig ++ [0, 0, 0], attBusy := none, reports := m.reports + 1 } }) ∧
    -- EXTEND_MREG6, EXTEND_MREG7
    (∀ i c, (i = 6 ∧ c = Instr.extendMreg6) ∨ (i = 7 ∧ c = Instr.extendMreg7) →
      (m.attBusy = none → ∃ t, Answers c s t ∧ t = { s with sec := { m with mreg := t.sec.mreg } } ∧
        ∀ n, mregGet t n = if n = i then Config.shake256 (natLE 32 (mregGet s i).toNat ++ natLE 32 m.attData.toNat) else mregGet s n) ∧
      (m.attBusy.isSome = true → Answers c s (reportRefused s mAttCtl (BitVec.ofNat 64 (i - 4)) 0))) ∧
    -- INSTALL, INSTALL_DONE
    (let a := fwSrcAddr s
     let n := fwSrcLen s
     let image := planeRead s a n
     let killed := fun (t : State) (r : BitVec 8) =>
       t = { s with sec := { m with fw0 := t.sec.fw0, fw1 := t.sec.fw1, fwBusy := none, fwResult := r } } ∧
       fwSlot t m.bootSlot.toNat = fwSlot s m.bootSlot.toNat ∧
       ∀ i, fwByte (fwSlot t other) i = if i < 4 then 0 else fwByte (fwSlot s other) i
     (m.fwBusy = none → n ≠ 0 → n ≤ fwSlotSize → a % 4096 = 0 → inPinned s a n = true → lockIn s [] a n = none → (poisonIn s a n).isSome = true →
       ∃ t, Answers .install s t ∧ killed t 0x13) ∧
     (m.fwBusy = none → n ≠ 0 → n ≤ fwSlotSize → a % 4096 = 0 → inPinned s a n = true → (lockIn s [] a n).isSome = true →
       Answers .install s { s with sec := { m with fwBusy := some [], fwSrc := (a, n) } }) ∧
     (m.fwBusy = none → n ≠ 0 → n ≤ fwSlotSize → a % 4096 = 0 → inPinned s a n = true → lockIn s [] a n = none → poisonIn s a n = none →
       ∃ t, Answers .install s t ∧ match slotFault s (overSlot s image) with
         | none => t = { s with sec := { m with fw0 := t.sec.fw0, fw1 := t.sec.fw1, fwBusy := some image } } ∧
           fwSlot t m.bootSlot.toNat = fwSlot s m.bootSlot.toNat ∧
           ∀ i, fwByte (fwSlot t other) i = if i < n then planeByte s (a + i) else fwByte (fwSlot s other) i
         | some r => killed t (BitVec.ofNat 8 r)) ∧
     (m.fwBusy = none → (n = 0 ∨ fwSlotSize < n ∨ a % 4096 ≠ 0 ∨ inPinned s a n = false) →
       Answers .install s { s with sec := { m with fwBusy := none, fwResult := 0x15 } }) ∧
     (m.fwBusy.isSome = true → Answers .install s (reportRefused s mFwCtl 1 0)) ∧
     ∀ b, m.fwBusy = some b → b ≠ [] →
       Answers (.installDone true) s { s with sec := { m with fwBusy := none, fwResult := 0 } } ∧
       ∃ t, Answers (.installDone false) s t ∧ killed t 0x14) ∧
    -- COMMIT_SVN, REVOKE_KEY0
    (m.fwBusy = none →
      (lossFollows s = false → Answers .commitSvn s { s with sec := { m with svn := max m.svn m.runSvn, fwResult := 0 } }) ∧
      (lossFollows s = true → ∃ v, m.svn ≤ v ∧ v ≤ max m.svn m.runSvn ∧
        Answers .commitSvn s { s with fresh := s.fresh + 1, sec := { m with svn := v, fwResult := 0 } }) ∧
      Answers .revokeKey0 s { s with sec := { m with
        key0Rev := m.key0Rev || m.keySlot == 1#1, fwResult := if m.keySlot = 1#1 then 0 else 0x17 } }) ∧
    -- VERIFY, VERIFY_DONE, RELOCK
    (m.dbgBusy = false → Answers .verify s { s with sec := { m with dbgBusy := true } } ∧
      Answers .relock s { s with sec := { m with perm := 0 } }) ∧
    (m.dbgBusy = true → Answers .verify s (reportRefused s mDbgCtl 2 0) ∧ ∃ t, Answers .verifyDone s t ∧
      (let m1 := { m with mreg := t.sec.mreg, dbgBusy := false, challenge := m.challenge + 1, perm := t.sec.perm }
       t = { s with sec := { m1 with dbgResult := BitVec.ofNat 8 (tokenResult s) } }) ∧
      t.sec.perm = (if tokenResult s = 1 then BitVec.ofNat 32 (leNat (tokenRead s 4 4)) else m.perm) ∧
      ∀ n, mregGet t n = if n = 5 ∧ tokenResult s = 1
        then Config.shake256 (natLE 32 (mregGet s 5).toNat ++ natLE 32 (Config.shake256 (tokenRead s 0 0x40)).toNat) else mregGet s n)

/-- The samples of the module, once the always-on domain is up: the telemetry bytes and the FRU area (R429, R467), the power and the cap step (R435, R437), the die
sensors and the floor (R436, R437), the stacks' throttle steps (R66), the coolant (R439). When no step may be taken is left free (log 8). That the FRU area has
a byte index of its own and its MAC lies in little-endian order is the model's choice (DESIGN CHOICE, log 9), and that an index wraps modulo 256 its reading
(DEDUCED, log 36). -/
def Obligations.ModuleSamples : Prop :=
  ∀ s : State, s.mod.stage ≠ 0 →
    let m := s.mod
    -- telemetry
    (∀ i : Byte, Answers (.telemetryIndexWrite ⟨false, i⟩) s { s with mod := { m with teleIndex := i } } ∧
      Answers (.telemetryIndexWrite ⟨true, i⟩) s (if m.inputOk = true then { s with mod := { m with fruIndex := i } } else s)) ∧
    (m.inputOk = true → ∀ n : BitVec 9, ∃ bs : List Byte, Answers (.telemetryRead ⟨true, n⟩) s { s with sent := .i2c bs :: s.sent } ∧
      bs.length = n.toNat ∧ ∀ j < n.toNat, bs.getD j 0 = fruBytes.getD ((m.fruIndex.toNat + j) % 256) 0) ∧
    (let at' := fun (a n : Nat) => leNat ((fruBytes.drop a).take n)
     fruBytes.length = 256 ∧ at' 0 16 = 1 ∧ (fruBytes.drop 0x20).take 16 = padTo 16 Config.fruSerial ∧ at' 0x30 2 = 1 ∧
     at' 0x32 2 = Config.fruDate.toNat ∧ at' 0x34 6 = Config.fruMac.toNat ∧ at' 0x3A 194 = 0 ∧
     at' 0xFC 4 = (crc32c (fruBytes.take 252)).toNat) ∧
    (∀ n : BitVec 9, ∃ bs : List Byte, Answers (.telemetryRead ⟨false, n⟩) s { s with sent := .i2c bs :: s.sent } ∧ bs.length = n.toNat ∧
      ∀ j < n.toNat, bs.getD j 0 = m.teleSet.getD ((m.teleIndex.toNat + j) % 256) 0) ∧
    (∃ b : List Byte, Answers .telemetrySample s { s with mod := { m with teleSet := b } } ∧ b.length = 18 ∧
      let w := fun off => leNat ((b.drop off).take 2)
      let p := liveGet s mPwrStat
      let top := fun (x n : Nat) (f : Nat → Nat) => (∀ i < n, f i ≤ x) ∧ (x = 0 ∨ ∃ i < n, f i = x)
      w 0 = fld (modStatWord s) 0 16 ∧ w 2 = fld p 32 16 ∧ w 4 = fld p 16 16 ∧ w 6 = fld p 48 16 ∧ w 8 = m.coolIn.toNat ∧
      w 10 = m.coolOut.toNat ∧ top (w 12) 16 (fun i => fld (liveGet s (mDieTemp i)) 0 12) ∧
      top (w 14) 12 (fun i => fld (liveGet s (mStackTemp i)) 0 12) ∧ b.getD 16 0 = BitVec.ofNat 8 m.capStep ∧ b.getD 17 0 = m.fail) ∧
    -- CAP_SAMPLE
    (∀ watts volts amps : BitVec 16, m.capStep ≤ 48 → m.warnStep ≤ 48 →
      let mode := cfg s mPwrCfg 40 2
      let limit := cfg s mPwrCfg 48 16
      let lim := if mode = 3 then 3800 else limit
      let lo := max m.warnStep (if mode = 3 then (2 * (4000 - limit) + 124) / 125 else 0)
      let seen := (watts.toNat :: m.samples).take 1024
      let q : ℚ := if mode = 1 then (seen.sum : ℚ) / seen.length else watts.toNat
      let up := (lim : ℚ) < q ∧ m.capStep < 48
      let down := ¬up ∧ q < (98 / 100 : ℚ) * lim ∧ lo < m.capStep ∧ 64 ≤ m.capHeld
      ∃ t, Answers (.capSample watts volts amps) s t ∧ t.mod.samples = seen ∧
        (up → t.mod.capStep = max (m.capStep + 1) lo ∧ t.mod.capHeld = 0) ∧
        (down → t.mod.capStep = m.capStep - 1 ∧ t.mod.capHeld = 0) ∧
        (¬up → ¬down → t.mod.capStep = max m.capStep lo ∧ t.mod.capHeld = m.capHeld + 1) ∧
        (let p := liveGet t mPwrStat
         fld p 0 6 = m.warnStep ∧ (t.mod.capStep ≤ 63 → fld p 8 6 = t.mod.capStep) ∧
         (bit p 15 = true ↔ (lim : ℚ) < q ∧ m.capStep = 48) ∧ fld p 16 16 = amps.toNat ∧ fld p 32 16 = volts.toNat ∧ fld p 48 16 = watts.toNat) ∧
        ((0 < m.capStep ↔ 0 < t.mod.capStep) → t.flt = s.flt) ∧ t.regs = s.regs ∧ t.mem = s.mem ∧ t.cores = s.cores ∧ t.disp = s.disp) ∧
    -- DIE_TEMP_SAMPLE
    (∀ (temps : List (BitVec 12)) (fall : Bool), temps.length = 16 →
      let warn := 8 * cfg s mModCfg 56 8
      ∃ t, Answers (.dieTempSample temps fall) s t ∧
        (∀ i < 16, fld (liveGet t (mDieTemp i)) 0 12 = (temps.getD i 0).toNat) ∧
        (t.mod.dieWarn = true ↔ ∃ x ∈ temps, warn ≤ x.toNat) ∧
        ((∃ x ∈ temps, warn ≤ x.toNat) → t.mod.warnStep = min (m.warnStep + 1) 48) ∧
        ((∀ x ∈ temps, x.toNat + 16 < warn) → t.mod.warnStep = if fall then m.warnStep - 1 else m.warnStep) ∧
        ((∀ x ∈ temps, x.toNat < warn) → (∃ x ∈ temps, warn ≤ x.toNat + 16) → t.mod.warnStep = m.warnStep) ∧
        t.mod.capStep = m.capStep ∧ t.regs = s.regs ∧ t.mem = s.mem ∧ t.cores = s.cores ∧ t.disp = s.disp) ∧
    (∀ (temps : List (BitVec 12)) (fall : Bool), temps.length ≠ 16 → exec (.dieTempSample temps fall) s = .fault .noSuchUnit) ∧
    -- HBM_TEMP_SAMPLE
    (∀ (st : BitVec 4) (temp : BitVec 12), st.toNat < 12 →
      let k := fld (liveGet s (mStackTemp st.toNat)) 28 3
      let into := fun k => 8 * (cfg s mTherm 0 8 + (k - 1) * cfg s mTherm 8 4)
      k ≤ 6 → ∃ t, Answers (.hbmTempSample st temp) s t ∧
        (let w := liveGet t (mStackTemp st.toNat)
         let k' := fld w 28 3
         fld w 0 12 = temp.toNat ∧ k' ≤ 6 ∧ (k' = k ∨ (k' = k + 1 ∧ into (k + 1) ≤ temp.toNat) ∨ (k' + 1 = k ∧ temp.toNat + 8 ≤ into k))) ∧
        (∀ o < 12, o ≠ st.toNat → liveGet t (mStackTemp o) = liveGet s (mStackTemp o)) ∧
        t.regs = s.regs ∧ t.mem = s.mem ∧ t.cores = s.cores ∧ t.disp = s.disp) ∧
    (∀ (st : BitVec 4) (temp : BitVec 12), 12 ≤ st.toNat → exec (.hbmTempSample st temp) s = .fault .noSuchUnit) ∧
    -- COOLANT_CHECK
    ∀ inlet outlet : BitVec 16,
      let t := { s with mod := { m with coolIn := inlet, coolOut := outlet } }
      let bad := 384 < inlet.toNat ∨ inlet.toNat + 200 < outlet.toNat
      (¬bad ∨ m.coolant = true → Answers (.coolantCheck inlet outlet) s t) ∧
      (bad → m.coolant = false → Answers (.coolantCheck inlet outlet) s
        (thermalRec { t with mod := { t.mod with coolant := true } } 0xD4 (inlet.toNat * 65536 + outlet.toNat)))

/-- What keeps through a loss of power (R421), the pins and latches (R431, R446 to R450), and the stages of start-up (R443 to R445, R448, R472). -/
def Obligations.PowerAndStartup : Prop :=
  ∀ s : State,
    let m := s.mod
    -- what a loss leaves
    let lost := fun (t : State) => t.regs = [] ∧ t.live = [] ∧ t.mem = Memory.reset ∧ t.sync = Sync.reset ∧ t.cores = [] ∧
      t.disp = Dispatch.reset ∧ t.fab = Fabric.reset ∧ t.eth = Ether.reset ∧ t.flt = Faults.reset ∧ t.mod.readyPin = false ∧ t.mod.fail = 0 ∧
      t.sec.svn = s.sec.svn ∧ t.sec.key0Rev = s.sec.key0Rev ∧ (s.sec.fwBusy = none → t.sec.fw0 = s.sec.fw0 ∧ t.sec.fw1 = s.sec.fw1) ∧
      t.sec.perm = 0 ∧ fwSlot t s.sec.bootSlot.toNat = fwSlot s s.sec.bootSlot.toNat ∧
      (s.mram.storing = none → t.mram.imageA = s.mram.imageA ∧ t.mram.imageB = s.mram.imageB) ∧ t.pending = s.pending ∧ t.sent = s.sent
    let starts := fun (u : Module) => if u.pwrEn = true ∧ u.inputOk = true ∧ u.latched = false ∧ u.stage = 0 then
      { u with stage := 1, modId := u.modIdPin } else u
    let stands := fun n => m.stage = n ∧ m.fail = 0
    -- POWER_LOSS, INPUT_UNDERVOLTAGE
    (∀ c, c = Instr.powerLoss ∨ c = Instr.inputUndervoltage → ∃ t, Answers c s t ∧ lost t ∧ t.mod.stage = 0 ∧ t.mod.inputOk = false ∧
      t.mod.tripN = true ∧ t.mod.latched = false ∧ t.mod.lastTrip = 0) ∧
    -- INPUT_RESTORED, STANDBY_POWER_ON
    (m.stage = 0 → Answers .inputRestored s { s with mod := starts { m with inputOk := true } }) ∧
    Answers .standbyPowerOn s { s with mod := { m with inputOk := true } } ∧
    -- INPUT_FAULT, THERMAL_TRIP, THERM_TRIP_RELEASE
    (m.inputOk = true → ∃ t, Answers .inputFault s t ∧ lost t ∧ t.mod.stage = 0 ∧ t.mod.lastTrip = 2 ∧ t.mod.inFault = true ∧
      alertAsserted t = true ∧ t.mod.latched = true) ∧
    (let hot := (∃ i < 16, 920 ≤ fld (liveGet s (mDieTemp i)) 0 12) ∨ ∃ i < 12, 880 ≤ fld (liveGet s (mStackTemp i)) 0 12
     (¬hot → Answers .thermalTrip s s) ∧
     (hot → m.stage ≠ 0 → ∃ t, Answers .thermalTrip s t ∧ lost t ∧ t.mod.stage = 0 ∧ t.mod.lastTrip = 1 ∧ t.mod.tripN = false ∧ t.mod.latched = true)) ∧
    (m.pwrEn = false → Answers .thermTripRelease s { s with mod := { m with tripN := true, latched := false } }) ∧
    -- PWR_EN, RESET_N, MOD_ID
    Answers .pwrEnRise s { s with mod := starts { m with pwrEn := true } } ∧
    (∃ t, Answers .pwrEnFall s t ∧ t.mod.pwrEn = false ∧ t.mod.stage = 0 ∧ (m.stage ≠ 0 → lost t)) ∧
    (m.stage = 0 → Answers .resetNAssert s { s with mod := { m with resetN := false } }) ∧
    (m.stage ≠ 0 → ∃ t, Answers .resetNAssert s t ∧ lost t ∧ t.mod.stage = 1 ∧ t.mod.resetN = false) ∧
    Answers .resetNDeassert s { s with mod := { m with resetN := true } } ∧
    (∀ v : BitVec 3, Answers (.modIdChange v) s { s with mod := { m with modIdPin := v } }) ∧
    -- BOOT_ROM
    (stands 1 → m.resetN = true → m.pwrEn = true → m.inputOk = true →
      let v := fun i => fwNat (fwSlot s i) 8 8
      let boots := fun (i : Nat) => ∃ t, Answers .bootRom s t ∧
        (let b := { s.sec with mreg := t.sec.mreg, bootSlot := BitVec.ofNat 1 i, keySlot := t.sec.keySlot, fallback := t.sec.fallback }
         t = { s with mod := { m with stage := 2 }, sec := { b with runSvn := t.sec.runSvn, runVer := t.sec.runVer } }) ∧
        mregGet t 0 = Config.shake256 (List.replicate 32 0 ++ natLE 32 Config.romDigest.toNat) ∧
        mregGet t 1 = Config.shake256 (List.replicate 32 0 ++ natLE 32 (Config.shake256 (fwRead (fwSlot s i) 0 0x162D)).toNat) ∧
        mregGet t 2 = Config.shake256 (List.replicate 32 0 ++ fwRead (fwSlot s i) 0x30 32) ∧ (∀ n, 4 ≤ n → mregGet t n = 0) ∧
        mregGet t 3 = ((List.range (fwNat (fwSlot s i) 0x19 1)).drop 1).foldl
          (fun v j => Config.shake256 (natLE 32 v.toNat ++ fwRead (fwSlot s i) (0x30 + 48 * j) 32)) 0 ∧
        t.sec.runVer.toNat = v i ∧ t.sec.runSvn = fwNat (fwSlot s i) 16 8 ∧ t.sec.keySlot.toNat = fwNat (fwSlot s i) 0x18 1 ∧
        (t.sec.fallback = true ↔ slotValid s (1 - i) = false ∧ fwNat (fwSlot s (1 - i)) 0 4 = 0x4D464A46 ∧ fwNat (fwSlot s (1 - i)) 4 4 = 1)
      if slotValid s 0 = true ∧ (slotValid s 1 = false ∨ v 1 ≤ v 0) then boots 0
      else if slotValid s 1 = true then boots 1
      else ∃ t, Answers .bootRom s t ∧ t = { s with mod := { m with stage := 2, fail := 0x01 }, sec := { s.sec with mreg := t.sec.mreg } } ∧
        mregGet t 0 = Config.shake256 (List.replicate 32 0 ++ natLE 32 Config.romDigest.toNat) ∧ ∀ n, n ≠ 0 → mregGet t n = 0) ∧
    -- the stages
    (stands 2 → Answers (.rails true) s { s with mod := { m with stage := 3 } } ∧
      Answers (.rails false) s { s with mod := { m with stage := 3, fail := 0x02 } }) ∧
    (stands 3 → Answers (.settingsLoad false) s { s with mod := { m with stage := 4, fail := 0x03 } } ∧
      ∃ t, Answers (.settingsLoad true) s t ∧ t.mod = { m with stage := 4 } ∧ t.mem = Memory.reset ∧ t.cores = s.cores ∧ t.disp = s.disp ∧
        t.mram.imageA = s.mram.imageA ∧ t.mram.imageB = s.mram.imageB ∧ t.mram.locked = false ∧ (∀ n, n ≠ 4 → mregGet t n = mregGet s n) ∧
        let valid := fun (i : Image) => i.magic = 0x53455431 ∧ i.version = 1 ∧ i.count ≤ 16380 ∧ i.intact = true
        let takes := fun (n : Nat) (i : Image) => t.mram.loaded = BitVec.ofNat 2 n ∧ t.mram.loadSeq = i.seq ∧
          mregGet t 4 = Config.shake256 (natLE 32 (mregGet s 4).toNat ++ natLE 32 (imageDigest i).toNat)
        (valid s.mram.imageA → (¬valid s.mram.imageB ∨ s.mram.imageB.seq.toNat ≤ s.mram.imageA.seq.toNat) → takes 0 s.mram.imageA) ∧
        (valid s.mram.imageB → (¬valid s.mram.imageA ∨ s.mram.imageA.seq.toNat < s.mram.imageB.seq.toNat) → takes 1 s.mram.imageB) ∧
        (¬valid s.mram.imageA → ¬valid s.mram.imageB → t.mram.loaded = 2 ∧ t.mram.loadSeq = 0 ∧ 0 < t.mram.clamps)) ∧
    (stands 4 → ∀ bad : List (BitVec 9), ∃ t, Answers (.hbmTraining bad) s t ∧ t.mod = { m with stage := 5 } ∧ t.mem.plane = [] ∧ t.mem.poison = [] ∧
      ∀ c < 384, chanFenced t c = (chanFenced s c || bad.contains (BitVec.ofNat 9 c))) ∧
    (stands 5 → ∀ bad : List LinkId, ∃ t, Answers (.startupLinks bad) s t ∧ t.mod = { m with stage := 6 } ∧ SameMemory s t ∧
      ∀ l : LinkId, (linkOf t l.toNat).state =
        if cfg s mTorus (16 + 4 * (l.toNat / 8)) 4 = 0 then (linkOf s l.toNat).state else if bad.contains l then 4 else 1) ∧
    (stands 6 → ∃ t, Answers .startupEthernet s t ∧ t = { s with mod := { m with stage := 7 }, live := t.live } ∧
      ∀ o, liveGet t o = if o = mEth 0 4 ∨ o = mEth 1 4 then setFld (liveGet s o) 62 2 1 else liveGet s o) ∧
    (stands 7 → ∃ t, Answers .ready s t ∧
      (let u := { s with sync := Sync.reset, live := t.live, cores := t.cores, sec := { s.sec with reports := 0 } }
       t = { u with dbg := { s.dbg with snapSeq := 0, copies := [], view := [], sentAt := s.sent.length }, mod := { m with
         stage := 8, readyPin := true, inFault := false, capStep := 0, capHeld := 0, capHigh := 0 } }) ∧
      (∀ c, coreOf t c = { coreOf s c with issues := 0 }) ∧
      ∀ o, liveGet t o = if isCounter o then 0 else if o = mPwrStat then setFld (setFld (liveGet s o) 8 6 0) 15 1 0 else liveGet s o) ∧
    (m.stage ≠ 0 → m.stage ≠ 8 → m.fail = 0 → Answers .stageTimeout s { s with mod := { m with fail := 0x04 } })

/-! ### Rounding (R197, R198, R206) -/

/-- The rounding of a finite value to a floating-point format, where the format's largest finite value is not less in magnitude: to nearest with
ties to the even pattern, toward zero, up and down, each among all finite patterns of the format. -/
def Obligations.RoundingModes : Prop :=
  ∀ (code : Nat) (f : FFmt), floatFmt code = some f →
    let val := fun w : Nat => match f.value w with
      | .fin s m e => (if s then -1 else 1) * (m : ℚ) * 2 ^ e
      | _ => 0
    let finite := fun w : Nat => w < 2 ^ (1 + f.eb + f.mb) ∧ w % 2 ^ (f.eb + f.mb) ≤ f.top
    ∀ (neg : Bool) (m : Nat) (e : Int), 0 < m →
      let v : ℚ := (if neg then -1 else 1) * (m : ℚ) * 2 ^ e
      |v| ≤ val f.top →
      let w := fun rm => f.encode rm false (.fin neg m e) false
      (∀ rm, rm = .rne ∨ rm = .rz ∨ rm = .rup ∨ rm = .rdn → finite (w rm) ∧ w rm / 2 ^ (f.eb + f.mb) = if neg then 1 else 0) ∧
      (∀ p, finite p → |v - val (w .rne)| ≤ |v - val p| ∧ (|v - val (w .rne)| = |v - val p| → val p = val (w .rne) ∨ w .rne % 2 = 0)) ∧
      (|val (w .rz)| ≤ |v| ∧ ∀ p, finite p → |val p| ≤ |v| → |val p| ≤ |val (w .rz)|) ∧
      (v ≤ val (w .rup) ∧ ∀ p, finite p → v ≤ val p → val (w .rup) ≤ val p) ∧
      val (w .rdn) ≤ v ∧ ∀ p, finite p → val p ≤ v → val p ≤ val (w .rdn)
end

