-- ==== Sys2Proof/Laws/Maps.lean ====
section
/-!
SUPPORT. Laws of the sparse arrays: what a read gives after each operation, and that each operation keeps the canonical form.
-/
namespace Sys2Proof

variable {α : Type}

@[simp] theorem Map.find?_nil (k : Nat) : Map.find? ([] : Map α) k = none := rfl

@[simp] theorem Map.find?_cons (e : Nat × α) (m : Map α) (k : Nat) :
    Map.find? (e :: m) k = if e.1 = k then some e.2 else Map.find? m k := rfl

@[simp] theorem Map.get_nil (d : Nat → α) (k : Nat) : Map.get d [] k = d k := rfl

theorem Map.find?_erase (m : Map α) (k j : Nat) :
    Map.find? (Map.erase m k) j = if k = j then none else Map.find? m j := by
  induction m with
  | nil => simp [Map.erase]
  | cons e t ih =>
    simp only [Map.erase]
    split
    · next h => rw [ih]; subst h; by_cases hj : e.1 = j <;> simp [hj]
    · next h =>
      simp only [Map.find?_cons, ih]
      by_cases hj : e.1 = j
      · subst hj; simp [Ne.symm h]
      · simp [hj]

theorem Map.find?_insert_self (m : Map α) (k : Nat) (v : α) (h : Map.find? m k = none) :
    Map.find? (Map.insert m k v) k = some v := by
  induction m with
  | nil => simp [Map.insert]
  | cons e t ih =>
    simp only [Map.find?_cons] at h
    split at h
    · cases h
    · next he =>
      simp only [Map.insert]
      split
      · simp
      · simp [he, ih h]

theorem Map.find?_insert_ne (m : Map α) {k j : Nat} (v : α) (h : k ≠ j) :
    Map.find? (Map.insert m k v) j = Map.find? m j := by
  induction m with
  | nil => simp [Map.insert, h]
  | cons e t ih =>
    simp only [Map.insert]
    split
    · simp [h]
    · simp [ih]

theorem Map.find?_put (m : Map α) (k j : Nat) (v : α) :
    Map.find? (Map.put m k v) j = if k = j then some v else Map.find? m j := by
  by_cases h : k = j
  · subst h
    simp [Map.put, Map.find?_insert_self, Map.find?_erase]
  · simp [Map.put, Map.find?_insert_ne _ _ h, Map.find?_erase, h]

theorem Map.erase_erase (m : Map α) (k : Nat) : Map.erase (Map.erase m k) k = Map.erase m k := by
  induction m with
  | nil => rfl
  | cons e t ih => by_cases h : e.1 = k <;> simp [Map.erase, h, ih]

theorem Map.erase_insert (m : Map α) (k : Nat) (v : α) : Map.erase (Map.insert m k v) k = Map.erase m k := by
  induction m with
  | nil => simp [Map.insert, Map.erase]
  | cons e t ih => by_cases h : k < e.1 <;> simp [Map.insert, Map.erase, h, ih]

theorem Map.erase_put (m : Map α) (k : Nat) (v : α) : Map.erase (Map.put m k v) k = Map.erase m k := by
  simp [Map.put, Map.erase_insert, Map.erase_erase]

/-- A second write at a key stands for both. -/
theorem Map.put_put (m : Map α) (k : Nat) (v w : α) : Map.put (Map.put m k v) k w = Map.put m k w := by
  show Map.insert (Map.erase (Map.put m k v) k) k w = Map.insert (Map.erase m k) k w
  rw [Map.erase_put]

theorem Map.set_set [DecidableEq α] (d : Nat → α) (m : Map α) (k : Nat) (v w : α) : Map.set d (Map.set d m k v) k w = Map.set d m k w := by
  have h : Map.erase (Map.set d m k v) k = Map.erase m k := by
    unfold Map.set; split
    · exact Map.erase_erase m k
    · exact Map.erase_put m k v
  simp only [Map.set, Map.put] at h ⊢
  split <;> simp_all

@[simp] theorem Map.find?_put_self (m : Map α) (k : Nat) (v : α) : Map.find? (Map.put m k v) k = some v := by
  simp [Map.find?_put]

@[simp] theorem Map.get_put_self (d : Nat → α) (m : Map α) (k : Nat) (v : α) : Map.get d (Map.put m k v) k = v := by
  simp [Map.get]

theorem Map.get_put_ne (d : Nat → α) (m : Map α) {k j : Nat} (v : α) (h : k ≠ j) :
    Map.get d (Map.put m k v) j = Map.get d m j := by
  simp [Map.get, Map.find?_put, h]

section
variable [DecidableEq α]

/-- Reading after a write: the value written at its place, every other place unchanged. -/
theorem Map.get_set (d : Nat → α) (m : Map α) (k j : Nat) (v : α) :
    Map.get d (Map.set d m k v) j = if k = j then v else Map.get d m j := by
  unfold Map.set
  split
  · next h => by_cases hj : k = j
              · subst hj; simp [Map.get, Map.find?_erase, h]
              · simp [Map.get, Map.find?_erase, hj]
  · by_cases hj : k = j
    · subst hj; simp
    · simp [Map.get_put_ne _ _ _ hj, hj]

@[simp] theorem Map.get_set_self (d : Nat → α) (m : Map α) (k : Nat) (v : α) : Map.get d (Map.set d m k v) k = v := by
  simp [Map.get_set]

theorem Map.get_set_ne (d : Nat → α) (m : Map α) {k j : Nat} (v : α) (h : k ≠ j) :
    Map.get d (Map.set d m k v) j = Map.get d m j := by
  simp [Map.get_set, h]

/-- A run of writes leaves what lies outside it. -/
theorem Map.get_setRun_outside (d : Nat → α) (vs : List α) :
    ∀ (m : Map α) (k j : Nat), j < k ∨ k + vs.length ≤ j → Map.get d (Map.setRun d m k vs) j = Map.get d m j := by
  induction vs with
  | nil => intro m k j _; rfl
  | cons v t ih =>
    intro m k j h
    simp only [List.length_cons] at h
    rw [Map.setRun, ih _ _ _ (by omega), Map.get_set_ne _ _ _ (by omega)]

/-- A run of writes puts its i-th value at its i-th place. -/
theorem Map.get_setRun_inside (d : Nat → α) (vs : List α) :
    ∀ (m : Map α) (k i : Nat) (h : i < vs.length), Map.get d (Map.setRun d m k vs) (k + i) = vs[i] := by
  induction vs with
  | nil => intro m k i h; simp at h
  | cons v t ih =>
    intro m k i h
    cases i with
    | zero => rw [Map.setRun, Map.get_setRun_outside _ _ _ _ _ (by omega)]; simp
    | succ i =>
      have e : k + (i + 1) = k + 1 + i := by omega
      rw [Map.setRun, e, ih _ _ _ (by simpa using h)]
      simp
end

/-! ### The canonical form -/

theorem Map.mem_erase {m : Map α} {k : Nat} {e : Nat × α} (h : e ∈ Map.erase m k) : e ∈ m ∧ e.1 ≠ k := by
  induction m with
  | nil => simp [Map.erase] at h
  | cons a t ih =>
    simp only [Map.erase] at h
    split at h
    · exact ⟨List.mem_cons_of_mem _ (ih h).1, (ih h).2⟩
    · next hne =>
      rcases List.mem_cons.mp h with rfl | h
      · exact ⟨List.mem_cons_self, hne⟩
      · exact ⟨List.mem_cons_of_mem _ (ih h).1, (ih h).2⟩

theorem Map.sorted_erase {m : Map α} (k : Nat) (h : Map.sorted m) : Map.sorted (Map.erase m k) := by
  induction m with
  | nil => simp [Map.erase]
  | cons a t ih =>
    obtain ⟨ha, ht⟩ := List.pairwise_cons.mp h
    simp only [Map.erase]
    split
    · exact ih ht
    · exact List.pairwise_cons.mpr ⟨fun e he => ha e (Map.mem_erase he).1, ih ht⟩

theorem Map.mem_insert {m : Map α} {k : Nat} {v : α} {e : Nat × α} (h : e ∈ Map.insert m k v) : e = (k, v) ∨ e ∈ m := by
  induction m with
  | nil => simpa [Map.insert] using h
  | cons a t ih =>
    simp only [Map.insert] at h
    split at h
    · simpa using h
    · rcases List.mem_cons.mp h with rfl | h
      · exact .inr List.mem_cons_self
      · exact (ih h).imp id (List.mem_cons_of_mem _)

theorem Map.sorted_insert {m : Map α} {k : Nat} (v : α) (h : Map.sorted m) (hk : ∀ e ∈ m, e.1 ≠ k) :
    Map.sorted (Map.insert m k v) := by
  induction m with
  | nil => simp [Map.insert, Map.sorted]
  | cons a t ih =>
    obtain ⟨ha, ht⟩ := List.pairwise_cons.mp h
    simp only [Map.insert]
    split
    · next hlt =>
      refine List.pairwise_cons.mpr ⟨fun e he => ?_, h⟩
      rcases List.mem_cons.mp he with rfl | he
      · exact hlt
      · exact Nat.lt_trans hlt (ha e he)
    · next hge =>
      refine List.pairwise_cons.mpr ⟨fun e he => ?_, ih ht fun e he => hk e (List.mem_cons_of_mem _ he)⟩
      rcases Map.mem_insert he with rfl | he
      · have := hk a List.mem_cons_self
        show a.1 < k
        omega
      · exact ha e he

theorem Map.sorted_put {m : Map α} (k : Nat) (v : α) (h : Map.sorted m) : Map.sorted (Map.put m k v) :=
  Map.sorted_insert v (Map.sorted_erase k h) fun _ he => (Map.mem_erase he).2

theorem Map.canonical_nil (d : Nat → α) : Map.canonical d ([] : Map α) := by simp [Map.canonical, Map.sorted]

theorem Map.canonical_filter {d : Nat → α} {m : Map α} (p : Nat × α → Bool) (h : Map.canonical d m) :
    Map.canonical d (m.filter p) :=
  ⟨h.1.filter _, fun e he => h.2 e (List.mem_filter.mp he).1⟩

theorem Map.canonical_clear {d : Nat → α} {m : Map α} (lo hi : Nat) (h : Map.canonical d m) :
    Map.canonical d (Map.clear m lo hi) := Map.canonical_filter _ h

section
variable [DecidableEq α]

theorem Map.canonical_set {d : Nat → α} {m : Map α} (k : Nat) (v : α) (h : Map.canonical d m) :
    Map.canonical d (Map.set d m k v) := by
  unfold Map.set
  split
  · exact ⟨Map.sorted_erase k h.1, fun e he => h.2 e (Map.mem_erase he).1⟩
  · next hv =>
    refine ⟨Map.sorted_put k v h.1, fun e he => ?_⟩
    rcases Map.mem_insert he with rfl | he
    · exact hv
    · exact h.2 e (Map.mem_erase he).1

theorem Map.canonical_setRun {d : Nat → α} (vs : List α) :
    ∀ {m : Map α} (k : Nat), Map.canonical d m → Map.canonical d (Map.setRun d m k vs) := by
  induction vs with
  | nil => intro m k h; exact h
  | cons v t ih => intro m k h; exact ih (k + 1) (Map.canonical_set k v h)
end

end Sys2Proof
end

