-- ==== Sys2Proof/Laws/State.lean ====
section
/-!
SUPPORT. What each update of the state leaves in each field of it.
-/
namespace Sys2Proof.Machine

/-! `tick` -/

@[simp] theorem tick_pending (s : State) : s.tick.pending = s.pending := rfl
@[simp] theorem tick_fresh (s : State) : s.tick.fresh = s.fresh + 1 := rfl
@[simp] theorem tick_sent (s : State) : s.tick.sent = s.sent := rfl
@[simp] theorem tick_regs (s : State) : s.tick.regs = s.regs := rfl
@[simp] theorem tick_live (s : State) : s.tick.live = s.live := rfl
@[simp] theorem tick_mem (s : State) : s.tick.mem = s.mem := rfl
@[simp] theorem tick_sync (s : State) : s.tick.sync = s.sync := rfl
@[simp] theorem tick_cores (s : State) : s.tick.cores = s.cores := rfl
@[simp] theorem tick_disp (s : State) : s.tick.disp = s.disp := rfl
@[simp] theorem tick_fab (s : State) : s.tick.fab = s.fab := rfl
@[simp] theorem tick_eth (s : State) : s.tick.eth = s.eth := rfl
@[simp] theorem tick_flt (s : State) : s.tick.flt = s.flt := rfl
@[simp] theorem tick_mram (s : State) : s.tick.mram = s.mram := rfl
@[simp] theorem tick_sec (s : State) : s.tick.sec = s.sec := rfl
@[simp] theorem tick_mod (s : State) : s.tick.mod = s.mod := rfl
@[simp] theorem tick_dbg (s : State) : s.tick.dbg = s.dbg := rfl

/-! `send` -/

@[simp] theorem send_pending (s : State) (m : Sent) : (send s m).pending = s.pending := rfl
@[simp] theorem send_fresh (s : State) (m : Sent) : (send s m).fresh = s.fresh := rfl
@[simp] theorem send_sent (s : State) (m : Sent) : (send s m).sent = m :: s.sent := rfl
@[simp] theorem send_regs (s : State) (m : Sent) : (send s m).regs = s.regs := rfl
@[simp] theorem send_live (s : State) (m : Sent) : (send s m).live = s.live := rfl
@[simp] theorem send_mem (s : State) (m : Sent) : (send s m).mem = s.mem := rfl
@[simp] theorem send_sync (s : State) (m : Sent) : (send s m).sync = s.sync := rfl
@[simp] theorem send_cores (s : State) (m : Sent) : (send s m).cores = s.cores := rfl
@[simp] theorem send_disp (s : State) (m : Sent) : (send s m).disp = s.disp := rfl
@[simp] theorem send_fab (s : State) (m : Sent) : (send s m).fab = s.fab := rfl
@[simp] theorem send_eth (s : State) (m : Sent) : (send s m).eth = s.eth := rfl
@[simp] theorem send_flt (s : State) (m : Sent) : (send s m).flt = s.flt := rfl
@[simp] theorem send_mram (s : State) (m : Sent) : (send s m).mram = s.mram := rfl
@[simp] theorem send_sec (s : State) (m : Sent) : (send s m).sec = s.sec := rfl
@[simp] theorem send_mod (s : State) (m : Sent) : (send s m).mod = s.mod := rfl
@[simp] theorem send_dbg (s : State) (m : Sent) : (send s m).dbg = s.dbg := rfl

/-! `setCore` -/

@[simp] theorem setCore_pending (s : State) (c : Nat) (k : Core) : (setCore s c k).pending = s.pending := rfl
@[simp] theorem setCore_fresh (s : State) (c : Nat) (k : Core) : (setCore s c k).fresh = s.fresh := rfl
@[simp] theorem setCore_sent (s : State) (c : Nat) (k : Core) : (setCore s c k).sent = s.sent := rfl
@[simp] theorem setCore_regs (s : State) (c : Nat) (k : Core) : (setCore s c k).regs = s.regs := rfl
@[simp] theorem setCore_live (s : State) (c : Nat) (k : Core) : (setCore s c k).live = s.live := rfl
@[simp] theorem setCore_mem (s : State) (c : Nat) (k : Core) : (setCore s c k).mem = s.mem := rfl
@[simp] theorem setCore_sync (s : State) (c : Nat) (k : Core) : (setCore s c k).sync = s.sync := rfl
@[simp] theorem setCore_cores (s : State) (c : Nat) (k : Core) : (setCore s c k).cores = Map.put s.cores c k := rfl
@[simp] theorem setCore_disp (s : State) (c : Nat) (k : Core) : (setCore s c k).disp = s.disp := rfl
@[simp] theorem setCore_fab (s : State) (c : Nat) (k : Core) : (setCore s c k).fab = s.fab := rfl
@[simp] theorem setCore_eth (s : State) (c : Nat) (k : Core) : (setCore s c k).eth = s.eth := rfl
@[simp] theorem setCore_flt (s : State) (c : Nat) (k : Core) : (setCore s c k).flt = s.flt := rfl
@[simp] theorem setCore_mram (s : State) (c : Nat) (k : Core) : (setCore s c k).mram = s.mram := rfl
@[simp] theorem setCore_sec (s : State) (c : Nat) (k : Core) : (setCore s c k).sec = s.sec := rfl
@[simp] theorem setCore_mod (s : State) (c : Nat) (k : Core) : (setCore s c k).mod = s.mod := rfl
@[simp] theorem setCore_dbg (s : State) (c : Nat) (k : Core) : (setCore s c k).dbg = s.dbg := rfl

/-! `updCore` -/

@[simp] theorem updCore_pending (s : State) (c : Nat) (f : Core → Core) : (updCore s c f).pending = s.pending := rfl
@[simp] theorem updCore_fresh (s : State) (c : Nat) (f : Core → Core) : (updCore s c f).fresh = s.fresh := rfl
@[simp] theorem updCore_sent (s : State) (c : Nat) (f : Core → Core) : (updCore s c f).sent = s.sent := rfl
@[simp] theorem updCore_regs (s : State) (c : Nat) (f : Core → Core) : (updCore s c f).regs = s.regs := rfl
@[simp] theorem updCore_live (s : State) (c : Nat) (f : Core → Core) : (updCore s c f).live = s.live := rfl
@[simp] theorem updCore_mem (s : State) (c : Nat) (f : Core → Core) : (updCore s c f).mem = s.mem := rfl
@[simp] theorem updCore_sync (s : State) (c : Nat) (f : Core → Core) : (updCore s c f).sync = s.sync := rfl
@[simp] theorem updCore_cores (s : State) (c : Nat) (f : Core → Core) : (updCore s c f).cores = Map.put s.cores c (f (coreOf s c)) := rfl
@[simp] theorem updCore_disp (s : State) (c : Nat) (f : Core → Core) : (updCore s c f).disp = s.disp := rfl
@[simp] theorem updCore_fab (s : State) (c : Nat) (f : Core → Core) : (updCore s c f).fab = s.fab := rfl
@[simp] theorem updCore_eth (s : State) (c : Nat) (f : Core → Core) : (updCore s c f).eth = s.eth := rfl
@[simp] theorem updCore_flt (s : State) (c : Nat) (f : Core → Core) : (updCore s c f).flt = s.flt := rfl
@[simp] theorem updCore_mram (s : State) (c : Nat) (f : Core → Core) : (updCore s c f).mram = s.mram := rfl
@[simp] theorem updCore_sec (s : State) (c : Nat) (f : Core → Core) : (updCore s c f).sec = s.sec := rfl
@[simp] theorem updCore_mod (s : State) (c : Nat) (f : Core → Core) : (updCore s c f).mod = s.mod := rfl
@[simp] theorem updCore_dbg (s : State) (c : Nat) (f : Core → Core) : (updCore s c f).dbg = s.dbg := rfl

/-! `updQueue` -/

@[simp] theorem updQueue_pending (s : State) (q : Nat) (f : Queue → Queue) : (updQueue s q f).pending = s.pending := rfl
@[simp] theorem updQueue_fresh (s : State) (q : Nat) (f : Queue → Queue) : (updQueue s q f).fresh = s.fresh := rfl
@[simp] theorem updQueue_sent (s : State) (q : Nat) (f : Queue → Queue) : (updQueue s q f).sent = s.sent := rfl
@[simp] theorem updQueue_regs (s : State) (q : Nat) (f : Queue → Queue) : (updQueue s q f).regs = s.regs := rfl
@[simp] theorem updQueue_live (s : State) (q : Nat) (f : Queue → Queue) : (updQueue s q f).live = s.live := rfl
@[simp] theorem updQueue_mem (s : State) (q : Nat) (f : Queue → Queue) : (updQueue s q f).mem = s.mem := rfl
@[simp] theorem updQueue_sync (s : State) (q : Nat) (f : Queue → Queue) : (updQueue s q f).sync = s.sync := rfl
@[simp] theorem updQueue_cores (s : State) (q : Nat) (f : Queue → Queue) : (updQueue s q f).cores = s.cores := rfl
@[simp] theorem updQueue_disp (s : State) (q : Nat) (f : Queue → Queue) : (updQueue s q f).disp = { s.disp with queues := Map.put s.disp.queues q (f (queueOf s q)) } := rfl
@[simp] theorem updQueue_fab (s : State) (q : Nat) (f : Queue → Queue) : (updQueue s q f).fab = s.fab := rfl
@[simp] theorem updQueue_eth (s : State) (q : Nat) (f : Queue → Queue) : (updQueue s q f).eth = s.eth := rfl
@[simp] theorem updQueue_flt (s : State) (q : Nat) (f : Queue → Queue) : (updQueue s q f).flt = s.flt := rfl
@[simp] theorem updQueue_mram (s : State) (q : Nat) (f : Queue → Queue) : (updQueue s q f).mram = s.mram := rfl
@[simp] theorem updQueue_sec (s : State) (q : Nat) (f : Queue → Queue) : (updQueue s q f).sec = s.sec := rfl
@[simp] theorem updQueue_mod (s : State) (q : Nat) (f : Queue → Queue) : (updQueue s q f).mod = s.mod := rfl
@[simp] theorem updQueue_dbg (s : State) (q : Nat) (f : Queue → Queue) : (updQueue s q f).dbg = s.dbg := rfl

/-! `payQueue` -/

@[simp] theorem payQueue_pending (s : State) (q n : Nat) : (payQueue s q n).pending = s.pending := rfl
@[simp] theorem payQueue_fresh (s : State) (q n : Nat) : (payQueue s q n).fresh = s.fresh := rfl
@[simp] theorem payQueue_sent (s : State) (q n : Nat) : (payQueue s q n).sent = s.sent := rfl
@[simp] theorem payQueue_regs (s : State) (q n : Nat) : (payQueue s q n).regs = s.regs := rfl
@[simp] theorem payQueue_live (s : State) (q n : Nat) : (payQueue s q n).live = s.live := rfl
@[simp] theorem payQueue_mem (s : State) (q n : Nat) : (payQueue s q n).mem = s.mem := rfl
@[simp] theorem payQueue_sync (s : State) (q n : Nat) : (payQueue s q n).sync = s.sync := rfl
@[simp] theorem payQueue_cores (s : State) (q n : Nat) : (payQueue s q n).cores = s.cores := rfl
@[simp] theorem payQueue_disp (s : State) (q n : Nat) : (payQueue s q n).disp = { s.disp with queues := Map.put s.disp.queues q { queueOf s q with deficit := clampDeficit ((queueOf s q).deficit - n) } } := rfl
@[simp] theorem payQueue_fab (s : State) (q n : Nat) : (payQueue s q n).fab = s.fab := rfl
@[simp] theorem payQueue_eth (s : State) (q n : Nat) : (payQueue s q n).eth = s.eth := rfl
@[simp] theorem payQueue_flt (s : State) (q n : Nat) : (payQueue s q n).flt = s.flt := rfl
@[simp] theorem payQueue_mram (s : State) (q n : Nat) : (payQueue s q n).mram = s.mram := rfl
@[simp] theorem payQueue_sec (s : State) (q n : Nat) : (payQueue s q n).sec = s.sec := rfl
@[simp] theorem payQueue_mod (s : State) (q n : Nat) : (payQueue s q n).mod = s.mod := rfl
@[simp] theorem payQueue_dbg (s : State) (q n : Nat) : (payQueue s q n).dbg = s.dbg := rfl

/-! `setCmd` -/

@[simp] theorem setCmd_pending (s : State) (k : Nat) (c : Cmd) : (setCmd s k c).pending = s.pending := rfl
@[simp] theorem setCmd_fresh (s : State) (k : Nat) (c : Cmd) : (setCmd s k c).fresh = s.fresh := rfl
@[simp] theorem setCmd_sent (s : State) (k : Nat) (c : Cmd) : (setCmd s k c).sent = s.sent := rfl
@[simp] theorem setCmd_regs (s : State) (k : Nat) (c : Cmd) : (setCmd s k c).regs = s.regs := rfl
@[simp] theorem setCmd_live (s : State) (k : Nat) (c : Cmd) : (setCmd s k c).live = s.live := rfl
@[simp] theorem setCmd_mem (s : State) (k : Nat) (c : Cmd) : (setCmd s k c).mem = s.mem := rfl
@[simp] theorem setCmd_sync (s : State) (k : Nat) (c : Cmd) : (setCmd s k c).sync = s.sync := rfl
@[simp] theorem setCmd_cores (s : State) (k : Nat) (c : Cmd) : (setCmd s k c).cores = s.cores := rfl
@[simp] theorem setCmd_disp (s : State) (k : Nat) (c : Cmd) : (setCmd s k c).disp = { s.disp with slots := Map.put s.disp.slots k c } := rfl
@[simp] theorem setCmd_fab (s : State) (k : Nat) (c : Cmd) : (setCmd s k c).fab = s.fab := rfl
@[simp] theorem setCmd_eth (s : State) (k : Nat) (c : Cmd) : (setCmd s k c).eth = s.eth := rfl
@[simp] theorem setCmd_flt (s : State) (k : Nat) (c : Cmd) : (setCmd s k c).flt = s.flt := rfl
@[simp] theorem setCmd_mram (s : State) (k : Nat) (c : Cmd) : (setCmd s k c).mram = s.mram := rfl
@[simp] theorem setCmd_sec (s : State) (k : Nat) (c : Cmd) : (setCmd s k c).sec = s.sec := rfl
@[simp] theorem setCmd_mod (s : State) (k : Nat) (c : Cmd) : (setCmd s k c).mod = s.mod := rfl
@[simp] theorem setCmd_dbg (s : State) (k : Nat) (c : Cmd) : (setCmd s k c).dbg = s.dbg := rfl

/-! `freeSlot` -/

@[simp] theorem freeSlot_pending (s : State) (k : Nat) : (freeSlot s k).pending = s.pending := rfl
@[simp] theorem freeSlot_fresh (s : State) (k : Nat) : (freeSlot s k).fresh = s.fresh := rfl
@[simp] theorem freeSlot_sent (s : State) (k : Nat) : (freeSlot s k).sent = s.sent := rfl
@[simp] theorem freeSlot_regs (s : State) (k : Nat) : (freeSlot s k).regs = s.regs := rfl
@[simp] theorem freeSlot_live (s : State) (k : Nat) : (freeSlot s k).live = s.live := rfl
@[simp] theorem freeSlot_mem (s : State) (k : Nat) : (freeSlot s k).mem = s.mem := rfl
@[simp] theorem freeSlot_sync (s : State) (k : Nat) : (freeSlot s k).sync = s.sync := rfl
@[simp] theorem freeSlot_cores (s : State) (k : Nat) : (freeSlot s k).cores = s.cores := rfl
@[simp] theorem freeSlot_disp (s : State) (k : Nat) : (freeSlot s k).disp = { s.disp with slots := Map.erase s.disp.slots k } := rfl
@[simp] theorem freeSlot_fab (s : State) (k : Nat) : (freeSlot s k).fab = s.fab := rfl
@[simp] theorem freeSlot_eth (s : State) (k : Nat) : (freeSlot s k).eth = s.eth := rfl
@[simp] theorem freeSlot_flt (s : State) (k : Nat) : (freeSlot s k).flt = s.flt := rfl
@[simp] theorem freeSlot_mram (s : State) (k : Nat) : (freeSlot s k).mram = s.mram := rfl
@[simp] theorem freeSlot_sec (s : State) (k : Nat) : (freeSlot s k).sec = s.sec := rfl
@[simp] theorem freeSlot_mod (s : State) (k : Nat) : (freeSlot s k).mod = s.mod := rfl
@[simp] theorem freeSlot_dbg (s : State) (k : Nat) : (freeSlot s k).dbg = s.dbg := rfl

/-! `setCommit` -/

@[simp] theorem setCommit_pending (s : State) (m : Option Commit) : (setCommit s m).pending = s.pending := rfl
@[simp] theorem setCommit_fresh (s : State) (m : Option Commit) : (setCommit s m).fresh = s.fresh := rfl
@[simp] theorem setCommit_sent (s : State) (m : Option Commit) : (setCommit s m).sent = s.sent := rfl
@[simp] theorem setCommit_regs (s : State) (m : Option Commit) : (setCommit s m).regs = s.regs := rfl
@[simp] theorem setCommit_live (s : State) (m : Option Commit) : (setCommit s m).live = s.live := rfl
@[simp] theorem setCommit_mem (s : State) (m : Option Commit) : (setCommit s m).mem = s.mem := rfl
@[simp] theorem setCommit_sync (s : State) (m : Option Commit) : (setCommit s m).sync = s.sync := rfl
@[simp] theorem setCommit_cores (s : State) (m : Option Commit) : (setCommit s m).cores = s.cores := rfl
@[simp] theorem setCommit_disp (s : State) (m : Option Commit) : (setCommit s m).disp = { s.disp with current := m } := rfl
@[simp] theorem setCommit_fab (s : State) (m : Option Commit) : (setCommit s m).fab = s.fab := rfl
@[simp] theorem setCommit_eth (s : State) (m : Option Commit) : (setCommit s m).eth = s.eth := rfl
@[simp] theorem setCommit_flt (s : State) (m : Option Commit) : (setCommit s m).flt = s.flt := rfl
@[simp] theorem setCommit_mram (s : State) (m : Option Commit) : (setCommit s m).mram = s.mram := rfl
@[simp] theorem setCommit_sec (s : State) (m : Option Commit) : (setCommit s m).sec = s.sec := rfl
@[simp] theorem setCommit_mod (s : State) (m : Option Commit) : (setCommit s m).mod = s.mod := rfl
@[simp] theorem setCommit_dbg (s : State) (m : Option Commit) : (setCommit s m).dbg = s.dbg := rfl

/-! `waitHost` -/

@[simp] theorem waitHost_pending (s : State) (w : WaitWrite) : (waitHost s w).pending = s.pending := rfl
@[simp] theorem waitHost_fresh (s : State) (w : WaitWrite) : (waitHost s w).fresh = s.fresh := rfl
@[simp] theorem waitHost_sent (s : State) (w : WaitWrite) : (waitHost s w).sent = s.sent := rfl
@[simp] theorem waitHost_regs (s : State) (w : WaitWrite) : (waitHost s w).regs = s.regs := rfl
@[simp] theorem waitHost_live (s : State) (w : WaitWrite) : (waitHost s w).live = s.live := rfl
@[simp] theorem waitHost_mem (s : State) (w : WaitWrite) : (waitHost s w).mem = s.mem := rfl
@[simp] theorem waitHost_sync (s : State) (w : WaitWrite) : (waitHost s w).sync = s.sync := rfl
@[simp] theorem waitHost_cores (s : State) (w : WaitWrite) : (waitHost s w).cores = s.cores := rfl
@[simp] theorem waitHost_disp (s : State) (w : WaitWrite) : (waitHost s w).disp = { s.disp with waiting := s.disp.waiting ++ [w] } := rfl
@[simp] theorem waitHost_fab (s : State) (w : WaitWrite) : (waitHost s w).fab = s.fab := rfl
@[simp] theorem waitHost_eth (s : State) (w : WaitWrite) : (waitHost s w).eth = s.eth := rfl
@[simp] theorem waitHost_flt (s : State) (w : WaitWrite) : (waitHost s w).flt = s.flt := rfl
@[simp] theorem waitHost_mram (s : State) (w : WaitWrite) : (waitHost s w).mram = s.mram := rfl
@[simp] theorem waitHost_sec (s : State) (w : WaitWrite) : (waitHost s w).sec = s.sec := rfl
@[simp] theorem waitHost_mod (s : State) (w : WaitWrite) : (waitHost s w).mod = s.mod := rfl
@[simp] theorem waitHost_dbg (s : State) (w : WaitWrite) : (waitHost s w).dbg = s.dbg := rfl

/-! `nextCommit` -/

@[simp] theorem nextCommit_pending (s : State) : (nextCommit s).pending = s.pending := rfl
@[simp] theorem nextCommit_fresh (s : State) : (nextCommit s).fresh = s.fresh := rfl
@[simp] theorem nextCommit_sent (s : State) : (nextCommit s).sent = s.sent := rfl
@[simp] theorem nextCommit_regs (s : State) : (nextCommit s).regs = s.regs := rfl
@[simp] theorem nextCommit_live (s : State) : (nextCommit s).live = s.live := rfl
@[simp] theorem nextCommit_mem (s : State) : (nextCommit s).mem = s.mem := rfl
@[simp] theorem nextCommit_sync (s : State) : (nextCommit s).sync = s.sync := rfl
@[simp] theorem nextCommit_cores (s : State) : (nextCommit s).cores = s.cores := rfl
@[simp] theorem nextCommit_disp (s : State) : (nextCommit s).disp = { s.disp with lastNo := s.disp.lastNo + 1 } := rfl
@[simp] theorem nextCommit_fab (s : State) : (nextCommit s).fab = s.fab := rfl
@[simp] theorem nextCommit_eth (s : State) : (nextCommit s).eth = s.eth := rfl
@[simp] theorem nextCommit_flt (s : State) : (nextCommit s).flt = s.flt := rfl
@[simp] theorem nextCommit_mram (s : State) : (nextCommit s).mram = s.mram := rfl
@[simp] theorem nextCommit_sec (s : State) : (nextCommit s).sec = s.sec := rfl
@[simp] theorem nextCommit_mod (s : State) : (nextCommit s).mod = s.mod := rfl
@[simp] theorem nextCommit_dbg (s : State) : (nextCommit s).dbg = s.dbg := rfl

/-! `updLink` -/

@[simp] theorem updLink_pending (s : State) (l : Nat) (f : Link → Link) : (updLink s l f).pending = s.pending := rfl
@[simp] theorem updLink_fresh (s : State) (l : Nat) (f : Link → Link) : (updLink s l f).fresh = s.fresh := rfl
@[simp] theorem updLink_sent (s : State) (l : Nat) (f : Link → Link) : (updLink s l f).sent = s.sent := rfl
@[simp] theorem updLink_regs (s : State) (l : Nat) (f : Link → Link) : (updLink s l f).regs = s.regs := rfl
@[simp] theorem updLink_live (s : State) (l : Nat) (f : Link → Link) : (updLink s l f).live = s.live := rfl
@[simp] theorem updLink_mem (s : State) (l : Nat) (f : Link → Link) : (updLink s l f).mem = s.mem := rfl
@[simp] theorem updLink_sync (s : State) (l : Nat) (f : Link → Link) : (updLink s l f).sync = s.sync := rfl
@[simp] theorem updLink_cores (s : State) (l : Nat) (f : Link → Link) : (updLink s l f).cores = s.cores := rfl
@[simp] theorem updLink_disp (s : State) (l : Nat) (f : Link → Link) : (updLink s l f).disp = s.disp := rfl
@[simp] theorem updLink_fab (s : State) (l : Nat) (f : Link → Link) : (updLink s l f).fab = { s.fab with links := Map.put s.fab.links l (f (linkOf s l)) } := rfl
@[simp] theorem updLink_eth (s : State) (l : Nat) (f : Link → Link) : (updLink s l f).eth = s.eth := rfl
@[simp] theorem updLink_flt (s : State) (l : Nat) (f : Link → Link) : (updLink s l f).flt = s.flt := rfl
@[simp] theorem updLink_mram (s : State) (l : Nat) (f : Link → Link) : (updLink s l f).mram = s.mram := rfl
@[simp] theorem updLink_sec (s : State) (l : Nat) (f : Link → Link) : (updLink s l f).sec = s.sec := rfl
@[simp] theorem updLink_mod (s : State) (l : Nat) (f : Link → Link) : (updLink s l f).mod = s.mod := rfl
@[simp] theorem updLink_dbg (s : State) (l : Nat) (f : Link → Link) : (updLink s l f).dbg = s.dbg := rfl

/-! `holdReq` -/

@[simp] theorem holdReq_pending (s : State) (m : Msg) : (holdReq s m).pending = s.pending := rfl
@[simp] theorem holdReq_fresh (s : State) (m : Msg) : (holdReq s m).fresh = s.fresh := rfl
@[simp] theorem holdReq_sent (s : State) (m : Msg) : (holdReq s m).sent = s.sent := rfl
@[simp] theorem holdReq_regs (s : State) (m : Msg) : (holdReq s m).regs = s.regs := rfl
@[simp] theorem holdReq_live (s : State) (m : Msg) : (holdReq s m).live = s.live := rfl
@[simp] theorem holdReq_mem (s : State) (m : Msg) : (holdReq s m).mem = s.mem := rfl
@[simp] theorem holdReq_sync (s : State) (m : Msg) : (holdReq s m).sync = s.sync := rfl
@[simp] theorem holdReq_cores (s : State) (m : Msg) : (holdReq s m).cores = s.cores := rfl
@[simp] theorem holdReq_disp (s : State) (m : Msg) : (holdReq s m).disp = s.disp := rfl
@[simp] theorem holdReq_fab (s : State) (m : Msg) : (holdReq s m).fab = { s.fab with heldReqs := s.fab.heldReqs ++ [m] } := rfl
@[simp] theorem holdReq_eth (s : State) (m : Msg) : (holdReq s m).eth = s.eth := rfl
@[simp] theorem holdReq_flt (s : State) (m : Msg) : (holdReq s m).flt = s.flt := rfl
@[simp] theorem holdReq_mram (s : State) (m : Msg) : (holdReq s m).mram = s.mram := rfl
@[simp] theorem holdReq_sec (s : State) (m : Msg) : (holdReq s m).sec = s.sec := rfl
@[simp] theorem holdReq_mod (s : State) (m : Msg) : (holdReq s m).mod = s.mod := rfl
@[simp] theorem holdReq_dbg (s : State) (m : Msg) : (holdReq s m).dbg = s.dbg := rfl

/-! `dropGiven` -/

@[simp] theorem dropGiven_pending (s : State) (m : Msg) : (dropGiven s m).pending = s.pending := rfl
@[simp] theorem dropGiven_fresh (s : State) (m : Msg) : (dropGiven s m).fresh = s.fresh := rfl
@[simp] theorem dropGiven_sent (s : State) (m : Msg) : (dropGiven s m).sent = s.sent := rfl
@[simp] theorem dropGiven_regs (s : State) (m : Msg) : (dropGiven s m).regs = s.regs := rfl
@[simp] theorem dropGiven_live (s : State) (m : Msg) : (dropGiven s m).live = s.live := rfl
@[simp] theorem dropGiven_mem (s : State) (m : Msg) : (dropGiven s m).mem = s.mem := rfl
@[simp] theorem dropGiven_sync (s : State) (m : Msg) : (dropGiven s m).sync = s.sync := rfl
@[simp] theorem dropGiven_cores (s : State) (m : Msg) : (dropGiven s m).cores = s.cores := rfl
@[simp] theorem dropGiven_disp (s : State) (m : Msg) : (dropGiven s m).disp = s.disp := rfl
@[simp] theorem dropGiven_fab (s : State) (m : Msg) : (dropGiven s m).fab = { s.fab with given := dropFirst (fun g => g.chip = m.src && g.addr = m.addr) s.fab.given } := rfl
@[simp] theorem dropGiven_eth (s : State) (m : Msg) : (dropGiven s m).eth = s.eth := rfl
@[simp] theorem dropGiven_flt (s : State) (m : Msg) : (dropGiven s m).flt = s.flt := rfl
@[simp] theorem dropGiven_mram (s : State) (m : Msg) : (dropGiven s m).mram = s.mram := rfl
@[simp] theorem dropGiven_sec (s : State) (m : Msg) : (dropGiven s m).sec = s.sec := rfl
@[simp] theorem dropGiven_mod (s : State) (m : Msg) : (dropGiven s m).mod = s.mod := rfl
@[simp] theorem dropGiven_dbg (s : State) (m : Msg) : (dropGiven s m).dbg = s.dbg := rfl

/-! `dropTransfer` -/

@[simp] theorem dropTransfer_pending (s : State) (t : Transfer) : (dropTransfer s t).pending = s.pending := rfl
@[simp] theorem dropTransfer_fresh (s : State) (t : Transfer) : (dropTransfer s t).fresh = s.fresh := rfl
@[simp] theorem dropTransfer_sent (s : State) (t : Transfer) : (dropTransfer s t).sent = s.sent := rfl
@[simp] theorem dropTransfer_regs (s : State) (t : Transfer) : (dropTransfer s t).regs = s.regs := rfl
@[simp] theorem dropTransfer_live (s : State) (t : Transfer) : (dropTransfer s t).live = s.live := rfl
@[simp] theorem dropTransfer_mem (s : State) (t : Transfer) : (dropTransfer s t).mem = s.mem := rfl
@[simp] theorem dropTransfer_sync (s : State) (t : Transfer) : (dropTransfer s t).sync = s.sync := rfl
@[simp] theorem dropTransfer_cores (s : State) (t : Transfer) : (dropTransfer s t).cores = s.cores := rfl
@[simp] theorem dropTransfer_disp (s : State) (t : Transfer) : (dropTransfer s t).disp = s.disp := rfl
@[simp] theorem dropTransfer_fab (s : State) (t : Transfer) : (dropTransfer s t).fab = { s.fab with transfers := dropFirst (· = t) s.fab.transfers } := rfl
@[simp] theorem dropTransfer_eth (s : State) (t : Transfer) : (dropTransfer s t).eth = s.eth := rfl
@[simp] theorem dropTransfer_flt (s : State) (t : Transfer) : (dropTransfer s t).flt = s.flt := rfl
@[simp] theorem dropTransfer_mram (s : State) (t : Transfer) : (dropTransfer s t).mram = s.mram := rfl
@[simp] theorem dropTransfer_sec (s : State) (t : Transfer) : (dropTransfer s t).sec = s.sec := rfl
@[simp] theorem dropTransfer_mod (s : State) (t : Transfer) : (dropTransfer s t).mod = s.mod := rfl
@[simp] theorem dropTransfer_dbg (s : State) (t : Transfer) : (dropTransfer s t).dbg = s.dbg := rfl

/-! `updInst` -/

@[simp] theorem updInst_pending (s : State) (k : Nat) (f : Inst → Inst) : (updInst s k f).pending = s.pending := rfl
@[simp] theorem updInst_fresh (s : State) (k : Nat) (f : Inst → Inst) : (updInst s k f).fresh = s.fresh := rfl
@[simp] theorem updInst_sent (s : State) (k : Nat) (f : Inst → Inst) : (updInst s k f).sent = s.sent := rfl
@[simp] theorem updInst_regs (s : State) (k : Nat) (f : Inst → Inst) : (updInst s k f).regs = s.regs := rfl
@[simp] theorem updInst_live (s : State) (k : Nat) (f : Inst → Inst) : (updInst s k f).live = s.live := rfl
@[simp] theorem updInst_mem (s : State) (k : Nat) (f : Inst → Inst) : (updInst s k f).mem = s.mem := rfl
@[simp] theorem updInst_sync (s : State) (k : Nat) (f : Inst → Inst) : (updInst s k f).sync = s.sync := rfl
@[simp] theorem updInst_cores (s : State) (k : Nat) (f : Inst → Inst) : (updInst s k f).cores = s.cores := rfl
@[simp] theorem updInst_disp (s : State) (k : Nat) (f : Inst → Inst) : (updInst s k f).disp = s.disp := rfl
@[simp] theorem updInst_fab (s : State) (k : Nat) (f : Inst → Inst) : (updInst s k f).fab = { s.fab with insts := mapIf (fun i => i.slot = k) f s.fab.insts } := rfl
@[simp] theorem updInst_eth (s : State) (k : Nat) (f : Inst → Inst) : (updInst s k f).eth = s.eth := rfl
@[simp] theorem updInst_flt (s : State) (k : Nat) (f : Inst → Inst) : (updInst s k f).flt = s.flt := rfl
@[simp] theorem updInst_mram (s : State) (k : Nat) (f : Inst → Inst) : (updInst s k f).mram = s.mram := rfl
@[simp] theorem updInst_sec (s : State) (k : Nat) (f : Inst → Inst) : (updInst s k f).sec = s.sec := rfl
@[simp] theorem updInst_mod (s : State) (k : Nat) (f : Inst → Inst) : (updInst s k f).mod = s.mod := rfl
@[simp] theorem updInst_dbg (s : State) (k : Nat) (f : Inst → Inst) : (updInst s k f).dbg = s.dbg := rfl

/-! `setGroup` -/

@[simp] theorem setGroup_pending (s : State) (g : Nat) (x : Group) : (setGroup s g x).pending = s.pending := rfl
@[simp] theorem setGroup_fresh (s : State) (g : Nat) (x : Group) : (setGroup s g x).fresh = s.fresh := rfl
@[simp] theorem setGroup_sent (s : State) (g : Nat) (x : Group) : (setGroup s g x).sent = s.sent := rfl
@[simp] theorem setGroup_regs (s : State) (g : Nat) (x : Group) : (setGroup s g x).regs = s.regs := rfl
@[simp] theorem setGroup_live (s : State) (g : Nat) (x : Group) : (setGroup s g x).live = s.live := rfl
@[simp] theorem setGroup_mem (s : State) (g : Nat) (x : Group) : (setGroup s g x).mem = s.mem := rfl
@[simp] theorem setGroup_sync (s : State) (g : Nat) (x : Group) : (setGroup s g x).sync = s.sync := rfl
@[simp] theorem setGroup_cores (s : State) (g : Nat) (x : Group) : (setGroup s g x).cores = s.cores := rfl
@[simp] theorem setGroup_disp (s : State) (g : Nat) (x : Group) : (setGroup s g x).disp = s.disp := rfl
@[simp] theorem setGroup_fab (s : State) (g : Nat) (x : Group) : (setGroup s g x).fab = { s.fab with groups := Map.put s.fab.groups g x } := rfl
@[simp] theorem setGroup_eth (s : State) (g : Nat) (x : Group) : (setGroup s g x).eth = s.eth := rfl
@[simp] theorem setGroup_flt (s : State) (g : Nat) (x : Group) : (setGroup s g x).flt = s.flt := rfl
@[simp] theorem setGroup_mram (s : State) (g : Nat) (x : Group) : (setGroup s g x).mram = s.mram := rfl
@[simp] theorem setGroup_sec (s : State) (g : Nat) (x : Group) : (setGroup s g x).sec = s.sec := rfl
@[simp] theorem setGroup_mod (s : State) (g : Nat) (x : Group) : (setGroup s g x).mod = s.mod := rfl
@[simp] theorem setGroup_dbg (s : State) (g : Nat) (x : Group) : (setGroup s g x).dbg = s.dbg := rfl

/-! `updQp` -/

@[simp] theorem updQp_pending (s : State) (n : Nat) (f : Qp → Qp) : (updQp s n f).pending = s.pending := rfl
@[simp] theorem updQp_fresh (s : State) (n : Nat) (f : Qp → Qp) : (updQp s n f).fresh = s.fresh := rfl
@[simp] theorem updQp_sent (s : State) (n : Nat) (f : Qp → Qp) : (updQp s n f).sent = s.sent := rfl
@[simp] theorem updQp_regs (s : State) (n : Nat) (f : Qp → Qp) : (updQp s n f).regs = s.regs := rfl
@[simp] theorem updQp_live (s : State) (n : Nat) (f : Qp → Qp) : (updQp s n f).live = s.live := rfl
@[simp] theorem updQp_mem (s : State) (n : Nat) (f : Qp → Qp) : (updQp s n f).mem = s.mem := rfl
@[simp] theorem updQp_sync (s : State) (n : Nat) (f : Qp → Qp) : (updQp s n f).sync = s.sync := rfl
@[simp] theorem updQp_cores (s : State) (n : Nat) (f : Qp → Qp) : (updQp s n f).cores = s.cores := rfl
@[simp] theorem updQp_disp (s : State) (n : Nat) (f : Qp → Qp) : (updQp s n f).disp = s.disp := rfl
@[simp] theorem updQp_fab (s : State) (n : Nat) (f : Qp → Qp) : (updQp s n f).fab = s.fab := rfl
@[simp] theorem updQp_eth (s : State) (n : Nat) (f : Qp → Qp) : (updQp s n f).eth = { s.eth with qps := Map.put s.eth.qps n (f (qpOf s n)) } := rfl
@[simp] theorem updQp_flt (s : State) (n : Nat) (f : Qp → Qp) : (updQp s n f).flt = s.flt := rfl
@[simp] theorem updQp_mram (s : State) (n : Nat) (f : Qp → Qp) : (updQp s n f).mram = s.mram := rfl
@[simp] theorem updQp_sec (s : State) (n : Nat) (f : Qp → Qp) : (updQp s n f).sec = s.sec := rfl
@[simp] theorem updQp_mod (s : State) (n : Nat) (f : Qp → Qp) : (updQp s n f).mod = s.mod := rfl
@[simp] theorem updQp_dbg (s : State) (n : Nat) (f : Qp → Qp) : (updQp s n f).dbg = s.dbg := rfl

/-! `planeWrite` -/

@[simp] theorem planeWrite_pending (s : State) (a : Nat) (bs : List Byte) : (planeWrite s a bs).pending = s.pending := rfl
@[simp] theorem planeWrite_fresh (s : State) (a : Nat) (bs : List Byte) : (planeWrite s a bs).fresh = s.fresh := rfl
@[simp] theorem planeWrite_sent (s : State) (a : Nat) (bs : List Byte) : (planeWrite s a bs).sent = s.sent := rfl
@[simp] theorem planeWrite_regs (s : State) (a : Nat) (bs : List Byte) : (planeWrite s a bs).regs = s.regs := rfl
@[simp] theorem planeWrite_live (s : State) (a : Nat) (bs : List Byte) : (planeWrite s a bs).live = s.live := rfl
@[simp] theorem planeWrite_mem (s : State) (a : Nat) (bs : List Byte) : (planeWrite s a bs).mem = { s.mem with plane := Map.setRun planeDefault s.mem.plane a bs } := rfl
@[simp] theorem planeWrite_sync (s : State) (a : Nat) (bs : List Byte) : (planeWrite s a bs).sync = s.sync := rfl
@[simp] theorem planeWrite_cores (s : State) (a : Nat) (bs : List Byte) : (planeWrite s a bs).cores = s.cores := rfl
@[simp] theorem planeWrite_disp (s : State) (a : Nat) (bs : List Byte) : (planeWrite s a bs).disp = s.disp := rfl
@[simp] theorem planeWrite_fab (s : State) (a : Nat) (bs : List Byte) : (planeWrite s a bs).fab = s.fab := rfl
@[simp] theorem planeWrite_eth (s : State) (a : Nat) (bs : List Byte) : (planeWrite s a bs).eth = s.eth := rfl
@[simp] theorem planeWrite_flt (s : State) (a : Nat) (bs : List Byte) : (planeWrite s a bs).flt = s.flt := rfl
@[simp] theorem planeWrite_mram (s : State) (a : Nat) (bs : List Byte) : (planeWrite s a bs).mram = s.mram := rfl
@[simp] theorem planeWrite_sec (s : State) (a : Nat) (bs : List Byte) : (planeWrite s a bs).sec = s.sec := rfl
@[simp] theorem planeWrite_mod (s : State) (a : Nat) (bs : List Byte) : (planeWrite s a bs).mod = s.mod := rfl
@[simp] theorem planeWrite_dbg (s : State) (a : Nat) (bs : List Byte) : (planeWrite s a bs).dbg = s.dbg := rfl

/-! `unpoison` -/

@[simp] theorem unpoison_pending (s : State) (a : Nat) : (unpoison s a).pending = s.pending := rfl
@[simp] theorem unpoison_fresh (s : State) (a : Nat) : (unpoison s a).fresh = s.fresh := rfl
@[simp] theorem unpoison_sent (s : State) (a : Nat) : (unpoison s a).sent = s.sent := rfl
@[simp] theorem unpoison_regs (s : State) (a : Nat) : (unpoison s a).regs = s.regs := rfl
@[simp] theorem unpoison_live (s : State) (a : Nat) : (unpoison s a).live = s.live := rfl
@[simp] theorem unpoison_mem (s : State) (a : Nat) : (unpoison s a).mem = { s.mem with poison := s.mem.poison.filter (· != lineOf a) } := rfl
@[simp] theorem unpoison_sync (s : State) (a : Nat) : (unpoison s a).sync = s.sync := rfl
@[simp] theorem unpoison_cores (s : State) (a : Nat) : (unpoison s a).cores = s.cores := rfl
@[simp] theorem unpoison_disp (s : State) (a : Nat) : (unpoison s a).disp = s.disp := rfl
@[simp] theorem unpoison_fab (s : State) (a : Nat) : (unpoison s a).fab = s.fab := rfl
@[simp] theorem unpoison_eth (s : State) (a : Nat) : (unpoison s a).eth = s.eth := rfl
@[simp] theorem unpoison_flt (s : State) (a : Nat) : (unpoison s a).flt = s.flt := rfl
@[simp] theorem unpoison_mram (s : State) (a : Nat) : (unpoison s a).mram = s.mram := rfl
@[simp] theorem unpoison_sec (s : State) (a : Nat) : (unpoison s a).sec = s.sec := rfl
@[simp] theorem unpoison_mod (s : State) (a : Nat) : (unpoison s a).mod = s.mod := rfl
@[simp] theorem unpoison_dbg (s : State) (a : Nat) : (unpoison s a).dbg = s.dbg := rfl

/-! `planeWriteMsg` -/

@[simp] theorem planeWriteMsg_pending (s : State) (a : Nat) (bs : List Byte) : (planeWriteMsg s a bs).pending = s.pending := rfl
@[simp] theorem planeWriteMsg_fresh (s : State) (a : Nat) (bs : List Byte) : (planeWriteMsg s a bs).fresh = s.fresh := rfl
@[simp] theorem planeWriteMsg_sent (s : State) (a : Nat) (bs : List Byte) : (planeWriteMsg s a bs).sent = s.sent := rfl
@[simp] theorem planeWriteMsg_regs (s : State) (a : Nat) (bs : List Byte) : (planeWriteMsg s a bs).regs = s.regs := rfl
@[simp] theorem planeWriteMsg_live (s : State) (a : Nat) (bs : List Byte) : (planeWriteMsg s a bs).live = s.live := rfl
@[simp] theorem planeWriteMsg_sync (s : State) (a : Nat) (bs : List Byte) : (planeWriteMsg s a bs).sync = s.sync := rfl
@[simp] theorem planeWriteMsg_cores (s : State) (a : Nat) (bs : List Byte) : (planeWriteMsg s a bs).cores = s.cores := rfl
@[simp] theorem planeWriteMsg_disp (s : State) (a : Nat) (bs : List Byte) : (planeWriteMsg s a bs).disp = s.disp := rfl
@[simp] theorem planeWriteMsg_fab (s : State) (a : Nat) (bs : List Byte) : (planeWriteMsg s a bs).fab = s.fab := rfl
@[simp] theorem planeWriteMsg_eth (s : State) (a : Nat) (bs : List Byte) : (planeWriteMsg s a bs).eth = s.eth := rfl
@[simp] theorem planeWriteMsg_flt (s : State) (a : Nat) (bs : List Byte) : (planeWriteMsg s a bs).flt = s.flt := rfl
@[simp] theorem planeWriteMsg_mram (s : State) (a : Nat) (bs : List Byte) : (planeWriteMsg s a bs).mram = s.mram := rfl
@[simp] theorem planeWriteMsg_sec (s : State) (a : Nat) (bs : List Byte) : (planeWriteMsg s a bs).sec = s.sec := rfl
@[simp] theorem planeWriteMsg_mod (s : State) (a : Nat) (bs : List Byte) : (planeWriteMsg s a bs).mod = s.mod := rfl
@[simp] theorem planeWriteMsg_dbg (s : State) (a : Nat) (bs : List Byte) : (planeWriteMsg s a bs).dbg = s.dbg := rfl

/-! `updSched` -/

@[simp] theorem updSched_pending (s : State) (b k : Nat) (f : Sched → Sched) : (updSched s b k f).pending = s.pending := rfl
@[simp] theorem updSched_fresh (s : State) (b k : Nat) (f : Sched → Sched) : (updSched s b k f).fresh = s.fresh := rfl
@[simp] theorem updSched_sent (s : State) (b k : Nat) (f : Sched → Sched) : (updSched s b k f).sent = s.sent := rfl
@[simp] theorem updSched_regs (s : State) (b k : Nat) (f : Sched → Sched) : (updSched s b k f).regs = s.regs := rfl
@[simp] theorem updSched_live (s : State) (b k : Nat) (f : Sched → Sched) : (updSched s b k f).live = s.live := rfl
@[simp] theorem updSched_mem (s : State) (b k : Nat) (f : Sched → Sched) : (updSched s b k f).mem = { s.mem with scheds := mapIf (fun r => r.slice = b && r.slot = k) f s.mem.scheds } := rfl
@[simp] theorem updSched_sync (s : State) (b k : Nat) (f : Sched → Sched) : (updSched s b k f).sync = s.sync := rfl
@[simp] theorem updSched_cores (s : State) (b k : Nat) (f : Sched → Sched) : (updSched s b k f).cores = s.cores := rfl
@[simp] theorem updSched_disp (s : State) (b k : Nat) (f : Sched → Sched) : (updSched s b k f).disp = s.disp := rfl
@[simp] theorem updSched_fab (s : State) (b k : Nat) (f : Sched → Sched) : (updSched s b k f).fab = s.fab := rfl
@[simp] theorem updSched_eth (s : State) (b k : Nat) (f : Sched → Sched) : (updSched s b k f).eth = s.eth := rfl
@[simp] theorem updSched_flt (s : State) (b k : Nat) (f : Sched → Sched) : (updSched s b k f).flt = s.flt := rfl
@[simp] theorem updSched_mram (s : State) (b k : Nat) (f : Sched → Sched) : (updSched s b k f).mram = s.mram := rfl
@[simp] theorem updSched_sec (s : State) (b k : Nat) (f : Sched → Sched) : (updSched s b k f).sec = s.sec := rfl
@[simp] theorem updSched_mod (s : State) (b k : Nat) (f : Sched → Sched) : (updSched s b k f).mod = s.mod := rfl
@[simp] theorem updSched_dbg (s : State) (b k : Nat) (f : Sched → Sched) : (updSched s b k f).dbg = s.dbg := rfl

/-! `markUrgent` -/

@[simp] theorem markUrgent_pending (b k i : Nat) (s : State) : (markUrgent b k i s).pending = s.pending := rfl
@[simp] theorem markUrgent_fresh (b k i : Nat) (s : State) : (markUrgent b k i s).fresh = s.fresh := rfl
@[simp] theorem markUrgent_sent (b k i : Nat) (s : State) : (markUrgent b k i s).sent = s.sent := rfl
@[simp] theorem markUrgent_regs (b k i : Nat) (s : State) : (markUrgent b k i s).regs = s.regs := rfl
@[simp] theorem markUrgent_live (b k i : Nat) (s : State) : (markUrgent b k i s).live = s.live := rfl
@[simp] theorem markUrgent_sync (b k i : Nat) (s : State) : (markUrgent b k i s).sync = s.sync := rfl
@[simp] theorem markUrgent_cores (b k i : Nat) (s : State) : (markUrgent b k i s).cores = s.cores := rfl
@[simp] theorem markUrgent_disp (b k i : Nat) (s : State) : (markUrgent b k i s).disp = s.disp := rfl
@[simp] theorem markUrgent_fab (b k i : Nat) (s : State) : (markUrgent b k i s).fab = s.fab := rfl
@[simp] theorem markUrgent_eth (b k i : Nat) (s : State) : (markUrgent b k i s).eth = s.eth := rfl
@[simp] theorem markUrgent_flt (b k i : Nat) (s : State) : (markUrgent b k i s).flt = s.flt := rfl
@[simp] theorem markUrgent_mram (b k i : Nat) (s : State) : (markUrgent b k i s).mram = s.mram := rfl
@[simp] theorem markUrgent_sec (b k i : Nat) (s : State) : (markUrgent b k i s).sec = s.sec := rfl
@[simp] theorem markUrgent_mod (b k i : Nat) (s : State) : (markUrgent b k i s).mod = s.mod := rfl
@[simp] theorem markUrgent_dbg (b k i : Nat) (s : State) : (markUrgent b k i s).dbg = s.dbg := rfl

/-! `setDist` -/

@[simp] theorem setDist_pending (s : State) (b : Nat) (d : Distributor) : (setDist s b d).pending = s.pending := rfl
@[simp] theorem setDist_fresh (s : State) (b : Nat) (d : Distributor) : (setDist s b d).fresh = s.fresh := rfl
@[simp] theorem setDist_sent (s : State) (b : Nat) (d : Distributor) : (setDist s b d).sent = s.sent := rfl
@[simp] theorem setDist_regs (s : State) (b : Nat) (d : Distributor) : (setDist s b d).regs = s.regs := rfl
@[simp] theorem setDist_live (s : State) (b : Nat) (d : Distributor) : (setDist s b d).live = s.live := rfl
@[simp] theorem setDist_mem (s : State) (b : Nat) (d : Distributor) : (setDist s b d).mem = { s.mem with dists := Map.put s.mem.dists b d } := rfl
@[simp] theorem setDist_sync (s : State) (b : Nat) (d : Distributor) : (setDist s b d).sync = s.sync := rfl
@[simp] theorem setDist_cores (s : State) (b : Nat) (d : Distributor) : (setDist s b d).cores = s.cores := rfl
@[simp] theorem setDist_disp (s : State) (b : Nat) (d : Distributor) : (setDist s b d).disp = s.disp := rfl
@[simp] theorem setDist_fab (s : State) (b : Nat) (d : Distributor) : (setDist s b d).fab = s.fab := rfl
@[simp] theorem setDist_eth (s : State) (b : Nat) (d : Distributor) : (setDist s b d).eth = s.eth := rfl
@[simp] theorem setDist_flt (s : State) (b : Nat) (d : Distributor) : (setDist s b d).flt = s.flt := rfl
@[simp] theorem setDist_mram (s : State) (b : Nat) (d : Distributor) : (setDist s b d).mram = s.mram := rfl
@[simp] theorem setDist_sec (s : State) (b : Nat) (d : Distributor) : (setDist s b d).sec = s.sec := rfl
@[simp] theorem setDist_mod (s : State) (b : Nat) (d : Distributor) : (setDist s b d).mod = s.mod := rfl
@[simp] theorem setDist_dbg (s : State) (b : Nat) (d : Distributor) : (setDist s b d).dbg = s.dbg := rfl

/-! `regSet` -/

@[simp] theorem regSet_pending (s : State) (off : Nat) (v : Word) : (regSet s off v).pending = s.pending := rfl
@[simp] theorem regSet_fresh (s : State) (off : Nat) (v : Word) : (regSet s off v).fresh = s.fresh := rfl
@[simp] theorem regSet_sent (s : State) (off : Nat) (v : Word) : (regSet s off v).sent = s.sent := rfl
@[simp] theorem regSet_regs (s : State) (off : Nat) (v : Word) : (regSet s off v).regs = Map.set regDefault s.regs off v := rfl
@[simp] theorem regSet_live (s : State) (off : Nat) (v : Word) : (regSet s off v).live = s.live := rfl
@[simp] theorem regSet_mem (s : State) (off : Nat) (v : Word) : (regSet s off v).mem = s.mem := rfl
@[simp] theorem regSet_sync (s : State) (off : Nat) (v : Word) : (regSet s off v).sync = s.sync := rfl
@[simp] theorem regSet_cores (s : State) (off : Nat) (v : Word) : (regSet s off v).cores = s.cores := rfl
@[simp] theorem regSet_disp (s : State) (off : Nat) (v : Word) : (regSet s off v).disp = s.disp := rfl
@[simp] theorem regSet_fab (s : State) (off : Nat) (v : Word) : (regSet s off v).fab = s.fab := rfl
@[simp] theorem regSet_eth (s : State) (off : Nat) (v : Word) : (regSet s off v).eth = s.eth := rfl
@[simp] theorem regSet_flt (s : State) (off : Nat) (v : Word) : (regSet s off v).flt = s.flt := rfl
@[simp] theorem regSet_mram (s : State) (off : Nat) (v : Word) : (regSet s off v).mram = s.mram := rfl
@[simp] theorem regSet_sec (s : State) (off : Nat) (v : Word) : (regSet s off v).sec = s.sec := rfl
@[simp] theorem regSet_mod (s : State) (off : Nat) (v : Word) : (regSet s off v).mod = s.mod := rfl
@[simp] theorem regSet_dbg (s : State) (off : Nat) (v : Word) : (regSet s off v).dbg = s.dbg := rfl

/-! `cfgSet` -/

@[simp] theorem cfgSet_pending (s : State) (off lo len v : Nat) : (cfgSet s off lo len v).pending = s.pending := rfl
@[simp] theorem cfgSet_fresh (s : State) (off lo len v : Nat) : (cfgSet s off lo len v).fresh = s.fresh := rfl
@[simp] theorem cfgSet_sent (s : State) (off lo len v : Nat) : (cfgSet s off lo len v).sent = s.sent := rfl
@[simp] theorem cfgSet_regs (s : State) (off lo len v : Nat) : (cfgSet s off lo len v).regs = Map.set regDefault s.regs off (setFld (regGet s off) lo len v) := rfl
@[simp] theorem cfgSet_live (s : State) (off lo len v : Nat) : (cfgSet s off lo len v).live = s.live := rfl
@[simp] theorem cfgSet_mem (s : State) (off lo len v : Nat) : (cfgSet s off lo len v).mem = s.mem := rfl
@[simp] theorem cfgSet_sync (s : State) (off lo len v : Nat) : (cfgSet s off lo len v).sync = s.sync := rfl
@[simp] theorem cfgSet_cores (s : State) (off lo len v : Nat) : (cfgSet s off lo len v).cores = s.cores := rfl
@[simp] theorem cfgSet_disp (s : State) (off lo len v : Nat) : (cfgSet s off lo len v).disp = s.disp := rfl
@[simp] theorem cfgSet_fab (s : State) (off lo len v : Nat) : (cfgSet s off lo len v).fab = s.fab := rfl
@[simp] theorem cfgSet_eth (s : State) (off lo len v : Nat) : (cfgSet s off lo len v).eth = s.eth := rfl
@[simp] theorem cfgSet_flt (s : State) (off lo len v : Nat) : (cfgSet s off lo len v).flt = s.flt := rfl
@[simp] theorem cfgSet_mram (s : State) (off lo len v : Nat) : (cfgSet s off lo len v).mram = s.mram := rfl
@[simp] theorem cfgSet_sec (s : State) (off lo len v : Nat) : (cfgSet s off lo len v).sec = s.sec := rfl
@[simp] theorem cfgSet_mod (s : State) (off lo len v : Nat) : (cfgSet s off lo len v).mod = s.mod := rfl
@[simp] theorem cfgSet_dbg (s : State) (off lo len v : Nat) : (cfgSet s off lo len v).dbg = s.dbg := rfl

/-! `liveSet` -/

@[simp] theorem liveSet_pending (s : State) (off : Nat) (v : Word) : (liveSet s off v).pending = s.pending := rfl
@[simp] theorem liveSet_fresh (s : State) (off : Nat) (v : Word) : (liveSet s off v).fresh = s.fresh := rfl
@[simp] theorem liveSet_sent (s : State) (off : Nat) (v : Word) : (liveSet s off v).sent = s.sent := rfl
@[simp] theorem liveSet_regs (s : State) (off : Nat) (v : Word) : (liveSet s off v).regs = s.regs := rfl
@[simp] theorem liveSet_live (s : State) (off : Nat) (v : Word) : (liveSet s off v).live = Map.set (fun _ => 0) s.live off v := rfl
@[simp] theorem liveSet_mem (s : State) (off : Nat) (v : Word) : (liveSet s off v).mem = s.mem := rfl
@[simp] theorem liveSet_sync (s : State) (off : Nat) (v : Word) : (liveSet s off v).sync = s.sync := rfl
@[simp] theorem liveSet_cores (s : State) (off : Nat) (v : Word) : (liveSet s off v).cores = s.cores := rfl
@[simp] theorem liveSet_disp (s : State) (off : Nat) (v : Word) : (liveSet s off v).disp = s.disp := rfl
@[simp] theorem liveSet_fab (s : State) (off : Nat) (v : Word) : (liveSet s off v).fab = s.fab := rfl
@[simp] theorem liveSet_eth (s : State) (off : Nat) (v : Word) : (liveSet s off v).eth = s.eth := rfl
@[simp] theorem liveSet_flt (s : State) (off : Nat) (v : Word) : (liveSet s off v).flt = s.flt := rfl
@[simp] theorem liveSet_mram (s : State) (off : Nat) (v : Word) : (liveSet s off v).mram = s.mram := rfl
@[simp] theorem liveSet_sec (s : State) (off : Nat) (v : Word) : (liveSet s off v).sec = s.sec := rfl
@[simp] theorem liveSet_mod (s : State) (off : Nat) (v : Word) : (liveSet s off v).mod = s.mod := rfl
@[simp] theorem liveSet_dbg (s : State) (off : Nat) (v : Word) : (liveSet s off v).dbg = s.dbg := rfl

/-! `liveAdd` -/

@[simp] theorem liveAdd_pending (s : State) (off n : Nat) : (liveAdd s off n).pending = s.pending := rfl
@[simp] theorem liveAdd_fresh (s : State) (off n : Nat) : (liveAdd s off n).fresh = s.fresh := rfl
@[simp] theorem liveAdd_sent (s : State) (off n : Nat) : (liveAdd s off n).sent = s.sent := rfl
@[simp] theorem liveAdd_regs (s : State) (off n : Nat) : (liveAdd s off n).regs = s.regs := rfl
@[simp] theorem liveAdd_live (s : State) (off n : Nat) : (liveAdd s off n).live = Map.set (fun _ => 0) s.live off (liveGet s off + BitVec.ofNat 64 n) := rfl
@[simp] theorem liveAdd_mem (s : State) (off n : Nat) : (liveAdd s off n).mem = s.mem := rfl
@[simp] theorem liveAdd_sync (s : State) (off n : Nat) : (liveAdd s off n).sync = s.sync := rfl
@[simp] theorem liveAdd_cores (s : State) (off n : Nat) : (liveAdd s off n).cores = s.cores := rfl
@[simp] theorem liveAdd_disp (s : State) (off n : Nat) : (liveAdd s off n).disp = s.disp := rfl
@[simp] theorem liveAdd_fab (s : State) (off n : Nat) : (liveAdd s off n).fab = s.fab := rfl
@[simp] theorem liveAdd_eth (s : State) (off n : Nat) : (liveAdd s off n).eth = s.eth := rfl
@[simp] theorem liveAdd_flt (s : State) (off n : Nat) : (liveAdd s off n).flt = s.flt := rfl
@[simp] theorem liveAdd_mram (s : State) (off n : Nat) : (liveAdd s off n).mram = s.mram := rfl
@[simp] theorem liveAdd_sec (s : State) (off n : Nat) : (liveAdd s off n).sec = s.sec := rfl
@[simp] theorem liveAdd_mod (s : State) (off n : Nat) : (liveAdd s off n).mod = s.mod := rfl
@[simp] theorem liveAdd_dbg (s : State) (off n : Nat) : (liveAdd s off n).dbg = s.dbg := rfl

/-! `liveSat` -/

@[simp] theorem liveSat_pending (s : State) (off lo len n : Nat) : (liveSat s off lo len n).pending = s.pending := rfl
@[simp] theorem liveSat_fresh (s : State) (off lo len n : Nat) : (liveSat s off lo len n).fresh = s.fresh := rfl
@[simp] theorem liveSat_sent (s : State) (off lo len n : Nat) : (liveSat s off lo len n).sent = s.sent := rfl
@[simp] theorem liveSat_regs (s : State) (off lo len n : Nat) : (liveSat s off lo len n).regs = s.regs := rfl
@[simp] theorem liveSat_mem (s : State) (off lo len n : Nat) : (liveSat s off lo len n).mem = s.mem := rfl
@[simp] theorem liveSat_sync (s : State) (off lo len n : Nat) : (liveSat s off lo len n).sync = s.sync := rfl
@[simp] theorem liveSat_cores (s : State) (off lo len n : Nat) : (liveSat s off lo len n).cores = s.cores := rfl
@[simp] theorem liveSat_disp (s : State) (off lo len n : Nat) : (liveSat s off lo len n).disp = s.disp := rfl
@[simp] theorem liveSat_fab (s : State) (off lo len n : Nat) : (liveSat s off lo len n).fab = s.fab := rfl
@[simp] theorem liveSat_eth (s : State) (off lo len n : Nat) : (liveSat s off lo len n).eth = s.eth := rfl
@[simp] theorem liveSat_flt (s : State) (off lo len n : Nat) : (liveSat s off lo len n).flt = s.flt := rfl
@[simp] theorem liveSat_mram (s : State) (off lo len n : Nat) : (liveSat s off lo len n).mram = s.mram := rfl
@[simp] theorem liveSat_sec (s : State) (off lo len n : Nat) : (liveSat s off lo len n).sec = s.sec := rfl
@[simp] theorem liveSat_mod (s : State) (off lo len n : Nat) : (liveSat s off lo len n).mod = s.mod := rfl
@[simp] theorem liveSat_dbg (s : State) (off lo len n : Nat) : (liveSat s off lo len n).dbg = s.dbg := rfl

/-! `signalOut` -/

@[simp] theorem signalOut_pending (s : State) (n inc : Nat) (k c : Option Nat) (d : Nat) : (signalOut s n inc k c d).pending = s.pending := rfl
@[simp] theorem signalOut_fresh (s : State) (n inc : Nat) (k c : Option Nat) (d : Nat) : (signalOut s n inc k c d).fresh = s.fresh := rfl
@[simp] theorem signalOut_sent (s : State) (n inc : Nat) (k c : Option Nat) (d : Nat) : (signalOut s n inc k c d).sent = s.sent := rfl
@[simp] theorem signalOut_regs (s : State) (n inc : Nat) (k c : Option Nat) (d : Nat) : (signalOut s n inc k c d).regs = s.regs := rfl
@[simp] theorem signalOut_live (s : State) (n inc : Nat) (k c : Option Nat) (d : Nat) : (signalOut s n inc k c d).live = s.live := rfl
@[simp] theorem signalOut_mem (s : State) (n inc : Nat) (k c : Option Nat) (d : Nat) : (signalOut s n inc k c d).mem = s.mem := rfl
@[simp] theorem signalOut_sync (s : State) (n inc : Nat) (k c : Option Nat) (d : Nat) : (signalOut s n inc k c d).sync = { s.sync with inflight := s.sync.inflight ++ [{ ctr := n, inc := inc, slot := k, core := c, die := d }] } := rfl
@[simp] theorem signalOut_cores (s : State) (n inc : Nat) (k c : Option Nat) (d : Nat) : (signalOut s n inc k c d).cores = s.cores := rfl
@[simp] theorem signalOut_disp (s : State) (n inc : Nat) (k c : Option Nat) (d : Nat) : (signalOut s n inc k c d).disp = s.disp := rfl
@[simp] theorem signalOut_fab (s : State) (n inc : Nat) (k c : Option Nat) (d : Nat) : (signalOut s n inc k c d).fab = s.fab := rfl
@[simp] theorem signalOut_eth (s : State) (n inc : Nat) (k c : Option Nat) (d : Nat) : (signalOut s n inc k c d).eth = s.eth := rfl
@[simp] theorem signalOut_flt (s : State) (n inc : Nat) (k c : Option Nat) (d : Nat) : (signalOut s n inc k c d).flt = s.flt := rfl
@[simp] theorem signalOut_mram (s : State) (n inc : Nat) (k c : Option Nat) (d : Nat) : (signalOut s n inc k c d).mram = s.mram := rfl
@[simp] theorem signalOut_sec (s : State) (n inc : Nat) (k c : Option Nat) (d : Nat) : (signalOut s n inc k c d).sec = s.sec := rfl
@[simp] theorem signalOut_mod (s : State) (n inc : Nat) (k c : Option Nat) (d : Nat) : (signalOut s n inc k c d).mod = s.mod := rfl
@[simp] theorem signalOut_dbg (s : State) (n inc : Nat) (k c : Option Nat) (d : Nat) : (signalOut s n inc k c d).dbg = s.dbg := rfl

/-! `watchAdd` -/

@[simp] theorem watchAdd_pending (s : State) (n : Nat) (t : Word) (w : Waiter) : (watchAdd s n t w).pending = s.pending := rfl
@[simp] theorem watchAdd_fresh (s : State) (n : Nat) (t : Word) (w : Waiter) : (watchAdd s n t w).fresh = s.fresh := rfl
@[simp] theorem watchAdd_sent (s : State) (n : Nat) (t : Word) (w : Waiter) : (watchAdd s n t w).sent = s.sent := rfl
@[simp] theorem watchAdd_regs (s : State) (n : Nat) (t : Word) (w : Waiter) : (watchAdd s n t w).regs = s.regs := rfl
@[simp] theorem watchAdd_live (s : State) (n : Nat) (t : Word) (w : Waiter) : (watchAdd s n t w).live = s.live := rfl
@[simp] theorem watchAdd_mem (s : State) (n : Nat) (t : Word) (w : Waiter) : (watchAdd s n t w).mem = s.mem := rfl
@[simp] theorem watchAdd_cores (s : State) (n : Nat) (t : Word) (w : Waiter) : (watchAdd s n t w).cores = s.cores := rfl
@[simp] theorem watchAdd_disp (s : State) (n : Nat) (t : Word) (w : Waiter) : (watchAdd s n t w).disp = s.disp := rfl
@[simp] theorem watchAdd_fab (s : State) (n : Nat) (t : Word) (w : Waiter) : (watchAdd s n t w).fab = s.fab := rfl
@[simp] theorem watchAdd_eth (s : State) (n : Nat) (t : Word) (w : Waiter) : (watchAdd s n t w).eth = s.eth := rfl
@[simp] theorem watchAdd_flt (s : State) (n : Nat) (t : Word) (w : Waiter) : (watchAdd s n t w).flt = s.flt := rfl
@[simp] theorem watchAdd_mram (s : State) (n : Nat) (t : Word) (w : Waiter) : (watchAdd s n t w).mram = s.mram := rfl
@[simp] theorem watchAdd_sec (s : State) (n : Nat) (t : Word) (w : Waiter) : (watchAdd s n t w).sec = s.sec := rfl
@[simp] theorem watchAdd_mod (s : State) (n : Nat) (t : Word) (w : Waiter) : (watchAdd s n t w).mod = s.mod := rfl
@[simp] theorem watchAdd_dbg (s : State) (n : Nat) (t : Word) (w : Waiter) : (watchAdd s n t w).dbg = s.dbg := rfl

/-! `watchDrop` -/

@[simp] theorem watchDrop_pending (s : State) (p : Waiter → Bool) : (watchDrop s p).pending = s.pending := rfl
@[simp] theorem watchDrop_fresh (s : State) (p : Waiter → Bool) : (watchDrop s p).fresh = s.fresh := rfl
@[simp] theorem watchDrop_sent (s : State) (p : Waiter → Bool) : (watchDrop s p).sent = s.sent := rfl
@[simp] theorem watchDrop_regs (s : State) (p : Waiter → Bool) : (watchDrop s p).regs = s.regs := rfl
@[simp] theorem watchDrop_live (s : State) (p : Waiter → Bool) : (watchDrop s p).live = s.live := rfl
@[simp] theorem watchDrop_mem (s : State) (p : Waiter → Bool) : (watchDrop s p).mem = s.mem := rfl
@[simp] theorem watchDrop_cores (s : State) (p : Waiter → Bool) : (watchDrop s p).cores = s.cores := rfl
@[simp] theorem watchDrop_disp (s : State) (p : Waiter → Bool) : (watchDrop s p).disp = s.disp := rfl
@[simp] theorem watchDrop_fab (s : State) (p : Waiter → Bool) : (watchDrop s p).fab = s.fab := rfl
@[simp] theorem watchDrop_eth (s : State) (p : Waiter → Bool) : (watchDrop s p).eth = s.eth := rfl
@[simp] theorem watchDrop_flt (s : State) (p : Waiter → Bool) : (watchDrop s p).flt = s.flt := rfl
@[simp] theorem watchDrop_mram (s : State) (p : Waiter → Bool) : (watchDrop s p).mram = s.mram := rfl
@[simp] theorem watchDrop_sec (s : State) (p : Waiter → Bool) : (watchDrop s p).sec = s.sec := rfl
@[simp] theorem watchDrop_mod (s : State) (p : Waiter → Bool) : (watchDrop s p).mod = s.mod := rfl
@[simp] theorem watchDrop_dbg (s : State) (p : Waiter → Bool) : (watchDrop s p).dbg = s.dbg := rfl

/-! `setAlert` -/

@[simp] theorem setAlert_pending (s : State) : (setAlert s).pending = s.pending := rfl
@[simp] theorem setAlert_fresh (s : State) : (setAlert s).fresh = s.fresh := rfl
@[simp] theorem setAlert_sent (s : State) : (setAlert s).sent = s.sent := rfl
@[simp] theorem setAlert_regs (s : State) : (setAlert s).regs = s.regs := rfl
@[simp] theorem setAlert_live (s : State) : (setAlert s).live = s.live := rfl
@[simp] theorem setAlert_mem (s : State) : (setAlert s).mem = s.mem := rfl
@[simp] theorem setAlert_sync (s : State) : (setAlert s).sync = s.sync := rfl
@[simp] theorem setAlert_cores (s : State) : (setAlert s).cores = s.cores := rfl
@[simp] theorem setAlert_disp (s : State) : (setAlert s).disp = s.disp := rfl
@[simp] theorem setAlert_fab (s : State) : (setAlert s).fab = s.fab := rfl
@[simp] theorem setAlert_eth (s : State) : (setAlert s).eth = s.eth := rfl
@[simp] theorem setAlert_flt (s : State) : (setAlert s).flt = { s.flt with alert := true } := rfl
@[simp] theorem setAlert_mram (s : State) : (setAlert s).mram = s.mram := rfl
@[simp] theorem setAlert_sec (s : State) : (setAlert s).sec = s.sec := rfl
@[simp] theorem setAlert_mod (s : State) : (setAlert s).mod = s.mod := rfl
@[simp] theorem setAlert_dbg (s : State) : (setAlert s).dbg = s.dbg := rfl

/-! `alertClear` -/

@[simp] theorem alertClear_pending (s : State) : (alertClear s).pending = s.pending := rfl
@[simp] theorem alertClear_fresh (s : State) : (alertClear s).fresh = s.fresh := rfl
@[simp] theorem alertClear_sent (s : State) : (alertClear s).sent = s.sent := rfl
@[simp] theorem alertClear_regs (s : State) : (alertClear s).regs = s.regs := rfl
@[simp] theorem alertClear_live (s : State) : (alertClear s).live = s.live := rfl
@[simp] theorem alertClear_mem (s : State) : (alertClear s).mem = s.mem := rfl
@[simp] theorem alertClear_sync (s : State) : (alertClear s).sync = s.sync := rfl
@[simp] theorem alertClear_cores (s : State) : (alertClear s).cores = s.cores := rfl
@[simp] theorem alertClear_disp (s : State) : (alertClear s).disp = s.disp := rfl
@[simp] theorem alertClear_fab (s : State) : (alertClear s).fab = s.fab := rfl
@[simp] theorem alertClear_eth (s : State) : (alertClear s).eth = s.eth := rfl
@[simp] theorem alertClear_flt (s : State) : (alertClear s).flt = { s.flt with alert := false } := rfl
@[simp] theorem alertClear_mram (s : State) : (alertClear s).mram = s.mram := rfl
@[simp] theorem alertClear_sec (s : State) : (alertClear s).sec = s.sec := rfl
@[simp] theorem alertClear_mod (s : State) : (alertClear s).mod = s.mod := rfl
@[simp] theorem alertClear_dbg (s : State) : (alertClear s).dbg = s.dbg := rfl

/-! `coolantClear` -/

@[simp] theorem coolantClear_pending (s : State) : (coolantClear s).pending = s.pending := rfl
@[simp] theorem coolantClear_fresh (s : State) : (coolantClear s).fresh = s.fresh := rfl
@[simp] theorem coolantClear_sent (s : State) : (coolantClear s).sent = s.sent := rfl
@[simp] theorem coolantClear_regs (s : State) : (coolantClear s).regs = s.regs := rfl
@[simp] theorem coolantClear_live (s : State) : (coolantClear s).live = s.live := rfl
@[simp] theorem coolantClear_mem (s : State) : (coolantClear s).mem = s.mem := rfl
@[simp] theorem coolantClear_sync (s : State) : (coolantClear s).sync = s.sync := rfl
@[simp] theorem coolantClear_cores (s : State) : (coolantClear s).cores = s.cores := rfl
@[simp] theorem coolantClear_disp (s : State) : (coolantClear s).disp = s.disp := rfl
@[simp] theorem coolantClear_fab (s : State) : (coolantClear s).fab = s.fab := rfl
@[simp] theorem coolantClear_eth (s : State) : (coolantClear s).eth = s.eth := rfl
@[simp] theorem coolantClear_flt (s : State) : (coolantClear s).flt = s.flt := rfl
@[simp] theorem coolantClear_mram (s : State) : (coolantClear s).mram = s.mram := rfl
@[simp] theorem coolantClear_sec (s : State) : (coolantClear s).sec = s.sec := rfl
@[simp] theorem coolantClear_mod (s : State) : (coolantClear s).mod = { s.mod with coolant := false } := rfl
@[simp] theorem coolantClear_dbg (s : State) : (coolantClear s).dbg = s.dbg := rfl

/-! `setStageNo` -/

@[simp] theorem setStageNo_pending (s : State) (n : Nat) : (setStageNo s n).pending = s.pending := rfl
@[simp] theorem setStageNo_fresh (s : State) (n : Nat) : (setStageNo s n).fresh = s.fresh := rfl
@[simp] theorem setStageNo_sent (s : State) (n : Nat) : (setStageNo s n).sent = s.sent := rfl
@[simp] theorem setStageNo_regs (s : State) (n : Nat) : (setStageNo s n).regs = s.regs := rfl
@[simp] theorem setStageNo_live (s : State) (n : Nat) : (setStageNo s n).live = s.live := rfl
@[simp] theorem setStageNo_mem (s : State) (n : Nat) : (setStageNo s n).mem = s.mem := rfl
@[simp] theorem setStageNo_sync (s : State) (n : Nat) : (setStageNo s n).sync = s.sync := rfl
@[simp] theorem setStageNo_cores (s : State) (n : Nat) : (setStageNo s n).cores = s.cores := rfl
@[simp] theorem setStageNo_disp (s : State) (n : Nat) : (setStageNo s n).disp = s.disp := rfl
@[simp] theorem setStageNo_fab (s : State) (n : Nat) : (setStageNo s n).fab = s.fab := rfl
@[simp] theorem setStageNo_eth (s : State) (n : Nat) : (setStageNo s n).eth = s.eth := rfl
@[simp] theorem setStageNo_flt (s : State) (n : Nat) : (setStageNo s n).flt = s.flt := rfl
@[simp] theorem setStageNo_mram (s : State) (n : Nat) : (setStageNo s n).mram = s.mram := rfl
@[simp] theorem setStageNo_sec (s : State) (n : Nat) : (setStageNo s n).sec = s.sec := rfl
@[simp] theorem setStageNo_mod (s : State) (n : Nat) : (setStageNo s n).mod = { s.mod with stage := BitVec.ofNat 4 n } := rfl
@[simp] theorem setStageNo_dbg (s : State) (n : Nat) : (setStageNo s n).dbg = s.dbg := rfl

/-! `failStage'` -/

@[simp] theorem failStage'_pending (s : State) (c : Nat) : (failStage' s c).pending = s.pending := rfl
@[simp] theorem failStage'_fresh (s : State) (c : Nat) : (failStage' s c).fresh = s.fresh := rfl
@[simp] theorem failStage'_sent (s : State) (c : Nat) : (failStage' s c).sent = s.sent := rfl
@[simp] theorem failStage'_regs (s : State) (c : Nat) : (failStage' s c).regs = s.regs := rfl
@[simp] theorem failStage'_live (s : State) (c : Nat) : (failStage' s c).live = s.live := rfl
@[simp] theorem failStage'_mem (s : State) (c : Nat) : (failStage' s c).mem = s.mem := rfl
@[simp] theorem failStage'_sync (s : State) (c : Nat) : (failStage' s c).sync = s.sync := rfl
@[simp] theorem failStage'_cores (s : State) (c : Nat) : (failStage' s c).cores = s.cores := rfl
@[simp] theorem failStage'_disp (s : State) (c : Nat) : (failStage' s c).disp = s.disp := rfl
@[simp] theorem failStage'_fab (s : State) (c : Nat) : (failStage' s c).fab = s.fab := rfl
@[simp] theorem failStage'_eth (s : State) (c : Nat) : (failStage' s c).eth = s.eth := rfl
@[simp] theorem failStage'_flt (s : State) (c : Nat) : (failStage' s c).flt = s.flt := rfl
@[simp] theorem failStage'_mram (s : State) (c : Nat) : (failStage' s c).mram = s.mram := rfl
@[simp] theorem failStage'_sec (s : State) (c : Nat) : (failStage' s c).sec = s.sec := rfl
@[simp] theorem failStage'_mod (s : State) (c : Nat) : (failStage' s c).mod = { s.mod with fail := BitVec.ofNat 8 c } := rfl
@[simp] theorem failStage'_dbg (s : State) (c : Nat) : (failStage' s c).dbg = s.dbg := rfl

/-! `fwEnd` -/

@[simp] theorem fwEnd_pending (s : State) (r : Nat) : (fwEnd s r).pending = s.pending := rfl
@[simp] theorem fwEnd_fresh (s : State) (r : Nat) : (fwEnd s r).fresh = s.fresh := rfl
@[simp] theorem fwEnd_sent (s : State) (r : Nat) : (fwEnd s r).sent = s.sent := rfl
@[simp] theorem fwEnd_regs (s : State) (r : Nat) : (fwEnd s r).regs = s.regs := rfl
@[simp] theorem fwEnd_live (s : State) (r : Nat) : (fwEnd s r).live = s.live := rfl
@[simp] theorem fwEnd_mem (s : State) (r : Nat) : (fwEnd s r).mem = s.mem := rfl
@[simp] theorem fwEnd_sync (s : State) (r : Nat) : (fwEnd s r).sync = s.sync := rfl
@[simp] theorem fwEnd_cores (s : State) (r : Nat) : (fwEnd s r).cores = s.cores := rfl
@[simp] theorem fwEnd_disp (s : State) (r : Nat) : (fwEnd s r).disp = s.disp := rfl
@[simp] theorem fwEnd_fab (s : State) (r : Nat) : (fwEnd s r).fab = s.fab := rfl
@[simp] theorem fwEnd_eth (s : State) (r : Nat) : (fwEnd s r).eth = s.eth := rfl
@[simp] theorem fwEnd_flt (s : State) (r : Nat) : (fwEnd s r).flt = s.flt := rfl
@[simp] theorem fwEnd_mram (s : State) (r : Nat) : (fwEnd s r).mram = s.mram := rfl
@[simp] theorem fwEnd_sec (s : State) (r : Nat) : (fwEnd s r).sec = { s.sec with fwBusy := none, fwResult := BitVec.ofNat 8 r } := rfl
@[simp] theorem fwEnd_mod (s : State) (r : Nat) : (fwEnd s r).mod = s.mod := rfl
@[simp] theorem fwEnd_dbg (s : State) (r : Nat) : (fwEnd s r).dbg = s.dbg := rfl

/-! `extend` -/

@[simp] theorem extend_pending (s : State) (i : Nat) (x : List Byte) : (extend s i x).pending = s.pending := rfl
@[simp] theorem extend_fresh (s : State) (i : Nat) (x : List Byte) : (extend s i x).fresh = s.fresh := rfl
@[simp] theorem extend_sent (s : State) (i : Nat) (x : List Byte) : (extend s i x).sent = s.sent := rfl
@[simp] theorem extend_regs (s : State) (i : Nat) (x : List Byte) : (extend s i x).regs = s.regs := rfl
@[simp] theorem extend_live (s : State) (i : Nat) (x : List Byte) : (extend s i x).live = s.live := rfl
@[simp] theorem extend_mem (s : State) (i : Nat) (x : List Byte) : (extend s i x).mem = s.mem := rfl
@[simp] theorem extend_sync (s : State) (i : Nat) (x : List Byte) : (extend s i x).sync = s.sync := rfl
@[simp] theorem extend_cores (s : State) (i : Nat) (x : List Byte) : (extend s i x).cores = s.cores := rfl
@[simp] theorem extend_disp (s : State) (i : Nat) (x : List Byte) : (extend s i x).disp = s.disp := rfl
@[simp] theorem extend_fab (s : State) (i : Nat) (x : List Byte) : (extend s i x).fab = s.fab := rfl
@[simp] theorem extend_eth (s : State) (i : Nat) (x : List Byte) : (extend s i x).eth = s.eth := rfl
@[simp] theorem extend_flt (s : State) (i : Nat) (x : List Byte) : (extend s i x).flt = s.flt := rfl
@[simp] theorem extend_mram (s : State) (i : Nat) (x : List Byte) : (extend s i x).mram = s.mram := rfl
@[simp] theorem extend_mod (s : State) (i : Nat) (x : List Byte) : (extend s i x).mod = s.mod := rfl
@[simp] theorem extend_dbg (s : State) (i : Nat) (x : List Byte) : (extend s i x).dbg = s.dbg := rfl

/-! ### Reading back -/

@[simp] theorem coreOf_setCore_self (s : State) (c : Nat) (k : Core) : coreOf (setCore s c k) c = k := by simp [coreOf]
theorem coreOf_setCore_ne (s : State) {c d : Nat} (k : Core) (h : c ≠ d) : coreOf (setCore s c k) d = coreOf s d := by
  simp [coreOf, Map.get_put_ne _ _ _ h]
@[simp] theorem coreOf_updCore_self (s : State) (c : Nat) (f : Core → Core) : coreOf (updCore s c f) c = f (coreOf s c) := by simp [updCore]
theorem coreOf_updCore_ne (s : State) {c d : Nat} (f : Core → Core) (h : c ≠ d) : coreOf (updCore s c f) d = coreOf s d := by
  simp [updCore, coreOf_setCore_ne _ _ h]
@[simp] theorem queueOf_updQueue_self (s : State) (q : Nat) (f : Queue → Queue) : queueOf (updQueue s q f) q = f (queueOf s q) := by simp [queueOf]
theorem queueOf_updQueue_ne (s : State) {q p : Nat} (f : Queue → Queue) (h : q ≠ p) : queueOf (updQueue s q f) p = queueOf s p := by
  simp [queueOf, Map.get_put_ne _ _ _ h]
theorem cmdOf_setCmd (s : State) (k j : Nat) (c : Cmd) : cmdOf (setCmd s k c) j = if k = j then some c else cmdOf s j := by
  simp [cmdOf, Map.find?_put]
theorem cmdOf_freeSlot (s : State) (k j : Nat) : cmdOf (freeSlot s k) j = if k = j then none else cmdOf s j := by
  simp [cmdOf, Map.find?_erase]
/-- All that `updCmd` can do: a command in the slot is changed, and no other. -/
theorem cmdOf_updCmd (s : State) (k j : Nat) (f : Cmd → Cmd) : cmdOf (updCmd s k f) j = if k = j then (cmdOf s k).map f else cmdOf s j := by
  unfold updCmd
  split
  · next h => split <;> simp_all
  · next c h => simp [cmdOf_setCmd, h]
@[simp] theorem linkOf_updLink_self (s : State) (l : Nat) (f : Link → Link) : linkOf (updLink s l f) l = f (linkOf s l) := by simp [linkOf]
theorem linkOf_updLink_ne (s : State) {l j : Nat} (f : Link → Link) (h : l ≠ j) : linkOf (updLink s l f) j = linkOf s j := by
  simp [linkOf, Map.get_put_ne _ _ _ h]
@[simp] theorem qpOf_updQp_self (s : State) (n : Nat) (f : Qp → Qp) : qpOf (updQp s n f) n = f (qpOf s n) := by simp [qpOf]
theorem qpOf_updQp_ne (s : State) {n m : Nat} (f : Qp → Qp) (h : n ≠ m) : qpOf (updQp s n f) m = qpOf s m := by
  simp [qpOf, Map.get_put_ne _ _ _ h]
theorem regGet_regSet (s : State) (off o : Nat) (v : Word) : regGet (regSet s off v) o = if off = o then v else regGet s o := by
  simp [regGet, Map.get_set]
theorem regGet_cfgSet (s : State) (off o lo len v : Nat) :
    regGet (cfgSet s off lo len v) o = if off = o then setFld (regGet s off) lo len v else regGet s o := by simp [cfgSet, regGet_regSet]
theorem liveGet_liveSet (s : State) (off o : Nat) (v : Word) : liveGet (liveSet s off v) o = if off = o then v else liveGet s o := by
  simp [liveGet, Map.get_set]
theorem mregGet_extend (s : State) (i j : Nat) (x : List Byte) :
    mregGet (extend s i x) j = if i = j then Config.shake256 (natLE 32 (mregGet s i).toNat ++ x) else mregGet s j := by
  simp [mregGet, extend, Map.get_set]

end Sys2Proof.Machine
end

