-- ==== Sys2Proof/Laws/Ops.lean ====
section
/-!
SUPPORT. One lemma for each shared operation that says what it leaves unchanged or can change, and that the operations on the plane keep its
canonical form.
-/
namespace Sys2Proof.Machine

/-! ### Folds -/

/-- What each step of a fold keeps, the fold keeps. -/
theorem foldl_keeps {α β : Type} (p : State → β) {f : State → α → State} (h : ∀ s a, p (f s a) = p s) (l : List α) (s : State) :
    p (l.foldl f s) = p s := by
  induction l generalizing s with
  | nil => rfl
  | cons a t ih => rw [List.foldl_cons, ih, h]

/-! ### Commands and cores -/

/-- A second change of a core stands for both. -/
theorem setCore_setCore (s : State) (c : Nat) (k j : Core) : setCore (setCore s c k) c j = setCore s c j := by
  simp [setCore, Map.put_put]
theorem updCore_updCore (s : State) (c : Nat) (f g : Core → Core) : updCore (updCore s c f) c g = updCore s c (fun k => g (f k)) := by
  simp [updCore, setCore_setCore]

@[simp] theorem updCmd_frame (s : State) (k : Nat) (f : Cmd → Cmd) :
    (updCmd s k f).pending = s.pending ∧ (updCmd s k f).fresh = s.fresh ∧ (updCmd s k f).sent = s.sent ∧ (updCmd s k f).regs = s.regs ∧
    (updCmd s k f).live = s.live ∧ (updCmd s k f).mem = s.mem ∧ (updCmd s k f).sync = s.sync ∧ (updCmd s k f).cores = s.cores ∧
    (updCmd s k f).fab = s.fab ∧ (updCmd s k f).eth = s.eth ∧ (updCmd s k f).flt = s.flt ∧ (updCmd s k f).mram = s.mram ∧
    (updCmd s k f).sec = s.sec ∧ (updCmd s k f).mod = s.mod ∧ (updCmd s k f).dbg = s.dbg ∧ (updCmd s k f).disp.queues = s.disp.queues ∧
    (updCmd s k f).disp.nextRR = s.disp.nextRR ∧ (updCmd s k f).disp.orders = s.disp.orders ∧ (updCmd s k f).disp.grants = s.disp.grants ∧
    (updCmd s k f).disp.lastNo = s.disp.lastNo ∧ (updCmd s k f).disp.current = s.disp.current ∧ (updCmd s k f).disp.waiting = s.disp.waiting ∧
    (updCmd s k f).disp.epoch = s.disp.epoch ∧ (updCmd s k f).disp.phase = s.disp.phase ∧ (updCmd s k f).disp.change = s.disp.change := by
  unfold updCmd; split <;> simp

@[simp] theorem updCmds_frame (s : State) (ks : List Nat) (f : Nat → Cmd → Cmd) :
    (updCmds s ks f).pending = s.pending ∧ (updCmds s ks f).fresh = s.fresh ∧ (updCmds s ks f).sent = s.sent ∧ (updCmds s ks f).regs = s.regs ∧
    (updCmds s ks f).live = s.live ∧ (updCmds s ks f).mem = s.mem ∧ (updCmds s ks f).sync = s.sync ∧ (updCmds s ks f).cores = s.cores ∧
    (updCmds s ks f).fab = s.fab ∧ (updCmds s ks f).eth = s.eth ∧ (updCmds s ks f).flt = s.flt ∧ (updCmds s ks f).mram = s.mram ∧
    (updCmds s ks f).sec = s.sec ∧ (updCmds s ks f).mod = s.mod ∧ (updCmds s ks f).dbg = s.dbg ∧ (updCmds s ks f).disp.queues = s.disp.queues ∧
    (updCmds s ks f).disp.nextRR = s.disp.nextRR ∧ (updCmds s ks f).disp.orders = s.disp.orders ∧ (updCmds s ks f).disp.grants = s.disp.grants ∧
    (updCmds s ks f).disp.lastNo = s.disp.lastNo ∧ (updCmds s ks f).disp.current = s.disp.current ∧
    (updCmds s ks f).disp.waiting = s.disp.waiting ∧ (updCmds s ks f).disp.epoch = s.disp.epoch ∧ (updCmds s ks f).disp.phase = s.disp.phase ∧
    (updCmds s ks f).disp.change = s.disp.change := by
  refine ⟨foldl_keeps (·.pending) (fun s a => by simp) ks s, foldl_keeps (·.fresh) (fun s a => by simp) ks s, foldl_keeps (·.sent) (fun s a => by simp) ks s, foldl_keeps (·.regs) (fun s a => by simp) ks s, foldl_keeps (·.live) (fun s a => by simp) ks s, foldl_keeps (·.mem) (fun s a => by simp) ks s, foldl_keeps (·.sync) (fun s a => by simp) ks s, foldl_keeps (·.cores) (fun s a => by simp) ks s, foldl_keeps (·.fab) (fun s a => by simp) ks s, foldl_keeps (·.eth) (fun s a => by simp) ks s, foldl_keeps (·.flt) (fun s a => by simp) ks s, foldl_keeps (·.mram) (fun s a => by simp) ks s, foldl_keeps (·.sec) (fun s a => by simp) ks s, foldl_keeps (·.mod) (fun s a => by simp) ks s, foldl_keeps (·.dbg) (fun s a => by simp) ks s, foldl_keeps (·.disp.queues) (fun s a => by simp) ks s, foldl_keeps (·.disp.nextRR) (fun s a => by simp) ks s, foldl_keeps (·.disp.orders) (fun s a => by simp) ks s, foldl_keeps (·.disp.grants) (fun s a => by simp) ks s, foldl_keeps (·.disp.lastNo) (fun s a => by simp) ks s, foldl_keeps (·.disp.current) (fun s a => by simp) ks s, foldl_keeps (·.disp.waiting) (fun s a => by simp) ks s, foldl_keeps (·.disp.epoch) (fun s a => by simp) ks s, foldl_keeps (·.disp.phase) (fun s a => by simp) ks s, foldl_keeps (·.disp.change) (fun s a => by simp) ks s⟩

@[simp] theorem updCores_frame (s : State) (cs : List Nat) (f : Nat → Core → Core) :
    (updCores s cs f).pending = s.pending ∧ (updCores s cs f).fresh = s.fresh ∧ (updCores s cs f).sent = s.sent ∧
    (updCores s cs f).regs = s.regs ∧ (updCores s cs f).live = s.live ∧ (updCores s cs f).mem = s.mem ∧ (updCores s cs f).sync = s.sync ∧
    (updCores s cs f).disp = s.disp ∧ (updCores s cs f).fab = s.fab ∧ (updCores s cs f).eth = s.eth ∧ (updCores s cs f).flt = s.flt ∧
    (updCores s cs f).mram = s.mram ∧ (updCores s cs f).sec = s.sec ∧ (updCores s cs f).mod = s.mod ∧ (updCores s cs f).dbg = s.dbg := by
  refine ⟨foldl_keeps (·.pending) (fun s a => by simp) cs s, foldl_keeps (·.fresh) (fun s a => by simp) cs s, foldl_keeps (·.sent) (fun s a => by simp) cs s, foldl_keeps (·.regs) (fun s a => by simp) cs s, foldl_keeps (·.live) (fun s a => by simp) cs s, foldl_keeps (·.mem) (fun s a => by simp) cs s, foldl_keeps (·.sync) (fun s a => by simp) cs s, foldl_keeps (·.disp) (fun s a => by simp) cs s, foldl_keeps (·.fab) (fun s a => by simp) cs s, foldl_keeps (·.eth) (fun s a => by simp) cs s, foldl_keeps (·.flt) (fun s a => by simp) cs s, foldl_keeps (·.mram) (fun s a => by simp) cs s, foldl_keeps (·.sec) (fun s a => by simp) cs s, foldl_keeps (·.mod) (fun s a => by simp) cs s, foldl_keeps (·.dbg) (fun s a => by simp) cs s⟩

/-! ### Memory -/

@[simp] theorem poison_frame (s : State) (a : Nat) :
    (poison s a).pending = s.pending ∧ (poison s a).fresh = s.fresh ∧ (poison s a).sent = s.sent ∧ (poison s a).regs = s.regs ∧
    (poison s a).live = s.live ∧ (poison s a).sync = s.sync ∧ (poison s a).cores = s.cores ∧ (poison s a).disp = s.disp ∧
    (poison s a).fab = s.fab ∧ (poison s a).eth = s.eth ∧ (poison s a).flt = s.flt ∧ (poison s a).mram = s.mram ∧ (poison s a).sec = s.sec ∧
    (poison s a).mod = s.mod ∧ (poison s a).dbg = s.dbg ∧ (poison s a).mem.plane = s.mem.plane ∧ (poison s a).mem.cache = s.mem.cache ∧
    (poison s a).mem.plru = s.mem.plru ∧ (poison s a).mem.fills = s.mem.fills ∧ (poison s a).mem.entries = s.mem.entries ∧
    (poison s a).mem.scheds = s.mem.scheds ∧ (poison s a).mem.dists = s.mem.dists ∧ (poison s a).mem.wcache = s.mem.wcache := by
  unfold poison; split <;> simp

theorem planeByte_planeWrite_outside (s : State) (a x : Nat) (bs : List Byte) (h : x < a ∨ a + bs.length ≤ x) :
    planeByte (planeWrite s a bs) x = planeByte s x := Map.get_setRun_outside planeDefault bs _ _ _ h
theorem planeByte_planeWrite_inside (s : State) (a i : Nat) (bs : List Byte) (h : i < bs.length) :
    planeByte (planeWrite s a bs) (a + i) = bs[i] := Map.get_setRun_inside planeDefault bs _ _ _ h
@[simp] theorem planeByte_planeWriteMsg (s : State) (a x : Nat) (bs : List Byte) : planeByte (planeWriteMsg s a bs) x = planeByte (planeWrite s a bs) x := rfl
/-- What keeps the plane keeps every byte of it. -/
theorem planeByte_congr {s t : State} (h : t.mem.plane = s.mem.plane) (a : Nat) : planeByte t a = planeByte s a := by simp [planeByte, h]
theorem planeRead_congr {s t : State} (h : t.mem.plane = s.mem.plane) (a n : Nat) : planeRead t a n = planeRead s a n := by
  simp [planeRead, planeByte, h]
theorem planeNat_congr {s t : State} (h : t.mem.plane = s.mem.plane) (a n : Nat) : planeNat t a n = planeNat s a n := by
  simp [planeNat, planeRead_congr h]

/-- Every operation that writes the plane keeps its canonical form. -/
theorem wf_planeWrite (s : State) (a : Nat) (bs : List Byte) (h : s.mem.wf) : (planeWrite s a bs).mem.wf := Map.canonical_setRun bs a h
theorem wf_planeWriteMsg (s : State) (a : Nat) (bs : List Byte) (h : s.mem.wf) : (planeWriteMsg s a bs).mem.wf := wf_planeWrite s a bs h
theorem wf_poison (s : State) (a : Nat) (h : s.mem.wf) : (poison s a).mem.wf := by
  simpa [Memory.wf, (poison_frame s a)] using h
theorem wf_unpoison (s : State) (a : Nat) (h : s.mem.wf) : (unpoison s a).mem.wf := h
theorem wf_clear (s : State) (lo hi : Nat) (h : s.mem.wf) :
    ({ s with mem := { s.mem with plane := Map.clear s.mem.plane lo hi } } : State).mem.wf := Map.canonical_clear lo hi h
theorem wf_reset : State.reset.mem.wf := Map.canonical_nil _

/-! ### Counters -/

@[simp] theorem fireWatch_frame (v : Word) (s : State) (w : Waiter) :
    (fireWatch v s w).pending = s.pending ∧ (fireWatch v s w).fresh = s.fresh ∧ (fireWatch v s w).sent = s.sent ∧
    (fireWatch v s w).regs = s.regs ∧ (fireWatch v s w).live = s.live ∧ (fireWatch v s w).cores = s.cores ∧ (fireWatch v s w).disp = s.disp ∧
    (fireWatch v s w).fab = s.fab ∧ (fireWatch v s w).eth = s.eth ∧ (fireWatch v s w).flt = s.flt ∧ (fireWatch v s w).mram = s.mram ∧
    (fireWatch v s w).sec = s.sec ∧ (fireWatch v s w).mod = s.mod ∧ (fireWatch v s w).dbg = s.dbg ∧ (fireWatch v s w).mem.plane = s.mem.plane ∧
    (fireWatch v s w).mem.poison = s.mem.poison ∧ (fireWatch v s w).sync.counters = s.sync.counters ∧
    (fireWatch v s w).sync.inflight = s.sync.inflight := by
  unfold fireWatch; split <;> simp [markUrgent]

/-- All that adding to a counter can do to the counters: the one named stops at the largest value. -/
theorem ctrGet_ctrAdd (s : State) (n m inc : Nat) :
    ctrGet (ctrAdd s n inc) m = if n = m then BitVec.ofNat 64 (Nat.min ((ctrGet s n).toNat + inc) (2 ^ 64 - 1)) else ctrGet s m := by
  simp only [ctrAdd, ctrGet]
  rw [foldl_keeps (·.sync.counters) (fun s a => by simp)]
  exact Map.get_set _ _ _ _ _

@[simp] theorem ctrAdd_frame (s : State) (n inc : Nat) :
    (ctrAdd s n inc).pending = s.pending ∧ (ctrAdd s n inc).fresh = s.fresh ∧ (ctrAdd s n inc).sent = s.sent ∧ (ctrAdd s n inc).regs = s.regs ∧
    (ctrAdd s n inc).live = s.live ∧ (ctrAdd s n inc).cores = s.cores ∧ (ctrAdd s n inc).disp = s.disp ∧ (ctrAdd s n inc).fab = s.fab ∧
    (ctrAdd s n inc).eth = s.eth ∧ (ctrAdd s n inc).flt = s.flt ∧ (ctrAdd s n inc).mram = s.mram ∧ (ctrAdd s n inc).sec = s.sec ∧
    (ctrAdd s n inc).mod = s.mod ∧ (ctrAdd s n inc).dbg = s.dbg ∧ (ctrAdd s n inc).mem.plane = s.mem.plane ∧
    (ctrAdd s n inc).mem.poison = s.mem.poison ∧ (ctrAdd s n inc).sync.inflight = s.sync.inflight := by
  unfold ctrAdd
  refine ⟨by rw [foldl_keeps (·.pending) (fun s a => by simp)], by rw [foldl_keeps (·.fresh) (fun s a => by simp)], by rw [foldl_keeps (·.sent) (fun s a => by simp)], by rw [foldl_keeps (·.regs) (fun s a => by simp)], by rw [foldl_keeps (·.live) (fun s a => by simp)], by rw [foldl_keeps (·.cores) (fun s a => by simp)], by rw [foldl_keeps (·.disp) (fun s a => by simp)], by rw [foldl_keeps (·.fab) (fun s a => by simp)], by rw [foldl_keeps (·.eth) (fun s a => by simp)], by rw [foldl_keeps (·.flt) (fun s a => by simp)], by rw [foldl_keeps (·.mram) (fun s a => by simp)], by rw [foldl_keeps (·.sec) (fun s a => by simp)], by rw [foldl_keeps (·.mod) (fun s a => by simp)], by rw [foldl_keeps (·.dbg) (fun s a => by simp)], by rw [foldl_keeps (·.mem.plane) (fun s a => by simp)], by rw [foldl_keeps (·.mem.poison) (fun s a => by simp)], by rw [foldl_keeps (·.sync.inflight) (fun s a => by simp)]⟩

/-! ### The error log -/

@[simp] theorem noteIndex_frame (s : State) (k : Option Nat) (i : Nat) :
    (noteIndex s k i).pending = s.pending ∧ (noteIndex s k i).fresh = s.fresh ∧ (noteIndex s k i).sent = s.sent ∧
    (noteIndex s k i).regs = s.regs ∧ (noteIndex s k i).live = s.live ∧ (noteIndex s k i).mem = s.mem ∧ (noteIndex s k i).sync = s.sync ∧
    (noteIndex s k i).cores = s.cores ∧ (noteIndex s k i).fab = s.fab ∧ (noteIndex s k i).eth = s.eth ∧ (noteIndex s k i).flt = s.flt ∧
    (noteIndex s k i).mram = s.mram ∧ (noteIndex s k i).sec = s.sec ∧ (noteIndex s k i).mod = s.mod ∧ (noteIndex s k i).dbg = s.dbg ∧
    (noteIndex s k i).disp.queues = s.disp.queues ∧ (noteIndex s k i).disp.nextRR = s.disp.nextRR ∧
    (noteIndex s k i).disp.orders = s.disp.orders ∧ (noteIndex s k i).disp.grants = s.disp.grants ∧
    (noteIndex s k i).disp.lastNo = s.disp.lastNo ∧ (noteIndex s k i).disp.current = s.disp.current ∧
    (noteIndex s k i).disp.waiting = s.disp.waiting ∧ (noteIndex s k i).disp.epoch = s.disp.epoch ∧ (noteIndex s k i).disp.phase = s.disp.phase ∧
    (noteIndex s k i).disp.change = s.disp.change := by
  unfold noteIndex; split <;> simp

@[simp] theorem logAppend_frame (s : State) (rs : List ErrRec) :
    (logAppend s rs).pending = s.pending ∧ (logAppend s rs).fresh = s.fresh ∧ (logAppend s rs).sent = s.sent ∧ (logAppend s rs).regs = s.regs ∧
    (logAppend s rs).mem = s.mem ∧ (logAppend s rs).sync = s.sync ∧ (logAppend s rs).cores = s.cores ∧ (logAppend s rs).fab = s.fab ∧
    (logAppend s rs).eth = s.eth ∧ (logAppend s rs).mram = s.mram ∧ (logAppend s rs).sec = s.sec ∧ (logAppend s rs).mod = s.mod ∧
    (logAppend s rs).dbg = s.dbg ∧ (logAppend s rs).flt.coreFence = s.flt.coreFence ∧ (logAppend s rs).flt.chanFence = s.flt.chanFence ∧
    (logAppend s rs).flt.tests = s.flt.tests := by
  simp only [logAppend]
  generalize logMakeRoom _ _ _ _ = room
  repeat' split
  all_goals simp

@[simp] theorem logRec_frame (s : State) (r : ErrRec) :
    (logRec s r).pending = s.pending ∧ (logRec s r).fresh = s.fresh ∧ (logRec s r).sent = s.sent ∧ (logRec s r).regs = s.regs ∧
    (logRec s r).mem = s.mem ∧ (logRec s r).sync = s.sync ∧ (logRec s r).cores = s.cores ∧ (logRec s r).fab = s.fab ∧ (logRec s r).eth = s.eth ∧
    (logRec s r).mram = s.mram ∧ (logRec s r).sec = s.sec ∧ (logRec s r).mod = s.mod ∧ (logRec s r).dbg = s.dbg ∧
    (logRec s r).flt.coreFence = s.flt.coreFence ∧ (logRec s r).flt.chanFence = s.flt.chanFence ∧ (logRec s r).flt.tests = s.flt.tests := by
  simp [logRec]

@[simp] theorem markClamped_frame (o : Origin) (s : State) :
    (markClamped o s).pending = s.pending ∧ (markClamped o s).fresh = s.fresh ∧ (markClamped o s).sent = s.sent ∧
    (markClamped o s).regs = s.regs ∧ (markClamped o s).live = s.live ∧ (markClamped o s).mem = s.mem ∧ (markClamped o s).sync = s.sync ∧
    (markClamped o s).cores = s.cores ∧ (markClamped o s).fab = s.fab ∧ (markClamped o s).eth = s.eth ∧ (markClamped o s).flt = s.flt ∧
    (markClamped o s).mram = s.mram ∧ (markClamped o s).sec = s.sec ∧ (markClamped o s).mod = s.mod ∧ (markClamped o s).dbg = s.dbg ∧
    (markClamped o s).disp.queues = s.disp.queues ∧ (markClamped o s).disp.nextRR = s.disp.nextRR ∧
    (markClamped o s).disp.orders = s.disp.orders ∧ (markClamped o s).disp.grants = s.disp.grants ∧
    (markClamped o s).disp.lastNo = s.disp.lastNo ∧ (markClamped o s).disp.current = s.disp.current ∧
    (markClamped o s).disp.waiting = s.disp.waiting ∧ (markClamped o s).disp.epoch = s.disp.epoch ∧ (markClamped o s).disp.phase = s.disp.phase ∧
    (markClamped o s).disp.change = s.disp.change := by
  unfold markClamped; split <;> simp

@[simp] theorem countClamp_frame (o : Origin) (d r a : Nat) (s : State) :
    (countClamp o d r a s).pending = s.pending ∧ (countClamp o d r a s).fresh = s.fresh ∧ (countClamp o d r a s).sent = s.sent ∧
    (countClamp o d r a s).regs = s.regs ∧ (countClamp o d r a s).live = s.live ∧ (countClamp o d r a s).mem = s.mem ∧
    (countClamp o d r a s).sync = s.sync ∧ (countClamp o d r a s).cores = s.cores ∧ (countClamp o d r a s).disp = s.disp ∧
    (countClamp o d r a s).fab = s.fab ∧ (countClamp o d r a s).eth = s.eth ∧ (countClamp o d r a s).flt = s.flt ∧
    (countClamp o d r a s).sec = s.sec ∧ (countClamp o d r a s).mod = s.mod ∧ (countClamp o d r a s).dbg = s.dbg ∧
    (countClamp o d r a s).mram.imageA = s.mram.imageA ∧ (countClamp o d r a s).mram.imageB = s.mram.imageB := by
  unfold countClamp; split <;> simp

@[simp] theorem reportClamp_frame (s : State) (o : Origin) (r off lo len req app : Nat) :
    (reportClamp s o r off lo len req app).pending = s.pending ∧ (reportClamp s o r off lo len req app).fresh = s.fresh ∧
    (reportClamp s o r off lo len req app).sent = s.sent ∧ (reportClamp s o r off lo len req app).regs = s.regs ∧
    (reportClamp s o r off lo len req app).mem = s.mem ∧ (reportClamp s o r off lo len req app).sync = s.sync ∧
    (reportClamp s o r off lo len req app).cores = s.cores ∧ (reportClamp s o r off lo len req app).fab = s.fab ∧
    (reportClamp s o r off lo len req app).eth = s.eth ∧ (reportClamp s o r off lo len req app).sec = s.sec ∧
    (reportClamp s o r off lo len req app).mod = s.mod ∧ (reportClamp s o r off lo len req app).dbg = s.dbg ∧
    (reportClamp s o r off lo len req app).flt.coreFence = s.flt.coreFence ∧
    (reportClamp s o r off lo len req app).flt.chanFence = s.flt.chanFence ∧ (reportClamp s o r off lo len req app).flt.tests = s.flt.tests ∧
    (reportClamp s o r off lo len req app).mram.imageA = s.mram.imageA ∧ (reportClamp s o r off lo len req app).mram.imageB = s.mram.imageB := by
  simp [reportClamp]

@[simp] theorem reportRefused_frame (s : State) (off : Nat) (req kept : Word) :
    (reportRefused s off req kept).pending = s.pending ∧ (reportRefused s off req kept).fresh = s.fresh ∧
    (reportRefused s off req kept).sent = s.sent ∧ (reportRefused s off req kept).regs = s.regs ∧ (reportRefused s off req kept).mem = s.mem ∧
    (reportRefused s off req kept).sync = s.sync ∧ (reportRefused s off req kept).cores = s.cores ∧ (reportRefused s off req kept).fab = s.fab ∧
    (reportRefused s off req kept).eth = s.eth ∧ (reportRefused s off req kept).mram = s.mram ∧ (reportRefused s off req kept).sec = s.sec ∧
    (reportRefused s off req kept).mod = s.mod ∧ (reportRefused s off req kept).dbg = s.dbg ∧
    (reportRefused s off req kept).flt.coreFence = s.flt.coreFence ∧ (reportRefused s off req kept).flt.chanFence = s.flt.chanFence ∧
    (reportRefused s off req kept).flt.tests = s.flt.tests := by
  simp [reportRefused, reportClamp, countClamp]

@[simp] theorem thermalRec_frame (s : State) (r o : Nat) :
    (thermalRec s r o).pending = s.pending ∧ (thermalRec s r o).fresh = s.fresh ∧ (thermalRec s r o).sent = s.sent ∧
    (thermalRec s r o).regs = s.regs ∧ (thermalRec s r o).mem = s.mem ∧ (thermalRec s r o).sync = s.sync ∧ (thermalRec s r o).cores = s.cores ∧
    (thermalRec s r o).fab = s.fab ∧ (thermalRec s r o).eth = s.eth ∧ (thermalRec s r o).mram = s.mram ∧ (thermalRec s r o).sec = s.sec ∧
    (thermalRec s r o).mod = s.mod ∧ (thermalRec s r o).dbg = s.dbg ∧ (thermalRec s r o).flt.coreFence = s.flt.coreFence ∧
    (thermalRec s r o).flt.chanFence = s.flt.chanFence ∧ (thermalRec s r o).flt.tests = s.flt.tests := by
  simp [thermalRec]

@[simp] theorem linkRec_frame (s : State) (c r l o : Nat) :
    (linkRec s c r l o).pending = s.pending ∧ (linkRec s c r l o).fresh = s.fresh ∧ (linkRec s c r l o).sent = s.sent ∧
    (linkRec s c r l o).regs = s.regs ∧ (linkRec s c r l o).mem = s.mem ∧ (linkRec s c r l o).sync = s.sync ∧
    (linkRec s c r l o).cores = s.cores ∧ (linkRec s c r l o).fab = s.fab ∧ (linkRec s c r l o).eth = s.eth ∧ (linkRec s c r l o).mram = s.mram ∧
    (linkRec s c r l o).sec = s.sec ∧ (linkRec s c r l o).mod = s.mod ∧ (linkRec s c r l o).dbg = s.dbg ∧
    (linkRec s c r l o).flt.coreFence = s.flt.coreFence ∧ (linkRec s c r l o).flt.chanFence = s.flt.chanFence ∧
    (linkRec s c r l o).flt.tests = s.flt.tests := by
  simp [linkRec]

@[simp] theorem ethRec_frame (s : State) (c r e : Nat) (k : Option Nat) (o : Nat) :
    (ethRec s c r e k o).pending = s.pending ∧ (ethRec s c r e k o).fresh = s.fresh ∧ (ethRec s c r e k o).sent = s.sent ∧
    (ethRec s c r e k o).regs = s.regs ∧ (ethRec s c r e k o).mem = s.mem ∧ (ethRec s c r e k o).sync = s.sync ∧
    (ethRec s c r e k o).cores = s.cores ∧ (ethRec s c r e k o).fab = s.fab ∧ (ethRec s c r e k o).eth = s.eth ∧
    (ethRec s c r e k o).mram = s.mram ∧ (ethRec s c r e k o).sec = s.sec ∧ (ethRec s c r e k o).mod = s.mod ∧ (ethRec s c r e k o).dbg = s.dbg ∧
    (ethRec s c r e k o).flt.coreFence = s.flt.coreFence ∧ (ethRec s c r e k o).flt.chanFence = s.flt.chanFence ∧
    (ethRec s c r e k o).flt.tests = s.flt.tests := by
  simp [ethRec]

@[simp] theorem dispRec_frame (s : State) (k : Option Nat) (r o l : Nat) :
    (dispRec s k r o l).pending = s.pending ∧ (dispRec s k r o l).fresh = s.fresh ∧ (dispRec s k r o l).sent = s.sent ∧
    (dispRec s k r o l).regs = s.regs ∧ (dispRec s k r o l).mem = s.mem ∧ (dispRec s k r o l).sync = s.sync ∧
    (dispRec s k r o l).cores = s.cores ∧ (dispRec s k r o l).fab = s.fab ∧ (dispRec s k r o l).eth = s.eth ∧ (dispRec s k r o l).mram = s.mram ∧
    (dispRec s k r o l).sec = s.sec ∧ (dispRec s k r o l).mod = s.mod ∧ (dispRec s k r o l).dbg = s.dbg ∧
    (dispRec s k r o l).flt.coreFence = s.flt.coreFence ∧ (dispRec s k r o l).flt.chanFence = s.flt.chanFence ∧
    (dispRec s k r o l).flt.tests = s.flt.tests := by
  simp [dispRec]

/-! ### Ends and kills -/

@[simp] theorem endOne_frame (st : Status) (s : State) (k : Nat) :
    (endOne st s k).pending = s.pending ∧ (endOne st s k).fresh = s.fresh ∧ (endOne st s k).sent = s.sent ∧ (endOne st s k).regs = s.regs ∧
    (endOne st s k).live = s.live ∧ (endOne st s k).cores = s.cores ∧ (endOne st s k).fab = s.fab ∧ (endOne st s k).eth = s.eth ∧
    (endOne st s k).flt = s.flt ∧ (endOne st s k).mram = s.mram ∧ (endOne st s k).sec = s.sec ∧ (endOne st s k).mod = s.mod ∧
    (endOne st s k).dbg = s.dbg ∧ (endOne st s k).mem.plane = s.mem.plane ∧ (endOne st s k).mem.poison = s.mem.poison := by
  unfold endOne; dsimp only; repeat' split
  all_goals simp

@[simp] theorem endOnes_frame (st : Status) (s : State) (ks : List Nat) :
    (ks.foldl (endOne st) s).pending = s.pending ∧ (ks.foldl (endOne st) s).fresh = s.fresh ∧ (ks.foldl (endOne st) s).sent = s.sent ∧
    (ks.foldl (endOne st) s).regs = s.regs ∧ (ks.foldl (endOne st) s).live = s.live ∧ (ks.foldl (endOne st) s).cores = s.cores ∧
    (ks.foldl (endOne st) s).fab = s.fab ∧ (ks.foldl (endOne st) s).eth = s.eth ∧ (ks.foldl (endOne st) s).flt = s.flt ∧
    (ks.foldl (endOne st) s).mram = s.mram ∧ (ks.foldl (endOne st) s).sec = s.sec ∧ (ks.foldl (endOne st) s).mod = s.mod ∧
    (ks.foldl (endOne st) s).dbg = s.dbg ∧ (ks.foldl (endOne st) s).mem.plane = s.mem.plane ∧
    (ks.foldl (endOne st) s).mem.poison = s.mem.poison := by
  refine ⟨foldl_keeps (·.pending) (fun s a => by simp) ks s, foldl_keeps (·.fresh) (fun s a => by simp) ks s, foldl_keeps (·.sent) (fun s a => by simp) ks s, foldl_keeps (·.regs) (fun s a => by simp) ks s, foldl_keeps (·.live) (fun s a => by simp) ks s, foldl_keeps (·.cores) (fun s a => by simp) ks s, foldl_keeps (·.fab) (fun s a => by simp) ks s, foldl_keeps (·.eth) (fun s a => by simp) ks s, foldl_keeps (·.flt) (fun s a => by simp) ks s, foldl_keeps (·.mram) (fun s a => by simp) ks s, foldl_keeps (·.sec) (fun s a => by simp) ks s, foldl_keeps (·.mod) (fun s a => by simp) ks s, foldl_keeps (·.dbg) (fun s a => by simp) ks s, foldl_keeps (·.mem.plane) (fun s a => by simp) ks s, foldl_keeps (·.mem.poison) (fun s a => by simp) ks s⟩

@[simp] theorem endSet_frame (st : Status) (s : State) (k : Nat) :
    (endSet st s k).pending = s.pending ∧ (endSet st s k).fresh = s.fresh ∧ (endSet st s k).sent = s.sent ∧ (endSet st s k).regs = s.regs ∧
    (endSet st s k).live = s.live ∧ (endSet st s k).cores = s.cores ∧ (endSet st s k).fab = s.fab ∧ (endSet st s k).eth = s.eth ∧
    (endSet st s k).flt = s.flt ∧ (endSet st s k).mram = s.mram ∧ (endSet st s k).sec = s.sec ∧ (endSet st s k).mod = s.mod ∧
    (endSet st s k).dbg = s.dbg ∧ (endSet st s k).mem.plane = s.mem.plane ∧ (endSet st s k).mem.poison = s.mem.poison := by
  unfold endSet; dsimp only; repeat' split
  all_goals simp

@[simp] theorem startKill_frame (w : AfterKill) (s : State) (k : Nat) :
    (startKill w s k).pending = s.pending ∧ (startKill w s k).fresh = s.fresh ∧ (startKill w s k).sent = s.sent ∧
    (startKill w s k).regs = s.regs ∧ (startKill w s k).live = s.live ∧ (startKill w s k).eth = s.eth ∧ (startKill w s k).flt = s.flt ∧
    (startKill w s k).mram = s.mram ∧ (startKill w s k).sec = s.sec ∧ (startKill w s k).mod = s.mod ∧ (startKill w s k).dbg = s.dbg ∧
    (startKill w s k).mem.plane = s.mem.plane ∧ (startKill w s k).mem.poison = s.mem.poison := by
  unfold startKill; simp

@[simp] theorem failCmd_frame (s : State) (k : Nat) :
    (failCmd s k).pending = s.pending ∧ (failCmd s k).fresh = s.fresh ∧ (failCmd s k).sent = s.sent ∧ (failCmd s k).regs = s.regs ∧
    (failCmd s k).live = s.live ∧ (failCmd s k).eth = s.eth ∧ (failCmd s k).flt = s.flt ∧ (failCmd s k).mram = s.mram ∧
    (failCmd s k).sec = s.sec ∧ (failCmd s k).mod = s.mod ∧ (failCmd s k).dbg = s.dbg ∧ (failCmd s k).mem.plane = s.mem.plane ∧
    (failCmd s k).mem.poison = s.mem.poison := by
  unfold failCmd; repeat' split
  all_goals simp

@[simp] theorem failWith_frame (s : State) (k : Nat) (r : ErrRec) :
    (failWith s k r).pending = s.pending ∧ (failWith s k r).fresh = s.fresh ∧ (failWith s k r).sent = s.sent ∧ (failWith s k r).regs = s.regs ∧
    (failWith s k r).eth = s.eth ∧ (failWith s k r).mram = s.mram ∧ (failWith s k r).sec = s.sec ∧ (failWith s k r).mod = s.mod ∧
    (failWith s k r).dbg = s.dbg ∧ (failWith s k r).mem.plane = s.mem.plane ∧ (failWith s k r).mem.poison = s.mem.poison ∧
    (failWith s k r).flt.coreFence = s.flt.coreFence ∧ (failWith s k r).flt.chanFence = s.flt.chanFence ∧
    (failWith s k r).flt.tests = s.flt.tests := by
  simp [failWith]

@[simp] theorem failDisp_frame (s : State) (k r o l : Nat) :
    (failDisp s k r o l).pending = s.pending ∧ (failDisp s k r o l).fresh = s.fresh ∧ (failDisp s k r o l).sent = s.sent ∧
    (failDisp s k r o l).regs = s.regs ∧ (failDisp s k r o l).eth = s.eth ∧ (failDisp s k r o l).mram = s.mram ∧
    (failDisp s k r o l).sec = s.sec ∧ (failDisp s k r o l).mod = s.mod ∧ (failDisp s k r o l).dbg = s.dbg ∧
    (failDisp s k r o l).mem.plane = s.mem.plane ∧ (failDisp s k r o l).mem.poison = s.mem.poison ∧
    (failDisp s k r o l).flt.coreFence = s.flt.coreFence ∧ (failDisp s k r o l).flt.chanFence = s.flt.chanFence ∧
    (failDisp s k r o l).flt.tests = s.flt.tests := by
  simp [failDisp]

@[simp] theorem errorKill_frame (s : State) (k c u : Nat) :
    (errorKill s k c u).pending = s.pending ∧ (errorKill s k c u).fresh = s.fresh ∧ (errorKill s k c u).sent = s.sent ∧
    (errorKill s k c u).regs = s.regs ∧ (errorKill s k c u).live = s.live ∧ (errorKill s k c u).eth = s.eth ∧ (errorKill s k c u).flt = s.flt ∧
    (errorKill s k c u).mram = s.mram ∧ (errorKill s k c u).sec = s.sec ∧ (errorKill s k c u).mod = s.mod ∧ (errorKill s k c u).dbg = s.dbg ∧
    (errorKill s k c u).mem.plane = s.mem.plane ∧ (errorKill s k c u).mem.poison = s.mem.poison := by
  unfold errorKill; repeat' split
  all_goals simp

@[simp] theorem failPoison_frame (s : State) (k l : Nat) (e : Option Nat) (a : Nat) :
    (failPoison s k l e a).pending = s.pending ∧ (failPoison s k l e a).fresh = s.fresh ∧ (failPoison s k l e a).sent = s.sent ∧
    (failPoison s k l e a).regs = s.regs ∧ (failPoison s k l e a).eth = s.eth ∧ (failPoison s k l e a).mram = s.mram ∧
    (failPoison s k l e a).sec = s.sec ∧ (failPoison s k l e a).mod = s.mod ∧ (failPoison s k l e a).dbg = s.dbg ∧
    (failPoison s k l e a).mem.plane = s.mem.plane ∧ (failPoison s k l e a).mem.poison = s.mem.poison ∧
    (failPoison s k l e a).flt.coreFence = s.flt.coreFence ∧ (failPoison s k l e a).flt.chanFence = s.flt.chanFence ∧
    (failPoison s k l e a).flt.tests = s.flt.tests := by
  simp [failPoison]

@[simp] theorem failFenced_frame (s : State) (k c u : Nat) :
    (failFenced s k c u).pending = s.pending ∧ (failFenced s k c u).fresh = s.fresh ∧ (failFenced s k c u).sent = s.sent ∧
    (failFenced s k c u).regs = s.regs ∧ (failFenced s k c u).eth = s.eth ∧ (failFenced s k c u).mram = s.mram ∧
    (failFenced s k c u).sec = s.sec ∧ (failFenced s k c u).mod = s.mod ∧ (failFenced s k c u).dbg = s.dbg ∧
    (failFenced s k c u).mem.plane = s.mem.plane ∧ (failFenced s k c u).mem.poison = s.mem.poison ∧
    (failFenced s k c u).flt.coreFence = s.flt.coreFence ∧ (failFenced s k c u).flt.chanFence = s.flt.chanFence ∧
    (failFenced s k c u).flt.tests = s.flt.tests := by
  simp [failFenced]

/-! ### Staging -/

@[simp] theorem stagePut_frame (s : State) (k a : Nat) (bs : List Byte) (t : Bool) :
    (stagePut s k a bs t).pending = s.pending ∧ (stagePut s k a bs t).fresh = s.fresh ∧ (stagePut s k a bs t).sent = s.sent ∧
    (stagePut s k a bs t).regs = s.regs ∧ (stagePut s k a bs t).live = s.live ∧ (stagePut s k a bs t).mem = s.mem ∧
    (stagePut s k a bs t).sync = s.sync ∧ (stagePut s k a bs t).cores = s.cores ∧ (stagePut s k a bs t).fab = s.fab ∧
    (stagePut s k a bs t).eth = s.eth ∧ (stagePut s k a bs t).flt = s.flt ∧ (stagePut s k a bs t).mram = s.mram ∧
    (stagePut s k a bs t).sec = s.sec ∧ (stagePut s k a bs t).mod = s.mod ∧ (stagePut s k a bs t).dbg = s.dbg ∧
    (stagePut s k a bs t).disp.queues = s.disp.queues ∧ (stagePut s k a bs t).disp.nextRR = s.disp.nextRR ∧
    (stagePut s k a bs t).disp.orders = s.disp.orders ∧ (stagePut s k a bs t).disp.grants = s.disp.grants ∧
    (stagePut s k a bs t).disp.lastNo = s.disp.lastNo ∧ (stagePut s k a bs t).disp.current = s.disp.current ∧
    (stagePut s k a bs t).disp.waiting = s.disp.waiting ∧ (stagePut s k a bs t).disp.epoch = s.disp.epoch ∧
    (stagePut s k a bs t).disp.phase = s.disp.phase ∧ (stagePut s k a bs t).disp.change = s.disp.change := by
  simp [stagePut]

@[simp] theorem breakUnit_frame (s : State) (c : Nat) (e : Option Nat) :
    (breakUnit c e s).pending = s.pending ∧ (breakUnit c e s).fresh = s.fresh ∧ (breakUnit c e s).sent = s.sent ∧
    (breakUnit c e s).regs = s.regs ∧ (breakUnit c e s).live = s.live ∧ (breakUnit c e s).mem = s.mem ∧ (breakUnit c e s).sync = s.sync ∧
    (breakUnit c e s).disp = s.disp ∧ (breakUnit c e s).fab = s.fab ∧ (breakUnit c e s).eth = s.eth ∧ (breakUnit c e s).flt = s.flt ∧
    (breakUnit c e s).mram = s.mram ∧ (breakUnit c e s).sec = s.sec ∧ (breakUnit c e s).mod = s.mod ∧ (breakUnit c e s).dbg = s.dbg := by
  unfold breakUnit; repeat' split
  all_goals simp

@[simp] theorem failStage_frame (s : State) (k b o : Nat) (e c : Option Nat) :
    (failStage s k b o e c).pending = s.pending ∧ (failStage s k b o e c).fresh = s.fresh ∧ (failStage s k b o e c).sent = s.sent ∧
    (failStage s k b o e c).regs = s.regs ∧ (failStage s k b o e c).eth = s.eth ∧ (failStage s k b o e c).mram = s.mram ∧
    (failStage s k b o e c).sec = s.sec ∧ (failStage s k b o e c).mod = s.mod ∧ (failStage s k b o e c).dbg = s.dbg ∧
    (failStage s k b o e c).mem.plane = s.mem.plane ∧ (failStage s k b o e c).mem.poison = s.mem.poison ∧
    (failStage s k b o e c).flt.coreFence = s.flt.coreFence ∧ (failStage s k b o e c).flt.chanFence = s.flt.chanFence ∧
    (failStage s k b o e c).flt.tests = s.flt.tests := by
  unfold failStage; dsimp only; repeat' split
  all_goals simp

@[simp] theorem stageBytes_frame (s : State) (k a : Nat) (bs : List Byte) (e c : Option Nat) (t : Bool) :
    (stageBytes s k a bs e c t).pending = s.pending ∧ (stageBytes s k a bs e c t).fresh = s.fresh ∧ (stageBytes s k a bs e c t).sent = s.sent ∧
    (stageBytes s k a bs e c t).regs = s.regs ∧ (stageBytes s k a bs e c t).eth = s.eth ∧ (stageBytes s k a bs e c t).mram = s.mram ∧
    (stageBytes s k a bs e c t).sec = s.sec ∧ (stageBytes s k a bs e c t).mod = s.mod ∧ (stageBytes s k a bs e c t).dbg = s.dbg ∧
    (stageBytes s k a bs e c t).mem.plane = s.mem.plane ∧ (stageBytes s k a bs e c t).mem.poison = s.mem.poison ∧
    (stageBytes s k a bs e c t).flt.coreFence = s.flt.coreFence ∧ (stageBytes s k a bs e c t).flt.chanFence = s.flt.chanFence ∧
    (stageBytes s k a bs e c t).flt.tests = s.flt.tests := by
  unfold stageBytes; dsimp only; split <;> simp

@[simp] theorem stageEgress_frame (s : State) (k : Nat) (g : Egress) (e c : Option Nat) :
    (stageEgress s k g e c).pending = s.pending ∧ (stageEgress s k g e c).fresh = s.fresh ∧ (stageEgress s k g e c).sent = s.sent ∧
    (stageEgress s k g e c).regs = s.regs ∧ (stageEgress s k g e c).eth = s.eth ∧ (stageEgress s k g e c).mram = s.mram ∧
    (stageEgress s k g e c).sec = s.sec ∧ (stageEgress s k g e c).mod = s.mod ∧ (stageEgress s k g e c).dbg = s.dbg ∧
    (stageEgress s k g e c).mem.plane = s.mem.plane ∧ (stageEgress s k g e c).mem.poison = s.mem.poison ∧
    (stageEgress s k g e c).flt.coreFence = s.flt.coreFence ∧ (stageEgress s k g e c).flt.chanFence = s.flt.chanFence ∧
    (stageEgress s k g e c).flt.tests = s.flt.tests := by
  unfold stageEgress counterLimit; dsimp only; repeat' split
  all_goals simp

@[simp] theorem countPort_frame (s : State) (c n : Nat) (o : Bool) :
    (countPort s c n o).pending = s.pending ∧ (countPort s c n o).fresh = s.fresh ∧ (countPort s c n o).sent = s.sent ∧
    (countPort s c n o).regs = s.regs ∧ (countPort s c n o).mem = s.mem ∧ (countPort s c n o).sync = s.sync ∧
    (countPort s c n o).cores = s.cores ∧ (countPort s c n o).disp = s.disp ∧ (countPort s c n o).fab = s.fab ∧ (countPort s c n o).eth = s.eth ∧
    (countPort s c n o).flt = s.flt ∧ (countPort s c n o).mram = s.mram ∧ (countPort s c n o).sec = s.sec ∧ (countPort s c n o).mod = s.mod ∧
    (countPort s c n o).dbg = s.dbg := by
  simp only [countPort]; split <;> simp

@[simp] theorem portSignal_frame (s : State) (n : Nat) (c : Option Nat) :
    (portSignal s n c).pending = s.pending ∧ (portSignal s n c).fresh = s.fresh ∧ (portSignal s n c).sent = s.sent ∧
    (portSignal s n c).regs = s.regs ∧ (portSignal s n c).mem = s.mem ∧ (portSignal s n c).sync = s.sync ∧ (portSignal s n c).cores = s.cores ∧
    (portSignal s n c).disp = s.disp ∧ (portSignal s n c).fab = s.fab ∧ (portSignal s n c).eth = s.eth ∧ (portSignal s n c).flt = s.flt ∧
    (portSignal s n c).mram = s.mram ∧ (portSignal s n c).sec = s.sec ∧ (portSignal s n c).mod = s.mod ∧ (portSignal s n c).dbg = s.dbg := by
  unfold portSignal; repeat' split
  all_goals simp

@[simp] theorem signalOf_frame (s : State) (k n inc : Nat) (c e : Option Nat) (d : Nat) :
    (signalOf s k n inc c e d).pending = s.pending ∧ (signalOf s k n inc c e d).fresh = s.fresh ∧ (signalOf s k n inc c e d).sent = s.sent ∧
    (signalOf s k n inc c e d).regs = s.regs ∧ (signalOf s k n inc c e d).eth = s.eth ∧ (signalOf s k n inc c e d).mram = s.mram ∧
    (signalOf s k n inc c e d).sec = s.sec ∧ (signalOf s k n inc c e d).mod = s.mod ∧ (signalOf s k n inc c e d).dbg = s.dbg ∧
    (signalOf s k n inc c e d).mem.plane = s.mem.plane ∧ (signalOf s k n inc c e d).mem.poison = s.mem.poison ∧
    (signalOf s k n inc c e d).flt.coreFence = s.flt.coreFence ∧ (signalOf s k n inc c e d).flt.chanFence = s.flt.chanFence ∧
    (signalOf s k n inc c e d).flt.tests = s.flt.tests := by
  unfold signalOf counterLimit; dsimp only; repeat' split
  all_goals simp

/-! ### Links -/

@[simp] theorem putFlit_frame (s : State) (l : Nat) (f : Flit) :
    (putFlit s l f).pending = s.pending ∧ (putFlit s l f).fresh = s.fresh ∧ (putFlit s l f).regs = s.regs ∧ (putFlit s l f).live = s.live ∧
    (putFlit s l f).mem = s.mem ∧ (putFlit s l f).sync = s.sync ∧ (putFlit s l f).cores = s.cores ∧ (putFlit s l f).disp = s.disp ∧
    (putFlit s l f).eth = s.eth ∧ (putFlit s l f).flt = s.flt ∧ (putFlit s l f).mram = s.mram ∧ (putFlit s l f).sec = s.sec ∧
    (putFlit s l f).mod = s.mod ∧ (putFlit s l f).dbg = s.dbg := by
  simp [putFlit]

@[simp] theorem sendCtrl_frame (s : State) (l : Nat) (b : List Byte) :
    (sendCtrl s l b).pending = s.pending ∧ (sendCtrl s l b).fresh = s.fresh ∧ (sendCtrl s l b).regs = s.regs ∧ (sendCtrl s l b).mem = s.mem ∧
    (sendCtrl s l b).sync = s.sync ∧ (sendCtrl s l b).cores = s.cores ∧ (sendCtrl s l b).disp = s.disp ∧ (sendCtrl s l b).eth = s.eth ∧
    (sendCtrl s l b).flt = s.flt ∧ (sendCtrl s l b).mram = s.mram ∧ (sendCtrl s l b).sec = s.sec ∧ (sendCtrl s l b).mod = s.mod ∧
    (sendCtrl s l b).dbg = s.dbg := by
  simp [sendCtrl]

@[simp] theorem resendAll_frame (s : State) (l : Nat) :
    (resendAll s l).pending = s.pending ∧ (resendAll s l).fresh = s.fresh ∧ (resendAll s l).regs = s.regs ∧ (resendAll s l).live = s.live ∧
    (resendAll s l).mem = s.mem ∧ (resendAll s l).sync = s.sync ∧ (resendAll s l).cores = s.cores ∧ (resendAll s l).disp = s.disp ∧
    (resendAll s l).eth = s.eth ∧ (resendAll s l).flt = s.flt ∧ (resendAll s l).mram = s.mram ∧ (resendAll s l).sec = s.sec ∧
    (resendAll s l).mod = s.mod ∧ (resendAll s l).dbg = s.dbg := by
  unfold resendAll
  refine ⟨foldl_keeps (·.pending) (fun s a => by simp) _ s, foldl_keeps (·.fresh) (fun s a => by simp) _ s, foldl_keeps (·.regs) (fun s a => by simp) _ s, foldl_keeps (·.live) (fun s a => by simp) _ s, foldl_keeps (·.mem) (fun s a => by simp) _ s, foldl_keeps (·.sync) (fun s a => by simp) _ s, foldl_keeps (·.cores) (fun s a => by simp) _ s, foldl_keeps (·.disp) (fun s a => by simp) _ s, foldl_keeps (·.eth) (fun s a => by simp) _ s, foldl_keeps (·.flt) (fun s a => by simp) _ s, foldl_keeps (·.mram) (fun s a => by simp) _ s, foldl_keeps (·.sec) (fun s a => by simp) _ s, foldl_keeps (·.mod) (fun s a => by simp) _ s, foldl_keeps (·.dbg) (fun s a => by simp) _ s⟩

@[simp] theorem sendFlit_frame (s : State) (l : Nat) (t : TFlit) :
    (sendFlit s l t).pending = s.pending ∧ (sendFlit s l t).fresh = s.fresh ∧ (sendFlit s l t).regs = s.regs ∧ (sendFlit s l t).mem = s.mem ∧
    (sendFlit s l t).sync = s.sync ∧ (sendFlit s l t).cores = s.cores ∧ (sendFlit s l t).disp = s.disp ∧ (sendFlit s l t).eth = s.eth ∧
    (sendFlit s l t).flt = s.flt ∧ (sendFlit s l t).mram = s.mram ∧ (sendFlit s l t).sec = s.sec ∧ (sendFlit s l t).mod = s.mod ∧
    (sendFlit s l t).dbg = s.dbg := by
  simp [sendFlit]

@[simp] theorem pumpTurns_frame (l n : Nat) (s : State) :
    (pumpTurns l n s).pending = s.pending ∧ (pumpTurns l n s).fresh = s.fresh ∧ (pumpTurns l n s).regs = s.regs ∧ (pumpTurns l n s).mem = s.mem ∧
    (pumpTurns l n s).sync = s.sync ∧ (pumpTurns l n s).cores = s.cores ∧ (pumpTurns l n s).disp = s.disp ∧ (pumpTurns l n s).eth = s.eth ∧
    (pumpTurns l n s).flt = s.flt ∧ (pumpTurns l n s).mram = s.mram ∧ (pumpTurns l n s).sec = s.sec ∧ (pumpTurns l n s).mod = s.mod ∧
    (pumpTurns l n s).dbg = s.dbg := by
  induction n generalizing s with
  | zero => simp [pumpTurns]
  | succ n ih => unfold pumpTurns; dsimp only; repeat' split
                 all_goals simp [ih]

@[simp] theorem pump_frame (s : State) (l : Nat) :
    (pump s l).pending = s.pending ∧ (pump s l).fresh = s.fresh ∧ (pump s l).regs = s.regs ∧ (pump s l).mem = s.mem ∧ (pump s l).sync = s.sync ∧
    (pump s l).cores = s.cores ∧ (pump s l).disp = s.disp ∧ (pump s l).eth = s.eth ∧ (pump s l).flt = s.flt ∧ (pump s l).mram = s.mram ∧
    (pump s l).sec = s.sec ∧ (pump s l).mod = s.mod ∧ (pump s l).dbg = s.dbg := by
  simp [pump]

@[simp] theorem dropMsg_frame (s : State) (p : Nat) (m : Msg) :
    (dropMsg s p m).pending = s.pending ∧ (dropMsg s p m).sent = s.sent ∧ (dropMsg s p m).regs = s.regs ∧ (dropMsg s p m).mem = s.mem ∧
    (dropMsg s p m).sync = s.sync ∧ (dropMsg s p m).cores = s.cores ∧ (dropMsg s p m).fab = s.fab ∧ (dropMsg s p m).eth = s.eth ∧
    (dropMsg s p m).mram = s.mram ∧ (dropMsg s p m).sec = s.sec ∧ (dropMsg s p m).mod = s.mod ∧ (dropMsg s p m).dbg = s.dbg ∧
    (dropMsg s p m).flt.coreFence = s.flt.coreFence ∧ (dropMsg s p m).flt.chanFence = s.flt.chanFence ∧
    (dropMsg s p m).flt.tests = s.flt.tests := by
  unfold dropMsg; dsimp only; split <;> simp

@[simp] theorem queueOn_frame (s : State) (l : Nat) (m : Msg) (b : Bool) :
    (queueOn s l m b).pending = s.pending ∧ (queueOn s l m b).fresh = s.fresh ∧ (queueOn s l m b).regs = s.regs ∧ (queueOn s l m b).mem = s.mem ∧
    (queueOn s l m b).sync = s.sync ∧ (queueOn s l m b).cores = s.cores ∧ (queueOn s l m b).disp = s.disp ∧ (queueOn s l m b).eth = s.eth ∧
    (queueOn s l m b).flt = s.flt ∧ (queueOn s l m b).mram = s.mram ∧ (queueOn s l m b).sec = s.sec ∧ (queueOn s l m b).mod = s.mod ∧
    (queueOn s l m b).dbg = s.dbg := by
  simp [queueOn]

@[simp] theorem outPort_frame (s : State) (p : Nat) (m : Msg) (b : Bool) :
    (outPort s p m b).pending = s.pending ∧ (outPort s p m b).regs = s.regs ∧ (outPort s p m b).mem = s.mem ∧ (outPort s p m b).sync = s.sync ∧
    (outPort s p m b).cores = s.cores ∧ (outPort s p m b).eth = s.eth ∧ (outPort s p m b).mram = s.mram ∧ (outPort s p m b).sec = s.sec ∧
    (outPort s p m b).mod = s.mod ∧ (outPort s p m b).dbg = s.dbg ∧ (outPort s p m b).flt.coreFence = s.flt.coreFence ∧
    (outPort s p m b).flt.chanFence = s.flt.chanFence ∧ (outPort s p m b).flt.tests = s.flt.tests := by
  unfold outPort; split <;> simp

@[simp] theorem routeMsg_frame (s : State) (m : Msg) (i : Option Nat) (b : Bool) :
    (routeMsg s m i b).pending = s.pending ∧ (routeMsg s m i b).regs = s.regs ∧ (routeMsg s m i b).mem = s.mem ∧
    (routeMsg s m i b).sync = s.sync ∧ (routeMsg s m i b).cores = s.cores ∧ (routeMsg s m i b).eth = s.eth ∧ (routeMsg s m i b).mram = s.mram ∧
    (routeMsg s m i b).sec = s.sec ∧ (routeMsg s m i b).mod = s.mod ∧ (routeMsg s m i b).dbg = s.dbg ∧
    (routeMsg s m i b).flt.coreFence = s.flt.coreFence ∧ (routeMsg s m i b).flt.chanFence = s.flt.chanFence ∧
    (routeMsg s m i b).flt.tests = s.flt.tests := by
  unfold routeMsg; dsimp only; repeat' split
  all_goals simp

@[simp] theorem takeMsg_frame (s : State) (m : Msg) :
    (takeMsg s m).pending = s.pending ∧ (takeMsg s m).fresh = s.fresh ∧ (takeMsg s m).regs = s.regs ∧ (takeMsg s m).mem = s.mem ∧
    (takeMsg s m).sync = s.sync ∧ (takeMsg s m).cores = s.cores ∧ (takeMsg s m).disp = s.disp ∧ (takeMsg s m).eth = s.eth ∧
    (takeMsg s m).flt = s.flt ∧ (takeMsg s m).mram = s.mram ∧ (takeMsg s m).sec = s.sec ∧ (takeMsg s m).mod = s.mod ∧
    (takeMsg s m).dbg = s.dbg := by
  unfold takeMsg; dsimp only; repeat' split
  all_goals simp

@[simp] theorem launchMsg_frame (s : State) (m : Msg) :
    (launchMsg s m).pending = s.pending ∧ (launchMsg s m).regs = s.regs ∧ (launchMsg s m).mem = s.mem ∧ (launchMsg s m).sync = s.sync ∧
    (launchMsg s m).cores = s.cores ∧ (launchMsg s m).eth = s.eth ∧ (launchMsg s m).mram = s.mram ∧ (launchMsg s m).sec = s.sec ∧
    (launchMsg s m).mod = s.mod ∧ (launchMsg s m).dbg = s.dbg ∧ (launchMsg s m).flt.coreFence = s.flt.coreFence ∧
    (launchMsg s m).flt.chanFence = s.flt.chanFence ∧ (launchMsg s m).flt.tests = s.flt.tests := by
  unfold launchMsg numberMsg; dsimp only; split <;> simp

@[simp] theorem vc3Add_frame (s : State) (d : Nat) :
    (vc3Add s d).pending = s.pending ∧ (vc3Add s d).fresh = s.fresh ∧ (vc3Add s d).sent = s.sent ∧ (vc3Add s d).regs = s.regs ∧
    (vc3Add s d).live = s.live ∧ (vc3Add s d).mem = s.mem ∧ (vc3Add s d).sync = s.sync ∧ (vc3Add s d).cores = s.cores ∧
    (vc3Add s d).disp = s.disp ∧ (vc3Add s d).eth = s.eth ∧ (vc3Add s d).flt = s.flt ∧ (vc3Add s d).mram = s.mram ∧ (vc3Add s d).sec = s.sec ∧
    (vc3Add s d).mod = s.mod ∧ (vc3Add s d).dbg = s.dbg := by
  simp [vc3Add]

@[simp] theorem sendMsg_frame (s : State) (m : Msg) :
    (sendMsg s m).pending = s.pending ∧ (sendMsg s m).regs = s.regs ∧ (sendMsg s m).mem = s.mem ∧ (sendMsg s m).sync = s.sync ∧
    (sendMsg s m).cores = s.cores ∧ (sendMsg s m).eth = s.eth ∧ (sendMsg s m).mram = s.mram ∧ (sendMsg s m).sec = s.sec ∧
    (sendMsg s m).mod = s.mod ∧ (sendMsg s m).dbg = s.dbg ∧ (sendMsg s m).flt.coreFence = s.flt.coreFence ∧
    (sendMsg s m).flt.chanFence = s.flt.chanFence ∧ (sendMsg s m).flt.tests = s.flt.tests := by
  unfold sendMsg; dsimp only; repeat' split
  all_goals simp

/-! ### Errors found (R400 to R405, R410, R414, R416) -/

@[simp] theorem dropChannel_frame (s : State) (c : Nat) :
    (dropChannel s c).pending = s.pending ∧ (dropChannel s c).fresh = s.fresh ∧ (dropChannel s c).sent = s.sent ∧
    (dropChannel s c).regs = s.regs ∧ (dropChannel s c).live = s.live ∧ (dropChannel s c).sync = s.sync ∧ (dropChannel s c).cores = s.cores ∧
    (dropChannel s c).disp = s.disp ∧ (dropChannel s c).fab = s.fab ∧ (dropChannel s c).eth = s.eth ∧ (dropChannel s c).flt = s.flt ∧
    (dropChannel s c).mram = s.mram ∧ (dropChannel s c).sec = s.sec ∧ (dropChannel s c).mod = s.mod ∧ (dropChannel s c).dbg = s.dbg ∧
    (dropChannel s c).mem.plane = s.mem.plane ∧ (dropChannel s c).mem.poison = s.mem.poison := by
  simp [dropChannel]

@[simp] theorem fenceBit_frame (s : State) (c u : Nat) :
    (fenceBit s c u).pending = s.pending ∧ (fenceBit s c u).fresh = s.fresh ∧ (fenceBit s c u).sent = s.sent ∧ (fenceBit s c u).regs = s.regs ∧
    (fenceBit s c u).live = s.live ∧ (fenceBit s c u).sync = s.sync ∧ (fenceBit s c u).cores = s.cores ∧ (fenceBit s c u).disp = s.disp ∧
    (fenceBit s c u).eth = s.eth ∧ (fenceBit s c u).mram = s.mram ∧ (fenceBit s c u).sec = s.sec ∧ (fenceBit s c u).mod = s.mod ∧
    (fenceBit s c u).dbg = s.dbg ∧ (fenceBit s c u).mem.plane = s.mem.plane ∧ (fenceBit s c u).mem.poison = s.mem.poison := by
  unfold fenceBit; repeat' split
  all_goals simp

@[simp] theorem unitLost_frame (s : State) (c u : Nat) :
    (unitLost s c u).pending = s.pending ∧ (unitLost s c u).fresh = s.fresh ∧ (unitLost s c u).sent = s.sent ∧ (unitLost s c u).regs = s.regs ∧
    (unitLost s c u).live = s.live ∧ (unitLost s c u).mem = s.mem ∧ (unitLost s c u).sync = s.sync ∧ (unitLost s c u).cores = s.cores ∧
    (unitLost s c u).fab = s.fab ∧ (unitLost s c u).eth = s.eth ∧ (unitLost s c u).flt = s.flt ∧ (unitLost s c u).mram = s.mram ∧
    (unitLost s c u).sec = s.sec ∧ (unitLost s c u).mod = s.mod ∧ (unitLost s c u).dbg = s.dbg ∧ (unitLost s c u).mem.plane = s.mem.plane ∧
    (unitLost s c u).mem.poison = s.mem.poison := by
  simp [unitLost]

@[simp] theorem selfFail_frame (c u : Nat) (s : State) (k : Nat) :
    (selfFail c u s k).pending = s.pending ∧ (selfFail c u s k).sent = s.sent ∧ (selfFail c u s k).regs = s.regs ∧
    (selfFail c u s k).eth = s.eth ∧ (selfFail c u s k).mram = s.mram ∧ (selfFail c u s k).sec = s.sec ∧ (selfFail c u s k).mod = s.mod ∧
    (selfFail c u s k).dbg = s.dbg ∧ (selfFail c u s k).mem.plane = s.mem.plane := by
  simp [selfFail]

@[simp] theorem selfFails_frame (c u : Nat) (ks : List Nat) (s : State) :
    (ks.foldl (selfFail c u) s).pending = s.pending ∧ (ks.foldl (selfFail c u) s).sent = s.sent ∧ (ks.foldl (selfFail c u) s).regs = s.regs ∧
    (ks.foldl (selfFail c u) s).eth = s.eth ∧ (ks.foldl (selfFail c u) s).mram = s.mram ∧ (ks.foldl (selfFail c u) s).sec = s.sec ∧
    (ks.foldl (selfFail c u) s).mod = s.mod ∧ (ks.foldl (selfFail c u) s).dbg = s.dbg ∧ (ks.foldl (selfFail c u) s).mem.plane = s.mem.plane := by
  refine ⟨foldl_keeps (·.pending) (fun s a => by simp) ks s, foldl_keeps (·.sent) (fun s a => by simp) ks s, foldl_keeps (·.regs) (fun s a => by simp) ks s, foldl_keeps (·.eth) (fun s a => by simp) ks s, foldl_keeps (·.mram) (fun s a => by simp) ks s, foldl_keeps (·.sec) (fun s a => by simp) ks s, foldl_keeps (·.mod) (fun s a => by simp) ks s, foldl_keeps (·.dbg) (fun s a => by simp) ks s, foldl_keeps (·.mem.plane) (fun s a => by simp) ks s⟩

@[simp] theorem fenceUnit_frame (s : State) (c u r o : Nat) :
    (fenceUnit s c u r o).pending = s.pending ∧ (fenceUnit s c u r o).sent = s.sent ∧ (fenceUnit s c u r o).regs = s.regs ∧
    (fenceUnit s c u r o).eth = s.eth ∧ (fenceUnit s c u r o).mram = s.mram ∧ (fenceUnit s c u r o).sec = s.sec ∧
    (fenceUnit s c u r o).mod = s.mod ∧ (fenceUnit s c u r o).dbg = s.dbg ∧ (fenceUnit s c u r o).mem.plane = s.mem.plane := by
  simp [fenceUnit]

@[simp] theorem startTest_frame (s : State) (c u i : Nat) (e : Bool) (ks : List Nat) (b : Bool) :
    (startTest s c u i e ks b).pending = s.pending ∧ (startTest s c u i e ks b).sent = s.sent ∧ (startTest s c u i e ks b).regs = s.regs ∧
    (startTest s c u i e ks b).eth = s.eth ∧ (startTest s c u i e ks b).mram = s.mram ∧ (startTest s c u i e ks b).sec = s.sec ∧
    (startTest s c u i e ks b).mod = s.mod ∧ (startTest s c u i e ks b).dbg = s.dbg ∧ (startTest s c u i e ks b).mem.plane = s.mem.plane := by
  unfold startTest; dsimp only; repeat' split
  all_goals simp

@[simp] theorem requestTest_frame (s : State) (c u : Nat) (ks : List Nat) (b : Bool) :
    (requestTest s c u ks b).pending = s.pending ∧ (requestTest s c u ks b).sent = s.sent ∧ (requestTest s c u ks b).regs = s.regs ∧
    (requestTest s c u ks b).eth = s.eth ∧ (requestTest s c u ks b).mram = s.mram ∧ (requestTest s c u ks b).sec = s.sec ∧
    (requestTest s c u ks b).mod = s.mod ∧ (requestTest s c u ks b).dbg = s.dbg ∧ (requestTest s c u ks b).mem.plane = s.mem.plane := by
  unfold requestTest; dsimp only; repeat' split
  all_goals simp

@[simp] theorem countUnit_frame (s : State) (c u : Nat) (l : Option Nat) :
    (countUnit s c u l).pending = s.pending ∧ (countUnit s c u l).sent = s.sent ∧ (countUnit s c u l).regs = s.regs ∧
    (countUnit s c u l).eth = s.eth ∧ (countUnit s c u l).mram = s.mram ∧ (countUnit s c u l).sec = s.sec ∧ (countUnit s c u l).mod = s.mod ∧
    (countUnit s c u l).dbg = s.dbg ∧ (countUnit s c u l).mem.plane = s.mem.plane := by
  unfold countUnit; dsimp only; repeat' split
  all_goals simp

@[simp] theorem logMaybe_frame (s : State) (r : ErrRec) :
    (logMaybe s r).pending = s.pending ∧ (logMaybe s r).sent = s.sent ∧ (logMaybe s r).regs = s.regs ∧ (logMaybe s r).mem = s.mem ∧
    (logMaybe s r).sync = s.sync ∧ (logMaybe s r).cores = s.cores ∧ (logMaybe s r).fab = s.fab ∧ (logMaybe s r).eth = s.eth ∧
    (logMaybe s r).mram = s.mram ∧ (logMaybe s r).sec = s.sec ∧ (logMaybe s r).mod = s.mod ∧ (logMaybe s r).dbg = s.dbg ∧
    (logMaybe s r).flt.coreFence = s.flt.coreFence ∧ (logMaybe s r).flt.chanFence = s.flt.chanFence ∧
    (logMaybe s r).flt.tests = s.flt.tests := by
  unfold logMaybe; split <;> simp

@[simp] theorem corrected_frame (s : State) (c u r o d : Nat) (k l : Option Nat) :
    (corrected s c u r o d k l).pending = s.pending ∧ (corrected s c u r o d k l).sent = s.sent ∧ (corrected s c u r o d k l).regs = s.regs ∧
    (corrected s c u r o d k l).eth = s.eth ∧ (corrected s c u r o d k l).mram = s.mram ∧ (corrected s c u r o d k l).sec = s.sec ∧
    (corrected s c u r o d k l).mod = s.mod ∧ (corrected s c u r o d k l).dbg = s.dbg ∧ (corrected s c u r o d k l).mem.plane = s.mem.plane := by
  simp [corrected]

@[simp] theorem faultCmd_frame (i : Nat) (s : State) (k : Nat) :
    (faultCmd i s k).pending = s.pending ∧ (faultCmd i s k).sent = s.sent ∧ (faultCmd i s k).regs = s.regs ∧ (faultCmd i s k).eth = s.eth ∧
    (faultCmd i s k).mram = s.mram ∧ (faultCmd i s k).sec = s.sec ∧ (faultCmd i s k).mod = s.mod ∧ (faultCmd i s k).dbg = s.dbg ∧
    (faultCmd i s k).mem.plane = s.mem.plane := by
  unfold faultCmd; repeat' split
  all_goals simp

@[simp] theorem chipFault_frame (s : State) (c u i : Nat) :
    (chipFault s c u i).pending = s.pending ∧ (chipFault s c u i).sent = s.sent ∧ (chipFault s c u i).regs = s.regs ∧
    (chipFault s c u i).eth = s.eth ∧ (chipFault s c u i).mram = s.mram ∧ (chipFault s c u i).sec = s.sec ∧ (chipFault s c u i).mod = s.mod ∧
    (chipFault s c u i).dbg = s.dbg ∧ (chipFault s c u i).mem.plane = s.mem.plane := by
  unfold chipFault; dsimp only; split
  · simp
  · refine ⟨by rw [foldl_keeps (·.pending) (fun s a => by simp)]; simp, by rw [foldl_keeps (·.sent) (fun s a => by simp)]; simp, by rw [foldl_keeps (·.regs) (fun s a => by simp)]; simp, by rw [foldl_keeps (·.eth) (fun s a => by simp)]; simp, by rw [foldl_keeps (·.mram) (fun s a => by simp)]; simp, by rw [foldl_keeps (·.sec) (fun s a => by simp)]; simp, by rw [foldl_keeps (·.mod) (fun s a => by simp)]; simp, by rw [foldl_keeps (·.dbg) (fun s a => by simp)]; simp, by rw [foldl_keeps (·.mem.plane) (fun s a => by simp)]; simp⟩

@[simp] theorem bridgeFlaw_frame (s : State) (k : Option Nat) (d b l : Nat) (x : Bool) :
    (bridgeFlaw s k d b l x).pending = s.pending ∧ (bridgeFlaw s k d b l x).sent = s.sent ∧ (bridgeFlaw s k d b l x).regs = s.regs ∧
    (bridgeFlaw s k d b l x).eth = s.eth ∧ (bridgeFlaw s k d b l x).mram = s.mram ∧ (bridgeFlaw s k d b l x).sec = s.sec ∧
    (bridgeFlaw s k d b l x).mod = s.mod ∧ (bridgeFlaw s k d b l x).dbg = s.dbg ∧ (bridgeFlaw s k d b l x).mem.plane = s.mem.plane := by
  unfold bridgeFlaw; dsimp only; repeat' split
  all_goals simp

@[simp] theorem areaFlaw_frame (s : State) (k : Option Nat) (d l : Nat) (x : Bool) :
    (areaFlaw s k d l x).pending = s.pending ∧ (areaFlaw s k d l x).sent = s.sent ∧ (areaFlaw s k d l x).regs = s.regs ∧
    (areaFlaw s k d l x).eth = s.eth ∧ (areaFlaw s k d l x).mram = s.mram ∧ (areaFlaw s k d l x).sec = s.sec ∧ (areaFlaw s k d l x).mod = s.mod ∧
    (areaFlaw s k d l x).dbg = s.dbg ∧ (areaFlaw s k d l x).mem.plane = s.mem.plane := by
  unfold areaFlaw; dsimp only; repeat' split
  all_goals simp

@[simp] theorem sheafUncorrectable_frame (s : State) (l d : Nat) (k : Option Nat) :
    (sheafUncorrectable s l d k).pending = s.pending ∧ (sheafUncorrectable s l d k).sent = s.sent ∧ (sheafUncorrectable s l d k).regs = s.regs ∧
    (sheafUncorrectable s l d k).eth = s.eth ∧ (sheafUncorrectable s l d k).mram = s.mram ∧ (sheafUncorrectable s l d k).sec = s.sec ∧
    (sheafUncorrectable s l d k).mod = s.mod ∧ (sheafUncorrectable s l d k).dbg = s.dbg ∧
    (sheafUncorrectable s l d k).mem.plane = s.mem.plane := by
  unfold sheafUncorrectable; dsimp only; repeat' split
  all_goals simp

@[simp] theorem sheafFlaw_frame (s : State) (k : Option Nat) (d l : Nat) (x : Bool) :
    (sheafFlaw s k d l x).pending = s.pending ∧ (sheafFlaw s k d l x).sent = s.sent ∧ (sheafFlaw s k d l x).regs = s.regs ∧
    (sheafFlaw s k d l x).eth = s.eth ∧ (sheafFlaw s k d l x).mram = s.mram ∧ (sheafFlaw s k d l x).sec = s.sec ∧
    (sheafFlaw s k d l x).mod = s.mod ∧ (sheafFlaw s k d l x).dbg = s.dbg ∧ (sheafFlaw s k d l x).mem.plane = s.mem.plane := by
  unfold sheafFlaw; repeat' split
  all_goals simp

@[simp] theorem stagedFlaw_frame (s : State) (k l : Nat) (x : Bool) :
    (stagedFlaw s k l x).pending = s.pending ∧ (stagedFlaw s k l x).sent = s.sent ∧ (stagedFlaw s k l x).regs = s.regs ∧
    (stagedFlaw s k l x).eth = s.eth ∧ (stagedFlaw s k l x).mram = s.mram ∧ (stagedFlaw s k l x).sec = s.sec ∧ (stagedFlaw s k l x).mod = s.mod ∧
    (stagedFlaw s k l x).dbg = s.dbg ∧ (stagedFlaw s k l x).mem.plane = s.mem.plane := by
  unfold stagedFlaw; dsimp only; repeat' split
  all_goals simp

/-- A system's access changes no byte of plane memory. -/
@[simp] theorem systemAccess_frame (s : State) (k : Option Nat) (d : Nat) (r : Bool) (ls : List Nat) :
    (systemAccess s k d r ls).pending = s.pending ∧ (systemAccess s k d r ls).sent = s.sent ∧ (systemAccess s k d r ls).regs = s.regs ∧
    (systemAccess s k d r ls).eth = s.eth ∧ (systemAccess s k d r ls).mram = s.mram ∧ (systemAccess s k d r ls).sec = s.sec ∧
    (systemAccess s k d r ls).mod = s.mod ∧ (systemAccess s k d r ls).dbg = s.dbg ∧ (systemAccess s k d r ls).mem.plane = s.mem.plane := by
  unfold systemAccess
  refine ⟨foldl_keeps (·.pending) (fun s u => by dsimp only; split <;> simp) _ s, foldl_keeps (·.sent) (fun s u => by dsimp only; split <;> simp) _ s, foldl_keeps (·.regs) (fun s u => by dsimp only; split <;> simp) _ s, foldl_keeps (·.eth) (fun s u => by dsimp only; split <;> simp) _ s, foldl_keeps (·.mram) (fun s u => by dsimp only; split <;> simp) _ s, foldl_keeps (·.sec) (fun s u => by dsimp only; split <;> simp) _ s, foldl_keeps (·.mod) (fun s u => by dsimp only; split <;> simp) _ s, foldl_keeps (·.dbg) (fun s u => by dsimp only; split <;> simp) _ s, foldl_keeps (·.mem.plane) (fun s u => by dsimp only; split <;> simp) _ s⟩

@[simp] theorem systemRead_frame (s : State) (k : Option Nat) (d : Nat) (ls : List Nat) :
    (systemRead s k d ls).pending = s.pending ∧ (systemRead s k d ls).sent = s.sent ∧ (systemRead s k d ls).regs = s.regs ∧
    (systemRead s k d ls).eth = s.eth ∧ (systemRead s k d ls).mram = s.mram ∧ (systemRead s k d ls).sec = s.sec ∧
    (systemRead s k d ls).mod = s.mod ∧ (systemRead s k d ls).dbg = s.dbg ∧ (systemRead s k d ls).mem.plane = s.mem.plane := by
  simp [systemRead]

@[simp] theorem readBack_frame (s : State) (v : CLine) :
    (readBack s v).pending = s.pending ∧ (readBack s v).sent = s.sent ∧ (readBack s v).regs = s.regs ∧ (readBack s v).eth = s.eth ∧
    (readBack s v).mram = s.mram ∧ (readBack s v).sec = s.sec ∧ (readBack s v).mod = s.mod ∧ (readBack s v).dbg = s.dbg ∧
    (readBack s v).mem.plane = s.mem.plane := by
  unfold readBack; split <;> simp

/-! ### The Sheaf cache (R43, R482) -/

@[simp] theorem cacheTouch_frame (s : State) (b st w : Nat) :
    (cacheTouch s b st w).pending = s.pending ∧ (cacheTouch s b st w).fresh = s.fresh ∧ (cacheTouch s b st w).sent = s.sent ∧
    (cacheTouch s b st w).regs = s.regs ∧ (cacheTouch s b st w).live = s.live ∧ (cacheTouch s b st w).sync = s.sync ∧
    (cacheTouch s b st w).cores = s.cores ∧ (cacheTouch s b st w).disp = s.disp ∧ (cacheTouch s b st w).fab = s.fab ∧
    (cacheTouch s b st w).eth = s.eth ∧ (cacheTouch s b st w).flt = s.flt ∧ (cacheTouch s b st w).mram = s.mram ∧
    (cacheTouch s b st w).sec = s.sec ∧ (cacheTouch s b st w).mod = s.mod ∧ (cacheTouch s b st w).dbg = s.dbg ∧
    (cacheTouch s b st w).mem.plane = s.mem.plane ∧ (cacheTouch s b st w).mem.poison = s.mem.poison ∧
    (cacheTouch s b st w).mem.entries = s.mem.entries ∧ (cacheTouch s b st w).mem.scheds = s.mem.scheds ∧
    (cacheTouch s b st w).mem.dists = s.mem.dists ∧ (cacheTouch s b st w).mem.wcache = s.mem.wcache ∧
    (cacheTouch s b st w).mem.cache = s.mem.cache ∧ (cacheTouch s b st w).mem.fills = s.mem.fills := by
  simp [cacheTouch]

@[simp] theorem countHbm_frame (s : State) (slot core quad : Option Nat) (ch n : Nat) :
    (countHbm s slot core quad ch n).pending = s.pending ∧ (countHbm s slot core quad ch n).fresh = s.fresh ∧
    (countHbm s slot core quad ch n).sent = s.sent ∧ (countHbm s slot core quad ch n).regs = s.regs ∧
    (countHbm s slot core quad ch n).mem = s.mem ∧ (countHbm s slot core quad ch n).sync = s.sync ∧
    (countHbm s slot core quad ch n).cores = s.cores ∧ (countHbm s slot core quad ch n).disp = s.disp ∧
    (countHbm s slot core quad ch n).fab = s.fab ∧ (countHbm s slot core quad ch n).eth = s.eth ∧ (countHbm s slot core quad ch n).flt = s.flt ∧
    (countHbm s slot core quad ch n).mram = s.mram ∧ (countHbm s slot core quad ch n).sec = s.sec ∧
    (countHbm s slot core quad ch n).mod = s.mod ∧ (countHbm s slot core quad ch n).dbg = s.dbg := by
  simp only [countHbm]; repeat' split
  all_goals simp

@[simp] theorem countQueue_frame (s : State) (k c n : Nat) :
    (countQueue s k c n).pending = s.pending ∧ (countQueue s k c n).fresh = s.fresh ∧ (countQueue s k c n).sent = s.sent ∧
    (countQueue s k c n).regs = s.regs ∧ (countQueue s k c n).mem = s.mem ∧ (countQueue s k c n).sync = s.sync ∧
    (countQueue s k c n).cores = s.cores ∧ (countQueue s k c n).disp = s.disp ∧ (countQueue s k c n).fab = s.fab ∧
    (countQueue s k c n).eth = s.eth ∧ (countQueue s k c n).flt = s.flt ∧ (countQueue s k c n).mram = s.mram ∧ (countQueue s k c n).sec = s.sec ∧
    (countQueue s k c n).mod = s.mod ∧ (countQueue s k c n).dbg = s.dbg := by
  unfold countQueue; split <;> simp

@[simp] theorem evict_frame (s : State) (slot core quad : Option Nat) (v : CLine) :
    (evict s slot core quad v).pending = s.pending ∧ (evict s slot core quad v).sent = s.sent ∧ (evict s slot core quad v).regs = s.regs ∧
    (evict s slot core quad v).eth = s.eth ∧ (evict s slot core quad v).mram = s.mram ∧ (evict s slot core quad v).sec = s.sec ∧
    (evict s slot core quad v).mod = s.mod ∧ (evict s slot core quad v).dbg = s.dbg ∧ (evict s slot core quad v).mem.plane = s.mem.plane := by
  simp only [evict]; split <;> simp

@[simp] theorem allocate_frame (s : State) (slot core quad : Option Nat) (l : Nat) (w : BitVec 16) (d : Bool) :
    (allocate s slot core quad l w d).pending = s.pending ∧ (allocate s slot core quad l w d).sent = s.sent ∧
    (allocate s slot core quad l w d).regs = s.regs ∧ (allocate s slot core quad l w d).eth = s.eth ∧
    (allocate s slot core quad l w d).mram = s.mram ∧ (allocate s slot core quad l w d).sec = s.sec ∧
    (allocate s slot core quad l w d).mod = s.mod ∧ (allocate s slot core quad l w d).dbg = s.dbg ∧
    (allocate s slot core quad l w d).mem.plane = s.mem.plane := by
  simp only [allocate]; repeat' split
  all_goals simp

@[simp] theorem sheafAccess_frame (s : State) (k : Option Nat) (a : Asker) (ls : List Nat) (n : Bool) :
    (sheafAccess s k a ls n).pending = s.pending ∧ (sheafAccess s k a ls n).fresh = s.fresh ∧ (sheafAccess s k a ls n).sent = s.sent ∧
    (sheafAccess s k a ls n).regs = s.regs ∧ (sheafAccess s k a ls n).live = s.live ∧ (sheafAccess s k a ls n).sync = s.sync ∧
    (sheafAccess s k a ls n).cores = s.cores ∧ (sheafAccess s k a ls n).disp = s.disp ∧ (sheafAccess s k a ls n).fab = s.fab ∧
    (sheafAccess s k a ls n).eth = s.eth ∧ (sheafAccess s k a ls n).flt = s.flt ∧ (sheafAccess s k a ls n).mram = s.mram ∧
    (sheafAccess s k a ls n).sec = s.sec ∧ (sheafAccess s k a ls n).mod = s.mod ∧ (sheafAccess s k a ls n).dbg = s.dbg ∧
    (sheafAccess s k a ls n).mem.plane = s.mem.plane ∧ (sheafAccess s k a ls n).mem.poison = s.mem.poison ∧
    (sheafAccess s k a ls n).mem.entries = s.mem.entries ∧ (sheafAccess s k a ls n).mem.scheds = s.mem.scheds ∧
    (sheafAccess s k a ls n).mem.dists = s.mem.dists ∧ (sheafAccess s k a ls n).mem.wcache = s.mem.wcache ∧
    (sheafAccess s k a ls n).mem.cache = s.mem.cache := by
  unfold sheafAccess
  refine ⟨foldl_keeps (·.pending) (fun s l => by (repeat' split) <;> simp) ls s, foldl_keeps (·.fresh) (fun s l => by (repeat' split) <;> simp) ls s, foldl_keeps (·.sent) (fun s l => by (repeat' split) <;> simp) ls s, foldl_keeps (·.regs) (fun s l => by (repeat' split) <;> simp) ls s, foldl_keeps (·.live) (fun s l => by (repeat' split) <;> simp) ls s, foldl_keeps (·.sync) (fun s l => by (repeat' split) <;> simp) ls s, foldl_keeps (·.cores) (fun s l => by (repeat' split) <;> simp) ls s, foldl_keeps (·.disp) (fun s l => by (repeat' split) <;> simp) ls s, foldl_keeps (·.fab) (fun s l => by (repeat' split) <;> simp) ls s, foldl_keeps (·.eth) (fun s l => by (repeat' split) <;> simp) ls s, foldl_keeps (·.flt) (fun s l => by (repeat' split) <;> simp) ls s, foldl_keeps (·.mram) (fun s l => by (repeat' split) <;> simp) ls s, foldl_keeps (·.sec) (fun s l => by (repeat' split) <;> simp) ls s, foldl_keeps (·.mod) (fun s l => by (repeat' split) <;> simp) ls s, foldl_keeps (·.dbg) (fun s l => by (repeat' split) <;> simp) ls s, foldl_keeps (·.mem.plane) (fun s l => by (repeat' split) <;> simp) ls s, foldl_keeps (·.mem.poison) (fun s l => by (repeat' split) <;> simp) ls s, foldl_keeps (·.mem.entries) (fun s l => by (repeat' split) <;> simp) ls s, foldl_keeps (·.mem.scheds) (fun s l => by (repeat' split) <;> simp) ls s, foldl_keeps (·.mem.dists) (fun s l => by (repeat' split) <;> simp) ls s, foldl_keeps (·.mem.wcache) (fun s l => by (repeat' split) <;> simp) ls s, foldl_keeps (·.mem.cache) (fun s l => by (repeat' split) <;> simp) ls s⟩

end Sys2Proof.Machine
end

