-- ==== Sys2Proof/Tests/Slice0.lean ====
section
/-!
SUPPORT. Small tests: ill-formed commands are refused, single steps give what the manual's tables and examples say, and for each statement a
state and operands that meet its hypotheses.
-/
namespace Sys2Proof.Tests
set_option Elab.async false
open Sys2Proof.Machine

/-! ### Small states -/

/-- A running command of kind `kind` on core 0, with a WRITE range of one line at 0x10000, admitted under the reset value of QCFG. -/
def cmd (kind : Nat) : Cmd :=
  { newCmd (BitVec.ofNat 512 (kind + 7 * 2 ^ 64)) 0 0 0 0 1 281474981036096 0 with
    phase := .running, runs := 1, epochAt := 1, csets := BitVec.ofNat 48 (2 ^ 48 - 1), ways := 0xFF, cores := [0], based := true,
    annex := some { privFirst := 0, privCount := 0, outs := [{ kind := 0, addr := 0x10000, bytes := 64 }], stage := [], scheds := [] },
    stage := [1, 1, 1, 1, 1, 1, 1, 1] }

/-- The part with command `m` in slot 0. -/
def withCmd (m : Cmd) : State := { State.reset with disp := { Dispatch.reset with slots := [(0, m)] } }

/-- A core that runs the command in slot 0, its PC at 0x1000 in a cached line that holds the words `ws`. -/
def coreAt (ws : List (BitVec 32)) : Core :=
  { Core.reset with
    slot := some 0, act := .running, based := true, pc := 0x1000, dbg := { DbgCore.reset with state := 1, skipOnce := true },
    icache := [{ set := 32, way := 0, line := 0x1000, data := ws.flatMap fun w => natLE 4 w.toNat }] }

/-- Core 0 runs the command `m`, with `k` as its state. -/
def withCore (m : Cmd) (k : Core) : State := { withCmd m with cores := [(0, k)] }

/-- Core 0 of a LAUNCH about to execute `w`, its general registers 1, 2 and 3 holding `a`, `b` and `v`. -/
def about (w : BitVec 32) (a b v : Word) : State :=
  withCore (cmd 1) { coreAt [w] with g := [(1, a), (2, b), (3, v)] }

/-- A control-core word (R125, R126): predicate off, opcode, GD, GA, and the low 12 bits. -/
def word (op gd ga low : Nat) : BitVec 32 := BitVec.ofNat 32 (op * 2 ^ 22 + gd * 2 ^ 17 + ga * 2 ^ 12 + low)

/-! ### Control core: a state and operands that meet each statement's hypotheses, clause by clause -/

/-- AluTable and IntegerInstructions: each opcode, into a register, into g0 and into g31. -/
theorem wit_integer : ([word 0x00 3 1 (2 * 128), word 0x01 3 1 0xFFF, word 0x02 0 1 0x800, word 0x03 3 1 5, word 0x04 31 1 0xFFF,
    word 0x05 3 1 (2 * 1024 + 63), word 0x06 3 0x1F 0xFFF, word 0x07 3 0 0].all fun w =>
      issuable (about w 5 7 9) 0 0 w && ccTrue (coreOf (about w 5 7 9) 0) w) = true := by decide

/-- PredicateInstructions: CMP with COND 0 and 5, CMPI with COND 5, PLOG with PFN 0, 5 and 7. -/
theorem wit_predicate : ([word 0x08 (7 * 4) 1 (2 * 128), word 0x08 0 1 (2 * 128 + 5), BitVec.ofNat 32 (0x09 * 2 ^ 22 + 5 * 2 ^ 15 + 2 ^ 10),
    word 0x0A 4 0 0, word 0x0A 28 1 0x420, word 0x0A 28 1 0xC00].all fun w =>
      issuable (about w 5 7 9) 0 0 w && ccTrue (coreOf (about w 5 7 9) 0) w) = true := by decide

/-- BranchInstructions: BR, CALL, a JR to a word, to 2^48 - 4, to 2 (misaligned) and to 2^48. -/
theorem wit_branch : ([(word 0x10 0 0 5, 0), (word 0x11 31 31 0xFFF, 0), (word 0x12 5 1 0, 0x2000), (word 0x12 5 1 0, 2 ^ 48 - 4),
    (word 0x12 5 1 0, 2), (word 0x12 5 1 0, 2 ^ 48)].all fun x : BitVec 32 × Word =>
      issuable (about x.1 x.2 7 9) 0 0 x.1 && ccTrue (coreOf (about x.1 x.2 7 9) 0) x.1) = true := by decide

/-- DescriptorWords: DRD and DWR of words 0 and 3. -/
theorem wit_descriptor : ([word 0x22 3 1 0, word 0x22 3 1 3, word 0x23 31 1 0, word 0x23 31 1 3].all fun w =>
      issuable (about w 5 7 9) 0 0 w && ccTrue (coreOf (about w 5 7 9) 0) w) = true := by decide

/-- AluTable, IntegerInstructions: an ALU and a SHI word with PI = 0. -/
theorem wit_reserved_fields : ccOp (word 0x00 0 0 0x13) = 0 ∧ ccOp (word 0x05 0 0 0) = 5 ∧ fld (word 0x00 0 0 0x13) 28 3 = 0 ∧
    fld (word 0x05 0 0 0) 28 3 = 0 := by decide

/-- ReservedThenPredicate: a reserved opcode, a reserved FN of ALU, and PI = 7 without PE; then an ADDI and an ISSUE under p7, which is 0. -/
theorem wit_reserved : ([word 0x3F 0 0 0, word 0x00 3 1 0x15, word 0x01 3 1 1 + 0x70000000].all fun w =>
    let s := about w 5 7 9
    let k := coreOf s 0
    k.slot = some 0 && mayIssue s k 0 && missing k = none && icWord k k.pc.toNat = some w && k.dbg.skipOnce && !k.dbg.stepping && s.flt.upsets.isEmpty &&
    (!ccKnown (ccOp w) || ccBad w ((issueRaw k).getD 0))) = true := by decide
theorem wit_false_predicate : (issuable (about (word 0x01 3 1 1 + 0xF0000000) 5 7 9) 0 0 (word 0x01 3 1 1 + 0xF0000000) &&
    !ccTrue (coreOf (about (word 0x01 3 1 1 + 0xF0000000) 5 7 9) 0) (word 0x01 3 1 1 + 0xF0000000)) = true := by decide
theorem wit_false_predicate_issue : (issuable (withCore (cmd 1) (coreAt [word 0x28 0 0 0 + 0xF0000000, 0, 0, 0, 0])) 0 0
    (word 0x28 0 0 0 + 0xF0000000)) = true := by decide

/-- ScratchpadLoads and ScratchpadStores: the last aligned place of the scratchpad. -/
theorem wit_scratchpad : ([word 0x18 3 1 (3 * 512 + 256), word 0x19 3 1 (3 * 512 + 256), word 0x20 3 2 256, word 0x21 3 2 256].all fun w =>
      issuable (about w 0xFFFF8 0xFFFE0 9) 0 0 w && ccTrue (coreOf (about w 0xFFFF8 0xFFFE0 9) 0) w && bit w 8 &&
      decide (0xFFFF8 % 8 = 0 ∧ 0xFFFF8 < scratchSize ∧ 0xFFFE0 % 32 = 0 ∧ 0xFFFE0 < scratchSize)) = true := by decide

/-- PlaneLoads and PlaneStores: in the command's line, and LD at the first HBM address. -/
theorem wit_plane : ([(word 0x18 3 1 (3 * 512), 8, 0x10000), (word 0x18 3 1 0, 1, 0), (word 0x20 3 1 0, 32, 0x10020),
    (word 0x19 3 1 (3 * 512), 8, 0x10038), (word 0x21 3 1 0, 32, 0x10000)].all fun x : BitVec 32 × Nat × Nat =>
      let s := about x.1 (BitVec.ofNat 64 x.2.2) 7 9
      issuable s 0 0 x.1 && ccTrue (coreOf s 0) x.1 && !bit x.1 8 && x.2.2 % x.2.1 = 0 && inPlane s x.2.2 x.2.1 && csetOk s 0 x.2.2 &&
      (fencedIn s x.2.2 x.2.1).isNone && (seenPoison s 0 x.2.2 x.2.1).isNone &&
      (ccOp x.1 = 0x18 || ccOp x.1 = 0x20 || (inWrite s 0 x.2.2 x.2.1 &&
        (stageOver (stagePut s 0 x.2.2 (natLE x.2.1 9)) 0).isNone))) = true := by decide
/-- The states of these witnesses meet the invariant. -/
theorem wit_inv : Inv (about 0 0 0 0) := by decide

/-- LoadReturnWritesRegister: a signed byte for g31 and a descriptor, and a load whose line was locked. -/
theorem wit_load_return : ([LoadDest.g 31 1 true, LoadDest.g 0 8 false, LoadDest.d 0].all fun d =>
    let s := withCore (cmd 1) { coreAt [0] with loads := [⟨0x10000, 0x1000, false, 1, d, some 0x80⟩] }
    (coreOf s 0).slot = some 0 && !(awaits s fun f => f.asker = .control 0 0x1000 && f.line = 0x10000) && !heldByTest s 0x10000 1 &&
      (lockIn s (jointSet s 0) 0x10000 1).isNone && (seenPoison s 0 0x10000 1).isNone && (fencedIn s 0x10000 1).isNone && s.flt.upsets.isEmpty) = true := by decide +kernel

/-- StoreExceptions: a misaligned store, one at 2^48, one past the HBM plane, and one outside the WRITE ranges. -/
theorem wit_store_exception : ([0x10001, 2 ^ 48, 0x009000000000, 0x10040].all fun a =>
    issuable (about (word 0x19 3 1 (3 * 512)) (BitVec.ofNat 64 a) 7 9) 0 0 (word 0x19 3 1 (3 * 512))) = true ∧
    inPlane (about 0 0 0 0) 0x009000000000 8 = false ∧ inPlane (about 0 0 0 0) 0x10040 8 = true ∧ inWrite (about 0 0 0 0) 0 0x10040 8 = false := by
  decide

/-- ImmediateAtomics: each AOP, each width. -/
theorem wit_atomic : ([0x00, 0x08, 0x04, 0x10, 0x24, 0x34, 0x44, 0x54, 0x60, 0x74].all fun l =>
    let w := word 0x1A 3 1 (2 * 128 + l)
    let s := about w 0x10038 7 9
    issuable s 0 0 w && ccTrue (coreOf s 0) w && inPlane s 0x10038 8 && csetOk s 0 0x10038 && inReduce s 0 0x10038 8 &&
      (fencedIn s 0x10038 8).isNone && (seenPoison s 0 0x10038 8).isNone &&
      (stageOver (stagePut s 0 0x10038 (natLE 8 7)) 0).isNone) = true := by decide

/-- IssueDrainMfsEnd: an ISSUE to the copy engine, a DRAIN of idle engines and of a busy one, MFS 0, 3 and 6, END. -/
theorem wit_issue : issuable (withCore (cmd 1) (coreAt [word 0x28 0 0 0, 0, 0, 0, BitVec.ofNat 32 (3 * 2 ^ 20)])) 0 0 (word 0x28 0 0 0) = true := by
  decide
theorem wit_drain_mfs_end : ([word 0x2C 0 0 31, word 0x2D 3 0 0, word 0x2D 3 0 3, word 0x2D 0 0 6, word 0x2F 0 0 0].all fun w =>
    issuable (about w 5 7 9) 0 0 w) = true := by decide
theorem wit_drain_busy :
    let k : Core := { coreAt [word 0x2C 0 0 1] with queues := [(0, [⟨0, 0, [], [], false, false, false, [], false, 0⟩])] }
    issuable (withCore (cmd 1) k) 0 0 (word 0x2C 0 0 1) = true ∧ (queueOfEng k 0).isEmpty = false := by decide

/-- CounterInstructions: counters 47 and 0xC000, 48 names none; a WAIT for 0 and for 1; a SIGNAL of an own and of a chip counter, and behind
a store. -/
theorem wit_counter : ([(word 0x2B 3 1 0, 47), (word 0x2B 3 1 0, 48), (word 0x29 3 1 0, 0xC000), (word 0x29 3 1 128, 0xFFFF),
    (word 0x2A 0 1 1, 0), (word 0x2A 0 1 15, 0xC000), (word 0x2A 0 1 1, 0x10000)].all fun x : BitVec 32 × Word =>
      issuable (about x.1 x.2 1 9) 0 0 x.1) = true ∧ isInternal (about 0 0 0 0) 0 0 = true ∧ isInternal (about 0 0 0 0) 0 0xC000 = false ∧
      jointSet (about 0 0 0 0) 0 = [0] ∧ (extCounters (setCmd (about 0 0 0 0) 0 { cmd 1 with sums := [(0xC000, 1)] }) 0).length ≤ 1024 := by decide
theorem wit_signal_behind_store :
    let k : Core := { coreAt [word 0x2A 0 1 1] with stq := [0x10000] }
    issuable (withCore (cmd 1) k) 0 0 (word 0x2A 0 1 1) = true := by decide

/-- IcacheFill, Acceptance, BasePoint, DoneReport, HoldTimeout. -/
theorem wit_icache_fill :
    let s := withCore (cmd 1) { coreAt [] with icReqs := [0x2000] }
    (awaits s fun f => f.asker.ofControl 0 && icLineOf f.line = 0x2000) = false ∧ heldFor s 0 0x2000 128 = false ∧ poisonIn s 0x2000 128 = none ∧ fencedIn s 0x2000 128 = none ∧
      s.flt.upsets = [] := by
  decide
theorem wit_acceptance : isInternal (about 0 0 0 0) 0 47 = true ∧
    (flyingOf { coreAt [] with flying := [(4, [⟨0, 0, 0x70, 0, 0, false, 0, 0, false, [], [], [], []⟩])] } 4).map (·.accepted) = [false] := by decide
theorem wit_base_point :
    let s := withCore { cmd 1 with based := false } { coreAt [] with act := .atBase }
    Inv s ∧ (coreOf s 0).act = .atBase ∧ (cmdOf s 0).map Cmd.kind = some 1 ∧ jointSet s 0 = [0] := by decide +kernel
theorem wit_done_report :
    let s := withCore (cmd 1) { coreAt [] with act := .ended }
    Inv s ∧ enginesIdle (coreOf s 0) = true ∧ jointSet s 0 = [0] ∧ stagedFenced s (cmd 1) = none ∧ partialPoison s [0] = none := by decide
theorem wit_done_report_first :
    ∃ x ∈ ({ cmd 1 with cores := [0, 1] } : Cmd).cores, x ≠ 0 ∧ x ∉ (cmd 1).done := by decide
theorem wit_hold_timeout :
    let o : Cmd := { cmd 2 with lead := 1, annex := some { privFirst := 0, privCount := 0, outs := [⟨0, 0x20000, 64⟩], stage := [], scheds := [] } }
    let s0 := withCore (cmd 1) { coreAt [] with loads := [⟨0x20000, 0x1000, false, 8, .g 1 8 false, none⟩] }
    let s := { s0 with disp := { s0.disp with slots := [(0, cmd 1), (1, o)] } }
    (lockIn s (jointSet s 0) 0x20000 8).isSome = true := by decide +kernel


/-! ### Queues, admission, grant, commit and kill -/

/-- A record of a NOP with sequence number 7, not ordered, in no epoch (R77): kind, SEQ at 64, EPOCH at 96. -/
def nopRecord : BitVec 512 := ofFields 512 [(64, 7), (96, 0xFFFFFFFF)]

/-- Queue 0 enabled with one record `r` waiting in its ring, which starts at plane address 0x40. -/
def queued (r : BitVec 512) : State :=
  let s := cfgSet (cfgSet State.reset (mQring 0) 6 42 1) (mQcfg 0) 15 1 1
  { s with disp := { Dispatch.reset with queues := [(0, { Queue.reset with tail := 1 })] },
           mem := { Memory.reset with plane := Map.setRun (fun _ => 0) [] 0x40 (natLE 64 r.toNat) } }

/-- Doorbell: a full ring, and one more. -/
theorem wit_doorbell : ringSize State.reset 0 = 1024 ∧ (BitVec.ofNat 32 1024 - (queueOf State.reset 0).head).toNat ≤ 1024 ∧
    1024 < (BitVec.ofNat 32 1025 - (queueOf State.reset 0).head).toNat := by decide

/-- Admission: a sound record, one whose kind is reserved, and one that is marked. -/
theorem wit_admission :
    let s := queued nopRecord
    admissionStopped s = false ∧ nextQueue s = some 0 ∧ lowestFree s = some 0 ∧ (queueOf s 0).joinLeft = 0 ∧ headRecord s 0 = nopRecord ∧
    recordBad nopRecord = none ∧ (queueOf s 0).marks.contains (queueOf s 0).head = false ∧ fld nopRecord 96 32 = 0xFFFFFFFF := by decide +kernel
/-- A later member of a joint set, one of a set that has ended, and a COLLECTIVE of a registered group. -/
theorem wit_admission_set :
    ([none, some (Status.failed, some 3)].all fun e =>
      let s := updQueue (queued nopRecord) 0 fun q => { q with joinLeft := 2, joinLead := 5, joinEnd := e }
      !admissionStopped s && nextQueue s = some 0 && lowestFree s = some 0 && decide ((queueOf s 0).joinLeft = 2 ∧ (queueOf s 0).joinEnd = e)) = true ∧
    let r := ofFields 512 [(0, 3), (40, 1), (64, 7), (96, 0xFFFFFFFF), (360, 9), (400, 0), (405, 1), (416, 1)]
    let s := queued r
    let s := { s with fab := { s.fab with groups := [(9, ⟨0, [0, 1], 0, []⟩)] } }
    nextQueue s = some 0 ∧ headRecord s 0 = r ∧ recordBad r = none ∧ (Map.find? s.fab.groups (fld r 360 12)).isSome = true := by decide +kernel
theorem wit_admission_bad : nextQueue (queued (nopRecord + 0xFF)) = some 0 ∧ (recordBad (headRecord (queued (nopRecord + 0xFF)) 0)).isSome = true ∧
    fld (nopRecord + 0xFF : BitVec 512) 40 4 = 0 := by decide +kernel
theorem wit_admission_marked :
    let s := updQueue (queued nopRecord) 0 fun q => { q with marks := [0] }
    nextQueue s = some 0 ∧ admissionStopped s = false ∧ (queueOf s 0).marks.contains (queueOf s 0).head = true ∧ fld nopRecord 40 4 = 0 := by
  decide +kernel

/-- A command of record `r` in slot 0, admitted. -/
def admitted (r : BitVec 512) : Cmd := { cmd 0 with record := r, phase := .admitted, annex := none, stage := [], cores := [], based := false }

/-- Readiness: a NOP of any epoch and of epoch 1, and one that waits for counter 0xC000 to reach 1. -/
theorem wit_readiness : ([nopRecord, nopRecord - BitVec.ofNat 512 (0xFFFFFFFE * 2 ^ 96)].all fun r =>
    let s := withCmd (admitted r)
    let c := admitted r
    (c.epoch = 0xFFFFFFFF || c.epoch = s.disp.epoch.toNat) && startReady s c && !(c.ordered && olderLeft s c) && setWhole s c &&
      addressBad s c = none && (match readAnnex s 0 c with | .ok none => true | _ => false)) = true := by decide +kernel
/-- With an annex at the start of the pinned window; and a start counter 0xC000 that is short of 1. -/
theorem wit_readiness_annex :
    let m := admitted (ofFields 512 [(0, 1), (96, 0xFFFFFFFF), (336, 0x010000000000), (400, 0), (405, 1), (416, 1)])
    addressBad (withCmd m) m = none ∧ startReady (withCmd m) m = true ∧
    (match readAnnex (withCmd m) 0 m with | .ok (some x) => decide (x.outs = []) | _ => false) = true := by decide +kernel
theorem wit_readiness_watch :
    let m := admitted (ofFields 512 [(36, 1), (48, 0xC000), (96, 0xFFFFFFFF), (128, 1)])
    startReady (withCmd m) m = false ∧ (withCmd m).sync.watches = [] := by decide +kernel

/-- Grant: a LAUNCH on cores 31 and 63, and a NOP without cores. -/
theorem wit_grant : ([(ofFields 512 [(0, 1), (400, 31), (405, 1), (416, 3)], [31, 63]), (nopRecord, [])].all fun x : BitVec 512 × List Nat =>
    let m := { admitted x.1 with phase := .ready }
    let s := updQueue (withCmd m) 0 fun q => { q with deficit := 1 }
    readyQueues s = [0] && headOf s 0 = some 0 && jointSet s 0 = [0] && (headFail s 0 m).isNone && grantable s 0 &&
      pickCores s 0 = some [(0, x.2)] && decide (x.2.Nodup) && (grantFail s 0 (x.2.headD 0) m).isNone && m.kind != 3 && m.kind != 7 && !m.rtc) = true := by
  decide +kernel

/-- ChargesAndLimits: a command with a core, one whose epoch is still to come, one protected by RTC. -/
theorem wit_charges : (cmd 1).active = true ∧ (cmd 1).cores ≠ [] := by decide
theorem wit_epoch_wait : let m := admitted (ofFields 512 [(96, 2)])
    m.phase = .admitted ∧ m.epoch ≠ 0xFFFFFFFF ∧ (withCmd m).disp.epoch.toNat < m.epoch := by decide +kernel
theorem wit_rtc : let m := { cmd 1 with record := ofFields 512 [(0, 1), (9, 1)] }
    m.phase = .running ∧ m.rtc = true ∧ ({ m with qcfg := 2 ^ 32 } : Cmd).rtcMax ≠ 0 := by decide +kernel

/-- Aborts: an admitted and a running command of sequence number 7, a waiting record, and nothing at all. -/
theorem wit_aborts : Inv (withCmd (admitted nopRecord)) ∧ (admitted nopRecord).seq = 7 ∧ (cmd 1).seq = 7 ∧ (cmd 1).phase = .running := by decide +kernel
theorem wit_abort_waiting : let s := queued nopRecord
    Inv s ∧ ((0 : BitVec 32) - (queueOf s 0).head).toNat < ((queueOf s 0).tail - (queueOf s 0).head).toNat ∧
    planeNat s (ringEntry s 0 (0 : BitVec 32) + 8) 4 = 7 := by decide +kernel

/-- LaunchStartsCores: a program at address 0 on cores 0 and 1. -/
theorem wit_launch : let m := { cmd 1 with cores := [0, 1] }
    m.kind = 1 ∧ m.phase = .running ∧ m.work = false ∧ m.kill = none ∧ m.cores.Nodup ∧ fetchable (withCmd m) 0 (fld m.record 240 48) = true ∧
    fencedIn (withCmd m) (icLineOf (fld m.record 240 48)) 128 = none ∧ ∀ c ∈ m.cores, (coreOf (withCmd m) c).dbg.request = none := by decide +kernel

/-- SequencerMessages: a commit request with a staged byte, a fail message, an abort in time and one too late. -/
theorem wit_messages : let m := { cmd 1 with staged := [(0x10000, 1)], reqSent := true }
    jointSet (withCmd m) 0 = [0] ∧ m.kind = 1 ∧ m.staged ≠ [] ∧ (withCmd m).disp.current = none ∧ m.failSent = false ∧ m.decided = false := by decide +kernel
theorem wit_messages_end : let m := { cmd 1 with failSent := true, aborts := [(false, true)] }
    (m.aborts.all (·.2)) = true ∧ (m.reqSent && m.kill.isNone) = false ∧ ({ cmd 1 with aborts := [(false, false)] } : Cmd).abortWaits = false ∧
    jointSet (withCmd m) 0 = [0] ∧ m.failed = false ∧ m.decided = false ∧ m.phase = .running ∧ m.kill = none ∧ (withCmd m).disp.change = none := by
  decide +kernel

/-- A LAUNCH that commits, in a round of its commit. -/
def committing (m : Cmd) (r : Round) (todo answered : List Nat) : State :=
  let s := withCmd { m with decided := true, phase := .committing, reqSent := true }
  { s with disp := { s.disp with current := some ⟨[0], 1, r, todo, answered⟩ } }

/-- ApplyCommitsStagedBytes: a byte staged in the line of slice `sliceOf`; ApplyInvertsSelectors: a FLIP entry. -/
theorem wit_apply : let m := { cmd 1 with staged := [(0x10000, 1)] }
    let s := committing m .applying (List.range 8) []
    Inv s ∧ (cmdOf s 0).map (fun c => Plain s 0 c && c.deltas = [] && c.kind = 1) = some true ∧
    m.annex.map (·.outs.all (·.kind != 2)) ≠ some false ∧ sliceOf s (lineOf 0x10000) < 8 := by decide +kernel
theorem wit_flip : let x : Annex := { privFirst := 0, privCount := 0, outs := [⟨2, 0x10008, 8⟩], stage := [], scheds := [] }
    let s := committing { cmd 1 with annex := some x } .applying (List.range 8) []
    Inv s ∧ (cmdOf s 0).map (fun c => Plain s 0 c && c.staged = [] && c.deltas = [] && c.kind = 1) = some true ∧ sliceOf s 0x10008 < 8 ∧
    inFrameTable s 0x10008 8 = false := by decide +kernel
/-- With the deltas of two cores on one element, and one on another. -/
theorem wit_apply_deltas : let ds : List Delta := [⟨0x10008, 4, 0, 0, 1, 0, 5⟩, ⟨0x10008, 4, 0, 0, 0, 0, 3⟩, ⟨0x10010, 8, 0, 0, 0, 0, 1⟩]
    let s := committing { cmd 1 with deltas := ds } .applying (List.range 8) []
    Inv s ∧ (cmdOf s 0).map (fun c => Plain s 0 c && c.kind = 1) = some true ∧ sliceOf s 0x10008 < 8 ∧
    (∀ x ∈ ds, ∀ y ∈ ds, (x.addr, x.bytes) = (y.addr, y.bytes) ∨ x.addr + x.bytes ≤ y.addr ∨ y.addr + y.bytes ≤ x.addr) ∧
    ((ds.take 2).reverse.map deltaKey).Pairwise (· < ·) ∧ s.flt.upsets = [] := by decide +kernel

/-- CommitRounds: the last apply_done, the last release, and the end of the commit with a done signal. -/
theorem wit_rounds : Unhindered (committing (cmd 1) .applying [] [7]) = true ∧ Unhindered (committing (cmd 1) .releasing [7] []) = true ∧
    let m := { cmd 1 with record := ofFields 512 [(0, 1), (16, 0xC000), (32, 15)] }
    let s := committing m .releasing [] []
    jointSet s 0 = [0] ∧ (cmdOf s 0).map (fun c => c.phase = .committing && c.kind = 1 && Plain s 0 c && c.doneInc != 0) = some true ∧
    (queueOf s 0).joinLeft = 0 := by decide +kernel

/-- KillLeavesNothing: a kill to run again, an abort and a failure, with a byte staged. -/
theorem wit_kill : ([AfterKill.rerun, AfterKill.abort, AfterKill.fail].all fun w =>
    let m := { cmd 1 with kill := some w, failed := w = .fail, staged := [(0x10000, 1)] }
    let s := withCmd m
    jointSet s 0 = [0] && Unhindered s && s.disp.change.isNone && s.sync.inflight.isEmpty && m.units.isEmpty && !m.sigOnEnd && Plain s 0 m &&
      (queueOf s 0).joinLeft = 0) = true := by decide +kernel

/-- CompletionRecord: a command that has ended, of a queue whose completions go by datagram. -/
theorem wit_completion : let m := { cmd 1 with phase := .closing, status := some .committed, runs := 300 }
    egressOut (withCmd m) 0 = false ∧ m.kind ≠ 9 ∧ endedBefore (withCmd m) m = false ∧ bit m.qcfg 17 = true ∧
    portSends (withCmd m) (fld m.qcfg 16 1) = true ∧ (withCmd m).eth.comps = [] := by decide +kernel
/-- And one of a queue whose records go by RDMA WRITE on queue pair 3, which is READY. -/
theorem wit_completion_ring : let m := { cmd 1 with phase := .closing, status := some .failed, qcfg := 281474981036096 - 2 ^ 17, qcomp := BitVec.ofNat 64 (3 * 2 ^ 22) }
    let s := cfgSet (withCmd m) (mQp 3 0) 62 2 1
    egressOut s 0 = false ∧ endedBefore s m = false ∧ bit m.qcfg 17 = false ∧ fld m.qcomp 22 10 = 3 ∧ qpState s 3 = 1 ∧ (qpOf s 3).rnr = false ∧
    portSends s (qpPort s 3) = true := by decide +kernel

/-- NopCommits. -/
theorem wit_nop : let m := cmd 0
    Inv (withCmd m) ∧ jointSet (withCmd m) 0 = [0] ∧ m.work = false ∧ stagedFenced (withCmd m) m = none ∧ partialPoison (withCmd m) [0] = none := by
  decide +kernel


/-! ### Engine instructions -/

/-- A descriptor (R157): format, extents 0 to 2, location, base in bytes, stride of dimension 1 in bytes; its capacity is 64 KiB. -/
def desc (fmt e0 e1 e2 loc base st : Nat) : BitVec 256 :=
  ofFields 256 [(0, base / 16), (46, loc), (65, e2), (78, e1), (91, e0), (104, 64), (120, fmt), (128, 1), (141, 1), (154, 4), (192, st / 16), (212, 4), (232, 4)]

/-- An engine instruction (R150) with the given fields, on descriptors d1, d2, ... and general registers `gs`. -/
def einstr (eng op fmt : Nat) (more : List (Nat × Nat)) (ds : List (BitVec 256)) (gs : Map Word) : EInstr :=
  { raw := ofFields 128 ([(120, op), (116, eng), (108, fmt)] ++ more), addr := 0x1000, g := gs, d := ds.zipIdx.map fun x => (x.2 + 1, x.1),
    asleep := false, woken := false, alt := false, descs := [], checked := false, flight := 0 }

/-- Core 0 with `i` at the head of its engine's queue, the KV tables in use. -/
def engined (i : EInstr) (k : Core) : State := cfgSet (withCore (cmd 1) { k with queues := [(i.eng, [i])] }) mKvCtl 0 2 1

/-- The job of that instruction. -/
def jobOf (f : Form) (i : EInstr) (k : Core) : Job := { s := engined i k, k := 0, core := 0, eng := i.eng, i := i, ops := operandsOf f i }

/-- The instruction starts at once. -/
def startsAt (i : EInstr) (k : Core) : Bool :=
  match engInstr (engined i k) 0 i.eng i.op with
  | none => false
  | some (_, f) => startsNow f i.op (jobOf f i k) && decide (Inv (engined i k))

/-- DA is d1, DB d2 and DC d3. -/
def abc : List (Nat × Nat) := [(62, 1), (57, 2), (52, 3)]
def ac : List (Nat × Nat) := [(62, 1), (52, 3)]
/-- BF16 operands in the scratchpad with FP32 results in the accumulator store; FP32 vectors in the scratchpad. -/
def mats : List (BitVec 256) := [desc 7 2 2 1 0 0 64, desc 7 2 2 1 0 0x1000 64, desc 9 2 2 1 3 0 64]
def vecs : List (BitVec 256) := [desc 9 2 2 1 0 0 64, desc 9 2 2 1 0 0x1000 64, desc 9 2 2 1 0 0x2000 64]
/-- A geometry pair: every stride and dilation 1, OEX 2, OEY 1. -/
def geo : List (BitVec 256) := [ofFields 256 [(17, 1), (25, 1), (81, 1), (89, 1), (145, 1), (153, 1), (221, 1), (232, 2)], 0]
/-- A core that retains a P of two rows. -/
def keeps (pages : Nat) : Core :=
  { coreAt [] with pbuf := some ⟨[[0x3F80, 0x3F80], [0, 0]], [0x3F800000, 0], 7, 2, pages, false, false, 0, 0⟩ }
def kmats : List (BitVec 256) := [desc 7 64 2 1 0 0 128, 0, desc 9 64 2 1 3 0x8000 256]

/-- MatrixProducts: MM, MM that accumulates, MV, CONV, CONVG, CWIN with each of its functions, CROP. -/
theorem wit_matrix : (([einstr 0 0x01 7 abc mats [], einstr 0 0x01 7 (abc ++ [(30, 1)]) mats [], einstr 1 0x01 7 abc mats [],
    einstr 0 0x10 7 (abc ++ [(25, 4)]) (mats ++ geo) [], einstr 0 0x11 7 (abc ++ [(25, 4), (19, 1), (13, 1)]) (mats ++ geo) [],
    einstr 0 0x18 7 (ac ++ [(24, 4)]) (mats ++ geo) [], einstr 0 0x18 7 (ac ++ [(24, 4), (29, 2)]) (mats ++ geo) []].all fun i => startsAt i (coreAt [])) &&
    startsAt (einstr 0 0x20 9 abc [desc 9 2 2 2 0 0 64, desc 9 8 1 1 0 0x1000 64, desc 9 2 1 1 3 0 64] [])
      { coreAt [] with scratch := Map.putRun [] 0x1000 (natLE 32 0x3F8000003F8000000000000000000000) }) = true := by
  decide +kernel

/-- FusedPairs: MMF with FN 1 and 2, MMP, KMM, KMMF and KMMP. -/
theorem wit_fused : ([(einstr 0 0x02 7 [(62, 1), (57, 2), (52, 4), (26, 1), (8, 1), (0, 8)]
      [desc 7 2 2 1 0 0 64, desc 7 2 2 1 0 0x1000 64, desc 7 2 2 1 0 0x2000 64, desc 9 2 2 1 3 0x4000 64] [], coreAt []),
    (einstr 0 0x02 7 [(62, 1), (57, 2), (52, 4), (26, 2), (8, 1)]
      [desc 7 2 2 1 0 0 64, desc 7 2 2 1 0 0x1000 64, desc 7 1 2 1 0 0x2000 64, desc 9 2 2 1 3 0x4000 64] [], coreAt []),
    (einstr 0 0x03 7 [(57, 2), (52, 3)] mats [], keeps 0), (einstr 0 0x30 7 ac kmats [], coreAt []),
    (einstr 0 0x31 7 (ac ++ [(8, 1), (0, 8)]) kmats [], coreAt []), (einstr 0 0x32 0 [(52, 3)] kmats [], keeps 4)].all fun x : EInstr × Core =>
      startsAt x.1 x.2) = true := by decide +kernel

/-- VectorElements: every operation, VADD also of INT8, VCVT also into an MX format. -/
theorem wit_elements : (([2, 3, 4, 5, 6, 7, 8].map fun op => einstr 2 op 9 abc vecs []) ++
    [einstr 2 0x02 4 abc [desc 4 2 2 1 0 0 64, desc 4 2 2 1 0 0x1000 64, desc 4 2 2 1 0 0x2000 64] [],
     einstr 2 0x09 9 (ac ++ [(17, 1)]) vecs [(1, 0x3F8000003F000000)], einstr 2 0x10 9 (ac ++ [(0, 1)]) vecs [], einstr 2 0x11 9 abc vecs [],
     einstr 2 0x01 9 ac vecs [],
     einstr 2 0x01 0x85 ac [desc 9 33 2 1 0 0 256, 0, desc 0x85 33 2 1 0 0x2000 64 + BitVec.ofNat 256 (4 * 2 ^ 174)] []]).all
      (fun i => startsAt i (coreAt [])) = true := by decide +kernel

/-- VectorRows: VRED, VSMX, VCMUL, VBFLY, VTRANS, VRNG, VGATE with each GF, VSCAN. -/
theorem wit_rows : ([einstr 2 0x12 9 (ac ++ [(0, 4)]) [desc 9 2 2 1 0 0 64, 0, desc 9 1 2 1 0 0x2000 64] [],
    einstr 2 0x13 9 (ac ++ [(17, 4)]) (vecs ++ [desc 9 3 2 1 0 0x3000 64]) [], einstr 2 0x14 9 abc vecs [],
    einstr 2 0x15 9 (abc ++ [(13, 1)]) [desc 9 4 2 1 0 0 64, desc 9 4 1 1 0 0x1000 64, desc 9 4 2 1 0 0x2000 64] [], einstr 2 0x16 9 ac vecs [],
    einstr 2 0x17 9 [(52, 3), (20, 3), (0, 1), (22, 1), (15, 2)] vecs [], einstr 2 0x18 9 [(62, 1), (52, 2), (17, 3), (15, 1), (10, 1)] vecs [],
    einstr 2 0x18 9 (abc ++ [(17, 4), (15, 2)]) (vecs ++ [desc 9 2 2 1 0 0x3000 64]) [],
    einstr 2 0x19 9 (abc ++ [(17, 4), (12, 5)]) (vecs ++ [desc 9 4 2 1 0 0x3000 64, desc 9 4 1 1 0 0x4000 64]) []].all
      fun i => startsAt i (coreAt [])) = true := by decide +kernel

/-- DescriptorsAndItems: KDESC of a page in the look-aside buffer, KPOST, KTAKE. -/
theorem wit_items : (startsAt (einstr 2 0x30 11 [(52, 1), (35, 1)] [desc 11 2 1 1 0 0 64] [(1, 0)]) { coreAt [] with lab := [⟨0, 0, 0, 0, 5⟩] } &&
    startsAt (einstr 2 0x32 11 [(62, 1)] [desc 11 4 1 1 0 0 64] []) (coreAt []) &&
    startsAt (einstr 2 0x33 11 [(52, 1)] [desc 11 2 1 1 0 0 64] []) (coreAt [])) = true := by decide +kernel

/-- EngineChecks: a reserved opcode, the reserved format 0x0C, and a VBFLY whose rows are no power of two. -/
theorem wit_checks : runs (engined (einstr 2 0x02 9 abc vecs []) (coreAt [])) 0 = true ∧
    (cmdOf (engined (einstr 2 0x02 9 abc vecs []) (coreAt [])) 0).map (·.decided) = some false ∧
    (knownOps 2).contains (einstr 2 0x7F 9 abc vecs []).op = false ∧ fmtKnown (einstr 2 0x02 0x0C abc vecs []).fmt = false ∧
    5 ∉ (coreOf (engined (einstr 2 0x02 9 abc vecs []) (coreAt [])) 0).broken ∧
    (allChecks vbflyForm (jobOf vbflyForm (einstr 2 0x15 9 abc vecs []) (coreAt []))).isSome = true := by decide +kernel

/-- EngineWaits: a copy that waits for counter 0xC000 to reach 1, one with an alternate under a strict and under a free command, one of a zero
shape, and a SYNC; and one that an earlier instruction in flight, which writes what it reads, holds back. -/
theorem wit_waits : let i := einstr 3 0x01 9 (ac ++ [(103, 1), (87, 0xC000)]) vecs [(1, 1)]
    let j := jobOf copyForm i (coreAt [])
    atHead copyForm 0x01 j = true ∧ allChecks copyForm j = none ∧ waitMet j = false ∧ j.i.altsel = 0 ∧ copyForm.path j ≠ some true ∧
    depends copyForm j = false := by decide +kernel
theorem wit_waits_alt : let i := einstr 2 0x02 9 (abc ++ [(103, 1), (87, 0xC000), (45, 1), (47, 1)]) vecs [(1, 1)]
    ∃ f, engInstr (engined i (coreAt [])) 0 2 0x02 = some (.vadd 0, f) ∧
    let j := jobOf f i (coreAt [])
    atHead f 0x02 j = true ∧ allChecks f j = none ∧ waitMet j = false ∧ j.i.altsel ≠ 0 ∧ f.path j = none ∧ depends f j = false ∧
      (cmd 1).strict = false := by
  exact ⟨_, rfl, by decide +kernel⟩
theorem wit_strict : ({ cmd 1 with record := ofFields 512 [(0, 1), (8, 1)] } : Cmd).strict = true := by decide +kernel
theorem wit_waits_zero : let j := jobOf copyForm (einstr 3 0x01 9 ac [desc 9 0 2 1 0 0 64, 0, desc 9 0 2 1 0 0x2000 64] []) (coreAt [])
    atHead copyForm 0x01 j = true ∧ allChecks copyForm j = none ∧ waitMet j = true ∧ copyForm.zero j.ops = true ∧
    copyForm.remote j.i j.ops = false ∧ depends copyForm j = false := by decide +kernel
theorem wit_waits_depends : let j := jobOf copyForm (einstr 3 0x01 9 ac vecs []) { coreAt [] with flying := [(3, [⟨0, 0xFF0, 1, 0, 0, false, 1, 0, false,
      [(0, 0x40, 8)], [], [], []⟩])] }
    atHead copyForm 0x01 j = true ∧ allChecks copyForm j = none ∧ depends copyForm j = true := by decide +kernel
theorem wit_waits_behind : let i := einstr 3 0x01 9 (ac ++ [(103, 1), (87, 0xC000)]) vecs [(1, 1)]
    let j : Job := { jobOf copyForm i (coreAt []) with s := { engined i (coreAt []) with sync := { Sync.reset with inflight := [⟨0xC000, 1, some 0, some 0, 0⟩] } } }
    atHead copyForm 0x01 j = true ∧ allChecks copyForm j = none ∧ depends copyForm j = false ∧ j.i.wreg ≠ 0 ∧ readBehind j.s 0 0xC000 = true ∧
    nameCtr 0 j.i.wctr = some 0xC000 := by decide +kernel
theorem wit_waits_sync : let j := jobOf syncForm (einstr 4 0x01 0 [] [] []) (coreAt [])
    atHead syncForm 0x01 j = true ∧ allChecks syncForm j = none ∧ waitMet j = true ∧ syncForm.remote j.i j.ops = false ∧
    depends syncForm j = false := by decide +kernel

/-- EngineCopies: on the chip, from the HBM plane of peer 1, and to it in rows that leave lines partly as they are and in rows that fill them. -/
theorem wit_copies : (startsAt (einstr 3 0x01 9 ac vecs []) (coreAt []) &&
    startsAt (einstr 3 0x01 9 (ac ++ [(28, 1), (35, 1)]) [desc 9 2 2 1 1 0x10000 64, 0, desc 9 2 2 1 0 0x2000 64] [(1, 1)]) (coreAt []) &&
    ([2, 16].all fun w => startsAt (einstr 3 0x01 9 (ac ++ [(28, 2), (35, 1)]) [desc 9 w 2 1 0 0 64, 0, desc 9 w 2 1 1 0x10000 64] [(1, 1)]) (coreAt []) &&
      (peerEdges (getOp (jobOf copyForm (einstr 3 0x01 9 (ac ++ [(28, 2), (35, 1)]) [desc 9 w 2 1 0 0 64, 0, desc 9 w 2 1 1 0x10000 64] [(1, 1)])
        (coreAt [])).ops .dc)).isEmpty = decide (w = 16))) = true := by
  decide +kernel

/-- And to host memory under key 7, in rows that end at a byte and in rows that do not. -/
def toHost (fmt w : Nat) : Job :=
  let i := einstr 3 0x01 fmt (ac ++ [(28, 2), (35, 1)]) [desc fmt w 2 1 0 0 64, 0, desc fmt w 2 1 2 0x10000 64] [(1, 7)]
  let s := engined i (coreAt [])
  let s := cfgSet (cfgSet (cfgSet s (mHkey 7 0) 61 3 7) (mHkey 7 1) 0 64 0x10000) (mHkey 7 2) 0 64 0x1000
  { jobOf copyForm i (coreAt []) with s := cfgSet s (mQp 0 0) 62 2 1 }
theorem wit_copies_host : ([(9, 2, true), (0, 3, false)].all fun x : Nat × Nat × Bool =>
    let j := toHost x.1 x.2.1
    startsNow copyForm 0x01 j && decide (Inv j.s) && j.i.far = 2 && (getOp j.ops .dc).loc = 2 && (edgeBytes (getOp j.ops .dc)).isEmpty = x.2.2 &&
      (cmdOf j.s j.k).isSome) = true := by decide +kernel

/-- EngineEvents: an instruction in flight that signals a counter of the core, one that signals a chip counter, one without a signal, and a
residue mismatch of the matrix engine. -/
def aloft (sctr sinc : Nat) : State :=
  withCore (cmd 1) { coreAt [] with act := .draining 1 0x1000, flying := [(0, [⟨0, 0x1000, 0x01, sctr, sinc, true, 0, 0, false, [], [], [], []⟩])] }
theorem wit_events : (([(47, 15), (0xC000, 1), (0, 0)].all fun x : Nat × Nat =>
    let s := aloft x.1 x.2
    decide (Inv s) && runs s 0 && jointSet s 0 = [0] && (nameCtr 0 x.1).isSome && !(awaits s fun q => q.asker.ofEngine 0 0 0x1000) &&
      (coreOf s 0).broken.isEmpty && (flyingOf (coreOf s 0) 0)[0]?.isSome && !(cmd 1).failSent) = true ∧
    isInternal (aloft 47 15) 0 ((nameCtr 0 47).getD 0) = true ∧ isInternal (aloft 0xC000 1) 0 ((nameCtr 0 0xC000).getD 0) = false) ∧
    setHasCollective (aloft 0 0) 0 = false ∧ underTest (aloft 0 0) 1 0 = false ∧ cfg (aloft 0 0) mErrCfg 40 8 = 3 ∧
    (extCounters (setCmd (aloft 0xC000 1) 0 { cmd 1 with sums := [(0xC000, 1)] }) 0).length ≤ 1024 ∧
    (let k := coreOf (aloft 0 0) 0
     k.act = .draining 1 0x1000 ∧ (∀ o < 5, bit (1 : BitVec 5) o = true → queueOfEng k o = [] ∧ o = 0 ∧ o ∉ k.broken) ∧ (flyingOf k 0).length = 1) ∧
    ([0, 3].map fun n => Map.get (fun _ => 0) ({ aloft 0 0 with flt := { Faults.reset with passes := [(unitKey 1 0, n)] } } : State).flt.passes (unitKey 1 0)) = [0, 3] :=
  by decide +kernel

/-! ### KV tables -/

/-- The start of the pinned window. -/
def pin : Nat := 0x010000000000

/-- KV tables of two futures, two sessions and sixteen frames; class 0 has one layer and one head of 64 BF16 elements; pools 0 and 3 hold pages, pool 1
leaves, pool 2 summaries. Future 0 is live with LENGTH `len`, its page 0 in frame 0, sealed or not, its leaf in frame 8; frame 0 has `refs` references. -/
def kvState (len valid refs : Nat) (shut : Bool) (m : Cmd) : State :=
  let pool := fun (i base ring first count log : Nat) (s : State) =>
    cfgSet (cfgSet (cfgSet s (mKvPool i 0) 0 64 (pin + base)) (mKvPool i 1) 0 64 (2 ^ 63 + log * 2 ^ 56 + count * 2 ^ 28 + first))
      (mKvPool i 2) 0 48 (pin + ring)
  let entry := fun (p st ref : Nat) => (ofFields 128 [(0, ref), (54, st), (58, p), (100, noFrame)]).toNat
  let s := cfgSet (cfgSet (cfgSet (withCmd m) mKvCtl 0 2 1) mKvFut 0 56 (2 ^ 36 + 0x10000100)) mKvSess 0 50 (2 ^ 36 + 0x10000101)
  let s := cfgSet (cfgSet s mKvFrame 0 64 (16 * 2 ^ 36 + 0x10000102)) (mKvClass 0) 0 64
    (1 + 7 * 2 ^ 17 + 2 ^ 22 + 2 ^ 29 + 2 ^ 42 + 2 * 2 ^ 48)
  let s := pool 3 0x500000 0x1040C0 12 2 12 (pool 2 0x400000 0x104080 10 2 8 (pool 1 0x300000 0x104040 8 2 12 (pool 0 0x200000 0x104000 0 8 12 s)))
  let put := fun (a n v : Nat) (p : Map Byte) => Map.setRun (fun _ => 0) p (pin + a) (natLE n v)
  let plane := put 0x100000 16 (ofFields 128 [(32, len), (64, 1), (80, pin + 0x103000)]).toNat
    (put 0x100010 16 (ofFields 128 [(80, pin + 0x103040)]).toNat
    (put 0x101000 8 (2 ^ 16) (put 0x103000 8 (8 * 2 ^ 36) (put 0x103040 8 (noFrame * 2 ^ 36)
    (put 0x102000 16 (entry 0 1 refs) (put 0x102080 16 (entry 1 1 1) (put 0x1020A0 16 (entry 2 0 0) (put 0x1020C0 16 (entry 3 0 0)
    (put 0x300000 16 (ofFields 128 [(2, b2n shut), (3, valid), (8, noFrame), (36, 0), (64, pin + 0x200000)]).toNat
    (put 0x300010 16 descAbsent.toNat (put 0x104080 4 10 (put 0x1040C0 4 12 []))))))))))))
  { s with mem := { s.mem with plane := plane } }

/-- WalkAnswers: a KDESC that waits for page 0, found in the tables or in the walker cache; page 256, which no future of the class has, for a KDESC and for
a KMM. -/
def walking (e op page : Nat) (hit : Bool) : State :=
  let s := kvState 5 5 1 false (cmd 1)
  let i := { einstr e op 11 [(35, 1), (16, 2)] [] [(1, BitVec.ofNat 64 (page * 2 ^ 20)), (2, 0xFFFFFFFF)] with woken := true }
  { s with cores := [(0, { coreAt [] with queues := [(e, [i])] })],
           mem := { s.mem with wcache := if hit then [⟨0, ⟨0, 0, 0, page, 0⟩, 0⟩] else [] } }
theorem wit_walk : ([(2, 0x30, 0, false), (2, 0x30, 0, true), (2, 0x30, 256, false), (0, 0x30, 256, false)].all fun x : Nat × Nat × Nat × Bool =>
    let s := walking x.1 x.2.1 x.2.2.1 x.2.2.2
    (walkFor s 0 0 0 0 x.2.2.1).map (·.1) = some x.1 && runs s 0) = true := by decide +kernel
theorem wit_walk_tables : (match walkTables (walking 2 0x30 0 false) 0 0 0 0 with | .found d => decide (descFrame d = 0) | _ => false) = true ∧
    walkTables (walking 2 0x30 256 false) 0 0 0 256 = .absent ∧ (walking 2 0x30 0 false).mem.wcache = [] := by decide +kernel


/-! ### Counters, modes, settings, tests, debug -/

/-- Two signals in flight and a watch that the second brings to its target; a core that waits, with its wake; an engine with its wake; a polling
watch that its counter satisfies and one that it does not. -/
def counting (inflight : List Sig) (watches : List Watch) (wakes : List WakeUp) (k : Core) : State :=
  { withCore (cmd 1) k with sync := { Sync.reset with counters := [(0xC000, 5)], watches := watches, inflight := inflight, wakes := wakes } }
theorem wit_counter_events :
    let w : Watch := ⟨0xC000, 6, .control 0, true, 0⟩
    let waits := { coreAt [] with act := .waiting 0xC000 6 3 0x1000 }
    let s := counting [⟨3, 1, none, none, 0⟩, ⟨0xC000, 15, none, none, 1⟩] [{ w with polling := false }] [⟨.engine 0 3, 6⟩, ⟨.control 0, 6⟩] waits
    let e := counting [] [] [⟨.engine 0 3, 6⟩] { coreAt [] with queues := [(3, [einstr 3 0x01 9 [] [] []])] }
    (s.sync.inflight.map (·.ctr) = [3, 0xC000] ∧ (coreOf s 0).act = .waiting 0xC000 6 3 0x1000) ∧
    (e.sync.wakes.find? fun w => w.who = .engine 0 3) = some ⟨.engine 0 3, 6⟩ ∧ (queueOfEng (coreOf e 0) 3).length = 1 ∧
    ((counting [] [w] [] waits).sync.watches.filter fun x => x.ctr = 0xC000 && x.polling) = [w] ∧ watchRoom (counting [] [w] [] waits) 0xC000 = true ∧
    (ctrGet (counting [] [w] [] waits) 0xC000).toNat < w.target.toNat ∧
    (({ w with target := 5 } : Watch).target.toNat ≤ (ctrGet (counting [] [w] [] waits) 0xC000).toNat) := by decide +kernel
theorem wit_wait_timeout :
    let s := counting [] [⟨0xC000, 6, .control 0, false, 9⟩] [] { coreAt [] with act := .waiting 0xC000 6 3 0x1000 }
    (s.sync.watches.find? fun w => w.who = .control 0) = some ⟨0xC000, 6, .control 0, false, 9⟩ ∧ (coreOf s 0).slot = some 0 ∧
    (coreOf s 0).dbg.state = 1 ∧ (cmd 1).decided = false ∧ (cmd 1).kill = none := by decide +kernel
/-- Two signals of one die to one bank: the younger waits. -/
theorem wit_signal_path : (⟨0xC000, 15, none, none, 1⟩ : Sig).sharesPath ⟨3, 1, none, none, 0⟩ = false ∧
    (⟨0xC008, 15, none, none, 1⟩ : Sig).sharesPath ⟨0xC000, 1, none, none, 1⟩ = true := by decide +kernel

/-- ErrorsFound: a load of the word that is wrong, past correction and corrected, and an error in the logic of slice 2. -/
theorem wit_upsets : let w := word 0x18 3 1 (3 * 512 + 256)
    let s := cfgSet (about w 0x40 0 0) mErrCfg 48 16 0
    s.flt.upsets = [] ∧ issuable s 0 0 w = true ∧ ccTrue (coreOf s 0) w = true ∧ overlap (0x40 - 0x40 % 8) 8 0x40 8 = true ∧
    setHasCollective s 0 = false ∧ underTest s 1 0 = false ∧ cfg s mErrCfg 40 8 = 3 ∧ ([0, 3].map fun n => Map.get (fun _ => 0) [(unitKey 1 0, n)] (unitKey 1 0)) = [0, 3] ∧ cfg s mErrCfg 48 16 = 0 ∧ s.pending = [] ∧
    s.flt.faulted = false ∧ s.eth.stalled = [] := by decide +kernel

/-- ModeEpochs: a MODE command of epoch 2 with an empty block; the phases of its change. -/
def modeCmd : Cmd := { cmd 7 with record := ofFields 512 [(0, 7), (192, 1), (224, 2), (256, 0x20000)] }
def changing (phase : BitVec 2) (confirmed : List (Nat × Nat)) : State :=
  let s := withCmd { modeCmd with work := true }
  { s with disp := { s.disp with phase := phase, change := some ⟨0, 2, 0, false, confirmed⟩ } }
theorem wit_mode : atWork (withCmd modeCmd) 0 0x07 = some modeCmd ∧ modeCmd.setOp = 1 ∧ heldFor (withCmd modeCmd) 0 0x20000 8 = false ∧
    poisonIn (withCmd modeCmd) 0x20000 8 = none ∧ csetBad (withCmd modeCmd) 0 0x20000 8 = none ∧ fencedIn (withCmd modeCmd) 0x20000 8 = none ∧ modeBad 0 = none ∧ modeCmd.newEpoch = ((withCmd modeCmd).disp.epoch + 1).toNat := by decide +kernel
theorem wit_mode_phases : drained (changing 1 []) 0 = true ∧ (8, 0) ∈ modeUnits (changing 2 []) ∧ unitInTest (changing 2 []) 8 0 = false ∧
    (4, 0) ∈ modeUnits (changing 2 []) ∧ unitInTest { changing 2 [] with flt := { Faults.reset with tests := [⟨4, 0, 0, [], false, false, false⟩] } } 4 0 = true ∧
    jointSet (changing 2 []) 0 = [0] ∧ stagedFenced (changing 2 []) { modeCmd with work := true } = none ∧
    partialPoison (changing 2 []) [0] = none := by
  decide +kernel
theorem wit_mode_units : ∀ u ∈ modeUnits (changing 2 (modeUnits State.reset)), u ∈ modeUnits State.reset := fun _ h => h

/-- A change to a new split, into three regions, that every unit has confirmed; and one that is still to be prepared. -/
def splitting (phase : BitVec 2) : State :=
  let s := withCmd { modeCmd with work := true }
  { s with disp := { s.disp with phase := phase, change := some ⟨0, 2, 3, true, modeUnits s⟩ } }
theorem wit_mode_split : drained (splitting 1) 0 = true ∧
    0 < fld (3 : BitVec 64) 0 3 ∧ fld (3 : BitVec 64) 0 3 ≤ 4 ∧ jointSet (splitting 2) 0 = [0] ∧ stagedFenced (splitting 2) { modeCmd with work := true } = none ∧
    partialPoison (splitting 2) [0] = none ∧ (splitting 2).disp.slots = [(0, { modeCmd with work := true })] ∧ (splitting 2).flt.upsets = [] := by
  decide +kernel
theorem wit_split_units : ∀ u ∈ modeUnits (splitting 2), u ∈ modeUnits (withCmd { modeCmd with work := true }) := fun _ h => h

/-- SettingsCommands, REGISTER_WRITE: MOD_CFG's warning temperature in its range, below and above it, a reserved axis of DETOUR, and a bit that no field
owns. -/
theorem wit_register_write :
    ([100, 84, 106].map fun v : Nat => max 85 (min 105 (fld (BitVec.ofNat 64 (v * 2 ^ 56) : Word) 56 8))) = [100, 85, 105] ∧
    fld (5 * 2 ^ 12 : Word) 12 3 = 5 ∧ ((1 : Word).getLsbD 0) = true ∧ offDenied State.reset 4 = true := by decide +kernel
theorem test_register_write : (let w := fun (off : Nat) (v : Word) => exec (.registerWrite (BitVec.ofNat 24 off) v) State.reset
    let get := fun o off lo n => match o with
      | Host.Outcome.next t => some (cfg t off lo n, t.flt.log.written)
      | _ => none
    (get (w mModCfg (106 * 2 ^ 56)) mModCfg 56 8, get (w mModCfg (90 * 2 ^ 56)) mModCfg 56 8, get (w (mDetour 2) (5 * 2 ^ 12)) (mDetour 2) 12 3)) =
      (some (105, 2), some (90, 0), some (0, 2)) := by decide +kernel

/-- SettingsCommands: a STORE of the settings in force and a REPORT into the pinned window. -/
theorem wit_settings : ([(2, 0), (3, 0x010000000000)].all fun x : Nat × Nat =>
    let m := { cmd 7 with record := ofFields 512 [(0, 7), (192, x.1), (256, x.2)] }
    let s := withCmd m
    decide (Inv s) && atWork s 0 0x07 = some m && m.setOp = x.1 && m.setAddr = x.2 && jointSet s 0 = [0] && (stagedFenced s m).isNone &&
      (partialPoison s [0]).isNone && !m.decided) = true := by decide +kernel

/-- SelfTests: TEST and FENCE of core 1023, UNFENCE of a fenced one, and the end of a test. -/
theorem wit_selftest : ([1, 2, 3].all fun op =>
    let m := { cmd 8 with record := ofFields 512 [(0, 8), (248, op), (240, 1), (224, 1023)], cores := [] }
    let s := withCmd m
    atWork s 0 0x08 = some m && m.testCls = 1 && m.testUnit = 1023 && m.testOp = op && cmdOnCore s 1023 = none && !underTest s 1 1023 &&
      jointSet s 0 = [0] && (stagedFenced s m).isNone && (partialPoison s [0]).isNone && !coreFenced s 1023 && Unhindered s && m.units.isEmpty) = true := by
  decide +kernel
theorem wit_selftest_fenced : let s := { State.reset with flt := { Faults.reset with coreFence := [1023] } }
    coreFenced s 1023 = true := by decide

/-- LinesAndLog: the first line of the pinned window, and a line of HBM that a read waits for; a TAIL between HEAD and the oldest record, one before
it, one ahead of HEAD. -/
theorem wit_lines : inPlane State.reset (lineOf 0x010000000000) 64 = true ∧ systemLine State.reset (lineOf 0x010000000000) = false ∧
    regionLocked State.reset (lineOf 0x010000000000) = false ∧ isPoisoned State.reset 0x010000000000 = false ∧ hbmSize ≤ lineOf 0x010000000000 ∧
    cachedLine State.reset (lineOf 0x010000000000) = none ∧ inPlane State.reset (lineOf 0x10000) 64 = true ∧
    chanFenced State.reset (channelOf State.reset (lineOf 0x10000)) = false := by decide +kernel
theorem wit_fill : let f : FillReq := ⟨0x10000, 0, false, none, .system, false⟩
    let s := { State.reset with mem := { Memory.reset with fills := [f, { f with ways := 1 }] } }
    (s.mem.fills.filter fun x => x.line = lineOf 0x10000) = [f, { f with ways := 1 }] ∧ s.fab.readWaits = [] ∧ s.eth.held = [] ∧ s.flt.upsets = [] ∧ underTest s 4 (channelOf s (lineOf 0x10000)) = false ∧ isPoisoned s 0x10000 = false ∧
    (channelNext s (channelOf s (lineOf 0x10000))).map (·.line) = some (lineOf 0x10000) := by
  decide +kernel
theorem wit_log : let back := fun (x : Nat) => (2000 + (2 ^ 32 - 1) - x) % (2 ^ 32 - 1)
    back 1024 = 976 ∧ back 976 = 1024 ∧ back 975 = 1025 ∧ 2 ^ 31 ≤ back 2001 := by decide

/-- HaltsAndSteps, with a debug token's permission. -/
def debugged (k : Core) : State :=
  { withCore (cmd 1) k with sec := { Security.reset with perm := 1 } }
theorem wit_halts : permBit (debugged (coreAt [])) 0 = true ∧ (coreOf (debugged (coreAt [])) 0).act = .running ∧ (coreOf (debugged (coreAt [])) 0).dbg.state = 1 ∧
    (coreOf (debugged (coreAt [])) 5).act = .idle ∧ permBit State.reset 0 = false ∧
    ((coreOf (debugged { coreAt [] with dbg := { DbgCore.reset with state := 3 } }) 0).dbg.state = 3) ∧
    debugNames (debugged { coreAt [] with dbg := { DbgCore.reset with state := 3 } }) 0 = false ∧
    launchCores (debugged (coreAt [])) = [0] ∧ (coreAt []).broken = [] ∧
    (let s := withCmd { cmd 1 with cores := [9] }; launchCores s = [9] ∧ (coreOf s 9).act = .idle) := by decide +kernel

/-- SnapshotsAndWatches: the three phases of a snapshot, and a region of one line at the start of the pinned window. -/
theorem wit_snapshots : State.reset.dbg.snap = .idle ∧ State.reset.dbg.snapWaits = false ∧ State.reset.disp.current = none ∧
    State.reset.disp.waiting = [] ∧ State.reset.eth.asks = [] ∧ (about 0 0 0 0).cores.map (·.1) = [0] := by decide
theorem wit_watch : let s := cfgSet (cfgSet State.reset (mWatch 63 1) 0 48 0x010000000000) (mWatch 63 2) 0 19 1
    let v : Word := 2 ^ 63 + 9 * 2 ^ 32
    bit v 63 = true ∧ cfgBit s (mWatch 63 0) 63 = false ∧ watchRegionOk s 63 v = true ∧ v.toNat % 2 ^ 32 = 0 ∧ fld v 48 11 = 0 ∧ fld v 61 2 ≠ 3 := by
  decide +kernel

/-- DebugViews: a view of the last 64 bytes of each memory of a halted core. -/
theorem wit_views : ([(1, 0, 0xFFFC0), (2, 1, 64)].all fun x : Nat × Nat × Nat =>
    let m := { cmd 9 with record := ofFields 512 [(0, 9), (336, x.1), (353, x.2.1), (354, 0), (364, x.2.2), (384, 64), (416, 0x010000000000)] }
    let s := withCore m { coreAt [] with dbg := { DbgCore.reset with state := 3 } }
    decide (Inv s) && atWork s 0 0x09 = some m && jointSet s 0 = [0] && !m.decided && (coreOf s m.viewCore).dbg.state = 3 && m.viewOp = x.1 &&
      (stagedFenced s m).isNone && (partialPoison s [0]).isNone && !heldFor s 0 m.viewPlane m.viewBytes &&
      (poisonIn s m.viewPlane m.viewBytes).isNone) = true := by decide +kernel


/-- KvTables: tables that may be enabled; tables in use; tables being initialised. -/
theorem wit_kv_enable : let s := cfgSet (kvState 5 5 1 false (cmd 0)) mKvCtl 0 2 0
    cfgBit s mKvCtl 0 = false ∧ tablesGood s = true ∧ ((List.range 64).all fun i => !poolOn s i || poolGood s ((List.range i).filter (poolOn s)) i) = true ∧
    ((List.range 16).all fun c => !clsValid (clsWord s c) || classGood s (clsWord s c)) = true := by decide +kernel
theorem wit_kv_disable : runningCount (kvState 5 5 1 false { cmd 0 with phase := .closing }) = 0 ∧ runningCount (kvState 5 5 1 false (cmd 0)) ≠ 0 := by
  decide +kernel
theorem wit_kv_init : let s := cfgSet (kvState 5 5 1 false (cmd 0)) mKvCtl 1 1 1
    let areas := (futAt s 0, 16 * futCount s) :: (sessAt s 0, 8 * sessCount s) :: ((List.range 64).filter (poolOn s)).flatMap fun i =>
      [(poolRing s i, 4 * poolCount s i), (frameAt s (poolFirst s i), 16 * poolCount s i)]
    cfgBit s mKvCtl 1 = true ∧ areas.Pairwise fun x y => overlap x.1 x.2 y.1 y.2 = false := by decide +kernel

def pageCmd (kind : Nat) (fs : List (Nat × Nat)) : Cmd := { cmd kind with record := ofFields 512 ((0, kind) :: fs), stage := List.replicate 8 32 }
/-- FORK of future 1 from future 0 (`new` 0) or into session 1. -/
def forkCmd (new : Nat) : Cmd := pageCmd 4 [(392, new), (393, 1), (407, 1), (424, 1)]
def freeCmd : Cmd := pageCmd 6 [(427, 1)]
/-- APPEND of `n` tokens from the start of the pinned window, sealing or not. -/
def appendCmd (n shut : Nat) : Cmd := pageCmd 5 [(382, shut), (383, n), (416, pin)]
/-- RELOCATE of `n` pages from page 0 into pool 3. -/
def relocateCmd (n : Nat) : Cmd := pageCmd 5 [(380, 1), (309, n), (363, 3)]

/-- The page work ends well, and what it stages meets no fence and no lost line. -/
def worksOut (m : Cmd) (s : State) (w : Pg Unit) : Bool :=
  decide (Inv s) && atWork s 0 m.kind = some m && jointSet s 0 = [0] && kvOn s && m.egress.isEmpty &&
  match w s with
  | .ok _ u => match cmdOf u 0 with
    | some d => (stagedFenced u d).isNone && (partialPoison u [0]).isNone && d.egress.isEmpty && live u 0 && !(awaits u fun q => q.slot = some 0 && q.asker = .cmd)
    | none => false
  | .error _ _ => false

/-- ForkAndFree: a FORK of one future from another and one into a session, a FREE, each with its blocks apart. -/
theorem wit_fork : ([0, 1].all fun new => worksOut (forkCmd new) (kvState 5 5 1 false (forkCmd new)) (forkWork 0 (forkCmd new))) = true := by decide +kernel
/-- The last reference to page 0's leaf goes, whose 256 descriptors name frame 0. Slot 0 holds no firmware, so that the kernel can tell two such states
apart. -/
def freeing : State :=
  let s := kvState 5 5 256 false freeCmd
  let put := fun (a n v : Nat) (p : Map Byte) => Map.setRun (fun _ => 0) p (pin + a) (natLE n v)
  { s with
    sec := { s.sec with fw0 := [] }
    mem := { s.mem with plane := put 0x100000 16 (ofFields 128 [(64, 1), (80, pin + 0x103000)]).toNat (put 0x101000 8 (2 ^ 16)
      (put 0x102000 16 (256 + 2 ^ 54) (put 0x102080 16 (1 + 2 ^ 54 + 2 ^ 58) (put 0x103000 8 (8 * 2 ^ 36) [])))) } }
/-- The same with the leaf's reference gone, and those of its first p descriptors. -/
def freed (p : Nat) : State :=
  let δ : Nat → Nat → Delta := fun n v =>
    { addr := pin + 0x102000 + 16 * n, bytes := 4, op := 1, contrib := 0, core := 0, eng := 3, value := BitVec.ofNat 64 (2 ^ 32 - v) }
  setCmd freeing 0 { freeCmd with
    page := { freeCmd.page with locks := [((pin + 0x102000) / 4096, true)], refs := (8, -1) :: List.replicate p (0, -1) }
    deltas := δ 8 1 :: (if p = 0 then [] else [δ 0 p]) }
def goesTo (r : EStateM.Result PgStop State Unit) (u : State) : Bool := match r with
  | .ok _ v => decide (v = u)
  | .error _ _ => false
theorem goesTo_eq {r : EStateM.Result PgStop State Unit} {u : State} (h : goesTo r u = true) : r = .ok () u := by
  unfold goesTo at h
  split at h
  · rw [of_decide_eq_true h]
  · cases h
/-- 32 descriptors of the leaf, from the k-th 32 on. -/
def freeBlock (k : Nat) : Bool :=
  (List.range 32).all fun p => goesTo (pgDropPage 0 8 (32 * k + p) (freed (32 * k + p))) (freed (32 * k + p + 1))
theorem free_block_0 : freeBlock 0 = true := by decide +kernel
theorem free_block_1 : freeBlock 1 = true := by decide +kernel
theorem free_block_2 : freeBlock 2 = true := by decide +kernel
theorem free_block_3 : freeBlock 3 = true := by decide +kernel
theorem free_block_4 : freeBlock 4 = true := by decide +kernel
theorem free_block_5 : freeBlock 5 = true := by decide +kernel
theorem free_block_6 : freeBlock 6 = true := by decide +kernel
theorem free_block_7 : freeBlock 7 = true := by decide +kernel
theorem free_blocks : ∀ k, k < 8 → freeBlock k = true
  | 0, _ => free_block_0
  | 1, _ => free_block_1
  | 2, _ => free_block_2
  | 3, _ => free_block_3
  | 4, _ => free_block_4
  | 5, _ => free_block_5
  | 6, _ => free_block_6
  | 7, _ => free_block_7
  | k + 8, h => absurd h (by omega)
theorem free_page {p : Nat} (h : p < 256) : pgDropPage 0 8 p (freed p) = .ok () (freed (p + 1)) := by
  have hb := List.all_eq_true.mp (free_blocks (p / 32) (by omega)) (p % 32) (List.mem_range.mpr (by omega))
  rw [show 32 * (p / 32) + p % 32 = p by omega] at hb
  exact goesTo_eq hb
/-- A loop over p goes through a sequence of states that each turn follows. -/
theorem loop_ok (f : Nat → Pg Unit) (S : Nat → State) : ∀ n a, (∀ p, a ≤ p → p < a + n → f p (S p) = .ok () (S (p + 1))) →
    (forIn (List.range' a n) PUnit.unit fun p _ => do f p; pure (ForInStep.yield PUnit.unit) : Pg PUnit) (S a) = .ok () (S (a + n))
  | 0, a, _ => rfl
  | n + 1, a, h => by
    rw [List.range'_succ, List.forIn_cons]
    have h0 := h a (Nat.le_refl a) (by omega)
    have ih := loop_ok f S n (a + 1) fun p h1 h2 => h p (by omega) (by omega)
    simp only [bind, EStateM.bind, pure, EStateM.pure, h0] at ih ⊢
    rw [ih, show a + 1 + n = a + (n + 1) by omega]
theorem free_pages {n : Nat} (h : n ≤ 256) :
    (forIn (List.range n) PUnit.unit fun p _ => do pgDropPage 0 8 p; pure (ForInStep.yield PUnit.unit) : Pg PUnit) (freed 0) = .ok () (freed n) := by
  have hn := loop_ok (pgDropPage 0 8) freed n 0 fun p _ hp => free_page (by omega)
  rwa [Nat.zero_add, ← List.range_eq_range'] at hn
theorem then_ok {x : Pg PUnit} {f : PUnit → Pg Unit} {s t : State} (h : x s = .ok () t) : (x >>= f) s = f () t := by
  simp only [bind, EStateM.bind, h]
theorem free_leaf : pgDropLeaf 0 8 (freed 0) = .ok () (freed 256) := by
  unfold pgDropLeaf
  rw [then_ok (free_pages (Nat.le_refl 256))]
  rfl
/-- What pgDropLeaf does, with its answer at `freed 0`. -/
def dropAt (leaf : Nat) : Pg Unit := fun s => if leaf = 8 ∧ s = freed 0 then .ok () (freed 256) else pgDropLeaf 0 leaf s
theorem dropAt_eq (leaf : Nat) : pgDropLeaf 0 leaf = dropAt leaf := by
  funext s
  unfold dropAt
  split
  · next h => rw [h.1, h.2, free_leaf]
  · rfl
theorem wit_free : worksOut freeCmd freeing (freeWork 0 freeCmd) = true := by
  unfold freeWork
  simp only [dropAt_eq]
  decide +kernel
theorem wit_fork_apart : ([(pin + 0x103000, 8), (pin + 0x101000, 8), (pin + 0x100010, 16), (pin + 0x103040, 8)] : List (Nat × Nat)).Pairwise fun x y =>
    overlap x.1 x.2 y.1 y.2 = false := by decide +kernel

/-- AppendAndRelocate: no token, a token that leaves one slot of the page empty, one that seals the page (its class without heads keeps the
evaluation small); no page, and a sealed page. -/
theorem wit_append : ([(0, 0, 1), (1, 0, 1), (1, 1, 0)].all fun x : Nat × Nat × Nat =>
    worksOut (appendCmd x.1 x.2.1) (cfgSet (kvState 14 14 1 false (appendCmd x.1 x.2.1)) (mKvClass 0) 17 12 (32 * x.2.2))
      (appendWork 0 1 (appendCmd x.1 x.2.1))) = true := by decide +kernel
/-- Bytes of the KV tables. -/
def tables (l : List (Nat × Nat × Nat)) (s : State) : State :=
  { s with mem := { s.mem with plane := l.foldl (fun p x => Map.setRun (fun _ => 0) p (pin + x.1) (natLE x.2.1 x.2.2)) s.mem.plane } }
/-- A class without heads, of two layers: each layer's leaf and page are the future's own. -/
def twoLayers : State :=
  cfgSet (cfgSet (tables [(0x103008, 8, 9 * 2 ^ 36), (0x102010, 16, (ofFields 128 [(0, 1), (54, 1), (100, noFrame)]).toNat),
    (0x102090, 16, (ofFields 128 [(0, 1), (54, 1), (58, 1), (100, noFrame)]).toNat),
    (0x301000, 16, (ofFields 128 [(3, 5), (8, noFrame), (36, 1), (64, pin + 0x201000)]).toNat)] (kvState 5 5 1 false (appendCmd 1 0)))
    (mKvClass 0) 17 12 0) (mKvClass 0) 29 8 2
theorem wit_append_layers : worksOut (appendCmd 1 0) twoLayers (appendWork 0 1 (appendCmd 1 0)) = true ∧
    (let cls := clsWord twoLayers 0
     clsLayers cls = 2 ∧ ([0, 1].map fun l => leafOf (seenNat twoLayers 0 (l1At (pin + 0x103000) cls l 0) 8)) = [8, 9] ∧
     ([8, 9].all fun x => decide (refNow twoLayers (appendCmd 1 0) x ≤ 1)) = true ∧
     ([8, 9].map fun x => descFrame (BitVec.ofNat 128 (seenNat twoLayers 0 (frameAddr twoLayers x) 16))) = [0, 1]) := by decide +kernel
/-- A future of LENGTH `len` of that class, of one layer, whose leaf is frame `leaf`; frame 1 and the leaf frame 9 are free. -/
def oneLayer (len refs leafRefs leaf : Nat) : State :=
  cfgSet (tables [(0x103000, 8, leaf * 2 ^ 36), (0x102010, 16, (ofFields 128 [(100, noFrame)]).toNat),
    (0x102080, 16, (ofFields 128 [(0, leafRefs), (54, 1), (58, 1), (100, noFrame)]).toNat),
    (0x102090, 16, (ofFields 128 [(58, 1), (100, noFrame)]).toNat), (0x104000, 4, 1), (0x104040, 4, 9)] (kvState len 5 refs false (appendCmd 1 0)))
    (mKvClass 0) 17 12 0
/-- A page taken anew and one that is shared; and the tables of a leaf taken anew and of one that is shared, whose 4 KiB are too many to write in the
kernel. -/
theorem wit_append_pages : ([(16, 1, 1, 8), (0, 1, 1, noFrame), (5, 2, 1, 8), (5, 1, 2, 8)].all fun x : Nat × Nat × Nat × Nat =>
    let s := oneLayer x.1 x.2.1 x.2.2.1 x.2.2.2
    (x.2.2 != (1, 8) || worksOut (appendCmd 1 0) s (appendWork 0 1 (appendCmd 1 0))) &&
      decide (clsLayers (clsWord s 0) = 1 ∧ refNow s (appendCmd 1 0) 0 = x.2.1 ∧ refNow s (appendCmd 1 0) 8 = x.2.2.1 ∧
        leafOf (seenNat s 0 (l1At (pin + 0x103000) (clsWord s 0) 0 0) 8) = x.2.2.2 ∧ planeNat s (poolRing s 0) 4 = 1 ∧ planeNat s (poolRing s 1) 4 = 9)) = true := by
  decide +kernel
theorem wit_append_facts : let s := oneLayer 5 1 2 8
    let d := (BitVec.ofNat 128 (seenNat s 0 (frameAddr s 8) 16) : BitVec 128)
    let e := (BitVec.ofNat 128 (seenNat s 0 (frameAddr s 8 + 16) 16) : BitVec 128)
    descFrame d = 0 ∧ descSealed d = false ∧ descTier d < 2 ∧ descValid d = 5 ∧ descFrame e = noFrame ∧ poolTier s 0 < 2 ∧ [1, 8, 0].Nodup ∧
    9 ∉ [1, 8, 0] ∧ frameCount s = 16 ∧ ([(pin + 0x100000, 16), (pin + 0x103000, 8), (frameAddr s 8, 4096), (pin + 0x200000, 0), (pin + 0x201000, 0), (pin, 0),
      (frameAt s 0, 16 * frameCount s), (poolRing s 0, 4 * poolCount s 0), (frameAddr s 9, 4096)] : List (Nat × Nat)).Pairwise fun x y =>
        overlap x.1 x.2 y.1 y.2 = false := by decide +kernel
theorem wit_relocate : ([0, 1].all fun n =>
    worksOut (relocateCmd n) (cfgSet (kvState 16 16 1 true (relocateCmd n)) (mKvClass 0) 22 7 0) (relocateWork 0 (relocateCmd n))) = true := by
  decide +kernel
theorem wit_relocate_facts : let s := cfgSet (kvState 16 16 1 true (relocateCmd 1)) (mKvClass 0) 22 7 0
    let x := planeNat s (poolRing s 3) 4
    let y := planeNat s (poolRing s 2) 4
    x = 12 ∧ y = 10 ∧ refNow s (relocateCmd 1) 8 ≤ 1 ∧ slotUsed (clsWord s 0) = 0 ∧ [x, y, 0, noFrame, 8].Nodup ∧
    (([(pin + 0x103000, 8), (pin + 0x300000, 16), (pin + 0x200000, 0), (pin + 0x500000, 0), (pin + 0x102000, 256), (pin + 0x104080, 8)] :
      List (Nat × Nat)).Pairwise fun x y => overlap x.1 x.2 y.1 y.2 = false) := by decide +kernel


/-! ### COPY, prefetch and collectives -/

/-- A COPY of `n` bytes. -/
def copyCmd (src dst n : Nat) (more : List (Nat × Nat)) : Cmd :=
  { cmd 2 with record := ofFields 512 ([(0, 2), (256, src), (320, dst), (384, n)] ++ more), cores := [] }

/-- CopiesAndPrefetch: copies of nothing and of one line on the chip, one to host memory, one to chip 1, one from chip 1 and one from host memory. -/
theorem wit_copy : ([copyCmd 0x20000 0x10000 0 [], copyCmd 0x20000 0x10000 64 [], copyCmd 0x20000 0x2000 64 [(442, 1), (448, 3)],
    copyCmd 0x20000 (2 ^ 48 + 0x10000) 64 [], copyCmd (2 ^ 48 + 0x20000) 0x10000 64 [], copyCmd 0x2000 0x10000 64 [(441, 1), (448, 3)]].all fun m =>
    let s := withCmd m
    decide (Inv s) && atWork s 0 0x02 = some m && jointSet s 0 = [0] && m.egress.isEmpty && !m.fin && s.fab.transfers.isEmpty && s.flt.upsets.isEmpty &&
    qpState s (hkeyQp s m.key) ≠ 1 && qpState (cfgSet s (mQp 0 0) 62 2 1) (hkeyQp (cfgSet s (mQp 0 0) 62 2 1) m.key) = 1 &&
    (csetBad s 0 (planePart m.src) m.bytes).isNone && (fencedIn s (planePart m.src) m.bytes).isNone && !heldFor s 0 (planePart m.src) m.bytes &&
    (seenPoison s 0 (planePart m.src) m.bytes).isNone && (csetBad s 0 (planePart m.dst) m.bytes).isNone &&
    (fencedIn s (planePart m.dst) m.bytes).isNone && !inFrameTable s (planePart m.dst) m.bytes) = true := by decide +kernel
theorem wit_copy_fine : ([copyCmd 0x20000 0x10000 0 [], copyCmd 0x20000 0x10000 64 []].all fun m =>
    let s := withCmd m
    let d := { m with staged := Map.putRun m.staged 0x10000 (seenRead s 0 0x20000 m.bytes), thru := thruAfter m m.nonalloc (linesOf 0x10000 m.bytes) }
    (stageOver (setCmd s 0 d) 0).isNone && (stagedFenced s d).isNone && (partialPoison (setCmd s 0 d) [0]).isNone) = true := by decide +kernel
/-- A source whose line the cache does not hold, and one in the pinned window; and the last line of a COPY, asked for. -/
theorem wit_copy_absent : ([(0x20000, [0x20000]), (pin, [])].all fun x : Nat × List Nat =>
    decide (((neededLines (withCmd (copyCmd x.1 0x10000 64 [])) 0 x.1 64).filter fun l => decide (l < hbmSize) && (cachedLine (withCmd (copyCmd x.1 0x10000 64 [])) l).isNone) =
      x.2)) = true := by decide +kernel
def filling (m : Cmd) (a : Asker) (slot : Option Nat) : State :=
  let s := withCmd m
  { s with mem := { s.mem with fills := [⟨0x20000, 1, false, slot, a, false⟩] } }
theorem wit_copy_last : let m := { copyCmd 0x20000 0x10000 64 [] with work := true }
    let s := filling m .cmd (some 0)
    cmdOf s 0 = some m ∧ m.kind = 2 ∧ m.fin = false ∧ m.egress = [] ∧ live s 0 = true ∧ jointSet s 0 = [0] ∧ stagedFenced s m = none ∧ partialPoison s [0] = none ∧
    s.fab.transfers = [] ∧ (s.mem.fills.filter fun x => x.line = lineOf 0x20000) = s.mem.fills ∧ s.mem.fills.length = 1 ∧ isPoisoned s 0x20000 = false ∧
    underTest s 4 (channelOf s (lineOf 0x20000)) = false ∧ s.fab.readWaits = [] ∧ s.eth.held = [] ∧ s.flt.upsets = [] ∧
    (channelNext s (channelOf s (lineOf 0x20000))).map (·.line) = some (lineOf 0x20000) := by decide +kernel
theorem wit_copy_ends : let s := withCmd (cmd 2)
    isLocal s 0x20000 = true ∧ isLocal s 0x10000 = true ∧ isLocal s (2 ^ 48 + 0x10000) = false ∧
    (copyCmd 0x20000 0x2000 64 [(442, 1), (448, 3)]).dstHost = true ∧ (copyCmd 0x2000 0x10000 64 [(441, 1), (448, 3)]).srcHost = true := by
  decide +kernel

/-- A schedule of one entry in slice 7, which reads `n` bytes from `src`, due when counter 0xC000 reaches `target`. -/
def scheduled (kind src n target sinc : Nat) : State :=
  let s := withCmd { cmd 1 with annex := some { privFirst := 0, privCount := 64, outs := [{ kind := 0, addr := 0x10000000000, bytes := 64 }], stage := [],
                                                scheds := [] } }
  { s with mem := { s.mem with
      scheds := [⟨7, 0, 0, 1, 0, 0, [], []⟩],
      entries := [(7 * entryCount, ofFields 256 [(192, src), (144, kind * 0x10000000000), (80, target), (64, 0xC000), (48, 3), (44, sinc), (40, kind),
        (0, n)])] } }
theorem wit_prefetch_issue : ((fun x => ((schedNext x 7).map (·.slot) = some 0 ∧ (schedNext x 7).map (fun r => peBad x 0 (entryOf x 7 (r.first + r.next))) =
      some false ∧ isInternal x 0 3 = true : Bool)) (scheduled 0 0x20000 0 1 15) && ([(0, 0x20000, 0), (0, 0x20000, 1), (1, 2 ^ 48 + 0x20000, 1)].all
    fun p : Nat × Nat × Nat =>
      let s := scheduled p.1 p.2.1 64 p.2.2 1
      decide (Inv s) && (schedNext s 7).isSome && !peBad s 0 (entryOf s 7 0) && (fencedIn s 0x20000 64).isNone && s.fab.transfers.isEmpty) &&
    peBad (scheduled 0 0x20000 64 1 0) 0 (entryOf (scheduled 0 0x20000 64 1 0) 7 0)) = true := by decide +kernel

/-- The entry is in flight, its bytes from chip 1 read where `far`. -/
def landing (kind src : Nat) (far : Bool) : State :=
  let s := scheduled kind src 64 1 1
  { s with mem := { s.mem with scheds := [⟨7, 0, 0, 1, 0, 1, [0], []⟩] },
           fab := { s.fab with transfers := if far then [⟨.prefetch 7 0 0, 0, false, 1, [], [], Map.putRun [] 0x20000 (natLE 64 7), none⟩] else [] } }
theorem wit_prefetch_arrival : ([(0, 0x20000, false), (1, 0x20000, false), (1, 2 ^ 48 + 0x20000, true)].all fun p : Nat × Nat × Bool =>
    let s := landing p.1 p.2.1 p.2.2
    decide (Inv s) && entryNext s 7 = some (0, 0) && (entryTransfer s 7 0 0).isSome = p.2.2 && (seenPoison s 0 0x20000 64).isNone &&
    (stageOver (stagePut s 0 (peDst (entryOf s 7 0)) (seenRead s 0 0x20000 64)) 0).isNone &&
    (stageOver (stagePut s 0 (peDst (entryOf s 7 0)) (natLE 64 7)) 0).isNone) = true := by decide +kernel

/-- A group of two members, chips 0 and 1, this chip its rank 0, its window at the start of the pinned window and its member list after it. -/
def grp : BitVec 512 := ofFields 512 [(464, pin + 0x4000), (416, pin), (400, 1), (384, 0), (352, 5), (336, 1), (320, 2), (315, 12)]
def grouped (groups : Map Group) (insts : List Inst) (inbox : List Msg) (m : Cmd) : State :=
  let s := cfgSet (withCmd m) mGroupTbl 12 36 (0x10000008000 / 4096)
  let plane := Map.setRun (fun _ => 0) (Map.setRun (fun _ => 0) s.mem.plane (pin + 0x4000) (natLE 4 (1 * 65536))) (pin + 0x8000) (natLE 64 grp.toNat)
  { s with mem := { s.mem with plane := plane }, fab := { s.fab with groups := groups, insts := insts, inbox := inbox.map fun m => ⟨m, none⟩ } }

/-- GroupsAndCollectives: a group that no COLLECTIVE names, registered well, and one whose entry lies outside the pinned window. -/
theorem wit_group : let s := grouped [] [] [] (cmd 1)
    s.fab.regGroup = none ∧ inPinned s (groupAddr s 0) 64 = true ∧ groupCheck s 0 grp = 0 ∧ BitVec.ofNat 512 (planeNat s (groupAddr s 0) 64) = grp ∧
    (lockIn s [] (groupAddr s 0) 64).isNone ∧ (lockIn s [] (fld grp 464 48) (2 * grpP grp)).isNone ∧
    (∀ x ∈ s.disp.slots, x.2.kind = 3 → x.2.group = 0 → x.2.phase = .closing) ∧ inPinned (withCmd (cmd 1)) (groupAddr (withCmd (cmd 1)) 4095) 64 = false := by
  decide +kernel
/-- A command holds the group's entry. -/
theorem wit_group_locked : let m := { cmd 1 with annex := some { privFirst := 0, privCount := 0, outs := [⟨0, pin + 0x8000, 64⟩], stage := [], scheds := [] } }
    (lockIn (grouped [] [] [] m) [] (groupAddr (grouped [] [] [] m) 0) 64).isSome = true := by decide +kernel

/-- An ALL_REDUCE of eight FP32 elements on a ring. -/
def reduceDesc (cnt : Nat) : BitVec 512 :=
  ofFields 512 [(464, 0x20000), (416, 0x10000), (368, cnt), (336, 8), (280, 9), (260, 1), (256, 2), (248, 1), (0, 2)]
def gathers (r : Nat) : CPlan := ⟨3, r, grp, reduceDesc 0, 8, fun _ => 8, fun _ => 8⟩
theorem wit_ring : cKind (gathers 2).d = 1 ∧ cAlg (gathers 2).d = 2 ∧ cBidir (gathers 2).d = false ∧ 1 < (gathers 2).p ∧ (gathers 2).r < (gathers 2).p := by
  decide +kernel

/-- The instance of the COLLECTIVE in slot 0, not begun. -/
def inst (cnt : Nat) : Inst :=
  ⟨0, 0, 5, reduceDesc cnt, [], [], [], [], false, [], [], [], [], false, false, false, false, [], [], [], false, [], []⟩
def collCmd : Cmd := { cmd 3 with record := ofFields 512 [(0, 3), (360, 0), (384, 5)], cores := [] }
def group2 : Map Group := [(0, ⟨grp, [0, 1], 5, []⟩)]
theorem wit_collective : ([0, 0x30000].all fun cnt =>
    let i0 := inst cnt
    let s := grouped group2 [i0] [] collCmd
    let own := if i0.dynamic then Map.put [] (grpRank (instEntry s i0)) (ownCount s 0 (instEntry s i0) i0.desc) else []
    let p := planCtx s { i0 with counts := own }
    atWork s 0 0x03 = some collCmd && instOf s 0 = some i0 && !cFeed i0.desc && s.flt.upsets.isEmpty && (s.fab.groups.all fun g => g.2.early.isEmpty) && ((srcRanges p { i0 with counts := own } ++ cntRange p).all fun r =>
      !heldFor s 0 r.1 r.2 && (r.2 = 0 || inPlane s r.1 r.2) && (fencedIn s r.1 r.2).isNone && (seenPoison s 0 r.1 r.2).isNone && (csetBad s 0 r.1 r.2).isNone) &&
    (if cnt = 0 then (match planSteps p with | st :: _ => !(stepPieces 4096 st.recvs).isEmpty | [] => false) else needCounts p = [1])) = true := by
  decide +kernel

/-- A message of the instance from rank 1. -/
def gmsg (kind : Nat) (fs : List (Nat × Nat)) (data : List Byte) : Msg :=
  ⟨ofFields 256 ([(224, 1), (216, kind), (136, data.length / 64), (64, 5), (36, 1)] ++ fs), data⟩
def moving : Inst :=
  { inst 0 with started := true, counted := true, plan := [⟨[], [], false⟩], waits := [⟨1, 0, 16, 0⟩, ⟨1, 64, 16, 16⟩], combine := true }
def pieceMsg (digest : Nat) : Msg := gmsg 0x10 [(96, digest)] (natLE 64 0)
theorem wit_piece : let m := pieceMsg (cDigest moving.desc).toNat
    let s := grouped group2 [moving] [m] collCmd
    forUs s m = true ∧ instFor s m = some moving ∧ instOf s 0 = some moving ∧ cmdOf s 0 = some collCmd ∧ m.srank = 1 ∧ 64 * fld m.hdr 0 36 = lineOf 0 ∧
    fld m.hdr 96 32 = (cDigest moving.desc).toNat ∧ fld (pieceMsg 0).hdr 96 32 ≠ (cDigest moving.desc).toNat ∧ 0 < grpSlots (instEntry s moving) ∧
    (m.data.take m.span).length = 64 ∧ poisonIn s (grpSlotAt (instEntry s moving) 0) 64 = none ∧ s.flt.upsets = [] ∧ Inv s := by decide +kernel
theorem wit_credit : let m := gmsg 0x11 [(0, 2)] []
    let s := grouped group2 [moving] [m] collCmd
    forUs s m = true ∧ instFor s m = some moving ∧ moving.wrote = false ∧ moving.window = [] ∧ moving.waits ≠ [] ∧ moving.out = [] := by decide +kernel
/-- Instances that wait for the count of rank 2 of three. -/
def counting3 : Inst := { inst 0x30000 with counted := true, counts := [(0, 8)] }
def group3 : Map Group := [(0, ⟨setFld grp 400 16 2, [0, 1, 2], 5, []⟩)]
theorem wit_count : let m := gmsg 0x12 [(0, 8)] []
    let s := grouped group3 [counting3] [m] collCmd
    forUs s m = true ∧ instFor s m = some counting3 ∧ (groupOf s 0).isSome ∧ counting3.dynamic = true ∧ 2 ∈ needCounts (planCtx s counting3) ∧ m.srank = 1 ∧
    Map.find? counting3.counts 2 = none ∧ (inst 0x30000).counted = false ∧
    (let t := grouped group3 [] [m] (cmd 1); instFor t m = none ∧ gseqPast ⟨setFld grp 400 16 2, [0, 1, 2], 5, []⟩ m.gseq = false ∧
      instAt t 0 m.gseq = none) := by decide +kernel
theorem wit_abandon : let m := gmsg 0x13 [] []
    instAt (grouped group2 [moving] [m] collCmd) m.group m.gseq = some moving ∧ live (grouped group2 [moving] [m] collCmd) 0 = true ∧
    forUs (grouped group2 [] [m] (cmd 1)) m = true ∧ instAt (grouped [] [] [m] (cmd 1)) m.group m.gseq = none ∧ groupOf (grouped [] [] [m] (cmd 1)) m.group = none ∧ (cmdOf (grouped group2 [moving] [m] collCmd) 0).map (·.decided) = some false := by decide +kernel


/-! ### Links and peers -/

/-- A flit of one byte, or a control flit of the given payload, without its CRC. -/
def flit (seq : BitVec 16) (ctrl : Bool) (data : List Byte) : Flit :=
  ⟨seq, 2, false, false, true, true, ctrl, 4, true, false, 2, false, false, 3, data, 0⟩
def fewFlits : List TFlit := [3, 4, 5].map fun n => ⟨flit n false [7], 0⟩
/-- This chip is chip 0 of a ring of two, link 0 in `k`. -/
def linked (k : Link) : State := cfgSet { State.reset with fab := { Fabric.reset with links := [(0, k)] } } mTorus 16 4 1
def upLink : Link := { Link.reset with state := 2, peer := 1, rxNext := 3, rxLast := some 2, replay := fewFlits, used := [(8, 5)] }

/-- Every flit with the CRC of its sender passes the check. -/
theorem wit_crc (f : Flit) : f.seal.crcOk = true := by simp [Flit.crcOk, Flit.seal, Flit.body]
theorem wit_crc_wrong (f : Flit) : ({ f with crc := ~~~f.seal.crc } : Flit).crcOk = false := by
  have h : ∀ x : BitVec 32, (~~~x == x) = false := by
    intro x
    rw [beq_eq_false_iff_ne]
    intro e
    have := congrArg (fun b => BitVec.getLsbD b 0) e
    simp at this
  exact h _

/-- LinkFlits: a flit of reserved LEN, and a message with a reserved number of detour ports. -/
theorem wit_reserved_len : 240 < ({ flit 3 false [] with data := List.replicate 241 0 } : Flit).data.length ∧ (flit 3 false [7]).data.length ≤ 240 ∧
    4 < (⟨ofFields 256 [(161, 5)], []⟩ : Msg).dtrn := by decide +kernel
/-- LinkFlits: flits in turn and out of it, with a wrong CRC, the acknowledgement of one in the middle of the replay buffer, control flits, and a retrain
that gives the point to replay from. -/
theorem wit_flits : let s := linked upLink
    (linkOf s 0).state = 2 ∧ (linkOf s 0).waiting = [] ∧ (flit 3 false [7]).fseq = (linkOf s 0).rxNext ∧ (flit 4 false [7]).fseq ≠ (linkOf s 0).rxNext ∧
    (linkOf s 0).replay = [⟨flit 3 false [7], 0⟩] ++ ⟨flit 4 false [7], 0⟩ :: [⟨flit 5 false [7], 0⟩] ∧ (flit 3 false [7]).ackSeq = 4 ∧
    ctrlOk s 0 (flit 0 true [0]) 0 = true ∧ ctrlOk s 0 (flit 0 true [1]) 1 = true ∧ (linkOf s 0).training = false ∧ (linkOf s 0).await = false ∧ (linkOf s 0).replay ≠ [] := by
  decide +kernel
theorem wit_retrain_done : let k := { upLink with training := true }
    let f := { flit 0 true [2, 4, 0] with ackV := false }
    ctrlOk (linked k) 0 f 2 = true ∧ f.ackV = false ∧ f.nak = false ∧ (⟨flit 4 false [7], 0⟩ : TFlit).flit.fseq.toNat = leNat ((f.data.drop 1).take 2) := by decide +kernel

/-- LinkStates: links in each state, a neighbour and a stranger, the third attempt of a retrain, a downed link beside one that is up, and a message for
chip 1. -/
theorem wit_links : let s := linked { Link.reset with state := 1 }
    (linkOf s 0).state = 1 ∧ underTest s 5 0 = false ∧ cfgBit s (mLinkCtl 0) 0 = false ∧ neighbour s 0 = 1 ∧ (linkOf s 0).replay = [] ∧ (linkOf s 0).waiting = [] ∧
    (linkOf (linked upLink) 0).state = 2 ∧ (linkOf (linked upLink) 31).state = 0 ∧ cfg (linked upLink) mErrCfg 40 8 = 3 ∧ underTest (linked upLink) 5 0 = false ∧
    ([0, 3].map fun n => Map.get (fun _ => 0) [(unitKey 5 0, n)] (unitKey 5 0)) = [0, 3] ∧
    (1 ∈ portLinks 0 ∧ (linkOf { linked upLink with fab := { Fabric.reset with links := [(0, upLink), (1, upLink)] } } 1).state = 2) ∧
    ctrlOk (linked upLink) 0 { flit 0 true [3, 1, 0, 0] with ackV := false } 3 = true ∧
    (linkOf { linked upLink with fab := { Fabric.reset with links := [(1, { Link.reset with state := 3 })] } } 1).state = 3 := by decide +kernel
theorem wit_attempts : ([0, 1, 2].map fun n => (linkOf (linked { upLink with training := true, fails := n }) 0).fails.toNat) = [0, 1, 2] := by
  decide +kernel
theorem wit_forward : let m : Msg := ⟨ofFields 256 [(240, 1), (216, 5)], []⟩
    forUs (linked upLink) m = false ∧ m.dtrn = 0 ∧ nextPort (linked upLink) m.dst = some 0 ∧ linkFor (linked upLink) 0 = some 0 := by decide +kernel
/-- A message in the inbox whose last flit fills a buffer of link 0, with the link up and with it down. -/
theorem wit_arrival : let m : Msg := ⟨ofFields 256 [(224, 1), (216, 1)], []⟩
    ([linked upLink, linked Link.reset].all fun s =>
      let s := { s with fab := { s.fab with inbox := [⟨m, some (0, 8)⟩] } }
      (s.fab.inbox.find? fun e => e.msg = m) = some ⟨m, some (0, 8)⟩) = true := by decide +kernel

/-- A request or an answer of chip 1 about one line at `a`. -/
def asks (kind mseq status a : Nat) : Msg :=
  ⟨ofFields 256 [(224, 1), (216, kind), (200, mseq), (196, status), (192, 15), (176, 0xFFFF), (136, 1), (0, a)], natLE 64 7⟩
/-- The part with a running command, in whose WRITE range the line at 0x10000 lies. -/
def peered (held : List Msg) (reorder : List Msg) : State :=
  let s := withCmd { cmd 1 with stage := [448, 1, 1, 1, 1, 1, 1, 1] }
  { s with fab := { s.fab with heldReqs := held, reorder := reorder } }

/-- PeerRequests: room for the reply, and none, where more flits of replies wait on the link than the chip buffers. -/
theorem wit_reply_room : replyRoom (peered [] []) (asks 1 0 0 0x20000) = true := by decide +kernel
def replying : Link := { upLink with waiting := List.replicate (Config.replyFlits + 1) (TFlit.mk { flit 0 false [7] with cls := true } 0) }
theorem wit_reply_full : replyRoom (linked replying) (asks 1 0 0 0x20000) = false := by
  have g : (nextPort (linked replying) (asks 1 0 0 0x20000).src).bind (linkFor (linked replying)) = some 0 := by decide +kernel
  have h : linkOf (linked replying) 0 = replying := rfl
  have n : repliesWaiting replying = Config.replyFlits + 1 := by simp [repliesWaiting, replying, flit]
  simp only [replyRoom, g, h, n]
  simp

/-- PeerRequests: lines in the plane, locked, poisoned and outside it; room for a write and none; writes in order, early and come again; requests held. -/
theorem wit_reads : let s := peered [] []
    let p := poison s 0x20000
    (([(0x20000, true, false), (0x10000, true, true), (0x20000000000, false, false)].all fun x : Nat × Bool × Bool =>
      let m := asks 1 0 0 x.1
      decide (forUs s m) && inPlane s m.addr m.span = x.2.1 && (!x.2.1 || reqHeld s m = x.2.2) && (!x.2.1 || (fencedIn s m.addr m.span).isNone)) &&
    s.flt.upsets.isEmpty && (poisonIn s 0x20000 64).isNone && (poisonIn p 0x20000 64).isSome && !reqHeld p (asks 1 0 0 0x20000)) = true := by decide +kernel
/-- A read whose one line the cache does not hold, one of a line of the pinned window, and the first as its line comes. -/
theorem wit_read_absent : absentLines (peered [] []) 0x20000 64 = [0x20000] ∧ absentLines (peered [] []) pin 64 = [] ∧
    let m := asks 1 0 0 0x20000
    let s := peered [] []
    let s := { s with mem := { s.mem with fills := [⟨0x20000, 0, false, none, .system, false⟩] }, fab := { s.fab with readWaits := [(m, [lineOf 0x20000])] } }
    forUs s m = true ∧ replyRoom s m = true ∧ inPlane s m.addr m.span = true ∧ fencedIn s m.addr m.span = none ∧ reqHeld s m = false ∧ poisonIn s m.addr m.span = none ∧
    (s.mem.fills.filter fun x => x.line = lineOf 0x20000).length = 1 ∧ underTest s 4 (channelOf s (lineOf 0x20000)) = false ∧
    (channelNext s (channelOf s (lineOf 0x20000))).map (·.line) = some (lineOf 0x20000) ∧ isPoisoned s 0x20000 = false := by decide +kernel
theorem wit_write_reqs : let s := peered [] []
    sliceOf s 0 = 0 ∧ poolRoom s 0 64 = false ∧ sliceOf s 0x30000 = 1 ∧ poolRoom s 0x30000 64 = true := by decide +kernel
theorem wit_writes : let s := peered [] []
    ([0, 511, 512, 32767, 32768, 65535].map (fun n => ((asks 5 n 0 0x20000).mseq + 65536 - mseqExpected s 1) % 65536)) = [0, 511, 512, 32767, 32768, 65535] ∧
    inFrameTable s 0x20000 64 = false ∧
    reqHeld s (asks 5 0 0 0x20000) = false ∧ reqHeld s (asks 5 0 0 0x10000) = true ∧ sequencerFree s = true ∧ inPlane s 0x20000 64 = true ∧
    (asks 5 0 0 0x20000).data.length = (asks 5 0 0 0x20000).span ∧ sequencerFree { s with disp := { s.disp with current := some ⟨[0], 1, .applying, [], []⟩ } } =
      false := by decide +kernel
theorem wit_frame_table : let s := cfgSet (cfgSet (peered [] []) mKvFrame 0 64 (16 * 2 ^ 36 + 2)) mKvCtl 0 2 1
    inFrameTable s 0x2000 64 = true := by decide +kernel
theorem wit_peer_hold : let h := asks 1 0 0 0x10000
    ((peered [h] []).fab.heldReqs.find? fun h => h.kind != 0x03 && (lockIn (peered [h] []) [] h.addr h.span).isSome) = some h := by decide +kernel

/-- PeerAnswers: a transfer with two requests outstanding, one of a COPY with one, the same of a core's engine; egress that waits for its grant, of a
COPY with more to come and of a core's copy; writes not acknowledged. -/
def reading (who : ReadFor) (left : List (Nat × Nat)) (m : Cmd) : State :=
  let s := withCmd m
  { s with fab := { s.fab with transfers := [⟨who, 0, false, 1, left, [], [], none⟩] } }
theorem wit_read_resp : let m := asks 2 0 0 0x20000
    let c := copyCmd (2 ^ 48 + 0x20000) 0x10000 64 []
    let s := reading (.copy 0) [(0x20000, 64)] c
    forUs s m = true ∧ (s.fab.transfers.find? fun t => !t.host && t.dest = m.src && t.left.any fun r => r.1 = m.addr) =
      some ⟨.copy 0, 0, false, 1, [(0x20000, 64)], [], [], none⟩ ∧ c.kind = 2 ∧ c.dstHost = false ∧ isLocal s c.dst = true ∧ c.srcHost = false ∧
    jointSet s 0 = [0] ∧ stageOver (stagePut s 0 (planePart c.dst) ((span (planePart c.src) c.bytes).map fun a =>
      Map.get (fun _ => 0) (Map.putRun [] 0x20000 (m.data.take 64)) a)) 0 = none ∧
    (dropFirst (· = (0x20000, 64)) [(0x20000, 64), (0x20040, 64)] : List (Nat × Nat)) ≠ [] ∧ (asks 2 0 1 0).status = 1 ∧ (asks 2 0 2 0).status = 2 := by
  decide +kernel
theorem wit_read_timeout : ([.engine 0, .copy 0].all fun who =>
    let s := reading who [(0x20000, 64)] (cmd 1)
    (s.fab.transfers.find? fun t => !t.host && t.who.key s = 0 && !t.left.isEmpty).isSome && live s 0) = true ∧
    (let s := reading (.prefetch 7 0 3) [(0x20000, 64)] (cmd 1)
     (s.fab.transfers.find? fun t => !t.host && t.who.key s = 1031 && !t.left.isEmpty).isSome = true) := by decide +kernel
def leaving (core : Option Nat) : State :=
  let e : Egress := ⟨false, core, 3, 0x1000, 0, 1, 0x20000, [], [], 0, 0, false⟩
  withCore { cmd 2 with egress := [e, { e with addr := 0x30000 }] } { coreAt [] with flying := [(3, [⟨0, 0x1000, 1, 0, 0, false, 0, 1, false, [], [], [], []⟩])] }
theorem wit_write_grant : ([none, some 0].all fun core =>
    let s := leaving core
    (waitsGrant s (asks 4 0 0 0x20000)).map (fun x => (x.1, x.2.core)) = some (0, core) && decide ((flyingOf (coreOf s 0) 3).map (·.id) = [0]) && decide ((flyingOf (coreOf s 0) 3).map (·.grants) = [1])) = true := by
  decide +kernel
def unheard (resends : Nat) : State := { State.reset with fab := { Fabric.reset with unacked := [⟨1, asks 5 0 0 0x20000, resends, 0⟩] } }
/-- With one more message for chip 1 that waits for a place. -/
theorem wit_queued : let s := unheard 0
    let t := { s with fab := { s.fab with queued := [⟨1, asks 5 0 0 0x30000, 0, 0⟩] } }
    2 < (asks 6 0 3 0x20000).status ∧ s.fab.queued = [] ∧ (t.fab.queued.find? fun x => x.dst = 1) = some ⟨1, asks 5 0 0 0x30000, 0, 0⟩ := by decide +kernel
theorem wit_write_ack : ([0, 15, 16].all fun n =>
    (((unheard n).fab.unacked.find? fun u => u.dst = (asks 6 0 0 0x20000).src && u.msg.addr = (asks 6 0 0 0x20000).addr).map (·.resends)) = some n &&
    (((unheard n).fab.unacked.find? fun u => u.dst = (1 : BitVec 16).toNat).map (·.resends)) = some n) = true := by decide +kernel


/-! ### The host -/

def src : Source := ⟨5, 7⟩
/-- Queue 3 is enabled with a ring of 64 records at 0x40000, and every source is allowed. -/
def hosted (k : Queue) : State :=
  let s := { State.reset with disp := { Dispatch.reset with queues := [(3, k)] } }
  cfgSet (cfgSet (cfgSet (cfgSet s (mQcfg 3) 15 9 1) (mQring 3) 0 48 0x40000) (mFctAllow 0) 0 64 (2 ^ 64 - 1)) (mFctAllow 0 + 8) 0 64 (2 ^ 64 - 1)
def head (tseq : BitVec 32) (count type : Nat) : BitVec 128 := fctHdr tseq 0xFFFF 3 count 0 type

/-- HostTransport: the next SUBMIT fills the ring, the last one again, a completion acknowledged and resent, management of a new source and of one that
is known, of registers that a snapshot covers and of others. -/
theorem wit_submit : let s0 := hosted { Queue.reset with tail := 63 }
    let body : List Byte := natLE 64 1
    let s := hearFct s0 0 src 64
    fctAllowed s0 src.addr = true ∧ portSends s0 0 = true ∧
    fctAllowed s src.addr = true ∧ portSends s 0 = true ∧ fctType (head 0 1 1) = 1 ∧ fctMalformed (head 0 1 1) body.length = false ∧ s.mod.stage = 8 ∧
    fctOurs s (head 0 1 1) = true ∧ s.flt.faulted = false ∧ fctTseq (head (2 ^ 32 - 1) 1 1) = (queueOf s 3).expected - 1 ∧
    fctTseq (head 0 1 1) = (queueOf s 3).expected ∧ cfgBit s (mQcfg 3) 15 = true ∧ ringLoad s 3 + 1 ≤ ringSize s 3 ∧ ringSize s 3 = 64 ∧ fctType (head 0 1 7) ≠ 1 ∧
    fctMalformed (head 0 1 1) 63 = true ∧ inFrameTable s (ringEntry s 3 63) 64 = false ∧
    inPlane s (ringEntry s 3 63) 64 = true := by decide +kernel
theorem wit_datagram : let c : Completion := ⟨1, 3, head 9 1 3, []⟩
    let s := { hosted Queue.reset with eth := { Ether.reset with comps := [c] } }
    fctType (head 9 0 4) = 4 ∧ fctMalformed (head 9 0 4) 0 = false ∧ (s.eth.comps.filter fun c => c.port = (1 : EthId).toNat)[(0 : BitVec 6).toNat]? = some c := by decide +kernel
theorem wit_mgmt : let s := hosted Queue.reset
    let known := { s with eth := { Ether.reset with sources := [⟨1, src, 9, 0, []⟩] } }
    (([(5, natLE 8 0, s, 7), (5, natLE 8 mPwrStat, s, 7), (6, natLE 16 0x4000, s, 7), (5, natLE 8 0, known, 9)].all fun x : Nat × List Byte × State × Nat =>
      let h := head (BitVec.ofNat 32 x.2.2.2) 1 x.1
      fctType h = x.1 && !fctMalformed h x.2.1.length && fctOurs x.2.2.1 h && x.2.2.1.eth.asks.isEmpty && ((mgmtOffs x.1 1 x.2.1).all fun o =>
        !offDenied x.2.2.1 o) && (match x.2.2.1.eth.sources.find? (isSource 1 src) with | none => true | some m => fctTseq h = m.next)) &&
    ((mgmtOffs 5 1 (natLE 8 0)).all fun o => !snapshotted o) && ((mgmtOffs 5 1 (natLE 8 mPwrStat)).all snapshotted) &&
    (known.eth.sources.find? (isSource 1 src)).isSome && fctTseq (head 8 1 5) = (9 : BitVec 32) - 1) = true := by decide +kernel

/-- A VC3 message of chip 1. -/
def vc3 (kind : Nat) (fs : List (Nat × Nat)) (data : List Byte) : Msg := ⟨ofFields 256 ([(224, 1), (216, kind)] ++ fs), data⟩
def permitted (p : BitVec 32) (k : Core) : State :=
  let s := withCore (cmd 1) k
  { s with sec := { s.sec with perm := p } }

/-- ManagementMessages: a read and a write of one register, a response to a forwarded request, DEBUG with its permission and without. -/
theorem wit_vc3 : let s := permitted 8 (coreAt [])
    let rd := vc3 0x20 [(88, 5), (80, 1)] (natLE 64 0)
    let wr := vc3 0x20 [(88, 6), (80, 1)] (natLE 64 0x4000)
    (∀ x ∈ s.fab.reorder, x.src ≠ rd.src) ∧ forUs s rd = true ∧ rd.mseq = vc3Expected s 1 ∧ s.fab.reorder = [] ∧ rd.kind = 0x20 ∧ mgmtCount rd = 1 ∧
    ((mgmtOffs 5 1 rd.data).all fun o => !offDenied s o && !snapshotted o) = true ∧ mgmtType rd = 5 ∧ mgmtType wr = 6 ∧
    ((mgmtOffs 6 1 wr.data).all fun o => !offDenied s o) = true ∧
    (mgmtPut s (itemWord wr.data 0) (BitVec.ofNat 64 (itemWord wr.data 8))).fab.reorder = [] := by decide +kernel
theorem wit_forwarded : let f : Forwarded := ⟨7, 1, src, head 9 1 5⟩
    let s := { State.reset with fab := { Fabric.reset with forwarded := [f] } }
    let m := vc3 0x21 [(96, 7), (80, 1)] (natLE 64 0)
    portSends s 1 = true ∧ m.kind = 0x21 ∧ (s.fab.forwarded.find? fun f => f.tag = mgmtTag m) = some f ∧ mgmtTag m = 7 := by decide +kernel
theorem wit_debug_msg : let s := permitted 8 (coreAt [])
    let h := permitted 8 { coreAt [] with dbg := { DbgCore.reset with state := 2, cause := 5 } }
    permBit s 3 = true ∧ permBit (permitted 7 (coreAt [])) 3 = false ∧ fld (vc3 0x22 [(88, 1)] []).hdr 88 8 = 1 ∧ fld (vc3 0x22 [(88, 2)] []).hdr 88 8 = 2 ∧
    0 ∈ launchCores s ∧ (coreOf s 0).dbg.state = 1 ∧ (let g := withCmd { cmd 1 with cores := [9] }; launchCores g = [9] ∧ (coreOf g 9).act = .idle) ∧ (coreOf h 0).dbg.state = 2 ∧ (coreOf h 0).dbg.cause = 5 ∧ debugNames h 0 = false := by decide +kernel

/-- Queue pair 0 is READY, key 0 admits reads and writes of 4 KiB at `base`, its receive ring has one slot of 64 bytes at the start of the pinned window
and counter 0xC001, its consumer counter 0xC002. -/
def paired (q : Qp) (base : Nat) : State :=
  let s := withCmd (cmd 1)
  let s := { s with eth := { Ether.reset with qps := [(0, q)] } }
  let key := fun s => cfgSet (cfgSet (cfgSet s (mPkey 0 0) 60 4 15) (mPkey 0 1) 0 48 base) (mPkey 0 2) 0 48 4096
  cfgSet (cfgSet (cfgSet (cfgSet (key s) (mQp 0 0) 62 2 1) (mQp 0 5) 0 64 (0xC001 * 2 ^ 48 + pin)) (mQp 0 6) 39 9 (6 * 16)) (mQp 0 6) 48 16 0xC002

/-- HostAccess: addresses of the port, a priority that pauses, a link that is up; writes admitted, refused, of a locked range, and behind a commit; reads;
a READ held; a receive ring with room and one that is full. -/
theorem wit_ports : let s := cfgSet (cfgSet (cfgSet State.reset (mEth 1 1) 56 4 (8 + 7)) (mEth 1 1) 0 32 0x0A000001) (mEth 1 2) 0 64 9
    portIp4 s 1 = 0x0A000001 ∧ portIp6 s 1 = 9 ∧ cfgBit s (mEth 1 1) 59 = true ∧ cfg s (mEth 1 1) 56 3 = 7 ∧
    fld (liveGet (liveSet s (mEth 1 4) (2 ^ 63)) (mEth 1 4)) 62 2 = 2 := by decide +kernel
theorem wit_host_write : let s := paired Qp.reset 0x20000
    let l := paired Qp.reset 0x10000
    qpTakes s 0 = true ∧ portSends s (qpPort s 0) = true ∧ bufferUsed s (qpPort s 0) = 0 ∧ inFrameTable s 0x20000 64 = false ∧ pkeyOk s 0 0 0x20000 64 true = true ∧ pkeyOk s 0 0 0x20FC0 128 true = false ∧
    pkeyOk s 0 0 0x20FC0 64 true = true ∧ pkeyOk l 0 0 0x10000 64 true = true ∧ heldByTest s 0x20000 64 = false ∧ qpWaits s 0 = false ∧
    sequencerFree s = true ∧ lockIn s [] 0x20000 64 = none ∧ (lockIn l [] 0x10000 64).isSome = true ∧
    sequencerFree { s with disp := { s.disp with current := some ⟨[0], 1, .applying, [], []⟩ } } = false := by decide +kernel
/-- A packet ahead of its turn, one that was taken, and the queue pair with its NAK sent and not. -/
theorem wit_psn : psnLe 1 (qpExpected (paired Qp.reset 0x20000) 0) = false ∧ psnLe (2 ^ 24 - 1) (qpExpected (paired Qp.reset 0x20000) 0) = true ∧
    (qpOf (paired { Qp.reset with seqNak := true } 0x20000) 0).seqNak = true ∧ (qpOf (paired Qp.reset 0x20000) 0).seqNak = false := by decide +kernel
theorem wit_host_read : let s := paired Qp.reset 0x20000
    pkeyOk s 0 0 0x20000 64 false = true ∧ s.eth.held = [] ∧ s.flt.upsets = [] ∧ heldByTest s 0x20000 64 = false ∧ poisonIn s 0x20000 64 = none ∧ fencedIn s 0x20000 64 = none ∧
    pkeyOk (paired Qp.reset 0x10000) 0 0 0x10000 64 false = true ∧
    (({ s with eth := { s.eth with held := [⟨0, 5, 0x10000, 64, none⟩] } } : State).eth.held.find? fun h => h.qp = 0) = some ⟨0, 5, 0x10000, 64, none⟩ := by
  decide +kernel
/-- A READ of a line that the cache does not hold, and of one in the pinned window; and the first as its line comes. -/
theorem wit_host_read_absent : absentLines (paired Qp.reset 0x20000) 0x20000 64 = [0x20000] ∧ absentLines (paired Qp.reset pin) pin 64 = [] ∧
    pkeyOk (paired Qp.reset pin) 0 0 pin 64 false = true ∧
    let s := paired Qp.reset 0x20000
    let s := { s with mem := { s.mem with fills := [⟨0x20000, 0, false, none, .system, false⟩] }, eth := { s.eth with held := [⟨0, 5, 0x20000, 64, some [lineOf 0x20000]⟩] } }
    (s.mem.fills.filter fun x => x.line = lineOf 0x20000).length = 1 ∧ underTest s 4 (channelOf s (lineOf 0x20000)) = false ∧ s.fab.readWaits = [] ∧
    (channelNext s (channelOf s (lineOf 0x20000))).map (·.line) = some (lineOf 0x20000) ∧ isPoisoned s 0x20000 = false ∧ s.flt.upsets = [] ∧
    lockIn s [] 0x20000 64 = none ∧ heldByTest s 0x20000 64 = false ∧ fencedIn s 0x20000 64 = none ∧ poisonIn s 0x20000 64 = none := by decide +kernel
/-- A message of 1 MiB when the bytes `d`, 1.5 MiB, wait in the port's receive buffer, of 2 MiB. -/
def crowded (d : List Byte) : State :=
  let s := cfgSet (paired Qp.reset 0x20000) (mPkey 0 2) 0 48 (2 ^ 21)
  { s with disp := { s.disp with waiting := [.host 0 0 0 d] } }
theorem wit_host_part (d data : List Byte) (h : d.length = 1572864) (_ : data.length = 1048576) :
    bufferUsed (crowded d) (qpPort (crowded d) 0) = 1572864 ∧ data.length ≤ 1048576 ∧ qpMtu (crowded []) 0 = 1024 ∧
    (2097152 - 1572864) / 1024 * 1024 = 524288 ∧ 2097152 < 1572864 + data.length ∧ pkeyOk (crowded []) 0 0 0x20000 1048576 true = true ∧
    1 < packetsOf (crowded []) 0 (1048576 - 524288) ∧ (qpOf (crowded []) 0).part = none ∧ qpTakes (crowded []) 0 = true := by
  have p : qpPort (crowded d) 0 = 0 := (by decide +kernel : qpPort (crowded []) 0 = 0)
  have e : (crowded d).eth.qps = [(0, Qp.reset)] := (by decide +kernel : (crowded []).eth.qps = [(0, Qp.reset)])
  have w : (crowded d).disp.waiting = [.host 0 0 0 d] := rfl
  refine ⟨?_, by omega, by decide +kernel, by decide, by omega, by decide +kernel, by decide +kernel, by decide +kernel, by decide +kernel⟩
  simp [bufferUsed, e, w, p, Qp.reset, h]
theorem wit_lengths : (List.replicate 1572864 (0 : Byte)).length = 1572864 ∧ (List.replicate 1048576 (0 : Byte)).length = 1048576 :=
  ⟨List.length_replicate, List.length_replicate⟩
theorem wit_send : let s := paired Qp.reset 0x20000
    let full := { s with sync := { s.sync with counters := [(0xC001, 1)] } }
    rxSize s 0 = 64 ∧ rxSlots s 0 = 1 ∧ rxCtr s 0 = 0xC001 ∧ (ctrGet s 0xC001 - ctrGet s (cfg s (mQp 0 6) 48 16)).toNat = 0 ∧
    (ctrGet full 0xC001 - ctrGet full (cfg full (mQp 0 6) 48 16)).toNat = 1 ∧ inPinned s pin 64 = true ∧ cfg s (mQp 0 5) 0 48 = pin ∧
    lockIn s [] pin 64 = none ∧ qpWaits s 0 = false ∧ sequencerFree s = true ∧ inFrameTable s pin 64 = false := by decide +kernel

/-- QueuePairs: a queue pair that keeps a write and a READ of the COPY in slot 0, with retries left and with none, one held by RNR, and one in RESET. -/
def kept (retries : Nat) (rnr : Bool) : State :=
  paired ⟨[⟨2 ^ 24 - 1, 2 ^ 24 - 1, false, none, 0, 0x2000, [1], 1⟩, ⟨0, 0, true, some 0, 0, 0x3000, [], 2⟩], 0, retries, rnr, 5, false, none,
    false⟩ 0x20000
theorem wit_qp : qpTakes (kept 0 false) 0 = true ∧ (qpOf (kept 0 false) 0).kept ≠ [] ∧ cfg (cfgSet (kept 0 false) (mQp 0 0) 16 3 7) (mQp 0 0) 16 3 = 7 ∧
    (qpOf (kept 7 false) 0).retries = 7 ∧ (qpOf (kept 6 true) 0).rnr = true ∧ qpState State.reset 1023 = 0 ∧ qpTakes State.reset 1023 = false ∧ portSends (kept 0 false) (qpPort (kept 0 false) 0) = true ∧
    ((qpOf (kept 0 false) 0).kept.find? (·.read)).map (·.len) = some 2 := by decide +kernel
theorem wit_qp_read : let x : Transfer := ⟨.copy 0, 0, true, 0, [(0x3000, 2), (0x4000, 2)], [], [], none⟩
    let s := { kept 0 false with fab := { Fabric.reset with transfers := [x] } }
    (s.fab.transfers.find? fun t => t.host && hkeyQp s t.dest = 0 && some 0 = some t.slot && t.left.contains (0x3000, 2)) = some x ∧
    dropFirst (· = (0x3000, 2)) x.left ≠ [] ∧ (∀ t ∈ s.fab.transfers, t.todo = []) ∧ (kept 0 false).fab.transfers = [] := by decide +kernel


/-! ### Security, module, start-up and rounding -/

/-- SecurityEngine: each unit idle and busy; an image of one page at the start of the pinned window, an empty one, and the read-back of one. -/
def busy (fw : Option (List Byte)) (att : Option (List Byte)) (dbg : Bool) : State :=
  { State.reset with sec := { Security.reset with fwBusy := fw, attBusy := att, dbgBusy := dbg } }
theorem wit_security : (busy none none false).sec.attBusy = none ∧ (busy none (some []) false).sec.attBusy.isSome = true ∧
    (busy (some []) none false).sec.fwBusy.isSome = true ∧ (busy (some [7]) none false).sec.fwBusy = some [7] ∧ ([7] : List Byte) ≠ [] ∧
    (busy none none true).sec.dbgBusy = true := by decide +kernel
theorem wit_install : let s := cfgSet (cfgSet (busy none none false) mFwSrc 0 48 pin) mFwSrc 56 8 1
    s.sec.fwBusy = none ∧ fwSrcLen s ≠ 0 ∧ fwSrcLen s ≤ fwSlotSize ∧ fwSrcAddr s % 4096 = 0 ∧ inPinned s (fwSrcAddr s) (fwSrcLen s) = true ∧
    lockIn s [] (fwSrcAddr s) (fwSrcLen s) = none ∧ poisonIn s (fwSrcAddr s) (fwSrcLen s) = none ∧ (poisonIn (poison s pin) (fwSrcAddr s) (fwSrcLen s)).isSome = true ∧
    (let l := { s with disp := { s.disp with slots := [(0, { cmd 1 with annex := some ⟨0, 0, [⟨0, pin, 64⟩], [], []⟩ })] } }; (lockIn l [] (fwSrcAddr l) (fwSrcLen l)).isSome) = true ∧
    lossFollows s = false ∧ lossFollows { s with pending := [.powerLoss] } = true ∧ fwSrcLen (busy none none false) = 0 ∧ fwSlotSize < fwSrcLen (cfgSet s mFwSrc 56 8 177) := by
  decide +kernel

/-- ModuleSamples: the always-on domain up, cap steps at their bounds, sixteen sensors and fifteen, the last stack and the first that there is none. -/
theorem wit_module : State.reset.mod.stage ≠ 0 ∧ State.reset.mod.stage = 8 ∧ ([0, 48].all fun n => decide (n ≤ 48)) = true ∧
    (List.replicate 16 (0 : BitVec 12)).length = 16 ∧ (List.replicate 15 (0 : BitVec 12)).length ≠ 16 ∧ (11 : BitVec 4).toNat < 12 ∧
    12 ≤ (12 : BitVec 4).toNat ∧ fld (liveGet State.reset (mStackTemp 11)) 28 3 ≤ 6 ∧ ¬(384 < (384 : BitVec 16).toNat ∨ (384 : BitVec 16).toNat + 200 <
      (584 : BitVec 16).toNat) ∧ 384 < (385 : BitVec 16).toNat ∧ State.reset.mod.coolant = false ∧ State.reset.mod.inputOk = true := by
  decide +kernel

/-- PowerAndStartup: the part in each stage, with its input and without, its latches set, PWR_EN low. -/
def staged (n : BitVec 4) : State := { State.reset with mod := { Module.reset with stage := n } }
theorem wit_power : ([0, 1, 2, 3, 4, 5, 6, 7, 8].map fun n => (staged n).mod.stage) = [0, 1, 2, 3, 4, 5, 6, 7, 8] ∧ (staged 1).mod.fail = 0 ∧
    (staged 1).mod.resetN = true ∧ (staged 1).mod.pwrEn = true ∧ (staged 1).mod.inputOk = true ∧
    ({ Module.reset with pwrEn := false } : Module).pwrEn = false ∧
    ([(mDieTemp 15, 920), (mStackTemp 11, 880)].map fun x : Nat × Nat => fld (liveGet (liveSet State.reset x.1 (BitVec.ofNat 64 x.2)) x.1) 0 12) = [920, 880] ∧
    fld (liveGet State.reset (mDieTemp 0)) 0 12 < 880 := by decide +kernel

/-- RoundingModes: one third of the least BF16 normal, rounded between subnormals, and the largest finite value. -/
theorem wit_rounding : floatFmt 7 = some bf16 ∧ bf16.value bf16.top = .fin false 255 120 ∧
    ((if false then -1 else 1 : ℚ) * ((1 : Nat) : ℚ) * 2 ^ (-140 : Int) ≤ 255 * 2 ^ (120 : Int)) := by
  refine ⟨by decide +kernel, by decide +kernel, ?_⟩
  norm_num


/-! ### Ill-formed commands -/

/-- A term for each check of WellFormed that refuses it. -/
theorem test_ill_formed : ([.unitConfirm 0 0, .unitConfirm 9 0, .holdTimeout 0 6, .acceptance 0 7, .wake 0 6, .waitTimeout 0 6, .engineComplete 0 5,
    .residueMismatch 0 ⟨0, 0⟩ 0 0 0, .residueMismatch 0 ⟨5, 0⟩ 0 0 0, .residueMismatch 0 ⟨1, 0⟩ 0 0 64, .residueMismatch 0 ⟨3, 0⟩ 0 0 128, .hbmLineFill 1 .clean,
    .hbmLineFill 0x9000000000 .clean, .scrub ⟨63, false⟩ .corrected, .peerReadTimeout 1032, .hbmTempSample 12 0, .testEnd 0 0 true, .testEnd 9 0 true, .registerWrite 4 0,
    .watchEnable 0 0, .dieTempSample [] false, .hbmTraining [384]] : List Instr).all (fun i => !i.wf) = true := by decide +kernel
theorem test_ill_formed_flits : ([.dataFlit 0 { flit 0 false [] with data := [] }, .dataFlit 0 (flit 0 false (List.replicate 241 0)), .dataFlit 0 (flit 0 true [0]),
    .idle 0 { flit 0 true [1] with vc := 0 }, .retrainRequest 0 { flit 0 true [0] with vc := 0 }, .retrainDone 0 { flit 0 true [0] with vc := 0 },
    .downExchange 0 { flit 0 true [0] with vc := 0 }, .idle 0 (flit 0 true [0]), .forward 0 false ⟨0, [0]⟩] : List Instr).all (fun i => !i.wf) = true := by
  decide +kernel
theorem test_ill_formed_messages : ([Instr.readReq, .readResp, .writeReq, .writeGrant, .write, .writeAck, .writeCancel, .piece, .credit, .count, .abandon, .mgmtReq,
    .mgmtResp, .debugMsg].all fun i => !(i ⟨0, []⟩).wf) = true := by decide +kernel
theorem test_ill_formed_datagrams : ([.submit 0 src (head 0 0 4) [], .completionAck 0 src ⟨0, []⟩, .mgmtRead 0 src 0 [], .mgmtWrite 0 src 0 []] : List Instr).all
    (fun i => !i.wf) = true := by decide +kernel
theorem test_well_formed : ([.unitConfirm 8 0, .holdTimeout 0 5, .residueMismatch 0 ⟨1, 0⟩ 0 0 63, .scrub ⟨64, true⟩ .corrected, .peerReadTimeout 1031, .hbmLineFill 64 .uncorrected, .registerWrite 8 0, .watchEnable 63 (2 ^ 63),
    .idle 0 { flit 0 true [0] with vc := 0 }, .dataFlit 0 (flit 0 false [0]), .readReq (asks 1 0 0 0)] : List Instr).all (fun i => i.wf) = true := by
  decide +kernel

/-! ### The manual's examples -/

/-- The state that a command leads to. -/
def next (i : Instr) (s : State) : State := match exec i s with
  | .next t => t
  | _ => s

/-- The example after R4: core 777, its clusters' near channels, and link 13. -/
theorem test_core_777 : 777 = 32 * 24 + 9 ∧ stackOfChannel 288 = 9 ∧ stackOfChannel 383 = 11 ∧ setOfChannel 288 = 36 ∧ setOfChannel 383 = 47 ∧
    neighbour (cfgSet State.reset mTorus 20 4 3) 3 = 48 := by decide +kernel

/-- The examples of R36, R53 and of the hand-off between two cores: places in slices, channels and chip counters. -/
theorem test_places : sliceOf State.reset 0x010030000000 = 3 ∧
    (let s := cfgSet State.reset (mCset 5) 0 7 2; hbmDecode s 0xF00000000 = (40, 0) ∧ hbmDecode s 0xF00007000 = (47, 0) ∧ hbmDecode s 0xF00008000 = (40, 4096)) ∧
    (let s := cfgSet State.reset (mCset 36) 0 7 48; hbmDecode s 0x6C00123440 = (340, 12352)) ∧ homeOfChannel 340 = 7 ∧ sliceOfCounter 0xC123 = 3 := by decide +kernel

/-- The example of R130: LIH g6, 0x0E00 on 0x0100. -/
theorem test_lih : (gGet (coreOf (next (.lih 0) (withCore (cmd 1) { coreAt [BitVec.ofNat 32 (0x07 * 2 ^ 22 + 6 * 2 ^ 17 + 0x0E00)] with g := [(6, 0x0100)] })) 0) 6) =
    0x01000E00 := by decide +kernel

/-- The example of R48: 1.0 with 2^24 of contributor 3 and 1.0 of contributor 5 gives 2^24, whatever the order of staging. -/
theorem test_reduce_order : (let d := fun c v => (⟨0x10000, 4, 8, c, 0, 2, v⟩ : Delta)
    let m := { cmd 1 with phase := .committing, deltas := [d 5 0x3F800000, d 3 0x4B800000] }
    let s := withCmd m
    let b := sliceOf s 0x10000
    let s := { s with disp := { s.disp with current := some ⟨[0], 1, .applying, [b, 8], []⟩ } }
    let s := planeWrite s 0x10000 (natLE 4 0x3F800000)
    planeNat (next (.apply (BitVec.ofNat 3 b) none) s) 0x10000 4) = 0x4B800000 := by decide +kernel

/-- The example after R177, a short last tile: T0 = 300 fails check 5 on d4, and CAP = 15 fails check 8. -/
def lastTile (t0 cap : Nat) : Job :=
  let ds := [0, 0, 0, setFld (desc 5 64 256 1 0 0x20000 64) 104 16 cap, desc 5 64 64 1 0 0x10000 64, desc 9 64 256 1 3 0 256]
  jobOf (mmForm 1024 64) (einstr 0 0x01 5 [(62, 4), (57, 5), (52, 6), (40, 9)] ds [(9, BitVec.ofNat 64 (0xFFFFFFFF00280000 + t0))]) (coreAt [])
def lastBad (t0 cap : Nat) : Option (Nat × Nat) :=
  (checksFirst (mmForm 1024 64) (lastTile t0 cap)).map fun b => ((badRec 0 0 0 (lastTile t0 cap).i b).object, b.reason)
theorem test_last_tile : lastBad 300 16 = some (0x200100000000012C, 0x20) ∧ lastBad 256 15 = some (0x2000000000004000, 0x21) ∧ lastBad 200 16 = none := by
  decide +kernel

/-- The example of R202: one chain in the canonical order. -/
theorem test_chain : (let p := fun a w => (readElem 1 0x07 a).mul (readElem 1 0x05 w)
    chain 1 chainFresh [p 0x4780 0x78, p 0x3F80 0x38, p 0x3F00 0x40, p 0x4780 0xF8]) = 0 := by decide +kernel

/-- The example of R208: 1.0 + 2^-10 rounds stochastically to BF16. -/
theorem test_stochastic : let v := fp32.value 0x3F802000
    bf16.encode (.stoch 0x1A2B3C) false v false = 0x3F81 ∧ bf16.encode (.stoch 2097152) false v false = 0x3F80 := by decide +kernel

/-- The example of R418: a product residue mismatch of core 777. -/
theorem test_residue : (let k := { coreAt [] with flying := [(0, [⟨0, 0x01000E000040, 0x01, 0, 0, true, 0, 0, false, [], [], [], []⟩])] }
    let s := { withCmd { cmd 1 with cores := [777] } with cores := [(777, k)] }
    let s := { s with flt := { s.flt with log := { s.flt.log with head := 0x2A4, tail := 0x2A4 } } }
    let r := logEntry (next (.residueMismatch 777 ⟨1, 0⟩ 0x85 0x11 0x28) s) 0x2A4
    [192, 128].map (fun b => fld r b 64)) = [0x500101000E000040, 0x0100000000851128] := by decide +kernel

/-- The example of R435 under FAST: 3,673 W raises the step, 3,195 W holds it. -/
theorem test_cap : (let at' := fun (n w : Nat) =>
      let s := cfgSet (cfgSet State.reset mPwrCfg 48 16 3200) mPwrCfg 40 2 2
      (next (.capSample (BitVec.ofNat 16 w) 0 0) { s with mod := { s.mod with capStep := n, capHeld := 64 } }).mod.capStep
    [at' 1 3673, at' 18 3222, at' 19 3195, at' 19 3136, at' 19 3135]) = [2, 19, 19, 19, 18] := by decide +kernel

/-- The example of R393: a SUBMIT of two records wraps round the ring, and comes again. -/
theorem test_submit_wraps : (let s := hosted { Queue.reset with head := 1023, tail := 1023, expected := 0x31 }
    let s := cfgSet (cfgSet s (mQcfg 5) 15 9 (4 * 32 + 1)) (mQring 5) 0 48 0x40000
    let s := { s with disp := { s.disp with queues := [(5, queueOf s 3)] } }
    let h : BitVec 128 := 0x00000031FFFF05020001000000000001
    let t := next (.submit 0 src h (natLE 64 1 ++ natLE 64 2)) s
    ((queueOf t 5).tail, (queueOf t 5).expected, planeNat t 0x4FFC0 64, planeNat t 0x40000 64, (queueOf (next (.submit 0 src h (natLE 64 1 ++ natLE 64 2)) t) 5).tail)) =
      (1025, 0x32, 1, 2, 1025) := by decide +kernel

/-- The example of R488: what a watch computes of one line. -/
theorem test_watch : (watchResults 0 9 [0x3F800000, 0xC0000000, 0, 0x80000000, 0x40400000, 0x7FC00000, 0x7F800000, 0x3F000000, 0x40800000, 0x3F800000, 0xBF800000,
    0x40000000, 0x3E800000, 0xBF000000, 0x41000000, 0x3FC00000]).take 6 = [0xC000000000000000, 0x7FF0000000000000, 0x4031C00000000000, 0x4059B40000000000,
      0x0000000100000001, 0x000000020000000E] := by decide +kernel

end Sys2Proof.Tests
end

section
/-!
Management reads of the part at READY (R12): which block of management space a register lies in, what a read of a word of each block gives,
and from these the reset values.
-/
namespace Sys2Proof.Machine

/-! ### Words made of fields -/

theorem ofFields_of_zero (n : Nat) (fs : List (Nat × Nat)) (h : ∀ f ∈ fs, f.2 = 0) : ofFields n fs = 0 := by
  have sum : fs.foldl (fun a f => a + f.2 <<< f.1) 0 = 0 := by
    induction fs with
    | nil => rfl
    | cons f t ih =>
      rw [List.forall_mem_cons] at h
      simpa [h.1] using ih h.2
  simp [ofFields, sum]

theorem fenceWord_nil (w : Nat) : fenceWord [] w = 0 :=
  ofFields_of_zero _ _ (by simp [b2n])

/-! ### Elements of the arrays of registers -/

theorem arrAt_elem {off base stride count i w : Nat} (hoff : off = base + stride * i + w) (hi : i < count) (hw : w < stride) :
    arrAt off base stride count = some (i, w) := by
  have row : stride * (i + 1) ≤ stride * count := Nat.mul_le_mul_left stride hi
  have last : off < base + stride * count := by rw [Nat.mul_add] at row; omega
  have rel : off - base = w + stride * i := by omega
  rw [arrAt, if_pos ⟨by omega, last⟩, rel, Nat.add_mul_div_left _ _ (by omega), Nat.add_mul_mod_self_left, Nat.div_eq_of_lt hw,
    Nat.mod_eq_of_lt hw, Nat.zero_add]

theorem arrAt_outside {off base stride count : Nat} (h : off < base ∨ base + stride * count ≤ off) : arrAt off base stride count = none :=
  if_neg (by omega)

theorem arrAt_range {off base stride count : Nat} {e : Nat × Nat} (h : arrAt off base stride count = some e) :
    base ≤ off ∧ off < base + stride * count := by
  by_contra hn
  simp [arrAt, hn] at h

/-! ### The registers that stand alone -/

/-- The offsets of the registers that stand alone. -/
def singleRegs : List Nat :=
  [0x0, mArith, mPwrCfg, mPwrStat, mSscCfg, mModStat, mModCfg, mSched, mTimeout, mSyncCfg, mEpochCur, mEpochPend, mSlots, mSheaf, mTherm, mKvCtl,
   mKvFut, mKvSess, mKvFrame, mTorus, mVcWeight, mGroupTbl, mGroupReg, mGroupStat, mCollStat, mSetStat, mSetSeq 0, mSetSeq 1, mSetTag, mSnapCtl,
   mSnapStat, mSnapCommit, mSysHbm, mDbgGlobal, mDbgFab]

theorem regFieldsSingle_eq_none {off : Nat} (h : off ∉ singleRegs) : regFieldsSingle off = none := by
  simp only [singleRegs, List.mem_cons, not_or] at h
  simp [regFieldsSingle, h]

theorem readSingle_eq_none {off : Nat} (s : State) (h : off ∉ singleRegs) : readSingle s off = none := by
  simp only [singleRegs, List.mem_cons, not_or] at h
  simp [readSingle, h]

theorem notMem_singleRegs_of_range {off lo hi : Nat} (hl : lo ≤ off) (hh : off < hi) (gap : ∀ x ∈ singleRegs, x < lo ∨ hi ≤ x) :
    off ∉ singleRegs := fun hm => by
  have := gap off hm
  omega

/-! ### What a read gives before the first snapshot -/

/-- Before the first snapshot every word of one reads zero. -/
theorem snapWord_reset (off : Nat) : snapWord State.reset off = 0 := by
  have live : liveGet State.reset off = 0 := rfl
  unfold snapWord
  split
  · rfl
  · split <;> rfl
  · split
    · rfl
    · rw [live]
      show setFld (0 : Word) 62 2 (fld (0 : Word) 62 2) = 0
      decide
  · rfl

/-- A word that stands at zero reads zero, whether or not a snapshot covers it. -/
theorem mgmtGet_reset_of_wordNow_zero {off : Nat} (h : wordNow State.reset off = 0) : mgmtGet State.reset off = 0 := by
  have seq : State.reset.dbg.snapSeq = 0 := rfl
  simp only [mgmtGet, seq, h, snapWord_reset, if_true, ite_self]

theorem regGet_reset (off : Nat) : regGet State.reset off = regDefault off := rfl

/-- Below the Ethernet ports, whose MAC addresses the FRU area gives, the default of a word is that of its fields. -/
theorem regDefault_of_fields {off : Nat} {fs : List RField} (hf : regFields off = some fs) (hoff : off < 0x100000) :
    regDefault off = ofFields 64 (fs.map fun f => (f.lo, f.dflt)) := by
  have noMac : off ≠ mEth 0 0 ∧ off ≠ mEth 1 0 := by unfold mEth; omega
  simp [regDefault, noMac, hf]

/-- A word kept as written that no snapshot covers reads the defaults of its fields. -/
theorem mgmtGet_reset_of_kept {off : Nat} {fs : List RField} (hf : regFields off = some fs) (hoff : off < 0x100000)
    (hk : wordNow State.reset off = regGet State.reset off) (hs : snapshotted off = false) :
    mgmtGet State.reset off = ofFields 64 (fs.map fun f => (f.lo, f.dflt)) := by
  have part : snapFields off = [] := by
    by_contra hn
    simp [snapshotted, hn] at hs
  rw [← regDefault_of_fields hf hoff, ← regGet_reset, ← hk]
  simp [mgmtGet, hf, part, hs]

theorem mgmtGet_reset_of_zero_fields {off : Nat} {fs : List RField} (hf : regFields off = some fs) (hoff : off < 0x100000)
    (hk : wordNow State.reset off = regGet State.reset off) (hz : ∀ f ∈ fs, f.dflt = 0) : mgmtGet State.reset off = 0 :=
  mgmtGet_reset_of_wordNow_zero (by
    rw [hk, regGet_reset, regDefault_of_fields hf hoff]
    exact ofFields_of_zero _ _ (by simpa using hz))

/-- Between the queues and the links every word is kept as written but QUAD and those that stand alone. -/
theorem wordNow_kept {off : Nat} (s : State) (hn : off ∉ singleRegs) (lo : 0x14000 ≤ off) (hi : off < 0x80000)
    (quad : off < 0x40600 ∨ 0x40620 ≤ off) : wordNow s off = regGet s off := by
  simp (disch := omega) [wordNow, readSingle_eq_none s hn, arrAt_outside]

/-- ERR_STAT, CHIP_STAT and ATT_STAT, the words with a count that lie in the fault and security blocks, are beyond the offsets below the links. -/
theorem ne_laterStatus {off : Nat} (h : off < 0x80000) : off ≠ mErrStat ∧ off ≠ mChipStat ∧ off ≠ mAttStat := by
  unfold mErrStat mChipStat mAttStat
  omega

/-- Among the registers of the Sheaf cache a snapshot covers the stack temperatures alone (R484). -/
theorem snapshotted_sheaf {off : Nat} (hn : off ∉ singleRegs) (lo : 0x40000 ≤ off) (hi : off < 0x45000)
    (temp : off < 0x40500 ∨ 0x40560 ≤ off) : snapshotted off = false := by
  simp only [singleRegs, List.mem_cons, not_or] at hn
  simp (disch := omega) [snapshotted, snapFields, hn, ne_laterStatus (off := off) (by omega), arrAt_outside]

/-! ### The queue registers (R75, R123) -/

section
variable {off q w : Nat} (h : arrAt off 0x10000 64 256 = some (q, w))
include h

theorem notMem_singleRegs_of_queue : off ∉ singleRegs := by
  obtain ⟨lo, hi⟩ := arrAt_range h
  exact notMem_singleRegs_of_range lo hi (by decide)

theorem regFields_queue (h8 : off % 8 = 0) : regFields off = regFieldsQueue w := by
  obtain ⟨lo, hi⟩ := arrAt_range h
  simp (disch := omega) [regFields, h8, regFieldsSingle_eq_none (notMem_singleRegs_of_queue h), arrAt_outside, h]

/-- Of a queue's registers a snapshot covers QACCT alone (R484). -/
theorem snapshotted_queue (early : w < 0x30) : snapshotted off = false := by
  obtain ⟨lo, hi⟩ := arrAt_range h
  have hn := notMem_singleRegs_of_queue h
  simp only [singleRegs, List.mem_cons, not_or] at hn
  simp (disch := omega) [snapshotted, snapFields, hn, ne_laterStatus (off := off) (by omega), h, arrAt_outside, Nat.not_le.mpr early]

theorem wordNow_queue (s : State) : wordNow s off =
    if w = 0x10 then (queueOf s q).tail.setWidth 64 else if w = 0x18 then (queueOf s q).head.setWidth 64
    else if w = 0x38 then 0 else regGet s off := by
  simp [wordNow, readSingle_eq_none s (notMem_singleRegs_of_queue h), h]

end

theorem mgmtGet_reset_mQhead {q : Nat} (hq : q < 256) : mgmtGet State.reset (mQhead q) = 0 := by
  have h : arrAt (mQhead q) 0x10000 64 256 = some (q, 0x18) := arrAt_elem (by unfold mQhead; omega) hq (by decide)
  exact mgmtGet_reset_of_wordNow_zero (by rw [wordNow_queue h]; rfl)

theorem mgmtGet_reset_mQtail {q : Nat} (hq : q < 256) : mgmtGet State.reset (mQtail q) = 0 := by
  have h : arrAt (mQtail q) 0x10000 64 256 = some (q, 0x10) := arrAt_elem (by unfold mQtail; omega) hq (by decide)
  exact mgmtGet_reset_of_wordNow_zero (by rw [wordNow_queue h]; rfl)

theorem mgmtGet_reset_mQring {q : Nat} (hq : q < 256) : mgmtGet State.reset (mQring q) = 0 := by
  have h : arrAt (mQring q) 0x10000 64 256 = some (q, 8) := arrAt_elem (by unfold mQring; omega) hq (by decide)
  exact mgmtGet_reset_of_zero_fields (regFields_queue h (by unfold mQring; omega)) (by unfold mQring; omega) (wordNow_queue h _) (by decide)

/-- QCFG at READY: SHARES 1, RING_LOG2 4, CQ_FCT 1 and MAX_ADMIT 64, its other fields zero. -/
theorem mgmtGet_reset_mQcfg {q : Nat} (hq : q < 256) :
    mgmtGet State.reset (mQcfg q) = ofFields 64 [(48, 1), (20, 4), (17, 1), (0, 64)] := by
  have h : arrAt (mQcfg q) 0x10000 64 256 = some (q, 0) := arrAt_elem (by unfold mQcfg; omega) hq (by decide)
  rw [mgmtGet_reset_of_kept (regFields_queue h (by unfold mQcfg; omega)) (by unfold mQcfg; omega) (wordNow_queue h _)
    (snapshotted_queue h (by decide))]
  decide

/-! ### The queue counters (R499), the partitions of the Sheaf cache and the channel sets (R71) -/

theorem mgmtGet_reset_mQcnt {q k : Nat} (hq : q < 256) (hk : k < 10) : mgmtGet State.reset (mQcnt q k) = 0 := by
  have h : arrAt (mQcnt q k) 0x20000 128 256 = some (q, 8 * k) := arrAt_elem (by unfold mQcnt; omega) hq (by omega)
  obtain ⟨lo, hi⟩ := arrAt_range h
  have h8 : mQcnt q k % 8 = 0 := by unfold mQcnt; omega
  have hn : mQcnt q k ∉ singleRegs := notMem_singleRegs_of_range lo hi (by decide)
  have hf : regFields (mQcnt q k) = some [fRo 0 64] := by
    have hw : 8 * k < 0x50 := by omega
    simp (disch := omega) [regFields, h8, regFieldsSingle_eq_none hn, arrAt_outside, h, hw]
  exact mgmtGet_reset_of_zero_fields hf (by omega) (wordNow_kept _ hn (by omega) (by omega) (by omega)) (by decide)

/-- QPART at READY: WAYS 0xFF and CSETS all ones. -/
theorem mgmtGet_reset_mQpart {q : Nat} (hq : q < 256) : mgmtGet State.reset (mQpart q) = ofFields 64 [(48, 0xFF), (0, 2 ^ 48 - 1)] := by
  have h : arrAt (mQpart q) 0x41000 8 256 = some (q, 0) := arrAt_elem (by unfold mQpart; omega) hq (by decide)
  obtain ⟨lo, hi⟩ := arrAt_range h
  have h8 : mQpart q % 8 = 0 := by unfold mQpart; omega
  have hn : mQpart q ∉ singleRegs := notMem_singleRegs_of_range lo hi (by decide)
  have hf : regFields (mQpart q) = some [fSet 48 16 .any 0xFF, fSet 0 48 .any (2 ^ 48 - 1)] := by
    simp (disch := omega) [regFields, h8, regFieldsSingle_eq_none hn, arrAt_outside, h]
  exact mgmtGet_reset_of_kept hf (by omega) (wordNow_kept _ hn (by omega) (by omega) (by omega))
    (snapshotted_sheaf hn (by omega) (by omega) (by omega))

/-- CSET_CFG at READY: GROUP 3 (12 sets), GRAN 2 (4 KiB), PRIV 0. -/
theorem mgmtGet_reset_mCset {i : Nat} (hi : i < 48) : mgmtGet State.reset (mCset i) = 0x32 := by
  have h : arrAt (mCset i) 0x40100 8 48 = some (i, 0) := arrAt_elem (by unfold mCset; omega) hi (by decide)
  obtain ⟨lo, hi⟩ := arrAt_range h
  have h8 : mCset i % 8 = 0 := by unfold mCset; omega
  have hn : mCset i ∉ singleRegs := notMem_singleRegs_of_range lo hi (by decide)
  have hf : regFields (mCset i) = some [fStart 8 1 .any 0, fStart 4 3 (.enc 0 4) 3, fStart 0 3 (.enc 0 4) 2] := by
    simp (disch := omega) [regFields, h8, regFieldsSingle_eq_none hn, arrAt_outside, h]
  exact mgmtGet_reset_of_kept hf (by omega) (wordNow_kept _ hn (by omega) (by omega) (by omega))
    (snapshotted_sheaf hn (by omega) (by omega) (by omega))

/-! ### The links (R375) -/

theorem wordNow_link {off l w : Nat} (s : State) (h : arrAt off 0x80000 4096 32 = some (l, w)) (hn : off ∉ singleRegs) : wordNow s off =
    if w = 0 then ofFields 64 [(48, (linkOf s l).peer.toNat), (32, (linkOf s l).fails.toNat), (0, (linkOf s l).state.toNat)]
    else regGet s off := by
  obtain ⟨lo, hi⟩ := arrAt_range h
  simp (disch := omega) [wordNow, readSingle_eq_none s hn, arrAt_outside, h]

theorem notMem_singleRegs_of_link {off : Nat} (lo : 0x80000 ≤ off) (hi : off < 0xA0000) : off ∉ singleRegs :=
  notMem_singleRegs_of_range lo hi (by decide)

theorem mgmtGet_reset_mLinkStat {l : Nat} (hl : l < 32) : mgmtGet State.reset (mLinkStat l) = 0 := by
  have h : arrAt (mLinkStat l) 0x80000 4096 32 = some (l, 0) := arrAt_elem (by unfold mLinkStat; omega) hl (by decide)
  obtain ⟨lo, hi⟩ := arrAt_range h
  have link : linkOf State.reset l = Link.reset := Map.get_nil _ l
  refine mgmtGet_reset_of_wordNow_zero ?_
  rw [wordNow_link _ h (notMem_singleRegs_of_link lo hi), if_pos rfl, link]
  exact ofFields_of_zero _ _ (by decide)

theorem mgmtGet_reset_mLinkErr {l : Nat} (hl : l < 32) : mgmtGet State.reset (mLinkErr l) = 0 := by
  have h : arrAt (mLinkErr l) 0x80000 4096 32 = some (l, 8) := arrAt_elem (by unfold mLinkErr; omega) hl (by decide)
  obtain ⟨lo, hi⟩ := arrAt_range h
  have h8 : mLinkErr l % 8 = 0 := by unfold mLinkErr; omega
  have hn := notMem_singleRegs_of_link lo hi
  have hf : regFields (mLinkErr l) = some [fRo 32 32, fRo 0 32] := by
    simp (disch := omega) [regFields, h8, regFieldsSingle_eq_none hn, arrAt_outside, h, regFieldsLink]
  exact mgmtGet_reset_of_zero_fields hf (by omega) (wordNow_link _ h hn) (by decide)

/-! ### The fences (R420) -/

theorem wordNow_fault {off w : Nat} (s : State) (hoff : off = 0x200000 + w) (hw : w < 0x20000) : wordNow s off = readFault s w off := by
  have h : arrAt off 0x200000 0x20000 1 = some (0, w) := arrAt_elem (by omega) (by decide) hw
  have hn : off ∉ singleRegs := notMem_singleRegs_of_range (lo := 0x200000) (hi := 0x220000) (by omega) (by omega) (by decide)
  simp (disch := omega) [wordNow, readSingle_eq_none s hn, arrAt_outside, h]

theorem readFault_coreFence {w : Nat} (s : State) (off : Nat) (hw : w < 16) :
    readFault s (0x100 + 8 * w) off = fenceWord s.flt.coreFence w := by
  have word : (0x100 + 8 * w - 0x100) / 8 = w := by omega
  rw [readFault, if_neg (by omega), if_neg (by omega), if_neg (by omega), if_pos (by omega), word]

theorem readFault_chanFence {w : Nat} (s : State) (off : Nat) (hw : w < 6) :
    readFault s (0x200 + 8 * w) off = fenceWord s.flt.chanFence w := by
  have word : (0x200 + 8 * w - 0x200) / 8 = w := by omega
  rw [readFault, if_neg (by omega), if_neg (by omega), if_neg (by omega), if_neg (by omega), if_pos (by omega), word]

theorem mgmtGet_reset_mCoreFence {w : Nat} (hw : w < 16) : mgmtGet State.reset (mCoreFence w) = 0 := by
  refine mgmtGet_reset_of_wordNow_zero ?_
  rw [wordNow_fault (w := 0x100 + 8 * w) _ (by unfold mCoreFence; omega) (by omega), readFault_coreFence _ _ hw]
  exact fenceWord_nil w

theorem mgmtGet_reset_mChanFence {w : Nat} (hw : w < 6) : mgmtGet State.reset (mChanFence w) = 0 := by
  refine mgmtGet_reset_of_wordNow_zero ?_
  rw [wordNow_fault (w := 0x200 + 8 * w) _ (by unfold mChanFence; omega) (by omega), readFault_chanFence _ _ hw]
  exact fenceWord_nil w

/-! ### The state at READY -/

theorem inv_reset : Inv State.reset := ⟨wf_reset, .nil, List.forall_mem_nil _, List.forall_mem_nil _⟩

theorem planeByte_reset (a : Nat) : planeByte State.reset a = 0 := Map.get_nil _ a

theorem ctrGet_reset (n : Nat) : ctrGet State.reset n = 0 := Map.get_nil _ n

/-- Settles O4: the invariant, the memory and the counters by their own lemmas, the registers that the statement lists by evaluation, and the
elements of each array of registers through the block they lie in. -/
theorem resetLeaves : Obligations.ResetLeaves := by
  refine ⟨inv_reset, planeByte_reset, ctrGet_reset, ?listed, fun q hq => ?queue, fun _ => mgmtGet_reset_mCset,
    fun _ hl => ⟨mgmtGet_reset_mLinkStat hl, mgmtGet_reset_mLinkErr hl⟩, fun _ => mgmtGet_reset_mCoreFence, fun _ => mgmtGet_reset_mChanFence⟩
  case listed => decide +kernel
  case queue =>
    exact ⟨mgmtGet_reset_mQhead hq, mgmtGet_reset_mQtail hq, mgmtGet_reset_mQcfg hq, mgmtGet_reset_mQring hq, mgmtGet_reset_mQpart hq,
      fun _ hk => mgmtGet_reset_mQcnt hq hk⟩

end Sys2Proof.Machine
end

section
/-!
The invariant of the state is kept by every step. `Tidy` is the invariant with its parts by name; one lemma per operation on the state says that the
operation keeps it, `Tidy.<operation>`, in the order of the model's files, so that a lemma's proof composes those of the operations that its
definition calls. Plane memory, the slots and the cores change in few operations; for the rest, `Tidy.frame` is the reason.
-/
namespace Sys2Proof
open Machine
set_option Elab.async false

variable {s t : State}

/-- A retained P of the core has a factor for each of its rows (R233). -/
def Core.Paired (k : Core) : Prop := (k.pbuf.all fun b => b.factors.length = b.rows.length) = true

/-- The invariant, its parts by name. -/
structure Tidy (s : State) : Prop where
  plane : s.mem.wf
  slots : Map.sorted s.disp.slots
  staged : ∀ e ∈ s.disp.slots, Map.sorted e.2.staged
  paired : ∀ e ∈ s.cores, Core.Paired e.2

theorem tidy_iff : Tidy s ↔ Inv s :=
  ⟨fun h => ⟨h.plane, h.slots, h.staged, h.paired⟩, fun ⟨plane, slots, staged, paired⟩ => ⟨plane, slots, staged, paired⟩⟩

/-- The command's answer, where it completes, is tidy. -/
def Kept (o : Host.Outcome State Fault Refusal) : Prop := ∀ t, o = .next t → Tidy t

/-! ### Shapes of a step -/

protected theorem Tidy.ite {c : Prop} {_ : Decidable c} (hs : Tidy s) (ht : Tidy t) : Tidy (if c then s else t) := by
  split <;> assumption

protected theorem Tidy.foldl {α : Type} {f : State → α → State} {l : List α} (h : Tidy s) (hf : ∀ {s : State} {a : α}, Tidy s → Tidy (f s a)) :
    Tidy (l.foldl f s) := by
  induction l generalizing s with
  | nil => exact h
  | cons a l ih => exact ih (hf h)

/-- A fold whose state carries a second component. -/
protected theorem Tidy.foldl_fst {α β : Type} {f : State × β → α → State × β} {l : List α} {x : State × β} (h : Tidy x.1)
    (hf : ∀ {x : State × β} {a : α}, Tidy x.1 → Tidy (f x a).1) : Tidy (l.foldl f x).1 := by
  induction l generalizing x with
  | nil => exact h
  | cons a l ih => exact ih (hf h)

protected theorem Tidy.next (h : Tidy s) : Kept (.next s) := fun _ e => by cases e; exact h

protected theorem Kept.ite {c : Prop} {_ : Decidable c} {a b : Host.Outcome State Fault Refusal} (ha : Kept a) (hb : Kept b) :
    Kept (if c then a else b) := by
  split <;> assumption

theorem Kept.fault {r : Fault} : Kept (.fault r) := fun _ e => by cases e

/-- The state an optional step gives, where it gives one, is tidy. -/
def KeptOption (o : Option State) : Prop := ∀ t, o = some t → Tidy t

protected theorem Tidy.some (h : Tidy s) : KeptOption (some s) := fun _ e => by cases e; exact h

theorem KeptOption.none : KeptOption none := fun _ e => by cases e

protected theorem KeptOption.ite {c : Prop} {_ : Decidable c} {a b : Option State} (ha : KeptOption a) (hb : KeptOption b) :
    KeptOption (if c then a else b) := by
  split <;> assumption

protected theorem KeptOption.map {α : Type} {f : α → State} {o : Option α} (h : ∀ a, Tidy (f a)) : KeptOption (o.map f) := by
  cases o with
  | none => exact .none
  | some a => exact (h a).some

protected theorem KeptOption.findSome? {α : Type} {f : α → Option State} {l : List α} (h : ∀ a, KeptOption (f a)) : KeptOption (l.findSome? f) := by
  intro t ht
  obtain ⟨a, -, ha⟩ := List.exists_of_findSome?_eq_some ht
  exact h a t ha

protected theorem KeptOption.getD {o : Option State} (h : KeptOption o) (hs : Tidy s) : Tidy (o.getD s) := by
  cases o with
  | none => exact hs
  | some t => exact h t rfl

/-- What an engine's instruction does keeps the invariant. -/
structure Machine.Form.Keeps (f : Form) : Prop where
  empty : ∀ {j : Job} {s : State}, Tidy s → Tidy (f.empty j s)
  run : ∀ {j : Job} {s : State}, Tidy s → Tidy (f.run j s)

/-! ### What keeps the plane, the slots or the cores -/

protected theorem Tidy.frame {pending fresh sent regs live poison cache plru fills entries scheds dists wcache sync queues nextRR orders grants ends
    lastNo
    current waiting epoch phase change fab eth flt mram sec mod dbg} (h : Tidy s) :
    Tidy ⟨pending, fresh, sent, regs, live, ⟨s.mem.plane, poison, cache, plru, fills, entries, scheds, dists, wcache⟩, sync, s.cores,
      ⟨queues, s.disp.slots, nextRR, orders, grants, ends, lastNo, current, waiting, epoch, phase, change⟩, fab, eth, flt, mram, sec, mod, dbg⟩ :=
  ⟨h.plane, h.slots, h.staged, h.paired⟩

protected theorem Tidy.mram {m} (h : Tidy s) : Tidy { s with mram := m } := h.frame
protected theorem Tidy.fab {m} (h : Tidy s) : Tidy { s with fab := m } := h.frame
protected theorem Tidy.eth {m} (h : Tidy s) : Tidy { s with eth := m } := h.frame

protected theorem Tidy.withPlane (h : Tidy s) {p : Map Byte} (hp : Map.canonical planeDefault p) (plane : t.mem.plane = p := by rfl)
    (slots : t.disp.slots = s.disp.slots := by rfl) (cores : t.cores = s.cores := by rfl) : Tidy t := by
  obtain ⟨-, hs, hg, hc⟩ := h
  exact ⟨by rwa [Memory.wf, plane], by rwa [slots], by rwa [slots], by rwa [cores]⟩

protected theorem Tidy.withSlots (h : Tidy s) {m : Map Cmd} (hm : Map.sorted m) (hs : ∀ e ∈ m, Map.sorted e.2.staged)
    (slots : t.disp.slots = m := by rfl) (plane : t.mem.plane = s.mem.plane := by rfl) (cores : t.cores = s.cores := by rfl) : Tidy t := by
  obtain ⟨hp, -, -, hc⟩ := h
  exact ⟨by rwa [Memory.wf, plane], by rwa [slots], by rwa [slots], by rwa [cores]⟩

protected theorem Tidy.withCores (h : Tidy s) {m : Map Core} (hm : ∀ e ∈ m, Core.Paired e.2)
    (cores : t.cores = m := by rfl) (plane : t.mem.plane = s.mem.plane := by rfl) (slots : t.disp.slots = s.disp.slots := by rfl) : Tidy t := by
  obtain ⟨hp, hs, hg, -⟩ := h
  exact ⟨by rwa [Memory.wf, plane], by rwa [slots], by rwa [slots], by rwa [cores]⟩

/-! ### Sparse arrays -/

theorem Map.mem_of_find? {α : Type} {m : Map α} {k : Nat} {v : α} (h : Map.find? m k = some v) : (k, v) ∈ m := by
  induction m with
  | nil => cases h
  | cons e m ih =>
    rw [Map.find?_cons] at h
    split at h
    · next hk => cases h; cases hk; exact List.mem_cons_self
    · exact List.mem_cons_of_mem _ (ih h)

theorem Map.forall_put {α : Type} {P : α → Prop} {m : Map α} {k : Nat} {v : α} (hm : ∀ e ∈ m, P e.2) (hv : P v) : ∀ e ∈ Map.put m k v, P e.2 := by
  intro e he
  rcases Map.mem_insert he with rfl | he
  · exact hv
  · exact hm e (Map.mem_erase he).1

theorem Map.sorted_putRun {α : Type} (vs : List α) : ∀ {m : Map α} (k : Nat), Map.sorted m → Map.sorted (Map.putRun m k vs) := by
  induction vs with
  | nil => exact fun _ h => h
  | cons v vs ih => exact fun k h => ih _ (Map.sorted_put k v h)

/-! ### Cores -/

theorem Core.paired_of_none {k : Core} (h : k.pbuf = none) : Core.Paired k := by simp [Core.Paired, h]

protected theorem Core.Paired.gSet {k : Core} {r v} (h : Core.Paired k) : Core.Paired (gSet k r v) := by
  unfold gSet
  split <;> exact h

protected theorem Core.Paired.icUse {k : Core} {a} (h : Core.Paired k) : Core.Paired (icUse k a) := by
  unfold icUse
  split <;> exact h

protected theorem Core.Paired.icFill {k : Core} {line data} (h : Core.Paired k) : Core.Paired (icFill k line data) := Core.Paired.icUse h

protected theorem Core.Paired.putLoad {k : Core} {d v} (h : Core.Paired k) : Core.Paired (putLoad k d v) := by
  cases d with
  | g => exact h.gSet
  | d => exact h

protected theorem Core.Paired.drainEnds {k : Core} (h : Core.Paired k) : Core.Paired (drainEnds k) := by
  unfold drainEnds
  split
  · split <;> exact h
  · exact h

protected theorem Core.Paired.immOp {k : Core} {f w} (h : Core.Paired k) : Core.Paired (immOp f k w) := h.gSet

protected theorem Core.Paired.foldl {α : Type} {f : Core → α → Core} {l : List α} {k : Core} (h : Core.Paired k)
    (hf : ∀ {k : Core} {a : α}, Core.Paired k → Core.Paired (f k a)) : Core.Paired (l.foldl f k) := by
  induction l generalizing k with
  | nil => exact h
  | cons a l ih => exact ih (hf h)

theorem Tidy.core (h : Tidy s) (c : Nat) : Core.Paired (coreOf s c) := by
  unfold coreOf Map.get
  cases hc : Map.find? s.cores c with
  | none => rfl
  | some k => exact h.paired _ (Map.mem_of_find? hc)

protected theorem Tidy.setCore {c k} (h : Tidy s) (hk : Core.Paired k) : Tidy (setCore s c k) :=
  h.withCores (Map.forall_put h.paired hk)

protected theorem Tidy.updCore {c} {f : Core → Core} (h : Tidy s) (hf : ∀ k, Core.Paired k → Core.Paired (f k) := by exact fun _ h => h) :
    Tidy (updCore s c f) :=
  h.setCore (hf _ (h.core c))

protected theorem Tidy.updCores {cs} {f : Nat → Core → Core} (h : Tidy s)
    (hf : ∀ c k, Core.Paired k → Core.Paired (f c k) := by exact fun _ _ h => h) : Tidy (updCores s cs f) :=
  h.foldl fun h => h.updCore (hf _)

/-! ### Slots -/

theorem Tidy.cmd (h : Tidy s) {k m} (hm : cmdOf s k = some m) : Map.sorted m.staged := h.staged _ (Map.mem_of_find? hm)

protected theorem Tidy.setCmd {k c} (h : Tidy s) (hc : Map.sorted c.staged) : Tidy (setCmd s k c) :=
  h.withSlots (Map.sorted_put k c h.slots) (Map.forall_put (P := fun c : Cmd => Map.sorted c.staged) h.staged hc)

protected theorem Tidy.updCmd {k} {f : Cmd → Cmd} (h : Tidy s)
    (hf : ∀ c, Map.sorted c.staged → Map.sorted (f c).staged := by exact fun _ h => h) : Tidy (updCmd s k f) := by
  unfold updCmd
  split
  · exact h
  · next hc => exact h.setCmd (hf _ (h.cmd hc))

protected theorem Tidy.updCmds {ks} {f : Nat → Cmd → Cmd} (h : Tidy s)
    (hf : ∀ k c, Map.sorted c.staged → Map.sorted (f k c).staged := by exact fun _ _ h => h) : Tidy (updCmds s ks f) :=
  h.foldl fun h => h.updCmd (hf _)

protected theorem Tidy.freeSlot {k} (h : Tidy s) : Tidy (freeSlot s k) :=
  h.withSlots (Map.sorted_erase k h.slots) fun e he => h.staged e (Map.mem_erase he).1

protected theorem Tidy.mapSlots {f : Nat × Cmd → Nat × Cmd} (h : Tidy s) (hk : ∀ e, (f e).1 = e.1) (hs : ∀ e, (f e).2.staged = e.2.staged) :
    Tidy { s with disp := { s.disp with slots := s.disp.slots.map f } } := by
  refine h.withSlots (m := s.disp.slots.map f) ?_ ?_
  · rw [Map.sorted, List.pairwise_map]
    exact h.slots.imp fun hab => by rwa [hk, hk]
  · intro e he
    obtain ⟨e', he', rfl⟩ := List.mem_map.mp he
    rw [hs]
    exact h.staged e' he'

/-! ### Plane memory -/

protected theorem Tidy.planeWrite {a bs} (h : Tidy s) : Tidy (planeWrite s a bs) := h.withPlane (wf_planeWrite s a bs h.plane)

end Sys2Proof
end

section
/-!
The invariant is kept: the state, its registers, error records, kills and faults.
-/
namespace Sys2Proof
open Machine
set_option Elab.async false

variable {s t : State}

/-! ### Registers -/

protected theorem Tidy.regSet {off v} (h : Tidy s) : Tidy (regSet s off v) := h.frame
protected theorem Tidy.cfgSet {off lo len v} (h : Tidy s) : Tidy (cfgSet s off lo len v) := h.regSet
protected theorem Tidy.liveSet {off v} (h : Tidy s) : Tidy (liveSet s off v) := h.frame
protected theorem Tidy.liveAdd {off n} (h : Tidy s) : Tidy (liveAdd s off n) := h.liveSet
protected theorem Tidy.liveSat {off lo len n} (h : Tidy s) : Tidy (liveSat s off lo len n) := h.liveSet

/-! ### Operations on the state -/

protected theorem Tidy.tick (h : Tidy s) : Tidy s.tick := h.frame
protected theorem Tidy.send {m} (h : Tidy s) : Tidy (send s m) := h.frame
protected theorem Tidy.updQueue {q f} (h : Tidy s) : Tidy (updQueue s q f) := h.frame
protected theorem Tidy.updLink {l f} (h : Tidy s) : Tidy (updLink s l f) := h.frame
protected theorem Tidy.updQp {n f} (h : Tidy s) : Tidy (updQp s n f) := h.frame
protected theorem Tidy.poison {a} (h : Tidy s) : Tidy (poison s a) := .ite h h.frame
protected theorem Tidy.unpoison {a} (h : Tidy s) : Tidy (unpoison s a) := h.frame
protected theorem Tidy.planeWriteMsg {a bs} (h : Tidy s) : Tidy (planeWriteMsg s a bs) := h.planeWrite.frame
protected theorem Tidy.markUrgent {slice slot entry} (h : Tidy s) : Tidy (markUrgent slice slot entry s) := h.frame

protected theorem Tidy.fireWatch {v w} (h : Tidy s) : Tidy (fireWatch v s w) := by
  unfold fireWatch
  dsimp only
  split
  · exact h.markUrgent
  · exact h
  · exact h.frame

protected theorem Tidy.ctrAdd {n inc} (h : Tidy s) : Tidy (ctrAdd s n inc) := h.frame.foldl .fireWatch
protected theorem Tidy.watchAdd {n t who} (h : Tidy s) : Tidy (watchAdd s n t who) := h.frame
protected theorem Tidy.watchDrop {p} (h : Tidy s) : Tidy (watchDrop s p) := h.frame
protected theorem Tidy.signalOut {n inc slot core die} (h : Tidy s) : Tidy (signalOut s n inc slot core die) := h.frame

protected theorem Tidy.countPort {core n out} (h : Tidy s) : Tidy (countPort s core n out) := by
  unfold countPort
  dsimp only
  split
  · exact h.liveAdd.liveAdd
  · exact h.liveAdd

/-! ### Error records -/

protected theorem Tidy.setAlert (h : Tidy s) : Tidy (setAlert s) := h.frame

protected theorem Tidy.noteIndex {slot i} (h : Tidy s) : Tidy (noteIndex s slot i) := by
  unfold noteIndex
  split
  · exact h
  · exact h.updCmd

protected theorem Tidy.logAppend {rs} (h : Tidy s) : Tidy (logAppend s rs) := by
  unfold logAppend
  dsimp only
  split
  · exact h.liveSat.setAlert
  · split
    · exact (Tidy.ite ((Tidy.ite h.frame h.frame.liveSat.setAlert).setAlert) (.ite h.frame h.frame.liveSat.setAlert)).noteIndex
    · exact .ite ((Tidy.ite h.frame h.frame.liveSat.setAlert).setAlert) (.ite h.frame h.frame.liveSat.setAlert)

protected theorem Tidy.logRec {r} (h : Tidy s) : Tidy (logRec s r) := h.logAppend

protected theorem Tidy.markClamped {o} (h : Tidy s) : Tidy (markClamped o s) := by
  unfold markClamped
  split
  · exact h
  · exact h.updCmd

protected theorem Tidy.countClamp {o d req app} (h : Tidy s) : Tidy (countClamp o d req app s) := .ite h.frame h
protected theorem Tidy.reportClamp {o reason off lo len req app} (h : Tidy s) : Tidy (reportClamp s o reason off lo len req app) :=
  h.logAppend.markClamped.countClamp
protected theorem Tidy.reportRefused {off req kept} (h : Tidy s) : Tidy (reportRefused s off req kept) := h.reportClamp
protected theorem Tidy.thermalRec {reason obj} (h : Tidy s) : Tidy (thermalRec s reason obj) := h.logRec
protected theorem Tidy.linkRec {code reason l obj} (h : Tidy s) : Tidy (linkRec s code reason l obj) := h.logRec
protected theorem Tidy.ethRec {code reason e slot obj} (h : Tidy s) : Tidy (ethRec s code reason e slot obj) := h.logRec
protected theorem Tidy.dispRec {slot reason obj low} (h : Tidy s) : Tidy (dispRec s slot reason obj low) := h.logRec

/-! ### Failures and kills -/

protected theorem Tidy.breakUnit {c eng} (h : Tidy s) : Tidy (breakUnit c eng s) := h.updCore (fun _ h => by split <;> exact h)
protected theorem Tidy.payQueue {q n} (h : Tidy s) : Tidy (payQueue s q n) := h.updQueue

protected theorem Tidy.endOne {st k} (h : Tidy s) : Tidy (endOne st s k) := by
  unfold endOne
  dsimp only
  split
  · exact h
  · refine .ite h (.ite (Tidy.ctrAdd ?_) ?_)
    all_goals exact Tidy.watchDrop (Tidy.frame (h.payQueue.setCmd .nil))

protected theorem Tidy.endSet {st k} (h : Tidy s) : Tidy (endSet st s k) := by
  unfold endSet
  dsimp only
  split
  · exact h
  · exact .ite (((h.updCmds (fun _ _ h => by split <;> exact h)).foldl .endOne).updQueue)
      ((h.updCmds (fun _ _ h => by split <;> exact h)).foldl .endOne)

protected theorem Tidy.startKill {why k} (h : Tidy s) : Tidy (startKill why s k) := h.updCmds.updCores.frame.frame

protected theorem Tidy.failCmd {k} (h : Tidy s) : Tidy (failCmd s k) := by
  unfold failCmd
  split
  · exact h
  · exact .ite h (.ite h.updCmds h.endSet)

protected theorem Tidy.failWith {k r} (h : Tidy s) : Tidy (failWith s k r) := h.logRec.failCmd
protected theorem Tidy.failDisp {k reason obj low} (h : Tidy s) : Tidy (failDisp s k reason obj low) := h.dispRec.failCmd

protected theorem Tidy.errorKill {k cls unit} (h : Tidy s) : Tidy (errorKill s k cls unit) := by
  unfold errorKill
  split
  · exact h
  · exact .ite h (.ite h.failCmd h.updCmds.startKill)

protected theorem Tidy.failPoison {k line eng at'} (h : Tidy s) : Tidy (failPoison s k line eng at') := h.failWith
protected theorem Tidy.failFenced {k cls unit} (h : Tidy s) : Tidy (failFenced s k cls unit) := h.failWith

/-! ### Faults of units -/

protected theorem Tidy.finish {k} (h : Tidy s) : Tidy (finish s k) := by
  unfold finish
  split
  · exact h
  · next c hc =>
    have hf := h.setCmd (k := k) (c := { c with fin := true }) (show Map.sorted c.staged from h.cmd hc)
    refine .ite h (.ite ?_ hf)
    split
    · exact hf.failFenced
    · split
      · exact hf.failPoison
      · exact hf.updCmds

protected theorem Tidy.faultCmd {idx k} (h : Tidy s) : Tidy (faultCmd idx s k) := by
  unfold faultCmd
  split
  · exact h
  · exact .ite h h.failWith

protected theorem Tidy.chipFault {cls unit idx} (h : Tidy s) : Tidy (chipFault s cls unit idx) := .ite h (h.frame.logRec.foldl .faultCmd)
protected theorem Tidy.dropChannel {ch} (h : Tidy s) : Tidy (dropChannel s ch) := h.frame
protected theorem Tidy.fenceBit {cls unit} (h : Tidy s) : Tidy (fenceBit s cls unit) := .ite h.frame (.ite h.frame.dropChannel (.ite h.updLink h))
protected theorem Tidy.selfFail {cls unit k} (h : Tidy s) : Tidy (selfFail cls unit s k) := h.failFenced
protected theorem Tidy.unitLost {cls unit} (h : Tidy s) : Tidy (unitLost s cls unit) := h.updCmds (fun _ _ h => by split <;> exact h)
protected theorem Tidy.fenceUnit {cls unit reason obj} (h : Tidy s) : Tidy (fenceUnit s cls unit reason obj) :=
  (h.fenceBit.logRec.foldl .selfFail).unitLost
protected theorem Tidy.startTest {cls unit idx err slots back} (h : Tidy s) : Tidy (startTest s cls unit idx err slots back) :=
  .ite h.frame (.ite h.fenceUnit (.ite h.frame.updLink h.frame))

protected theorem Tidy.requestTest {cls unit slots back} (h : Tidy s) : Tidy (requestTest s cls unit slots back) := by
  unfold requestTest
  dsimp only
  split
  · split
    · exact h.startTest
    · split
      · exact h.startTest
      · exact .ite h.startTest h.startTest.updCmds.startKill
  · exact h.startTest

protected theorem Tidy.countUnit {cls unit line} (h : Tidy s) : Tidy (countUnit s cls unit line) := by
  unfold countUnit
  dsimp only
  split
  · split
    · split
      · exact h.frame.requestTest
      · exact h.frame
    · exact h.frame.requestTest
  · exact h.frame

protected theorem Tidy.logMaybe {r} (h : Tidy s) : Tidy (logMaybe s r) := .ite h.tick.logRec h.tick
protected theorem Tidy.corrected {cls unit reason obj det slot line} (h : Tidy s) : Tidy (corrected s cls unit reason obj det slot line) :=
  h.liveSat.logMaybe.countUnit

protected theorem Tidy.afterTests {k} (h : Tidy s) : Tidy (afterTests s k) := by
  unfold afterTests
  split
  · exact h
  · split
    · exact h
    · split
      · exact h.failFenced
      · exact .ite (.ite h.endSet h.updCmds) h

protected theorem Tidy.zeroChannel {ch} (h : Tidy s) : Tidy (zeroChannel s ch) := h.withPlane (Map.canonical_filter _ h.plane)
protected theorem Tidy.unfence {cls unit} (h : Tidy s) : Tidy (unfence s cls unit) := .ite h.frame (.ite h.frame.zeroChannel h)
protected theorem Tidy.linkBack {t} (h : Tidy s) : Tidy (linkBack s t) := h.updLink

protected theorem Tidy.endTest {t pass} (h : Tidy s) : Tidy (endTest s t pass) := by
  unfold endTest
  dsimp only
  refine .ite (Tidy.foldl (Tidy.updCmds (Tidy.foldl ?_ fun h => h.finish)) fun h => h.afterTests)
    (.ite (Tidy.chipFault ?_) (Tidy.foldl (Tidy.foldl (Tidy.fenceUnit ?_) fun h => h.selfFail) fun h => h.afterTests))
  · refine .ite (Tidy.unfence (.ite (Tidy.linkBack (Tidy.frame ?_)) (Tidy.frame ?_))) (.ite (Tidy.linkBack (Tidy.frame ?_)) (Tidy.frame ?_))
    all_goals exact .ite (Tidy.updCore (Tidy.tick (Tidy.frame h)) fun _ _ => Core.paired_of_none rfl) (Tidy.frame h)
  all_goals exact .ite (Tidy.updCore (Tidy.tick (Tidy.frame h)) fun _ _ => Core.paired_of_none rfl) (Tidy.frame h)

protected theorem Tidy.hbmUncorrectable {l eng slot} (h : Tidy s) : Tidy (hbmUncorrectable s l eng slot) :=
  (Tidy.ite h.logRec h.logRec.poison).startTest

protected theorem Tidy.sheafUncorrectable {l det slot} (h : Tidy s) : Tidy (sheafUncorrectable s l det slot) := by
  unfold sheafUncorrectable
  dsimp only
  split
  · exact .ite h.logRec.poison.startTest h.frame.corrected.startTest
  · exact h.logRec.poison.startTest

protected theorem Tidy.workError {r cls unit test reason obj} (h : Tidy s) : Tidy (workError s r cls unit test reason obj) :=
  h.logRec.errorKill.breakUnit.startTest

protected theorem Tidy.coreFlaw {r bad reason obj} (h : Tidy s) : Tidy (coreFlaw s r bad reason obj).1 := by
  unfold coreFlaw
  split
  · exact h.workError
  · exact h.corrected (line := none)

protected theorem Tidy.bridgeFlaw {slot det b l bad} (h : Tidy s) : Tidy (bridgeFlaw s slot det b l bad) := .ite h.logRec.chipFault h.corrected
protected theorem Tidy.areaFlaw {slot det l bad} (h : Tidy s) : Tidy (areaFlaw s slot det l bad) := .ite h.logRec.chipFault h.corrected
protected theorem Tidy.sheafFlaw {slot det l bad} (h : Tidy s) : Tidy (sheafFlaw s slot det l bad) :=
  .ite h.areaFlaw (.ite h.sheafUncorrectable h.corrected)

protected theorem Tidy.meetUpset {r u} (h : Tidy s) : Tidy (meetUpset s r u).1 := by
  unfold meetUpset
  split
  · exact h.coreFlaw
  · exact h.coreFlaw
  · exact h.coreFlaw
  · exact h.coreFlaw
  · exact h.coreFlaw
  · exact h.updCore.corrected (line := none)
  · exact h.sheafFlaw
  · split
    · exact h.workError
    · exact h.corrected (line := some _)
  · exact h.bridgeFlaw
  · exact h

protected theorem Tidy.readCells {r p} (h : Tidy s) : Tidy (readCells s r p).1 := by
  refine Tidy.foldl_fst h fun {x a} h => ?_
  split
  · exact h.frame.meetUpset
  · exact h

protected theorem Tidy.stagedFlaw {k l bad} (h : Tidy s) : Tidy (stagedFlaw s k l bad) := .ite h.logRec.errorKill.startTest h.corrected

protected theorem Tidy.systemAccess {slot die reads ls} (h : Tidy s) : Tidy (systemAccess s slot die reads ls) := h.foldl (fun h => by
      split
      · exact h.frame.sheafFlaw
      · exact h.frame.stagedFlaw
      · exact h.frame.bridgeFlaw
      · exact h.frame)

protected theorem Tidy.systemRead {slot die ls} (h : Tidy s) : Tidy (systemRead s slot die ls) := h.systemAccess

protected theorem Tidy.areaRead {slot det b off} (h : Tidy s) : Tidy (areaRead s slot det b off).1 :=
  Tidy.foldl_fst h fun h => h.frame.areaFlaw

protected theorem Tidy.ctrRead {slot det n} (h : Tidy s) : Tidy (ctrRead s slot det n).1 := by
  unfold ctrRead
  split
  · exact h
  · exact h.areaRead

protected theorem Tidy.execScrub {x flaw} (h : Tidy s) : Kept (execScrub x flaw s) := by
  unfold execScrub
  dsimp only
  split
  · exact (Tidy.ite h h.areaFlaw).next
  · split
    · exact h.next
    · split
      · exact (Tidy.ite h.liveAdd h).next
      · exact .ite (((Tidy.ite h.liveAdd h).corrected).next) (((Tidy.ite h.liveAdd h).corrected).next)
      · exact .ite ((Tidy.ite h.liveAdd h).next) (.ite (((Tidy.ite h.liveAdd h).hbmUncorrectable).next)
          (((Tidy.ite h.liveAdd h).sheafUncorrectable).next))

protected theorem Tidy.errlogTailWrite {v} (h : Tidy s) : Tidy (errlogTailWrite s v) := .ite h.frame h.frame.reportClamp
protected theorem Tidy.execErrlogTailWrite {v} (h : Tidy s) : Kept (execErrlogTailWrite v s) := ((Tidy.ite h h.reportClamp).errlogTailWrite).next
protected theorem Tidy.alertClear (h : Tidy s) : Tidy (alertClear s) := h.frame
protected theorem Tidy.execAlertClear (h : Tidy s) : Kept (execAlertClear s) := h.alertClear.next

end Sys2Proof
end

section
/-!
The invariant is kept: staging, the Sheaf, the KV tables, the settings.
-/
namespace Sys2Proof
open Machine
set_option Elab.async false

variable {s t : State}

/-! ### Staging -/

protected theorem Tidy.failStage {k b obj eng core} (h : Tidy s) : Tidy (failStage s k b obj eng core) := by
  unfold failStage
  dsimp only
  split
  · exact h.failWith
  · exact h.failWith.breakUnit

protected theorem Tidy.stagePut {k a bs thru} (h : Tidy s) : Tidy (stagePut s k a bs thru) := by
  refine h.updCmds fun m c hc => ?_
  split
  · exact Map.sorted_putRun bs a hc
  · exact List.Pairwise.filter _ hc

protected theorem Tidy.stageBytes {k a bs eng core thru} (h : Tidy s) : Tidy (stageBytes s k a bs eng core thru) := by
  unfold stageBytes
  dsimp only
  split
  · exact h.stagePut
  · exact h.failStage

protected theorem Tidy.stageAll {k ps eng core thru} (h : Tidy s) : Tidy (stageAll s k ps eng core thru) := by
  unfold stageAll
  dsimp only
  split
  · exact h.foldl .stagePut
  · exact h.failStage

protected theorem Tidy.counterLimit (hs : Tidy s) (ht : Tidy t) {k n core eng} : Tidy (counterLimit s t k n core eng) := by
  unfold counterLimit
  split
  · split
    · exact hs.failWith
    · exact hs.failWith.breakUnit
  · exact ht

protected theorem Tidy.stageEgress {k e eng core} (h : Tidy s) : Tidy (stageEgress s k e eng core) := by
  unfold stageEgress
  dsimp only
  split
  · exact .ite h.updCmd (h.counterLimit h.updCmd)
  · exact h.failStage

protected theorem Tidy.portSignal {n core} (h : Tidy s) : Tidy (portSignal s n core) := by
  unfold portSignal
  split
  · exact .ite h h.countPort
  · exact h

protected theorem Tidy.signalOf {k n inc core eng die} (h : Tidy s) : Tidy (signalOf s k n inc core eng die) :=
  .ite h (.ite h.portSignal.signalOut (h.portSignal.counterLimit h.portSignal.updCmd))

/-! ### The Sheaf -/

protected theorem Tidy.cacheTouch {slice set way} (h : Tidy s) : Tidy (cacheTouch s slice set way) := h.frame

protected theorem Tidy.countHbm {slot core quad ch n} (h : Tidy s) : Tidy (countHbm s slot core quad ch n) := by
  unfold countHbm
  dsimp only
  split
  · refine Tidy.liveAdd ?_
    split
    · exact h.liveAdd
    · exact h
  · refine Tidy.liveAdd ?_
    split
    · exact h.liveAdd
    · exact h

protected theorem Tidy.countQueue {k cnt n} (h : Tidy s) : Tidy (countQueue s k cnt n) := by
  unfold countQueue
  split
  · exact h.liveAdd
  · exact h

protected theorem Tidy.readBack {v} (h : Tidy s) : Tidy (readBack s v) := .ite h.systemRead h
protected theorem Tidy.evict {slot core quad v} (h : Tidy s) : Tidy (evict s slot core quad v) := .ite h.readBack.frame.countHbm h.readBack.frame

protected theorem Tidy.allocate {slot core quad line ways dirty} (h : Tidy s) : Tidy (allocate s slot core quad line ways dirty) := by
  unfold allocate
  dsimp only
  split
  · exact h.frame.cacheTouch
  · split
    · exact .ite h.countHbm h
    · refine Tidy.cacheTouch ?_
      refine Tidy.frame ?_
      split
      · exact h.evict
      · exact h

protected theorem Tidy.sheafAccess {slot asker lines nonalloc ahead} (h : Tidy s) : Tidy (sheafAccess s slot asker lines nonalloc ahead) :=
  h.foldl (fun h => by
      split
      · exact h
      · split
        · exact h.cacheTouch
        · exact .ite h h.frame)

protected theorem Tidy.askerPoison {l f} (h : Tidy s) : Tidy (askerPoison l s f) := by
  unfold askerPoison
  split
  · exact h
  · split
    · exact .ite h.failPoison.breakUnit h
    · exact h.failPoison.breakUnit
    · exact h.failPoison
    · exact h

protected theorem Tidy.fillLine {l f reqs flaw} (h : Tidy s) : Tidy (fillLine s l f reqs flaw) := by
  unfold fillLine
  dsimp only
  refine .ite (Tidy.foldl (Tidy.allocate ?_) fun h => h.askerPoison) (Tidy.allocate ?_)
  all_goals
    split
    · exact h.countHbm.frame
    · exact Tidy.corrected h.countHbm.frame
    · exact .ite h.countHbm.frame (Tidy.hbmUncorrectable h.countHbm.frame)

/-! ### KV tables -/

protected theorem Tidy.setFrame {n e} (h : Tidy s) : Tidy (setFrame s n e) := h.planeWrite
protected theorem Tidy.updFrame {n lo len v} (h : Tidy s) : Tidy (updFrame s n lo len v) := h.setFrame
protected theorem Tidy.returnFrame {n} (h : Tidy s) : Tidy (returnFrame s n) := h.setFrame.planeWrite.liveAdd
protected theorem Tidy.freeFrame {n} (h : Tidy s) : Tidy (freeFrame s n) := (Tidy.ite h.returnFrame h).returnFrame
protected theorem Tidy.pinFrame {n} (h : Tidy s) : Tidy (pinFrame s n) := h.updFrame
protected theorem Tidy.unpinFrame {n} (h : Tidy s) : Tidy (unpinFrame s n) := .ite h.updFrame.freeFrame h.updFrame
protected theorem Tidy.evictWalk {w} (h : Tidy s) : Tidy (evictWalk s w) := h.frame.updCores.unpinFrame

protected theorem Tidy.walkAdd {cluster t} (h : Tidy s) : Tidy (walkAdd s cluster t) := by
  unfold walkAdd
  dsimp only
  refine Tidy.frame ?_
  split
  · exact .ite h.evictWalk h
  · exact h

protected theorem Tidy.dropWalks {k} (h : Tidy s) : Tidy (dropWalks s k) := h.foldl .evictWalk

/-! ### Settings -/

protected theorem Tidy.putField {o off f req} (h : Tidy s) : Tidy (putField o off f req s) := .ite h.cfgSet h.cfgSet.reportClamp
protected theorem Tidy.reportReserved {o off fs v} (h : Tidy s) : Tidy (reportReserved o off fs v s) := h.foldl (fun h => .ite h h.reportClamp)
protected theorem Tidy.reportDerived {o off fs v} (h : Tidy s) : Tidy (reportDerived o off fs v s) := h.foldl (fun h => .ite h h.reportClamp)
protected theorem Tidy.fixField {o reason off lo len app} (h : Tidy s) : Tidy (fixField o reason off lo len app s) := .ite h h.cfgSet.reportClamp
protected theorem Tidy.fixWays {o q} (h : Tidy s) : Tidy (fixWays o q s) := h.fixField
protected theorem Tidy.fixAdmit {o q} (h : Tidy s) : Tidy (fixAdmit o q s) := .ite h.fixField h
protected theorem Tidy.fixRing {o q} (h : Tidy s) : Tidy (fixRing o q s) := .ite h.fixField h
protected theorem Tidy.fixTorus {o} (h : Tidy s) : Tidy (fixTorus o s) := h.fixField
protected theorem Tidy.fixCap {o} (h : Tidy s) : Tidy (fixCap o s) := .ite h.fixField (.ite h.fixField h)

protected theorem Tidy.fixAcross {o off} (h : Tidy s) : Tidy (fixAcross o off s) := by
  unfold fixAcross
  split
  · exact h.fixTorus
  · split
    · exact h.fixCap
    · split
      · exact .ite h.fixAdmit.fixRing (.ite h.fixRing (.ite h.fixAdmit h))
      · split
        · exact h.fixWays
        · exact h

protected theorem Tidy.putWord {o off v} (h : Tidy s) : Tidy (putWord o off v s) := by
  unfold putWord
  dsimp only
  split
  · exact h
  · exact (Tidy.ite ((h.foldl .putField).reportReserved) (((h.foldl .putField).reportReserved).reportDerived)).fixAcross

protected theorem Tidy.defaultSettings (h : Tidy s) : Tidy (defaultSettings s) := h.frame
protected theorem Tidy.defaultWays (h : Tidy s) : Tidy (defaultWays s) := h.foldl .cfgSet
protected theorem Tidy.deriveWays (h : Tidy s) : Tidy (deriveWays s) := h.cfgSet

protected theorem Tidy.fixGroup {o fuel i} (h : Tidy s) : Tidy (fixGroup o fuel s i) := by
  induction fuel generalizing s with
  | zero => exact h
  | succ fuel ih => exact .ite h (ih h.fixField.fixField)

protected theorem Tidy.fixPriv {o i} (h : Tidy s) : Tidy (fixPriv o s i) := .ite h.fixField h
protected theorem Tidy.applyEntry {o e} (h : Tidy s) : Tidy (applyEntry o s e) := .ite (.ite h.putWord h.putWord.reportClamp) h.reportClamp
protected theorem Tidy.applyImage {o es} (h : Tidy s) : Tidy (applyImage o es s) :=
  (((((h.defaultSettings.foldl .applyEntry).deriveWays).defaultWays).foldl .applyEntry).foldl .fixGroup).foldl .fixPriv
protected theorem Tidy.begun {k} (h : Tidy s) : Tidy (begun s k) := h.updCmd
protected theorem Tidy.store {k es ok} (h : Tidy s) : Tidy (store s k es ok) :=
  .ite h.frame.frame.applyImage.frame.begun.finish h.frame.frame.applyImage.frame.begun.frame.failWith

protected theorem Tidy.execStore {k ok} (h : Tidy s) : Kept (execStore k ok s) := by
  unfold execStore
  split
  · exact h.next
  · split
    · exact h.next
    · split
      · exact h.store.next
      · split
        · exact h.next
        · split
          · exact h.failDisp.next
          · exact h.store.next

protected theorem Tidy.storeCommit {k} (h : Tidy s) : Tidy (storeCommit s k) := .ite (.ite h.tick.frame.regSet h.tick.frame.logRec) h

protected theorem Tidy.execReport {k} (h : Tidy s) : Kept (execReport k s) := by
  unfold execReport
  dsimp only
  split
  · exact h.next
  · exact .ite h.next h.begun.stageBytes.finish.next

end Sys2Proof
end

section
/-!
The invariant is kept: the dispatcher, mode changes, links and halts.
-/
namespace Sys2Proof
open Machine
set_option Elab.async false

variable {s t : State}

/-! ### The dispatcher -/

protected theorem Tidy.qtailWrite {q v} (h : Tidy s) : Tidy (qtailWrite s q v) := .ite h.reportReserved.dispRec h.reportReserved.updQueue
protected theorem Tidy.execQtailWrite {q v} (h : Tidy s) : Kept (execQtailWrite q v s) := h.qtailWrite.next

protected theorem Tidy.abortCmd {k} (h : Tidy s) : Tidy (abortCmd s k) := by
  unfold abortCmd
  split
  · exact h
  · exact .ite h.endSet h.updCmds

protected theorem Tidy.abortMatching {q seq} (h : Tidy s) : Tidy (abortMatching s q seq) := by
  unfold abortMatching
  dsimp only
  split
  · exact h.updQueue.logRec
  · exact h.updQueue.foldl .abortCmd

protected theorem Tidy.execAbortOne {q seq} (h : Tidy s) : Kept (execAbortOne q seq s) := h.abortMatching.next
protected theorem Tidy.execAbortAll {q} (h : Tidy s) : Kept (execAbortAll q s) := h.abortMatching.next
protected theorem Tidy.epochRec {k reason cls unit obj} (h : Tidy s) : Tidy (epochRec s k reason cls unit obj) := h.logRec

protected theorem Tidy.failEpoch {k reason} (h : Tidy s) : Tidy (failEpoch s k reason) := by
  unfold failEpoch
  split
  · exact h
  · exact h.epochRec.failCmd

protected theorem Tidy.groupRec {k code reason gseq group chip low} (h : Tidy s) : Tidy (groupRec s k code reason gseq group chip low) := h.logRec

protected theorem Tidy.admitOutcome {k marked member dead} (h : Tidy s) : Tidy (admitOutcome s k marked member dead) := by
  unfold admitOutcome
  split
  · exact h
  · split
    · exact h.updCmd.endOne
    · split
      · exact h.endSet
      · split
        · exact h.failDisp
        · exact .ite h.failDisp (.ite h.failEpoch (.ite h.groupRec.failCmd h))

protected theorem Tidy.admitRecord {q k} (h : Tidy s) : Tidy (admitRecord s q k) := by
  unfold admitRecord
  dsimp only
  exact (Tidy.frame (h.tick.setCmd .nil)).updQueue.admitOutcome

protected theorem Tidy.execAdmit (h : Tidy s) : Kept (execAdmit s) := by
  unfold execAdmit
  split
  · exact h.next
  · split
    · exact h.admitRecord.next
    · exact h.next

protected theorem Tidy.startWatch {k c} (h : Tidy s) : Tidy (startWatch s k c) := .ite h h.watchAdd
protected theorem Tidy.becomeReady {k c a} (h : Tidy s) : Tidy (becomeReady s k c a) := h.watchDrop.updCmd

protected theorem Tidy.execCommandReady {k} (h : Tidy s) : Kept (execCommandReady k s) := by
  unfold execCommandReady
  split
  · exact h.next
  · split
    · exact h.next
    · split
      · exact h.next
      · split
        · exact h.startWatch.next
        · split
          · exact h.next
          · split
            · exact h.failDisp.next
            · split
              · exact h.next
              · exact h.failDisp.next
              · exact h.becomeReady.next

protected theorem Tidy.execEpochWaitTimeout {k} (h : Tidy s) : Kept (execEpochWaitTimeout k s) := by
  unfold execEpochWaitTimeout
  split
  · exact h.next
  · exact .ite h.failEpoch.next h.next

protected theorem Tidy.accrue {k n} (h : Tidy s) : Tidy (accrue s k n) := by
  unfold accrue
  split
  · exact h
  · exact h.updCmd.liveAdd

protected theorem Tidy.chargeCmd {k n} (h : Tidy s) : Tidy (chargeCmd s k n) := by
  unfold chargeCmd
  dsimp only
  split
  · exact h
  · exact h.accrue.updCmd.payQueue

protected theorem Tidy.chargeRest {k} (h : Tidy s) : Tidy (chargeRest s k) := by
  unfold chargeRest
  split
  · exact h
  · exact .ite h h.chargeCmd.tick

protected theorem Tidy.execDeficitCharge {k} (h : Tidy s) : Kept (execDeficitCharge k s) := by
  unfold execDeficitCharge
  split
  · exact h.next
  · exact .ite h.accrue.payQueue.next h.next

protected theorem Tidy.execRtcLapsed {k} (h : Tidy s) : Kept (execRtcLapsed k s) := by
  unfold execRtcLapsed
  split
  · exact h.next
  · exact .ite h.updCmd.next h.next

protected theorem Tidy.execNop {k} (h : Tidy s) : Kept (execNop k s) := by
  unfold execNop
  split
  · exact h.next
  · exact h.begun.finish.next

/-! ### Mode changes -/

protected theorem Tidy.modeCap {k b} (h : Tidy s) : Tidy (modeCap s k b).1 := by
  unfold modeCap
  extract_lets req m r
  simp only [apply_ite Prod.fst]
  exact .ite h (.ite h.reportClamp (.ite h.reportClamp h))

protected theorem Tidy.setChange {phase m} (h : Tidy s) : Tidy (setChange s phase m) := h.frame

protected theorem Tidy.execMode {k} (h : Tidy s) : Kept (execMode k s) := by
  unfold execMode
  dsimp only
  split
  · exact h.next
  · split
    · exact h.next
    · split
      · exact h.failDisp.next
      · split
        · exact h.failFenced.next
        · split
          · exact h.failPoison.next
          · exact h.failDisp.next
          · exact .ite h.failDisp.next h.begun.modeCap.setChange.next

protected theorem Tidy.cleanLine {k c} (h : Tidy s) : Tidy (cleanLine k s c) := .ite (.ite h.readBack.frame h.readBack.frame.countHbm) h

protected theorem Tidy.execPrepare (h : Tidy s) : Kept (execPrepare s) := by
  unfold execPrepare
  dsimp only
  split
  · exact h.next
  · exact .ite h.next (.ite ((h.setChange.foldl .cleanLine).next) h.setChange.next)

protected theorem Tidy.execUnitConfirm {cls unit} (h : Tidy s) : Kept (execUnitConfirm cls unit s) := by
  unfold execUnitConfirm
  dsimp only
  split
  · exact h.next
  · exact .ite h.setChange.next h.next

protected theorem Tidy.publishField {b f} (h : Tidy s) : Tidy (publishField b s f) := .ite h h.cfgSet
protected theorem Tidy.dropRecords {q} (h : Tidy s) : Tidy (dropRecords s q) := .ite h h.updQueue.dispRec
protected theorem Tidy.closeWatch {i} (h : Tidy s) : Tidy (closeWatch s i) := .ite h.cfgSet h

protected theorem Tidy.publishSplit {k} (h : Tidy s) : Tidy (publishSplit s k) := by
  unfold publishSplit
  have hc := Tidy.foldl (f := cleanLine k) (l := s.mem.cache.filter (·.dirty)) h fun h => h.cleanLine
  refine Tidy.foldl (Tidy.fab (Tidy.regSet ?_)) fun h => h.closeWatch
  refine Tidy.foldl (Tidy.deriveWays ?_) fun h => h.fixWays
  refine Tidy.foldl ?_ fun h => h.dropRecords.fixRing
  exact hc.withPlane (Map.canonical_filter _ hc.plane)

protected theorem Tidy.epochPassed {k} (h : Tidy s) : Tidy (epochPassed s k) := by
  unfold epochPassed
  split
  · exact h
  · exact .ite h.failEpoch h

protected theorem Tidy.execPublish (h : Tidy s) : Kept (execPublish s) := by
  unfold execPublish
  dsimp only
  split
  · exact h.next
  · exact .ite h.next (((((Tidy.ite (((h.foldl .publishField).fixCap).publishSplit) ((h.foldl .publishField).fixCap)).frame).foldl
      .epochPassed).finish).next)

protected theorem Tidy.cancelMode {ks} (h : Tidy s) : Tidy (cancelMode s ks) := by
  unfold cancelMode
  split
  · exact h
  · exact .ite h.setChange h

protected theorem Tidy.execModeTimeout (h : Tidy s) : Kept (execModeTimeout s) := by
  unfold execModeTimeout
  dsimp only
  split
  · exact h.next
  · split
    · exact h.next
    · exact .ite h.next h.epochRec.cancelMode.failCmd.next

/-! ### Links -/

protected theorem Tidy.putFlit {l f} (h : Tidy s) : Tidy (putFlit s l f) := h.updLink.send
protected theorem Tidy.sendCtrl {l bytes} (h : Tidy s) : Tidy (sendCtrl s l bytes) := h.putFlit.liveAdd
protected theorem Tidy.resendAll {l} (h : Tidy s) : Tidy (resendAll s l) := h.foldl .putFlit
protected theorem Tidy.sendFlit {l t} (h : Tidy s) : Tidy (sendFlit s l t) := h.updLink.putFlit.liveAdd

protected theorem Tidy.pumpTurns (h : Tidy s) {l n} : Tidy (pumpTurns l n s) := by
  induction n generalizing s with
  | zero => exact h
  | succ n ih =>
    unfold pumpTurns
    dsimp only
    split
    · exact h
    · split
      · exact ih h.sendFlit
      · exact ih h.updLink

protected theorem Tidy.pump {l} (h : Tidy s) : Tidy (pump s l) := h.pumpTurns
protected theorem Tidy.dropMsg {p m} (h : Tidy s) : Tidy (dropMsg s p m) := .ite h.tick.linkRec h.tick
protected theorem Tidy.queueOn {l m sub} (h : Tidy s) : Tidy (queueOn s l m sub) := h.frame.updLink.pump

protected theorem Tidy.outPort {p m sub} (h : Tidy s) : Tidy (outPort s p m sub) := by
  unfold outPort
  split
  · exact h.queueOn
  · exact h.dropMsg

protected theorem Tidy.routeMsg {m inp sub} (h : Tidy s) : Tidy (routeMsg s m inp sub) := by
  unfold routeMsg
  dsimp only
  split
  · exact h
  · split
    · exact h.outPort
    · split
      · exact h.frame
      · exact .ite h.outPort h.outPort

protected theorem Tidy.numberMsg {m} (h : Tidy s) : Tidy (numberMsg s m).1 := by
  unfold numberMsg
  dsimp only
  split
  · exact h.frame
  · exact h

protected theorem Tidy.launchMsg {m} (h : Tidy s) : Tidy (launchMsg s m) := h.numberMsg.routeMsg
protected theorem Tidy.vc3Add {dst} (h : Tidy s) : Tidy (vc3Add s dst) := h.frame
protected theorem Tidy.sendMsg {m} (h : Tidy s) : Tidy (sendMsg s m) :=
  .ite h.launchMsg (.ite h.frame (.ite h.vc3Add.launchMsg (.ite h.tick.launchMsg h.tick.frame)))

protected theorem Tidy.takeMsg {m} (h : Tidy s) : Tidy (takeMsg s m) := by
  unfold takeMsg
  dsimp only
  split
  · exact h
  · split
    · exact h.frame
    · exact .ite h.frame.updLink.sendCtrl h.frame.updLink

protected theorem Tidy.dropPort {p} (h : Tidy s) : Tidy (dropPort s p) := h.foldl (fun h => h.updLink.foldl .dropMsg)
protected theorem Tidy.tellDown {j l} (h : Tidy s) : Tidy (tellDown s j l) := h.updLink.sendCtrl

protected theorem Tidy.handover {l} (h : Tidy s) : Tidy (handover s l) := by
  unfold handover
  dsimp only
  split
  · exact h.updLink.tellDown
  · exact .ite h.updLink.dropPort h.updLink

protected theorem Tidy.linkDown {l reason obj} (h : Tidy s) : Tidy (linkDown s l reason obj) :=
  .ite h.updLink.frame.linkRec.handover.startTest h.updLink.frame.linkRec.handover
protected theorem Tidy.leaveFenced {l} (h : Tidy s) : Tidy (leaveFenced s l) := .ite h (.ite h.updLink.dropPort (.ite h.updLink h.updLink.handover))
protected theorem Tidy.downExchange {l f} (h : Tidy s) : Tidy (downExchange s l f) := (((Tidy.ite h.linkDown h).updLink).updLink).foldl .outPort

protected theorem Tidy.takeAcks {l f} (h : Tidy s) : Tidy (takeAcks s l f) := by
  unfold takeAcks
  exact h.updLink

protected theorem Tidy.replayed {l reason obj} (h : Tidy s) : Tidy (replayed s l reason obj) :=
  .ite h.liveSat.tick.updLink.linkRec h.liveSat.tick.updLink
protected theorem Tidy.takeNak {l f} (h : Tidy s) : Tidy (takeNak s l f) := .ite h.resendAll.replayed h
protected theorem Tidy.discard {l} (h : Tidy s) : Tidy (discard s l) := h.updLink
protected theorem Tidy.arrive {l key m} (h : Tidy s) : Tidy (arrive s l key m) := .ite h.updLink h.frame
protected theorem Tidy.acceptFlit {l f} (h : Tidy s) : Tidy (acceptFlit s l f) := .ite h.updLink.liveAdd.arrive h.updLink.liveAdd.updLink
protected theorem Tidy.execDataFlit {l f} (h : Tidy s) : Kept (execDataFlit l f s) :=
  .ite h.next (.ite h.liveSat.discard.sendCtrl.next (.ite h.discard.sendCtrl.next
  ((((Tidy.ite h.takeAcks.takeNak.acceptFlit h.takeAcks.takeNak.discard).pump).sendCtrl).next)))
protected theorem Tidy.ctrlIn {l f g} (h : Tidy s) (hg : ∀ {s}, Tidy s → Tidy (g s)) : Tidy (ctrlIn s l f g) :=
  .ite h.liveSat ((hg h.liveAdd.takeAcks.takeNak).pump)
protected theorem Tidy.execIdle {l f} (h : Tidy s) : Kept (execIdle l f s) := .ite (h.ctrlIn id).next h.next
protected theorem Tidy.execRetrainRequest {l f} (h : Tidy s) : Kept (execRetrainRequest l f s) :=
  .ite ((h.ctrlIn (fun h => h.updLink.sendCtrl)).next) h.next
protected theorem Tidy.retrainDone {l f} (h : Tidy s) : Tidy (retrainDone s l f) := .ite h ((((Tidy.ite h h.sendCtrl).updLink).resendAll).replayed)
protected theorem Tidy.execRetrainDone {l f} (h : Tidy s) : Kept (execRetrainDone l f s) := .ite ((h.ctrlIn (fun h => h.retrainDone)).next) h.next
protected theorem Tidy.execDownExchange {l f} (h : Tidy s) : Kept (execDownExchange l f s) := .ite ((h.ctrlIn (fun h => h.downExchange)).next) h.next
protected theorem Tidy.execReplayTimeout {l} (h : Tidy s) : Kept (execReplayTimeout l s) := .ite h.resendAll.replayed.next h.next
protected theorem Tidy.execRetrainStart {l} (h : Tidy s) : Kept (execRetrainStart l s) := .ite h.updLink.sendCtrl.next h.next
protected theorem Tidy.execRetrainAttemptTimeout {l} (h : Tidy s) : Kept (execRetrainAttemptTimeout l s) :=
  .ite h.next (.ite h.updLink.sendCtrl.next h.updLink.linkDown.next)
protected theorem Tidy.linkDisable {l} (h : Tidy s) : Tidy (linkDisable s l) := .ite h.regSet.linkDown h.regSet
protected theorem Tidy.linkEnable {l} (h : Tidy s) : Tidy (linkEnable s l) := .ite h.regSet.updLink h.regSet
protected theorem Tidy.execLinkDisable {l} (h : Tidy s) : Kept (execLinkDisable l s) := h.linkDisable.next
protected theorem Tidy.execLinkEnable {l} (h : Tidy s) : Kept (execLinkEnable l s) := h.linkEnable.next
protected theorem Tidy.tellOwed {l} (h : Tidy s) : Tidy (tellOwed s l) := h.foldl .tellDown

protected theorem Tidy.newLife {l} (h : Tidy s) : Tidy (newLife s l) := by
  unfold newLife
  exact Tidy.updLink h.frame

protected theorem Tidy.leaveWrong {l} (h : Tidy s) : Tidy (leaveWrong s l) := .ite h.dropPort (.ite h (h.updLink.foldl .outPort))
protected theorem Tidy.execLinkTrained {l peer port} (h : Tidy s) : Kept (execLinkTrained l peer port s) :=
  .ite h.next (.ite h.updLink.tellOwed.newLife.pump.next h.updLink.linkRec.leaveWrong.next)
protected theorem Tidy.execForward {p sub m} (h : Tidy s) : Kept (execForward p sub m s) := .ite h.next h.takeMsg.routeMsg.next

/-! ### Halts -/

protected theorem Tidy.haltRec {c cause j} (h : Tidy s) : Tidy (haltRec s c cause j) := h.logRec
protected theorem Tidy.haltCore {c cause j} (h : Tidy s) : Tidy (haltCore s c cause j) :=
  .ite h.updCore (.ite h (.ite h.watchDrop.updCore h.watchDrop.updCore.haltRec))
protected theorem Tidy.sendDebug {op} (h : Tidy s) : Tidy (sendDebug s op) := h.foldl (fun h => h.frame.sendMsg)
protected theorem Tidy.hitBreakpoint {c j scope} (h : Tidy s) : Tidy (hitBreakpoint s c j scope) :=
  .ite ((Tidy.ite (h.haltCore.foldl .haltCore) h.haltCore).sendDebug) (.ite (h.haltCore.foldl .haltCore) h.haltCore)
protected theorem Tidy.bpPass {c js} (h : Tidy s) : Tidy (bpPass s c js) := h.foldl .regSet
protected theorem Tidy.resumeCore {c step} (h : Tidy s) : Tidy (resumeCore s c step) := .ite h.updCore h
protected theorem Tidy.haltAll {cause} (h : Tidy s) : Tidy (haltAll s cause) := h.foldl .haltCore

end Sys2Proof
end

section
/-!
The invariant is kept: the control cores.
-/
namespace Sys2Proof
open Machine
set_option Elab.async false

variable {s t : State}

protected theorem Tidy.icAsk {c slot line ahead} (h : Tidy s) : Tidy (icAsk s c slot line ahead) := .ite h h.updCore.sheafAccess

protected theorem Tidy.ccExc {c slot cause obj} (h : Tidy s) : Tidy (ccExc s c slot cause obj) := by
  unfold ccExc
  split
  · exact h
  · exact .ite h h.failWith.breakUnit

protected theorem Tidy.icMiss {c slot a} (h : Tidy s) : Tidy (icMiss s c slot a) := by
  unfold icMiss
  dsimp only
  split
  · exact h.ccExc
  · split
    · exact h.failFenced.breakUnit
    · exact .ite h.icAsk.icAsk h.icAsk

protected theorem Tidy.execIcacheFill {c} (h : Tidy s) : Kept (execIcacheFill c s) := by
  unfold execIcacheFill
  dsimp only
  split
  · refine .ite h.next ?_
    split
    · exact h.failFenced.breakUnit.next
    · refine .ite h.readCells.next ?_
      split
      · exact h.readCells.failPoison.breakUnit.next
      · refine (h.readCells.countPort.updCore fun _ h => ?_).next
        exact Core.Paired.icFill h
  · exact h.next

protected theorem Tidy.readPort {c n} (h : Tidy s) : Tidy (readPort s c n) := .ite h h.countPort
protected theorem Tidy.afterIssue {c} (h : Tidy s) : Tidy (afterIssue s c) := .ite h.haltCore h
protected theorem Tidy.readRegs {c slot l} (h : Tidy s) : Tidy (readRegs s c slot l).1 := h.readCells

protected theorem Tidy.ccIssue {c slot w raw f} (h : Tidy s) (hf : ∀ {s a b c d}, Tidy s → Tidy (f s a b c d)) : Tidy (ccIssue s c slot w raw f) := by
  have hr : ∀ {b : Prop} {_ : Decidable b} {l}, Tidy (if b then readRegs s c slot l else (s, true)).1 := by
    intros
    split
    · exact h.readRegs
    · exact h
  unfold ccIssue
  exact .ite h.ccExc (.ite hr (.ite hr.updCore (.ite hr.updCore (.ite (hf hr.readRegs) hr.readRegs))))

protected theorem Tidy.ctl {c op f} (h : Tidy s) (hf : ∀ {s a b c d}, Tidy s → Tidy (f s a b c d)) : Tidy (ctl s c op f) := by
  unfold ctl
  dsimp only
  split
  · exact h
  · split
    · exact h
    · split
      · exact .ite h.icMiss h
      · split
        · exact h
        · split
          · exact h
          · split
            · exact (h.updCore (fun _ h => h.icUse)).readCells
            · split
              · exact (((h.updCore (fun _ h => h.icUse)).readCells).bpPass).hitBreakpoint
              · exact (((((h.updCore (fun _ h => h.icUse)).readCells).bpPass).updCore).ccIssue hf).afterIssue

protected theorem Tidy.regOp {g c slot w raw} (h : Tidy s) (hg : ∀ {k w}, Core.Paired k → Core.Paired (g k w)) : Tidy (regOp g s c slot w raw) :=
  h.updCore fun _ h => hg h

theorem Tidy.ctl_regOp {g c op} (h : Tidy s) (hg : ∀ {k w}, Core.Paired k → Core.Paired (g k w)) : Kept (.next (ctl s c op (regOp g))) :=
  (h.ctl fun h => h.regOp hg).next

protected theorem Tidy.execAlu {c} (h : Tidy s) : Kept (execAlu c s) := h.ctl_regOp fun hk => hk.gSet
protected theorem Tidy.execAddi {c} (h : Tidy s) : Kept (execAddi c s) := h.ctl_regOp fun hk => hk.gSet
protected theorem Tidy.execAndi {c} (h : Tidy s) : Kept (execAndi c s) := h.ctl_regOp fun hk => hk.gSet
protected theorem Tidy.execOri {c} (h : Tidy s) : Kept (execOri c s) := h.ctl_regOp fun hk => hk.gSet
protected theorem Tidy.execXori {c} (h : Tidy s) : Kept (execXori c s) := h.ctl_regOp fun hk => hk.gSet
protected theorem Tidy.execShi {c} (h : Tidy s) : Kept (execShi c s) := h.ctl_regOp fun hk => hk.gSet
protected theorem Tidy.execLi {c} (h : Tidy s) : Kept (execLi c s) := h.ctl_regOp fun hk => hk.gSet
protected theorem Tidy.execLih {c} (h : Tidy s) : Kept (execLih c s) := h.ctl_regOp fun hk => hk.gSet
protected theorem Tidy.execCmp {c} (h : Tidy s) : Kept (execCmp c s) := h.ctl_regOp fun hk => hk
protected theorem Tidy.execCmpi {c} (h : Tidy s) : Kept (execCmpi c s) := h.ctl_regOp fun hk => hk
protected theorem Tidy.execPlog {c} (h : Tidy s) : Kept (execPlog c s) := h.ctl_regOp fun hk => hk
protected theorem Tidy.execBr {c} (h : Tidy s) : Kept (execBr c s) := (h.ctl (fun h => h.updCore)).next

protected theorem Tidy.execCall {c} (h : Tidy s) : Kept (execCall c s) := by
  refine (h.ctl fun h => h.updCore fun k h => ?_).next
  exact Core.Paired.gSet (r := 31) (v := (k.pc + 4).setWidth 64) h

protected theorem Tidy.execJr {c} (h : Tidy s) : Kept (execJr c s) := by
  refine (h.ctl fun h => .ite h.ccExc (h.updCore fun _ h => ?_)).next
  exact Core.Paired.gSet h

protected theorem Tidy.ccGuard {c slot a size reads go} (h : Tidy s) (hgo : ∀ {s}, Tidy s → Tidy (go s)) : Tidy (ccGuard s c slot a size reads go) :=
    by
  unfold ccGuard
  dsimp only
  split
  · exact h.failFenced.breakUnit
  · refine .ite (hgo h) (.ite h.readCells (.ite (hgo h.readCells) ?_))
    split
    · exact h.readCells.failPoison.breakUnit
    · exact hgo h.readCells

protected theorem Tidy.planeLoad {c slot a size d} (h : Tidy s) : Tidy (planeLoad s c slot a size d) := h.ccGuard (fun h => h.sheafAccess.updCore)

protected theorem Tidy.ccLoad {c slot w d} (h : Tidy s) : Tidy (ccLoad s c slot w d) := by
  unfold ccLoad
  dsimp only
  split
  · exact h.ccExc
  · exact .ite (.ite h.readCells (h.readCells.updCore (fun _ h => h.putLoad))) h.planeLoad

protected theorem Tidy.execLd {c} (h : Tidy s) : Kept (execLd c s) := (h.ctl (fun h => h.ccLoad)).next

protected theorem Tidy.ccStore {c slot w bs} (h : Tidy s) : Tidy (ccStore s c slot w bs) := by
  unfold ccStore
  dsimp only
  split
  · exact h.ccExc
  · exact .ite h.updCore (.ite h.ccExc (h.ccGuard (fun h => h.updCore.countPort.stageBytes)))

protected theorem Tidy.execSt {c} (h : Tidy s) : Kept (execSt c s) := (h.ctl (fun h => h.ccStore)).next

protected theorem Tidy.execAmo {c} (h : Tidy s) : Kept (execAmo c s) := by
  refine (h.ctl fun h => ?_).next
  dsimp only
  split
  · exact h.ccExc
  · exact .ite h.ccExc (h.ccGuard fun h => h.sheafAccess.updCore.countPort.stageBytes)

protected theorem Tidy.execDld {c} (h : Tidy s) : Kept (execDld c s) := (h.ctl (fun h => h.ccLoad)).next
protected theorem Tidy.execDst {c} (h : Tidy s) : Kept (execDst c s) := (h.ctl (fun h => h.ccStore)).next
protected theorem Tidy.execDrd {c} (h : Tidy s) : Kept (execDrd c s) := h.ctl_regOp fun hk => hk.gSet
protected theorem Tidy.execDwr {c} (h : Tidy s) : Kept (execDwr c s) := h.ctl_regOp fun hk => hk

protected theorem Tidy.execLoadReturn {c} (h : Tidy s) : Kept (execLoadReturn c s) := by
  have hp : ∀ {s : State} {c rest d v}, Tidy s → Tidy (updCore s c fun k => putLoad { k with loads := rest } d v) :=
    fun h => h.updCore fun _ h => Core.Paired.putLoad h
  unfold execLoadReturn
  dsimp only
  split
  · refine .ite h.next ?_
    split
    · exact h.failFenced.breakUnit.next
    · split
      · exact .ite h.next (hp h.countPort).next
      · refine .ite h.next (.ite h.readCells.next ?_)
        split
        · exact h.readCells.failPoison.breakUnit.next
        · exact (hp h.readCells.countPort).next
  · exact h.next

protected theorem Tidy.execIssue {c} (h : Tidy s) : Kept (execIssue c s) := (h.ctl (fun h => h.updCore)).next

protected theorem Tidy.withCtr {c slot w f} (h : Tidy s) (hf : ∀ {s a}, Tidy s → Tidy (f s a)) : Tidy (withCtr s c slot w f) := by
  unfold withCtr
  dsimp only
  split
  · exact h.ccExc
  · have hr : ∀ {b : Prop} {_ : Decidable b} {n}, Tidy (if b then (s, true) else ctrRead s (some slot) (coreOf s c).pc.toNat n).1 := by
      intros
      split
      · exact h
      · exact h.ctrRead
    exact .ite (hf hr) hr.breakUnit

protected theorem Tidy.execWait {c} (h : Tidy s) : Kept (execWait c s) := by
  refine (h.ctl fun h => h.withCtr fun h => .ite (h.readPort.updCore fun _ h => ?_) h.readPort.updCore.watchAdd).next
  exact h.gSet

protected theorem Tidy.execSignal {c} (h : Tidy s) : Kept (execSignal c s) :=
  (h.ctl (fun h => h.withCtr (fun h => .ite h.updCore.signalOf h.updCore.updCore))).next

protected theorem Tidy.execRdctr {c} (h : Tidy s) : Kept (execRdctr c s) := by
  refine (h.ctl fun h => h.withCtr fun h => ?_).next
  exact h.readPort.updCore fun _ h => h.gSet

protected theorem Tidy.stopHead {c e} (h : Tidy s) : Tidy (stopHead c e s) := h.updCore.breakUnit

protected theorem Tidy.execDrain {c} (h : Tidy s) : Kept (execDrain c s) := by
  refine (h.ctl fun h => h.updCore fun _ h => ?_).next
  dsimp only
  split <;> exact h

protected theorem Tidy.execMfs {c} (h : Tidy s) : Kept (execMfs c s) := by
  refine (h.ctl fun h => ?_).next
  exact h.tick.updCore fun _ h => h.gSet

protected theorem Tidy.execEndProg {c} (h : Tidy s) : Kept (execEndProg c s) := (h.ctl (fun h => h.updCore)).next
protected theorem Tidy.fireSigs {c slot} (h : Tidy s) : Tidy (fireSigs c slot s) := h.updCore.foldl .signalOf

protected theorem Tidy.execAcceptance {c who} (h : Tidy s) : Kept (execAcceptance c who s) := by
  unfold execAcceptance
  dsimp only
  split
  · exact h.next
  · split
    · split
      · exact h.next
      · exact h.updCore.fireSigs.next
    · exact h.updCore.next

protected theorem Tidy.execDoneReport {c} (h : Tidy s) : Kept (execDoneReport c s) := by
  unfold execDoneReport
  dsimp only
  split
  · exact h.next
  · split
    · exact h.next
    · exact .ite h.next (.ite h.updCmd.finish.next h.updCmd.next)

protected theorem Tidy.execBasePoint {k} (h : Tidy s) : Kept (execBasePoint k s) := by
  unfold execBasePoint
  dsimp only
  split
  · exact h.next
  · exact .ite h.updCmds.updCores.next h.next

protected theorem Tidy.launchCore {c slot n p} (h : Tidy s) : Tidy (launchCore c slot n s p) := by
  unfold launchCore
  dsimp only
  split
  · refine (Tidy.updCore (h.updCore fun _ _ => ?_)).haltCore
    exact (Core.paired_of_none rfl).gSet.gSet.gSet.gSet
  · refine (h.updCore fun _ _ => ?_).icMiss
    exact (Core.paired_of_none rfl).gSet.gSet.gSet.gSet

protected theorem Tidy.execLaunch {k} (h : Tidy s) : Kept (execLaunch k s) := by
  unfold execLaunch
  dsimp only
  split
  · exact h.next
  · exact ((h.begun.foldl .launchCore).tick).next

protected theorem Tidy.execHoldTimeout {c who} (h : Tidy s) : Kept (execHoldTimeout c who s) := by
  unfold execHoldTimeout
  dsimp only
  split
  · exact h.next
  · split
    · exact h.next
    · split
      · split
        · exact h.failWith.breakUnit.next
        · exact .ite h.failWith.breakUnit.next h.next
        · split
          · exact .ite h.failWith.next h.next
          · exact h.next
      · split
        · exact .ite h.failWith.stopHead.next h.next
        · exact .ite h.failWith.breakUnit.next h.next
        · exact h.next

end Sys2Proof
end

section
/-!
The invariant is kept: the engines.
-/
namespace Sys2Proof
open Machine
set_option Elab.async false

variable {s t : State}

/-! ### Operands of the engines -/

protected theorem Tidy.noteOld {j loc ps} (h : Tidy s) : Tidy (noteOld j loc ps s) := h.updCore

protected theorem Tidy.putPieces {j loc ps thru} (h : Tidy s) : Tidy (putPieces j loc ps s thru) := by
  refine .ite (h.noteOld.updCore fun _ h => ?_) (.ite (h.noteOld.updCore fun _ h => ?_) h.noteOld.countPort.stageAll)
  · exact h.foldl id
  · exact h.foldl id

protected theorem Tidy.contribute {j o es thru} (h : Tidy s) : Tidy (contribute j o es s thru) := by
  unfold contribute
  dsimp only
  split
  · exact h.readCells
  · split
    · exact h.readCells.countPort.updCmd
    · exact h.readCells.failStage

protected theorem Tidy.putElems {j o f thru} (h : Tidy s) : Tidy (putElems j o f s thru) := .ite h.putPieces h.contribute

/-! ### Engine instructions -/

protected theorem Tidy.failEng {k c e r} (h : Tidy s) : Tidy (failEng s k c e r) := .ite h h.failWith.stopHead
protected theorem Tidy.stopFailed {c e} (h : Tidy s) : Tidy (stopFailed c e s) := .ite h.stopHead h
protected theorem Tidy.updHead {c e g} (h : Tidy s) : Tidy (updHead s c e g) := h.updCore (fun _ h => by split <;> exact h)
protected theorem Tidy.takeHead {c e i accepted zero writes} (h : Tidy s) : Tidy (takeHead s c e i accepted zero writes) := h.updCore

protected theorem Tidy.startJob {f j} (h : Tidy s) (hf : f.Keeps) : Tidy (startJob f j s) := by
  unfold startJob
  dsimp only
  refine .ite (hf.empty h.takeHead) ?_
  split
  · exact h.failEng
  · refine .ite h.updHead ?_
    split
    · exact h.failFenced.stopHead
    · split
      · exact h.updHead.updCore
      · refine .ite h.readCells.stopFailed ?_
        split
        · exact h.readCells.failPoison.stopHead
        · exact hf.run h.readCells.takeHead.sheafAccess.countPort

protected theorem Tidy.deadlineMiss {k core i ctr} (h : Tidy s) : Tidy (deadlineMiss s k core i ctr) := .ite h.countQueue h.countQueue.updCmd.logRec

protected theorem Tidy.readAndGo {f j} (h : Tidy s) (hf : f.Keeps) : Tidy (readAndGo f j s) := by
  unfold readAndGo
  dsimp only
  have hr : ∀ {slot at' ctr}, Tidy (readPort (ctrRead s slot at' ctr).1 j.core ctr) := h.ctrRead.readPort
  refine .ite (h.startJob hf) (.ite h.updHead (.ite h.ctrRead.stopHead (.ite (hr.startJob hf) (.ite (.ite (hr.startJob hf) hr.updHead.watchAdd) ?_))))
  split
  · exact hr.deadlineMiss.startJob hf
  · exact hr.deadlineMiss.updHead.watchAdd
  · exact .ite hr.deadlineMiss.updHead.watchAdd (hr.deadlineMiss.updCmd.startJob hf)

protected theorem Tidy.engineRow {c e op f} (h : Tidy s) (hf : f.Keeps) : Tidy (engineRow s c e op f) := by
  unfold engineRow
  dsimp only
  split
  · refine .ite h (.ite h.readCells.stopFailed (.ite h.failEng (.ite h (.ite (h.startJob hf) ?_))))
    split
    · exact h.failEng
    · exact .ite h.updHead (h.readAndGo hf)
  · exact h

protected theorem Tidy.execEngineComplete {c eng} (h : Tidy s) : Kept (execEngineComplete c eng s) := by
  unfold execEngineComplete
  dsimp only
  split
  · refine .ite h.next ?_
    have hd := fun fl rest => h.updCore (c := c.toNat) (f := fun k => drainEnds { k with flying := Map.put k.flying fl rest }) fun _ h =>
      Core.Paired.drainEnds h
    split
    · exact (hd _ _).next
    · exact (hd _ _).signalOf.next
  · exact h.next

theorem syncForm_keeps : syncForm.Keeps := ⟨id, id⟩

protected theorem Tidy.execSync {c} (h : Tidy s) : Kept (execSync c s) := (h.engineRow syncForm_keeps).next

/-! ### The matrix engine -/

theorem mmForm_keeps {m n} : (mmForm m n).Keeps := ⟨id, fun h => h.putPieces⟩

protected theorem Tidy.execMm {c} (h : Tidy s) : Kept (execMm c s) := (h.engineRow mmForm_keeps).next

protected theorem Tidy.execMv {c} (h : Tidy s) : Kept (execMv c s) := (h.engineRow mmForm_keeps).next
protected theorem Tidy.putAcc {j ps} (h : Tidy s) : Tidy (putAcc j ps s) := h.putPieces
protected theorem Tidy.stageThree {j code acc rows ws} (h : Tidy s) : Tidy (stageThree j code acc rows ws s) := h.putPieces

protected theorem Tidy.keepP {core code k pages summary causal gi limits rows} (h : Tidy s) :
    Tidy (keepP core code k pages summary causal gi limits rows s) :=
  h.updCore (f := fun x => { x with pbuf := some _ }) fun _ _ => by simp [Core.Paired]

theorem mmfForm_keeps : mmfForm.Keeps := ⟨id, fun h => h.putAcc.putAcc.keepP.stageThree⟩

protected theorem Tidy.execMmf {c} (h : Tidy s) : Kept (execMmf c s) := (h.engineRow mmfForm_keeps).next

theorem mmpForm_keeps : mmpForm.Keeps := by
  refine ⟨id, fun {j s} h => ?_⟩
  change Tidy (match j.pbuf with | none => s | some p => _)
  split
  · exact h
  · exact h.stageThree

protected theorem Tidy.execMmp {c} (h : Tidy s) : Kept (execMmp c s) := (h.engineRow mmpForm_keeps).next

protected theorem Tidy.execResidueMismatch {c x m k n} (h : Tidy s) : Kept (execResidueMismatch c x m k n s) := by
  unfold execResidueMismatch
  dsimp only
  split
  · exact .ite h.next h.logRec.errorKill.breakUnit.startTest.next
  · exact h.next

/-! ### The vector engine -/

theorem binForm_keeps {fn ifn} : (binForm fn ifn).Keeps := ⟨id, fun h => h.putElems⟩

protected theorem Tidy.execVadd {c} (h : Tidy s) : Kept (execVadd c s) := (h.engineRow binForm_keeps).next

protected theorem Tidy.execVsub {c} (h : Tidy s) : Kept (execVsub c s) := (h.engineRow binForm_keeps).next
protected theorem Tidy.execVmul {c} (h : Tidy s) : Kept (execVmul c s) := (h.engineRow binForm_keeps).next
protected theorem Tidy.execVmin {c} (h : Tidy s) : Kept (execVmin c s) := (h.engineRow binForm_keeps).next
protected theorem Tidy.execVmax {c} (h : Tidy s) : Kept (execVmax c s) := (h.engineRow binForm_keeps).next
protected theorem Tidy.execVdiv {c} (h : Tidy s) : Kept (execVdiv c s) := (h.engineRow binForm_keeps).next

theorem vfmaForm_keeps : vfmaForm.Keeps := ⟨id, fun h => h.putElems⟩

protected theorem Tidy.execVfma {c} (h : Tidy s) : Kept (execVfma c s) := (h.engineRow vfmaForm_keeps).next

theorem unForm_keeps {undef more fn} : (unForm undef more fn).Keeps := ⟨id, fun h => h.putElems⟩

protected theorem Tidy.execVaff {c} (h : Tidy s) : Kept (execVaff c s) := (h.engineRow unForm_keeps).next

protected theorem Tidy.execVfn {c} (h : Tidy s) : Kept (execVfn c s) := (h.engineRow unForm_keeps).next

theorem vcvtForm_keeps : vcvtForm.Keeps := ⟨id, fun h => .ite h.putPieces h.putElems⟩

protected theorem Tidy.execVcvt {c} (h : Tidy s) : Kept (execVcvt c s) := (h.engineRow vcvtForm_keeps).next

theorem vrowForm_keeps : vrowForm.Keeps := ⟨id, fun h => h.putElems⟩

protected theorem Tidy.execVrow {c} (h : Tidy s) : Kept (execVrow c s) := (h.engineRow vrowForm_keeps).next

theorem vredForm_keeps : vredForm.Keeps := ⟨id, fun h => h.putElems⟩

protected theorem Tidy.execVred {c} (h : Tidy s) : Kept (execVred c s) := (h.engineRow vredForm_keeps).next

theorem vsmxForm_keeps : vsmxForm.Keeps := ⟨id, fun h => h.putPieces.putElems⟩

protected theorem Tidy.execVsmx {c} (h : Tidy s) : Kept (execVsmx c s) := (h.engineRow vsmxForm_keeps).next

theorem vcmulForm_keeps : vcmulForm.Keeps := ⟨id, fun h => h.putElems⟩

protected theorem Tidy.execVcmul {c} (h : Tidy s) : Kept (execVcmul c s) := (h.engineRow vcmulForm_keeps).next

theorem vbflyForm_keeps : vbflyForm.Keeps := ⟨id, fun h => h.putElems⟩

protected theorem Tidy.execVbfly {c} (h : Tidy s) : Kept (execVbfly c s) := (h.engineRow vbflyForm_keeps).next

theorem vtransForm_keeps : vtransForm.Keeps := ⟨id, fun h => h.putElems⟩

protected theorem Tidy.execVtrans {c} (h : Tidy s) : Kept (execVtrans c s) := (h.engineRow vtransForm_keeps).next

theorem vrngForm_keeps : vrngForm.Keeps := ⟨id, fun h => h.putElems⟩

protected theorem Tidy.execVrng {c} (h : Tidy s) : Kept (execVrng c s) := (h.engineRow vrngForm_keeps).next

theorem vgateForm_keeps : vgateForm.Keeps := ⟨id, fun h => h.putPieces.putElems⟩

protected theorem Tidy.execVgate {c} (h : Tidy s) : Kept (execVgate c s) := (h.engineRow vgateForm_keeps).next

/-! ### Attention -/

protected theorem Tidy.labTouch {j loc pages} (h : Tidy s) : Tidy (labTouch j loc pages s) := by
  unfold labTouch
  refine h.updCore fun _ h => ?_
  exact h.foldl id

theorem kmmForm_keeps {t c} : (kmmForm t c).Keeps := ⟨id, fun h => h.labTouch.updCore.putPieces⟩

protected theorem Tidy.execKmm {c} (h : Tidy s) : Kept (execKmm c s) := (h.engineRow kmmForm_keeps).next

protected theorem Tidy.kStageThree {j b code half acc rows} (h : Tidy s) : Tidy (kStageThree j b code half acc rows s) := h.putPieces

theorem kmmfForm_keeps {t c} : (kmmfForm t c).Keeps := ⟨id, fun h => h.labTouch.putAcc.putAcc.keepP.kStageThree⟩

protected theorem Tidy.execKmmf {c} (h : Tidy s) : Kept (execKmmf c s) := (h.engineRow kmmfForm_keeps).next

theorem kmmpForm_keeps {t c} : (kmmpForm t c).Keeps := by
  refine ⟨id, fun {j s} h => ?_⟩
  change Tidy (match j.pbuf with | none => s | some p => _)
  split
  · exact h
  · exact h.labTouch.kStageThree

protected theorem Tidy.execKmmp {c} (h : Tidy s) : Kept (execKmmp c s) := (h.engineRow kmmpForm_keeps).next

protected theorem Tidy.putWords {j ws} (h : Tidy s) : Tidy (putWords j ws s) := h.putPieces

theorem kdescForm_keeps : kdescForm.Keeps := ⟨id, fun h => h.labTouch.putWords⟩

protected theorem Tidy.execKdesc {c} (h : Tidy s) : Kept (execKdesc c s) := (h.engineRow kdescForm_keeps).next

protected theorem Tidy.setDist {b d} (h : Tidy s) : Tidy (setDist s b d) := h.frame

theorem kpostForm_keeps : kpostForm.Keeps := ⟨id, fun h => h.countPort.setDist⟩

protected theorem Tidy.execKpost {c} (h : Tidy s) : Kept (execKpost c s) := (h.engineRow kpostForm_keeps).next

theorem ktakeForm_keeps : ktakeForm.Keeps := ⟨id, fun h => h.setDist.countPort.putWords⟩

protected theorem Tidy.execKtake {c} (h : Tidy s) : Kept (execKtake c s) := (h.engineRow ktakeForm_keeps).next

protected theorem Tidy.walkAnswer {c e t lab} (h : Tidy s) : Tidy (walkAnswer s c e t lab) := by
  unfold walkAnswer
  refine h.updHead.updCore fun _ h => ?_
  dsimp only
  split <;> exact h

protected theorem Tidy.walkTouch {w} (h : Tidy s) : Tidy (walkTouch s w) := h.frame

protected theorem Tidy.walkPort (h : Tidy s) {c k f l p a} : Tidy (walkPort s c k f l p a) := by
  cases a with
  | held => exact h
  | found => exact h.countPort.countPort
  | _ => exact h.countPort

protected theorem Tidy.walk {c f l p} (h : Tidy s) : Tidy (walk s c f l p) := by
  unfold walk
  dsimp only
  split
  · exact h
  · split
    · exact h
    · split
      · exact h
      · split
        · exact h.walkTouch.walkAnswer
        · split
          · exact h.walkPort.failEng
          · exact h.walkPort.updCore
          · exact h.walkPort.failPoison.stopHead
          · exact h.walkPort.failEng
          · exact .ite h.walkPort.failEng h.walkPort.walkAnswer
          · exact h.walkPort.pinFrame.walkAdd.walkAnswer

protected theorem Tidy.execWalk {c future layer page} (h : Tidy s) : Kept (execWalk c future layer page s) := h.walk.next

end Sys2Proof
end

section
/-!
The invariant is kept: transfers, peers and collectives.
-/
namespace Sys2Proof
open Machine
set_option Elab.async false

variable {s t : State}

/-! ### RDMA and transfers -/

protected theorem Tidy.countNak {n} (h : Tidy s) : Tidy (countNak s n) := h.liveSat
protected theorem Tidy.hearFrame {e len} (h : Tidy s) : Tidy (hearFrame e s len) := h.liveAdd.liveAdd
protected theorem Tidy.hearQp {n lens} (h : Tidy s) : Tidy (hearQp s n lens) := h.foldl .hearFrame

protected theorem Tidy.hearOdd {e} (h : Tidy s) : Tidy (hearOdd s e) := by
  unfold hearOdd
  exact h.hearFrame

protected theorem Tidy.sendEth {e x} (h : Tidy s) : Tidy (sendEth s e x) := .ite h.frame h.send
protected theorem Tidy.sendQp {n x} (h : Tidy s) : Tidy (sendQp s n x) := h.sendEth
protected theorem Tidy.unstall {e} (h : Tidy s) : Tidy (unstall s e) := h.frame.foldl .send
protected theorem Tidy.sendPacket {n used i p} (h : Tidy s) : Tidy (sendPacket s n used i p) := .ite h.cfgSet.updQp h.cfgSet.updQp.sendQp
protected theorem Tidy.sendWrite {n slot rkey va data} (h : Tidy s) : Tidy (sendWrite s n slot rkey va data) := h.foldl .sendPacket
protected theorem Tidy.sendReadReq {n slot rkey va len} (h : Tidy s) : Tidy (sendReadReq s n slot rkey va len) := h.sendPacket

protected theorem Tidy.issueRead {t} (h : Tidy s) : Tidy (issueRead s t) := by
  unfold issueRead
  dsimp only
  split
  · exact h
  · exact .ite h.frame.sendReadReq h.frame.sendMsg

protected theorem Tidy.pumpReads (h : Tidy s) {n} : Tidy (pumpReads n s) := by
  induction n generalizing s with
  | zero => exact h
  | succ n ih =>
    unfold pumpReads
    split
    · exact h
    · exact ih h.issueRead

protected theorem Tidy.startTransfer {who k host dest rs ins} (h : Tidy s) : Tidy (startTransfer s who k host dest rs ins) := h.frame.pumpReads
protected theorem Tidy.dropTransfer {t} (h : Tidy s) : Tidy (dropTransfer s t) := h.frame

protected theorem Tidy.failTransfer {t wait obj} (h : Tidy s) : Tidy (failTransfer s t wait obj) := by
  unfold failTransfer
  dsimp only
  split
  · exact h
  · split
    · exact .ite h.failWith h.failWith
    · split
      · exact h.failWith
      · split
        · exact h.failWith
        · exact .ite h.failWith h.failWith

protected theorem Tidy.failEgress {k e wait obj} (h : Tidy s) : Tidy (failEgress s k e wait obj) := .ite h (.ite h.failWith h.failWith)
protected theorem Tidy.qpStop {n bad} (h : Tidy s) : Tidy (qpStop s n bad) :=
  ((((h.foldl .failTransfer).foldl .failEgress).updQp).frame).foldl (fun h' => .ite h'.ethRec h')
protected theorem Tidy.qpError {n cause} (h : Tidy s) : Tidy (qpError s n cause) := .ite h h.cfgSet.ethRec.qpStop

/-! ### The copy engine -/

protected theorem Tidy.updLastFlying {core g} (h : Tidy s) : Tidy (updLastFlying core g s) := h.updCore
protected theorem Tidy.updFlyingAt {core id g} (h : Tidy s) : Tidy (updFlyingAt core id g s) := h.updCore
protected theorem Tidy.askRoom {e} (h : Tidy s) : Tidy (askRoom s e) := h.sendMsg
protected theorem Tidy.stageFar {j keep} (h : Tidy s) : Tidy (stageFar j keep s) :=
  .ite (h.countPort.foldl .stageEgress) (.ite h.countPort.stageEgress h.countPort.stageEgress.updFlyingAt.askRoom)

theorem copyForm_keeps : copyForm.Keeps := by
  refine ⟨fun h => .ite h.stageEgress h, fun h => ?_⟩
  exact .ite h.updLastFlying.startTransfer (.ite (.ite h.stageFar h.updLastFlying.startTransfer.updLastFlying) (.ite h.putElems h.putPieces))

protected theorem Tidy.execEngineCopy {c} (h : Tidy s) : Kept (execEngineCopy c s) := (h.engineRow copyForm_keeps).next

protected theorem Tidy.landEngine {core t} (h : Tidy s) : Tidy (landEngine s core t) := by
  unfold landEngine
  dsimp only
  split
  · exact h
  · exact .ite h.updFlyingAt.stageFar h.updFlyingAt.countPort.putPieces

protected theorem Tidy.copyDone {k} (h : Tidy s) : Tidy (copyDone s k) := by
  unfold copyDone
  split
  · exact h
  · exact .ite h.finish h

protected theorem Tidy.copyPut {k core c data} (h : Tidy s) : Tidy (copyPut s k core c data) :=
  .ite h.countPort.countPort.failWith (.ite h.countPort.countPort.stageBytes
  (.ite (h.countPort.countPort.foldl .stageEgress) ((h.countPort.countPort.foldl .stageEgress).foldl .askRoom)))

protected theorem Tidy.execCopy {k} (h : Tidy s) : Kept (execCopy k s) := by
  unfold execCopy
  dsimp only
  split
  · exact h.next
  · refine .ite h.begun.finish.next (.ite h.failWith.next ?_)
    split
    · exact h.failWith.next
    · split
      · exact h.failFenced.next
      · refine .ite h.failDisp.next (.ite (.ite h.updCore.next (.ite h.begun.readCells.next ?_)) h.begun.startTransfer.next)
        split
        · exact h.begun.readCells.failPoison.next
        · exact h.begun.readCells.updCore.sheafAccess.copyPut.copyDone.next

protected theorem Tidy.landCopy {k t} (h : Tidy s) : Tidy (landCopy s k t) := by
  unfold landCopy
  dsimp only
  split
  · exact h
  · exact .ite h h.copyPut.copyDone

protected theorem Tidy.arrived {t r data} (h : Tidy s) : Tidy (arrived s t r data) := by
  unfold arrived
  dsimp only
  split
  · refine Tidy.pumpReads ?_
    split
    · exact h.frame.countQueue.dropTransfer.landEngine
    · exact .ite h.frame.countQueue.dropTransfer.landCopy h.frame.countQueue
    · exact h.frame.countQueue
  · exact h.frame.countQueue.pumpReads

/-! ### Peers -/

protected theorem Tidy.answer {m kind status len data} (h : Tidy s) : Tidy (answer s m kind status len data) := h.sendMsg
protected theorem Tidy.holdReq {m} (h : Tidy s) : Tidy (holdReq s m) := h.frame

protected theorem Tidy.portRead {die a n} (h : Tidy s) : Tidy (portRead s die a n).1 := by
  unfold portRead
  dsimp only
  exact h.systemRead.sheafAccess

protected theorem Tidy.readAnswer {m} (h : Tidy s) : Tidy (readAnswer s m) := by
  unfold readAnswer
  dsimp only
  split
  · exact h.answer
  · split
    · exact h.holdReq
    · split
      · exact h.logRec.answer
      · exact h.answer

protected theorem Tidy.readReq {m} (h : Tidy s) : Tidy (readReq s m) :=
  .ite h.answer (.ite h.answer (.ite h.holdReq (.ite h.portRead.readAnswer h.portRead.frame)))
protected theorem Tidy.readsIn (h : Tidy s) : Tidy (readsIn s) := h.frame.foldl .readAnswer
protected theorem Tidy.execReadReq {m} (h : Tidy s) : Kept (execReadReq m s) := .ite h.takeMsg.readReq.next h.next
protected theorem Tidy.writeReq {m} (h : Tidy s) : Tidy (writeReq s m) := .ite h.answer (.ite h.holdReq h.frame.answer)
protected theorem Tidy.execWriteReq {m} (h : Tidy s) : Kept (execWriteReq m s) := .ite h.takeMsg.writeReq.next h.next
protected theorem Tidy.touchLines {die a n} (h : Tidy s) : Tidy (touchLines s die a n) := h.systemAccess.foldl (fun h => .ite h.allocate h)
protected theorem Tidy.nextCommit (h : Tidy s) : Tidy (nextCommit s) := h.frame
protected theorem Tidy.mseqAdvance {src} (h : Tidy s) : Tidy (mseqAdvance s src) := h.frame
protected theorem Tidy.dropGiven {m} (h : Tidy s) : Tidy (dropGiven s m) := h.frame
protected theorem Tidy.serveRoom (h : Tidy s) : Tidy (serveRoom s) := h.frame.foldl .writeReq
protected theorem Tidy.writeMsg {m} (h : Tidy s) : Tidy (writeMsg s m) :=
  .ite h.dropGiven.mseqAdvance.serveRoom.answer (.ite h.holdReq (.ite h.frame
  ((Tidy.ite h.dropGiven.mseqAdvance.serveRoom.nextCommit.planeWriteMsg.touchLines.ctrAdd
  h.dropGiven.mseqAdvance.serveRoom.nextCommit.planeWriteMsg.touchLines).answer)))

protected theorem Tidy.drainWrites (h : Tidy s) {src n} : Tidy (drainWrites src n s) := by
  induction n generalizing s with
  | zero => exact h
  | succ n ih =>
    unfold drainWrites
    split
    · exact h
    · exact ih (Tidy.writeMsg h.frame)

protected theorem Tidy.writeIn {m} (h : Tidy s) : Tidy (writeIn s m) := .ite h (.ite h.writeMsg.drainWrites (.ite h.frame (.ite h h.answer)))
protected theorem Tidy.execWrite {m} (h : Tidy s) : Kept (execWrite m s) := .ite h.takeMsg.writeIn.next h.next
protected theorem Tidy.retryReq {m} (h : Tidy s) : Tidy (retryReq s m) := .ite h.readReq (.ite h.writeReq h.writeMsg.drainWrites)
protected theorem Tidy.serveHeld (h : Tidy s) : Tidy (serveHeld s) := h.frame.foldl .retryReq

protected theorem Tidy.execPeerHoldTimeout (h : Tidy s) : Kept (execPeerHoldTimeout s) := by
  unfold execPeerHoldTimeout
  dsimp only
  split
  · exact h.next
  · exact h.frame.answer.next

protected theorem Tidy.execWriteCancel {m} (h : Tidy s) : Kept (execWriteCancel m s) := .ite h.takeMsg.dropGiven.serveHeld.next h.next
protected theorem Tidy.execGrantExpiry {src} (h : Tidy s) : Kept (execGrantExpiry src s) := h.frame.serveHeld.next

protected theorem Tidy.execReadResp {m} (h : Tidy s) : Kept (execReadResp m s) := by
  unfold execReadResp
  dsimp only
  split
  · exact h.next
  · split
    · exact h.takeMsg.next
    · split
      · exact h.takeMsg.next
      · exact .ite h.takeMsg.arrived.next (.ite h.takeMsg.failTransfer.next (.ite h.takeMsg.failTransfer.next h.takeMsg.next))

protected theorem Tidy.execPeerReadTimeout {c} (h : Tidy s) : Kept (execPeerReadTimeout c s) := by
  unfold execPeerReadTimeout
  split
  · exact h.next
  · exact h.failTransfer.next

protected theorem Tidy.granted {k e} (h : Tidy s) : Tidy (granted s k e) := by
  unfold granted
  dsimp only
  split
  · exact h.updCmd.copyDone
  · exact h.updCmd.updFlyingAt

protected theorem Tidy.launchWrite {u} (h : Tidy s) : Tidy (launchWrite s u) := h.numberMsg.frame.routeMsg
protected theorem Tidy.offerWrite {u} (h : Tidy s) : Tidy (offerWrite s u) := .ite h.frame h.launchWrite

protected theorem Tidy.writeGone {u} (h : Tidy s) : Tidy (writeGone s u) := by
  unfold writeGone
  dsimp only
  split
  · exact h.frame
  · exact h.frame.frame.launchWrite

protected theorem Tidy.execWriteGrant {m} (h : Tidy s) : Kept (execWriteGrant m s) := by
  unfold execWriteGrant
  dsimp only
  split
  · exact h.next
  · split
    · exact h.takeMsg.next
    · exact .ite h.takeMsg.granted.next (.ite h.takeMsg.failEgress.next h.takeMsg.next)

protected theorem Tidy.resend {u} (h : Tidy s) : Tidy (resend s u) := h.routeMsg
protected theorem Tidy.updUnacked {u n} (h : Tidy s) : Tidy (updUnacked s u n) := h.frame
protected theorem Tidy.abandonWrite {u} (h : Tidy s) : Tidy (abandonWrite s u) := h.writeGone.linkRec.updCmd

protected theorem Tidy.execWriteAck {m} (h : Tidy s) : Kept (execWriteAck m s) := by
  unfold execWriteAck
  dsimp only
  split
  · exact h.next
  · split
    · exact h.takeMsg.next
    · exact .ite h.takeMsg.writeGone.next (.ite h.takeMsg.updUnacked.resend.next (.ite h.takeMsg.abandonWrite.next h.takeMsg.next))

protected theorem Tidy.execWriteResend {dst} (h : Tidy s) : Kept (execWriteResend dst s) := by
  unfold execWriteResend
  split
  · exact h.next
  · exact .ite h.updUnacked.resend.next h.abandonWrite.next

/-! ### Collectives -/

protected theorem Tidy.setGroup {g x} (h : Tidy s) : Tidy (setGroup s g x) := h.frame
protected theorem Tidy.updInst {k f} (h : Tidy s) : Tidy (updInst s k f) := h.frame
protected theorem Tidy.openInst {k c} (h : Tidy s) : Tidy (openInst s k c) := h.frame
protected theorem Tidy.instMsg {i rank kind len fs data} (h : Tidy s) : Tidy (instMsg s i rank kind len fs data) := h.sendMsg

protected theorem Tidy.pumpPieces {k} (h : Tidy s) : Tidy (pumpPieces s k) := by
  unfold pumpPieces
  dsimp only
  split
  · exact h
  · exact h.foldl (fun h => by
      split
      · exact h
      · exact .ite h h.updInst.countQueue.instMsg)

protected theorem Tidy.giveOne {k n slots r} (h : Tidy s) : Tidy (giveOne k n slots s r) := by
  unfold giveOne
  dsimp only
  split
  · exact h
  · exact .ite h h.updInst.instMsg

protected theorem Tidy.giveCredits {k} (h : Tidy s) : Tidy (giveCredits s k) := by
  unfold giveCredits
  dsimp only
  split
  · exact h
  · exact ((h.foldl .giveOne).foldl .giveOne).updInst

protected theorem Tidy.collDone {k} (h : Tidy s) : Tidy (collDone s k) := by
  unfold collDone
  split
  · exact h
  · exact .ite h.finish h

protected theorem Tidy.failDesc {k low} (h : Tidy s) : Tidy (failDesc s k low) := by
  unfold failDesc
  split
  · exact h
  · exact h.failWith

protected theorem Tidy.collStage {k i ps} (h : Tidy s) : Tidy (collStage s k i ps) := .ite h.failDesc h.stageAll
protected theorem Tidy.feedBlock {k i j} (h : Tidy s) : Tidy (feedBlock s k i j) := .ite h.collStage.signalOf h.collStage

protected theorem Tidy.collWrite {k} (h : Tidy s) : Tidy (collWrite s k) := by
  unfold collWrite
  dsimp only
  split
  · exact h
  · exact .ite h (.ite h.updInst h.updInst.collStage)

protected theorem Tidy.collSteps (h : Tidy s) {denorm k n} : Tidy (collSteps denorm k n s) := by
  induction n generalizing s with
  | zero => exact h
  | succ n ih =>
    unfold collSteps
    dsimp only
    split
    · exact h
    · refine .ite h.systemRead.updInst ?_
      split
      · exact h.systemRead.updInst.failPoison
      · refine .ite h.systemRead.updInst ?_
        split
        · exact (Tidy.ite h.systemRead.updInst.feedBlock h.systemRead.updInst).collWrite
        · exact ih (Tidy.ite h.systemRead.updInst.feedBlock h.systemRead.updInst).updInst

protected theorem Tidy.collRun {k} (h : Tidy s) : Tidy (collRun s k) := by
  unfold collRun
  dsimp only
  split
  · exact h
  · exact h.collSteps.giveCredits.pumpPieces.collDone

protected theorem Tidy.failColl {i code reason chip low} (h : Tidy s) : Tidy (failColl s i code reason chip low) := h.groupRec.failCmd

protected theorem Tidy.collStart {k} (h : Tidy s) : Tidy (collStart s k) := by
  unfold collStart
  dsimp only
  split
  · exact h
  · split
    · exact h
    · split
      · exact h.failColl
      · refine Tidy.collRun ?_
        split
        · split
          · exact h.updInst
          · exact h.updInst.feedBlock
        · exact h.updInst

protected theorem Tidy.sendCounts {i c} (h : Tidy s) : Tidy (sendCounts s i c) := .ite h (h.foldl .instMsg)
protected theorem Tidy.landCount {e rank n} (h : Tidy s) : Tidy (landCount s e rank n) := .ite h.planeWrite h

protected theorem Tidy.execCollective {k} (h : Tidy s) : Kept (execCollective k s) := by
  unfold execCollective
  dsimp only
  split
  · refine .ite h.next (.ite h.failDesc.next (.ite h.failDesc.next (.ite h.failDesc.next ?_)))
    split
    · exact h.failFenced.next
    · refine .ite h.systemRead.next ?_
      split
      · exact h.systemRead.failPoison.next
      · refine Tidy.next (Tidy.collStart (Tidy.sendCounts (Tidy.foldl ?_ fun h => h.landCount)))
        split
        · exact h.systemRead.begun.sheafAccess.updInst
        · exact h.systemRead.begun.sheafAccess.updInst.setGroup
  · exact h.next

protected theorem Tidy.execPiece {m} (h : Tidy s) : Kept (execPiece m s) := by
  unfold execPiece
  dsimp only
  split
  · exact h.next
  · split
    · exact h.takeMsg.next
    · split
      · exact h.takeMsg.countQueue.failColl.next
      · split
        · exact h.takeMsg.countQueue.next
        · exact .ite h.takeMsg.countQueue.next h.takeMsg.countQueue.planeWriteMsg.updInst.collRun.next

protected theorem Tidy.execCredit {m} (h : Tidy s) : Kept (execCredit m s) := by
  unfold execCredit
  dsimp only
  split
  · exact h.next
  · split
    · exact h.takeMsg.next
    · exact h.takeMsg.updInst.collRun.next

protected theorem Tidy.execCount {m} (h : Tidy s) : Kept (execCount m s) := by
  unfold execCount
  dsimp only
  split
  · exact h.next
  · split
    · exact .ite h.takeMsg.landCount.updInst.collStart.next h.takeMsg.setGroup.next
    · exact .ite h.takeMsg.next h.takeMsg.setGroup.next
    · exact h.takeMsg.next

protected theorem Tidy.markAbandoned {m} (h : Tidy s) : Tidy (markAbandoned s m) := h.frame

protected theorem Tidy.execAbandon {m} (h : Tidy s) : Kept (execAbandon m s) := by
  unfold execAbandon
  dsimp only
  split
  · exact h.next
  · split
    · exact .ite h.takeMsg.failColl.next h.takeMsg.next
    · exact .ite h.takeMsg.next h.takeMsg.markAbandoned.next
    · exact h.takeMsg.markAbandoned.next

protected theorem Tidy.clearWindow {e} (h : Tidy s) : Tidy (clearWindow s e) := h.withPlane (Map.canonical_clear _ _ h.plane)

protected theorem Tidy.nextSeq' {g q} (h : Tidy s) : Tidy (nextSeq' s g q) := by
  unfold nextSeq'
  dsimp only
  split
  · exact h
  · exact h.setGroup.frame

protected theorem Tidy.instEnd {k abandon} (h : Tidy s) : Tidy (instEnd s k abandon) := by
  unfold instEnd
  dsimp only
  split
  · exact h
  · exact (((Tidy.ite (h.foldl .instMsg) h).clearWindow).frame).nextSeq'

protected theorem Tidy.groupStat {busy result} (h : Tidy s) : Tidy (groupStat s busy result) := h.regSet

protected theorem Tidy.groupRegister {g v} (h : Tidy s) : Tidy (groupRegister s g v) := by
  unfold groupRegister
  dsimp only
  split
  · exact h.reportRefused
  · exact h.groupStat.frame

protected theorem Tidy.execGroupRegister {g} (h : Tidy s) : Kept (execGroupRegister g s) := h.groupRegister.next

protected theorem Tidy.execGroupRegistrationDone (h : Tidy s) : Kept (execGroupRegistrationDone s) := by
  unfold execGroupRegistrationDone
  dsimp only
  split
  · exact h.next
  · exact .ite h.next (.ite h.frame.groupStat.setGroup.next h.frame.groupStat.reportRefused.next)

protected theorem Tidy.groupUnregister {g} (h : Tidy s) : Tidy (groupUnregister s g) := .ite h.groupStat.reportRefused h.frame.groupStat
protected theorem Tidy.execGroupUnregister {g} (h : Tidy s) : Kept (execGroupUnregister g s) := h.groupUnregister.next

end Sys2Proof
end

section
/-!
The invariant is kept: page commands: their work, which may stop, and what follows from it.
-/
namespace Sys2Proof
open Machine
set_option Elab.async false

variable {s t : State}

/-- A piece of work keeps the invariant, whether it ends or stops. -/
def PgKeeps {α : Type} (p : Pg α) : Prop := ∀ s, Tidy s → match p s with | .ok _ t => Tidy t | .error _ t => Tidy t

section
variable {α β : Type} {p : Pg α} {f : α → Pg β}

protected theorem PgKeeps.pure {a : α} : PgKeeps (pure a) := fun _ h => h

protected theorem PgKeeps.throw {e : PgStop} : PgKeeps (throw e : Pg α) := fun _ h => h

protected theorem PgKeeps.bind (hp : PgKeeps p) (hf : ∀ a, PgKeeps (f a)) : PgKeeps (p >>= f) := by
  intro s h
  have hs := hp s h
  simp only [Bind.bind, EStateM.bind]
  cases hr : p s with
  | ok a t => rw [hr] at hs; exact hf a t hs
  | error e t => rw [hr] at hs; exact hs

protected theorem PgKeeps.get_bind {f : State → Pg β} (hf : ∀ s, Tidy s → PgKeeps (f s)) : PgKeeps (get >>= f) := fun s h => hf s h s h

protected theorem PgKeeps.set (h : Tidy t) : PgKeeps (set t : Pg PUnit) := fun _ _ => h

protected theorem PgKeeps.modify {f : State → State} (hf : ∀ {s}, Tidy s → Tidy (f s)) : PgKeeps (modify f : Pg PUnit) := fun _ h => hf h

protected theorem PgKeeps.ite {c : Prop} {_ : Decidable c} {p q : Pg α} (hp : PgKeeps p) (hq : PgKeeps q) : PgKeeps (if c then p else q) := by
  split <;> assumption

protected theorem PgKeeps.forIn {l : List α} {b : β} {f : α → β → Pg (ForInStep β)} (hf : ∀ a b, PgKeeps (f a b)) : PgKeeps (forIn l b f) := by
  induction l generalizing b with
  | nil => exact .pure
  | cons a l ih =>
    rw [List.forIn_cons]
    refine .bind (hf a b) fun r => ?_
    cases r with
    | done b => exact .pure
    | yield b => exact ih

protected theorem PgKeeps.mapM {l : List α} (hf : ∀ a, PgKeeps (f a)) : PgKeeps (l.mapM f) := by
  induction l with
  | nil => exact .pure
  | cons a l ih =>
    rw [List.mapM_cons]
    exact .bind (hf a) fun b => .bind ih fun bs => .pure

end

/-- Two ways to the same rest. -/
protected theorem PgKeeps.ite_bind {α β : Type} {c : Prop} {_ : Decidable c} {p q : Pg α} {f : α → Pg β} (hp : PgKeeps p) (hq : PgKeeps q)
    (hf : ∀ a, PgKeeps (f a)) : PgKeeps (if c then p >>= f else q >>= f) := .ite (hp.bind hf) (hq.bind hf)

/-- Three ways to the same rest. -/
protected theorem PgKeeps.ite_ite_bind {α β : Type} {c d : Prop} {_ : Decidable c} {_ : Decidable d} {p q r : Pg α} {f : α → Pg β} (hp : PgKeeps p)
    (hq : PgKeeps q) (hr : PgKeeps r) (hf : ∀ a, PgKeeps (f a)) : PgKeeps (if c then p >>= f else if d then q >>= f else r >>= f) :=
  .ite (hp.bind hf) (.ite_bind hq hr hf)

/-- A value made anew, or one at hand, for the same rest. -/
protected theorem PgKeeps.ite_make_bind {α β γ : Type} {c : Prop} {_ : Decidable c} {p : Pg α} {g : α → State → β} {b : β} {f : β → Pg γ}
    (hp : PgKeeps p) (hf : ∀ a, PgKeeps (f a)) :
    PgKeeps (if c then p >>= fun a => get >>= fun s => pure (g a s) >>= f else pure b >>= f) :=
  .ite (hp.bind fun _ => .get_bind fun _ _ => .bind .pure hf) (.bind .pure hf)

/-- Work before the rest, under a condition. -/
protected theorem PgKeeps.when {β : Type} {c : Prop} {_ : Decidable c} {p : Pg PUnit} {f : PUnit → Pg β} (hp : PgKeeps p) (hf : ∀ a, PgKeeps (f a)) :
    PgKeeps (if c then p >>= f else f PUnit.unit) := .ite (hp.bind hf) (hf PUnit.unit)

protected theorem PgKeeps.each {α : Type} {l : List α} {p : α → Pg PUnit} (hp : ∀ a, PgKeeps (p a)) :
    PgKeeps (forIn l PUnit.unit fun a _ => do p a; pure (ForInStep.yield PUnit.unit)) := .forIn fun a _ => .bind (hp a) fun _ => .pure

protected theorem Tidy.pageStop (hs : Tidy s) (ht : Tidy t) {k core c p} : Tidy (pageStop s t k core c p) := by
  unfold pageStop
  split
  · exact ht.failWith
  · exact hs.updCore
  · exact ht.failPoison
  · exact .ite hs hs.startTransfer
  · exact ht.failWith
  · exact ht.failStage
  · exact ht
  · exact ht.failFenced
  · exact ht.failWith
  · exact ht.failDisp
  · exact ht.failWith

protected theorem Tidy.pageDone {k core} (h : Tidy t) : Tidy (pageDone t k core) := by
  unfold pageDone
  dsimp only
  split
  · exact h.begun.updCore.frame
  · exact .ite ((h.begun.updCore.frame.foldl .askRoom).copyDone) ((h.begun.updCore.frame.foldl .askRoom).finish)

theorem pgCmd_keeps {k} : PgKeeps (pgCmd k) := by
  intro s h
  unfold pgCmd
  cases cmdOf s k with
  | none => exact h
  | some c => exact h

theorem pgLock_keeps {k page reduce} : PgKeeps (pgLock k page reduce) := by
  refine .get_bind fun s h => .bind pgCmd_keeps fun c => .ite .pure (.ite .throw (.set ?_))
  exact h.updCmd

theorem pgMeet_keeps {k cells} : PgKeeps (pgMeet k cells) :=
  .bind pgCmd_keeps fun _ => .get_bind fun _ h => .bind (.set h.readCells) fun _ => .ite .pure .throw

theorem pgMove_keeps {k a n out} : PgKeeps (pgMove k a n out) := .bind pgCmd_keeps fun _ => .modify fun h => h.countPort

theorem pgBytes_keeps {k a n} : PgKeeps (pgBytes k a n) := by
  refine .get_bind fun s h => ?_
  split
  · exact .throw
  · exact .throw
  · refine .ite .throw (.bind pgMeet_keeps fun _ => .get_bind fun t ht => ?_)
    split
    · exact .throw
    · exact .pure

theorem pgCopy_keeps {k a n} : PgKeeps (pgCopy k a n) := .bind pgBytes_keeps fun _ => .bind pgMove_keeps fun _ => .pure

theorem pgNat_keeps {k a n} : PgKeeps (pgNat k a n) := .bind pgBytes_keeps fun _ => .pure

theorem pgEntry_keeps {k a n wrong} : PgKeeps (pgEntry k a n wrong) := by
  refine .bind pgNat_keeps fun v => ?_
  split
  · exact .throw
  · exact .pure

theorem pgStage_keeps {k f obj} (hf : ∀ {s}, Tidy s → Tidy (f s)) : PgKeeps (pgStage k f obj) := by
  refine .get_bind fun s h => ?_
  split
  · exact .throw
  · exact .set (hf h)

theorem pgWrite_keeps {k a bs} : PgKeeps (pgWrite k a bs) :=
  .ite .pure (.bind (.forIn fun _ _ => .bind pgLock_keeps fun _ => .pure) fun _ =>
    .bind pgMeet_keeps fun _ => pgStage_keeps fun h => h.stagePut)

theorem pgPut_keeps {k a bs} : PgKeeps (pgPut k a bs) := .bind pgWrite_keeps fun _ => pgMove_keeps

theorem Tidy.takeFrame {i kind n} (h : Tidy s) (ht : takeFrame s i kind = some (n, t)) : Tidy t := by
  unfold Machine.takeFrame at ht
  split at ht
  · cases ht
  · cases ht
    exact h.liveAdd.updFrame.updFrame

theorem pgTake_keeps {k pool kind obj} : PgKeeps (pgTake k pool kind obj) := by
  refine .get_bind fun s h => ?_
  split
  · exact .throw
  · next ht => exact .bind (.set (h.takeFrame ht).updCmd) fun _ => .pure

theorem pgRef_keeps {k n by'} : PgKeeps (pgRef k n by') := by
  refine .get_bind fun s h => .bind pgLock_keeps fun _ => .get_bind fun s h => .bind pgCmd_keeps fun c => .ite .throw ?_
  exact .bind pgMeet_keeps fun _ => pgStage_keeps fun h => h.updCmd

theorem pgShared_keeps {k n} : PgKeeps (pgShared k n) := .get_bind fun _ _ => .bind pgCmd_keeps fun _ => .pure

theorem pgFuture_keeps {k f} : PgKeeps (pgFuture k f) := by
  refine .get_bind fun s h => .ite .throw (.get_bind fun s h => .bind pgEntry_keeps fun _ => .pure)

theorem pgLive_keeps {k f} : PgKeeps (pgLive k f) := .bind pgFuture_keeps fun _ => .ite .pure .throw

theorem pgClass_keeps {k n f} : PgKeeps (pgClass k n f) :=
  .get_bind fun _ _ => .ite .throw (.get_bind fun _ _ => .bind pgEntry_keeps fun _ => .ite .pure .throw)

theorem pgSetFuture_keeps {k f e} : PgKeeps (pgSetFuture k f e) := .get_bind fun _ _ => pgWrite_keeps

theorem pgCount_keeps {k n e by'} : PgKeeps (pgCount k n e by') := .get_bind fun _ _ => pgWrite_keeps

theorem pgLeaves_keeps {k root cls} : PgKeeps (pgLeaves k root cls) := by
  refine .bind pgBytes_keeps fun bs => ?_
  dsimp only
  split
  · exact .throw
  · exact .pure

theorem pgDesc_keeps {k leaf p} : PgKeeps (pgDesc k leaf p) := .get_bind fun _ _ => .bind pgEntry_keeps fun _ => .pure

theorem forkWork_keeps {k c} : PgKeeps (forkWork k c) := by
  refine .ite_bind .pure pgLive_keeps fun p => .bind pgClass_keeps fun x => .ite_bind .pure pgBytes_keeps fun block => .bind (.forIn fun f _ => ?_)
      fun _ => ?_
  · exact .bind pgFuture_keeps fun e => .when .throw fun _ => .bind pgSetFuture_keeps fun _ => .bind pgWrite_keeps fun _ => .pure
  · exact .ite (.bind pgLeaves_keeps fun _ => .bind (.each fun _ => pgRef_keeps) fun _ => pgCount_keeps) pgCount_keeps

theorem pgDropPage_keeps {k leaf p} : PgKeeps (pgDropPage k leaf p) := .bind pgDesc_keeps fun _ => .ite pgRef_keeps .pure

theorem pgDropLeaf_keeps {k leaf} : PgKeeps (pgDropLeaf k leaf) := .bind (.each fun _ => pgDropPage_keeps) fun _ => .pure

theorem freeWork_keeps {k c} : PgKeeps (freeWork k c) := by
  refine .bind pgLive_keeps fun e0 => .bind (.forIn fun f _ => .bind pgLive_keeps fun e => .when .throw fun _ => .pure) fun _ =>
    .bind pgClass_keeps fun x => .bind (.forIn fun f _ => ?_) fun _ => pgCount_keeps
  refine .bind pgFuture_keeps fun e => .bind pgLeaves_keeps fun ls => .bind (.forIn fun leaf _ => ?_) fun _ => .bind pgSetFuture_keeps fun _ => .pure
  exact .bind pgRef_keeps fun _ => .get_bind fun _ _ => .bind pgCmd_keeps fun _ => .when pgDropLeaf_keeps fun _ => .pure

theorem pgFar_keeps {k host dest a n} : PgKeeps (pgFar k host dest a n) := by
  refine .get_bind fun s h => ?_
  split
  · exact .pure
  · exact .throw

theorem slotRead_keeps {k cls d spans} : PgKeeps (slotRead k cls d spans) := by
  refine .ite .pure (.ite (.mapM fun r => .bind pgCopy_keeps fun _ => .pure) ?_)
  exact .get_bind fun _ _ => .when .throw fun _ => .bind pgFar_keeps fun _ => .bind pgMove_keeps fun _ => .pure

theorem slotWrite_keeps {k cls d ps base} : PgKeeps (slotWrite k cls d ps base) := by
  refine .ite (.ite (.get_bind fun s h => .get_bind fun s' h' => ?_) ?_) ?_
  · split
    · exact .bind .throw fun _ => .bind (.each fun _ => pgPut_keeps) fun _ => .pure
    · exact .get_bind fun _ _ => .bind .throw fun _ => .bind (.each fun _ => pgPut_keeps) fun _ => .pure
    · exact .bind (.each fun _ => pgPut_keeps) fun _ => .pure
  · exact .bind (.each fun _ => pgPut_keeps) fun _ => .pure
  · refine .get_bind fun _ _ => .when .throw fun _ => .bind pgCmd_keeps fun c => .get_bind fun _ _ => ?_
    refine .bind (pgStage_keeps fun h => ?_) fun _ => pgMove_keeps
    exact Tidy.updCmd h.frame

theorem privLeaf_keeps {k cls root l i obj} : PgKeeps (privLeaf k cls root l i obj) := by
  refine .bind pgEntry_keeps fun e => .ite ?_ (.bind pgShared_keeps fun sh => .ite ?_ .pure)
  · exact .bind pgTake_keeps fun n => .get_bind fun _ _ => .bind pgWrite_keeps fun _ => .bind pgRef_keeps fun _ => .bind pgWrite_keeps fun _ => .pure
  · refine .bind pgTake_keeps fun n => .get_bind fun _ _ => .bind pgCopy_keeps fun bs => .get_bind fun _ _ => .bind pgPut_keeps fun _ => ?_
    refine .bind (.forIn fun b _ => ?_) fun _ => .bind pgRef_keeps fun _ => .bind pgRef_keeps fun _ => .bind pgWrite_keeps fun _ => .pure
    dsimp only
    split
    · exact .bind .throw fun _ => .pure
    · exact .when pgRef_keeps fun _ => .pure

theorem pgLink_keeps {k n sum} : PgKeeps (pgLink k n sum) := .modify fun h => h.updCmd

theorem bufferPieces_keeps {k cls src n n0 cnt j} : PgKeeps (bufferPieces k cls src n n0 cnt j) := by
  refine .ite .pure (.bind (.mapM fun _ => ?_) fun _ => .bind (.mapM fun _ => ?_) fun _ => .pure)
  all_goals exact .bind pgCopy_keeps fun _ => .pure

theorem appendPage_keeps {k denorm f len n src l p lo hi cls root shut} : PgKeeps (appendPage k denorm f len n src l p lo hi cls root shut) := by
  refine .bind privLeaf_keeps fun leaf => .bind pgDesc_keeps fun d => .when .throw fun _ => .when .throw fun _ => ?_
  refine .ite_bind .pure pgShared_keeps fun copy => .ite_make_bind pgTake_keeps fun nd => ?_
  refine .ite_ite_bind .pure slotRead_keeps .pure fun old => .when pgRef_keeps fun _ => .when pgRef_keeps fun _ => ?_
  refine .bind bufferPieces_keeps fun new => .ite_bind slotRead_keeps .pure fun base => .when slotWrite_keeps fun _ => ?_
  have rest : ∀ {nd}, PgKeeps (get >>= fun s => pgWrite k (frameAddr s leaf + 16 * (p % 256)) (natLE 16 (nd : BitVec 128).toNat)) :=
    .get_bind fun _ _ => pgWrite_keeps
  refine .ite (.bind .pure fun _ => rest) (.ite (.bind .pure fun _ => rest) (.bind pgTake_keeps fun x => ?_))
  exact .get_bind fun _ _ => .bind pgPut_keeps fun _ => .bind pgLink_keeps fun _ => .bind .pure fun _ => rest

theorem appendWork_keeps {k denorm c} : PgKeeps (appendWork k denorm c) := by
  refine .bind pgLive_keeps fun fe => .bind pgClass_keeps fun x => .when .throw fun _ => .get_bind fun _ _ => .when .throw fun _ => ?_
  refine .bind (.forIn fun l _ => ?_) fun _ => .ite pgSetFuture_keeps .pure
  exact .bind (.each fun p => appendPage_keeps) fun _ => .pure

theorem movePage_keeps {k f l p pool cls root} : PgKeeps (movePage k f l p pool cls root) := by
  refine .bind pgEntry_keeps fun e => .ite .pure (.bind pgDesc_keeps fun d => .get_bind fun _ _ => .ite .pure ?_)
  refine .bind privLeaf_keeps fun leaf => .bind pgTake_keeps fun x => .get_bind fun _ _ => .bind slotRead_keeps fun bs => ?_
  refine .bind slotWrite_keeps fun _ => ?_
  have rest : ∀ {nd}, PgKeeps (get >>= fun s => pgWrite k (frameAddr s leaf + 16 * (p % 256)) (natLE 16 (nd : BitVec 128).toNat) >>= fun _ =>
      pgRef k (descFrame d) (-1) >>= fun _ => pgRef k x 1) :=
    .get_bind fun _ _ => .bind pgWrite_keeps fun _ => .bind pgRef_keeps fun _ => pgRef_keeps
  refine .ite (.bind .pure fun _ => rest) (.bind pgTake_keeps fun y => .get_bind fun _ _ => .bind pgCopy_keeps fun bs => ?_)
  exact .get_bind fun _ _ => .bind pgPut_keeps fun _ => .bind pgLink_keeps fun _ => .bind .pure fun _ => rest

theorem relocateWork_keeps {k c} : PgKeeps (relocateWork k c) := by
  refine .bind pgLive_keeps fun fe => .bind pgClass_keeps fun x => .get_bind fun s h => .when .throw fun _ => ?_
  exact .bind (.forIn fun l _ => .bind (.each fun p => movePage_keeps) fun _ => .pure) fun _ => .pure

protected theorem Tidy.pageRow {k kind ok work} (h : Tidy s) (hw : ∀ {c}, PgKeeps (work c)) : Tidy (pageRow s k kind ok work) := by
  unfold pageRow
  split
  · exact h
  · next c _ =>
    refine .ite h (.ite h.failWith ?_)
    have hs := hw s h (c := c)
    split
    · next hr => rw [hr] at hs; exact hs.pageDone
    · next hr => rw [hr] at hs; exact h.pageStop hs

protected theorem Tidy.execFork {k} (h : Tidy s) : Kept (execFork k s) := (h.pageRow forkWork_keeps).next
protected theorem Tidy.execAppend {k} (h : Tidy s) : Kept (execAppend k s) := (h.pageRow appendWork_keeps).next
protected theorem Tidy.execRelocate {k} (h : Tidy s) : Kept (execRelocate k s) := (h.pageRow relocateWork_keeps).next
protected theorem Tidy.execFree {k} (h : Tidy s) : Kept (execFree k s) := (h.pageRow freeWork_keeps).next

protected theorem Tidy.frameApply {n} (h : Tidy s) : Tidy (frameApply s n) := by
  unfold frameApply
  dsimp only
  exact .ite h (.ite h (.ite h.freeFrame h.updFrame))

protected theorem Tidy.pageApply {c b} (h : Tidy s) : Tidy (pageApply s c b) := ((h.foldl .updFrame).foldl .updFrame).foldl .frameApply
protected theorem Tidy.pageUndo {c} (h : Tidy s) : Tidy (pageUndo s c) := h.foldl .returnFrame
protected theorem Tidy.checkPool {i} (h : Tidy s) : Tidy (checkPool s i) := .ite h.reportClamp.cfgSet h
protected theorem Tidy.checkClass {c} (h : Tidy s) : Tidy (checkClass s c) := .ite h.reportClamp.cfgSet h
protected theorem Tidy.kvEnable (h : Tidy s) : Tidy (kvEnable s) :=
  .ite h (.ite (((h.foldl .checkPool).foldl .checkClass).regSet) (((h.foldl .checkPool).foldl .checkClass).reportClamp))
protected theorem Tidy.kvDisable (h : Tidy s) : Tidy (kvDisable s) := .ite h (.ite h.cfgSet h.reportRefused)
protected theorem Tidy.execKvEnable (h : Tidy s) : Kept (execKvEnable s) := h.kvEnable.next
protected theorem Tidy.execKvDisable (h : Tidy s) : Kept (execKvDisable s) := h.kvDisable.next
protected theorem Tidy.initPool {i} (h : Tidy s) : Tidy (initPool s i) := .ite h (h.planeWrite.liveSet.liveSet.foldl .setFrame)
protected theorem Tidy.initFuture {f} (h : Tidy s) : Tidy (initFuture s f) := h.planeWrite
protected theorem Tidy.initSession {n} (h : Tidy s) : Tidy (initSession s n) := h.planeWrite
protected theorem Tidy.execKvInitDone (h : Tidy s) : Kept (execKvInitDone s) :=
  .ite h.next (((((h.foldl .initPool).foldl .initFuture).foldl .initSession).cfgSet).next)

end Sys2Proof
end

section
/-!
The invariant is kept: prefetch, debug operations, watches and commit.
-/
namespace Sys2Proof
open Machine
set_option Elab.async false

variable {s t : State}

/-! ### Prefetch schedules -/

protected theorem Tidy.updSched {b k f} (h : Tidy s) : Tidy (updSched s b k f) := h.frame

protected theorem Tidy.issueEntry {b k i} (h : Tidy s) : Tidy (issueEntry s b k i) := by
  unfold issueEntry
  dsimp only
  split
  · exact h.areaRead
  · split
    · exact h.areaRead.failWith
    · split
      · exact h.areaRead.updSched.signalOf
      · split
        · split
          · exact h.areaRead.updSched.failFenced
          · exact .ite h.areaRead.updSched.updSched.sheafAccess.markUrgent h.areaRead.updSched.updSched.sheafAccess.watchAdd
        · exact h.areaRead.updSched.updSched.startTransfer

protected theorem Tidy.execPrefetchIssue {b} (h : Tidy s) : Kept (execPrefetchIssue b s) := by
  unfold execPrefetchIssue
  split
  · exact h.next
  · exact h.issueEntry.next

protected theorem Tidy.landEntry {b k i} (h : Tidy s) : Tidy (landEntry s b k i) := by
  unfold landEntry
  dsimp only
  split
  · exact .ite h.updSched.watchDrop.signalOf h.updSched.watchDrop
  · split
    · exact .ite h.updSched.watchDrop.dropTransfer.stageBytes.signalOf h.updSched.watchDrop.dropTransfer.stageBytes
    · split
      · exact h.updSched.watchDrop.failFenced
      · split
        · exact h.updSched.watchDrop.systemRead.failPoison
        · exact .ite h.updSched.watchDrop.systemRead.stageBytes.signalOf h.updSched.watchDrop.systemRead.stageBytes

protected theorem Tidy.execPrefetchArrival {b} (h : Tidy s) : Kept (execPrefetchArrival b s) := by
  unfold execPrefetchArrival
  split
  · exact h.next
  · exact h.landEntry.next

/-! ### Debug operations -/

protected theorem Tidy.snapStart (h : Tidy s) : Tidy (snapStart s) := h.frame
protected theorem Tidy.snapRequest {soon} (h : Tidy s) : Tidy (snapRequest s soon) := .ite h (.ite h.frame h.snapStart)
protected theorem Tidy.execSnapTake {soon} (h : Tidy s) : Kept (execSnapTake soon s) := h.snapRequest.next
protected theorem Tidy.execSnapshotDeferredStart (h : Tidy s) : Kept (execSnapshotDeferredStart s) := .ite h.snapStart.next h.next
protected theorem Tidy.watchEnable {i v} (h : Tidy s) : Tidy (watchEnable s i v) :=
  .ite h.reportReserved.reportRefused (.ite h.reportReserved.reportClamp (((Tidy.ite h.reportReserved.reportClamp h.reportReserved).regSet).liveSet))
protected theorem Tidy.execWatchEnable {i v} (h : Tidy s) : Kept (execWatchEnable i v s) := .ite h.watchEnable.next h.next
protected theorem Tidy.halt {c} (h : Tidy s) : Tidy (halt s c) := h.haltCore
protected theorem Tidy.resume {c step} (h : Tidy s) : Tidy (resume s c step) := .ite h.updCore h.resumeCore
protected theorem Tidy.execHalt {c} (h : Tidy s) : Kept (execHalt c s) := .ite h.halt.next h.next
protected theorem Tidy.execResume {c} (h : Tidy s) : Kept (execResume c s) := .ite h.resume.next h.next
protected theorem Tidy.execStep {c} (h : Tidy s) : Kept (execStep c s) := .ite h.resume.next h.next
protected theorem Tidy.execHalted {c} (h : Tidy s) : Kept (execHalted c s) := .ite h.updCore.next h.next
protected theorem Tidy.resumeAll {only} (h : Tidy s) : Tidy (resumeAll s only) := h.foldl (fun h => .ite h.resume h)
protected theorem Tidy.execHaltAll {fab} (h : Tidy s) : Kept (execHaltAll fab s) := (Tidy.ite h.haltAll.sendDebug h.haltAll).next
protected theorem Tidy.execResumeAll {fab} (h : Tidy s) : Kept (execResumeAll fab s) := (Tidy.ite h.resumeAll.sendDebug h.resumeAll).next
protected theorem Tidy.debugMsg {m} (h : Tidy s) : Tidy (debugMsg s m) := .ite h (.ite h.haltAll (.ite h.resumeAll h))

protected theorem Tidy.execViewRead {k} (h : Tidy s) : Kept (execViewRead k s) := by
  unfold execViewRead
  dsimp only
  split
  · exact h.next
  · exact .ite h.next (.ite h.failDisp.next h.begun.stageBytes.finish.next)

protected theorem Tidy.execViewWrite {k} (h : Tidy s) : Kept (execViewWrite k s) := by
  unfold execViewWrite
  dsimp only
  split
  · exact h.next
  · split
    · exact h.next
    · split
      · exact h.failDisp.next
      · split
        · exact h.failPoison.next
        · exact h.begun.updCmd.finish.next

protected theorem Tidy.viewApply {k} (h : Tidy s) : Tidy (viewApply s k) := by
  unfold viewApply
  split
  · exact h
  · exact .ite (h.updCore (fun _ h => by split <;> exact h)) h

/-! ### Watches -/

protected theorem Tidy.watchRec {i k n reason obj} (h : Tidy s) : Tidy (watchRec s i k n reason obj) := h.logRec

protected theorem Tidy.watchOne {slots n i} (h : Tidy s) : Tidy (watchOne slots n s i) := by
  unfold watchOne
  dsimp only
  split
  · exact h
  · exact .ite h.liveSet (.ite ((Tidy.ite ((((h.foldl .liveSet).liveSet).liveSet).cfgSet) (((h.foldl .liveSet).liveSet).liveSet)).watchRec)
      (.ite ((Tidy.ite ((((h.foldl .liveSet).liveSet).liveSet).cfgSet) (((h.foldl .liveSet).liveSet).liveSet)).watchRec)
      (.ite ((((h.foldl .liveSet).liveSet).liveSet).cfgSet) (((h.foldl .liveSet).liveSet).liveSet))))

protected theorem Tidy.watchCommit {slots n} (h : Tidy s) : Tidy (watchCommit s slots n) := h.foldl .watchOne

/-! ### Commit -/

protected theorem Tidy.applyEnd {slots n} (h : Tidy s) : Tidy (applyEnd s slots n) := h.watchCommit.foldl .storeCommit
protected theorem Tidy.endSchedules {slots} (h : Tidy s) : Tidy (endSchedules s slots) := h.watchDrop.frame
protected theorem Tidy.beginCommit {slots} (h : Tidy s) : Tidy (beginCommit s slots) :=
  .ite (((h.updCmds.endSchedules.foldl .viewApply).frame).applyEnd) ((h.updCmds.endSchedules.foldl .viewApply).frame)
protected theorem Tidy.requestOver {slots} (h : Tidy s) : Tidy (requestOver s slots) := h.updCmds

protected theorem Tidy.execCommitRequest {k} (h : Tidy s) : Kept (execCommitRequest k s) := by
  unfold execCommitRequest
  dsimp only
  split
  · exact h.next
  · split
    · exact h.next
    · split
      · exact h.requestOver.failDisp.next
      · exact (Tidy.ite h.requestOver h.requestOver.failFenced).next
      · exact h.beginCommit.next

protected theorem Tidy.execFailMessage {k} (h : Tidy s) : Kept (execFailMessage k s) := by
  unfold execFailMessage
  split
  · exact h.next
  · exact .ite h.updCmds.startKill.next h.next

protected theorem Tidy.abortLate {k c} (h : Tidy s) : Tidy (abortLate s k c) := h.logRec.updCmds

protected theorem Tidy.execAbortMessage {k} (h : Tidy s) : Kept (execAbortMessage k s) := by
  unfold execAbortMessage
  dsimp only
  split
  · exact h.next
  · exact .ite h.next (.ite h.abortLate.next (.ite h.cancelMode.updCmds.startKill.next h.cancelMode.updCmds.endSet.next))

protected theorem Tidy.mergeAt {denorm ds t} (h : Tidy s) : Tidy (mergeAt denorm ds s t) := h.planeWrite
protected theorem Tidy.outLine {k thru l} (h : Tidy s) : Tidy (outLine k thru s l) := .ite h.allocate h
protected theorem Tidy.applyStaged {k b c} (h : Tidy s) : Tidy (applyStaged s k b c) := (h.foldl .planeWrite).foldl .outLine
protected theorem Tidy.clearMarks {slots b} (h : Tidy s) : Tidy (clearMarks s slots b) := h.foldl .unpoison
protected theorem Tidy.applyDeltas {slots b} (h : Tidy s) : Tidy (applyDeltas s slots b) := (h.foldl .mergeAt).foldl .outLine
protected theorem Tidy.applyFlips {k b c} (h : Tidy s) : Tidy (applyFlips s k b c) := h.foldl (fun h => h.planeWrite.outLine)

protected theorem Tidy.applyBad {slots b l} (h : Tidy s) : Tidy (applyBad s slots b l) := by
  unfold applyBad
  dsimp only
  split
  · exact h
  · exact h.logRec.poison.startTest

theorem Tidy.eachCmd {f : State → Nat → Cmd → State} {ks : List Nat} (h : Tidy s) (hf : ∀ {s k c}, Tidy s → Tidy (f s k c)) :
    Tidy (ks.foldl (fun s k => match cmdOf s k with | none => s | some c => f s k c) s) := by
  refine h.foldl fun h => ?_
  split
  · exact h
  · exact hf h

protected theorem Tidy.applySlice {m b bad} (h : Tidy s) : Tidy (applySlice s m b bad) := by
  unfold applySlice
  dsimp only
  refine Tidy.eachCmd ?_ fun h => h.pageApply
  split
  · exact (Tidy.eachCmd (Tidy.applyDeltas (Tidy.clearMarks (h.eachCmd fun h => h.applyStaged))) fun h => h.applyFlips).applyBad
  · exact Tidy.eachCmd (Tidy.applyDeltas (Tidy.clearMarks (h.eachCmd fun h => h.applyStaged))) fun h => h.applyFlips

protected theorem Tidy.setCommit {m} (h : Tidy s) : Tidy (setCommit s m) := h.frame

protected theorem Tidy.execApply {b bad} (h : Tidy s) : Kept (execApply b bad s) := by
  unfold execApply
  dsimp only
  split
  · exact h.next
  · exact .ite h.next ((Tidy.ite h.applySlice.setCommit.applyEnd h.applySlice.setCommit).next)

protected theorem Tidy.execApplyDone {b} (h : Tidy s) : Kept (execApplyDone b s) := by
  unfold execApplyDone
  dsimp only
  split
  · exact h.next
  · exact .ite h.next (.ite h.setCommit.next h.setCommit.next)

/-! ### Convolutions -/

theorem convForm_keeps : convForm.Keeps := ⟨id, fun h => h.putPieces⟩

protected theorem Tidy.execConv {c} (h : Tidy s) : Kept (execConv c s) := (h.engineRow convForm_keeps).next

theorem convgForm_keeps : convgForm.Keeps := ⟨id, fun h => h.putPieces⟩

protected theorem Tidy.execConvg {c} (h : Tidy s) : Kept (execConvg c s) := (h.engineRow convgForm_keeps).next

theorem cwinForm_keeps : cwinForm.Keeps := ⟨id, fun h => h.putPieces⟩

protected theorem Tidy.execCwin {c} (h : Tidy s) : Kept (execCwin c s) := (h.engineRow cwinForm_keeps).next

theorem cropForm_keeps : cropForm.Keeps := ⟨id, fun h => h.putPieces⟩

protected theorem Tidy.execCrop {c} (h : Tidy s) : Kept (execCrop c s) := (h.engineRow cropForm_keeps).next

end Sys2Proof
end

section
/-!
The invariant is kept: ethernet, security, the module and management.
-/
namespace Sys2Proof
open Machine
set_option Elab.async false

variable {s t : State}

/-! ### Ethernet -/

protected theorem Tidy.countDrop {e} (h : Tidy s) : Tidy (countDrop s e) := h.liveSat
protected theorem Tidy.execArpRequest {e tpa} (h : Tidy s) : Kept (execArpRequest e tpa s) := .ite h.hearFrame.sendEth.next h.hearFrame.countDrop.next
protected theorem Tidy.execNeighbourSolicitation {e target} (h : Tidy s) : Kept (execNeighbourSolicitation e target s) :=
  .ite h.hearFrame.sendEth.next h.hearFrame.countDrop.next
protected theorem Tidy.execPauseFrame {e pri quanta} (h : Tidy s) : Kept (execPauseFrame e pri quanta s) :=
  .ite ((Tidy.ite h.hearFrame.frame.unstall h.hearFrame.frame).next) h.hearFrame.next
protected theorem Tidy.setEthLink {e v} (h : Tidy s) : Tidy (setEthLink s e v) := h.liveSet
protected theorem Tidy.execEthLinkUp {e} (h : Tidy s) : Kept (execEthLinkUp e s) := h.setEthLink.next
protected theorem Tidy.execEthLinkDown {e} (h : Tidy s) : Kept (execEthLinkDown e s) := .ite h.setEthLink.ethRec.next h.next
protected theorem Tidy.execCnp {qp} (h : Tidy s) : Kept (execCnp qp s) := .ite h.hearQp.next (.ite h.hearQp.tick.updQp.next h.hearQp.tick.next)
protected theorem Tidy.execCnpRateRecovery {qp} (h : Tidy s) : Kept (execCnpRateRecovery qp s) := h.updQp.next
protected theorem Tidy.cnpSend {n ce} (h : Tidy s) : Tidy (cnpSend s n ce) := .ite h (.ite h.updQp.sendQp (.ite h.tick.sendQp h.tick))
protected theorem Tidy.setExpected {n psn} (h : Tidy s) : Tidy (setExpected s n psn) := h.cfgSet
protected theorem Tidy.takePackets {n len} (h : Tidy s) : Tidy (takePackets s n len) := h.setExpected
protected theorem Tidy.nak {n kind psn} (h : Tidy s) : Tidy (nak s n kind psn) := h.countNak.sendQp
protected theorem Tidy.ack {n psn} (h : Tidy s) : Tidy (ack s n psn) := h.sendQp
protected theorem Tidy.nakError {n kind cause psn} (h : Tidy s) : Tidy (nakError s n kind cause psn) := h.nak.qpError
protected theorem Tidy.outOfOrder {n} (h : Tidy s) : Tidy (outOfOrder s n) := .ite h h.updQp.nak
protected theorem Tidy.inOrder {n psn ce here again} (h : Tidy s) (hhere : ∀ {s}, Tidy s → Tidy (here s)) (hagain : ∀ {s}, Tidy s → Tidy (again s)) :
    Tidy (inOrder s n psn ce here again) := .ite (hhere h.cnpSend.updQp) (.ite (hagain h.cnpSend) h.cnpSend.outOfOrder)
protected theorem Tidy.waitHost {w} (h : Tidy s) : Tidy (waitHost s w) := h.frame
protected theorem Tidy.hostWrite {n psn va data} (h : Tidy s) : Tidy (hostWrite s n psn va data) :=
  .ite h (.ite h.waitHost (.ite h.nakError h.nextCommit.planeWriteMsg.touchLines.ack))
protected theorem Tidy.ackAgain {n} (h : Tidy s) : Tidy (ackAgain s n) := .ite h h.ack
protected theorem Tidy.bufferFull {n len} (h : Tidy s) : Tidy (bufferFull s n len) := .ite h.outOfOrder h
protected theorem Tidy.askPause {n used} (h : Tidy s) : Tidy (askPause s n used) := .ite h.send h
protected theorem Tidy.takeWrite {n m data} (h : Tidy s) : Tidy (takeWrite s n m data) :=
  .ite h.askPause.updQp.takePackets.hostWrite ((Tidy.ite h.askPause h.askPause.updQp.takePackets).bufferFull)

protected theorem Tidy.execRdmaWrite {p psn rkey va data} (h : Tidy s) : Kept (execRdmaWrite p psn rkey va data s) :=
  .ite h.hearQp.next ((h.hearQp.inOrder (fun h => by
      split
      · exact .ite h.nakError h.takeWrite
      · exact .ite h.nak (.ite h.askPause.bufferFull (.ite h.nakError h.takeWrite))) (fun h => h.ackAgain)).next)

protected theorem Tidy.holdRead {x} (h : Tidy s) : Tidy (holdRead s x) := h.frame
protected theorem Tidy.hostAnswer {x} (h : Tidy s) : Tidy (hostAnswer s x) := .ite h.nakError h.sendQp

protected theorem Tidy.hostRead {x} (h : Tidy s) : Tidy (hostRead s x) := by
  unfold hostRead
  dsimp only
  split
  · exact h.holdRead
  · split
    · exact h.holdRead
    · split
      · exact h.nakError
      · split
        · exact h.hostAnswer
        · exact h.holdRead
        · exact .ite h.portRead.hostAnswer h.portRead.holdRead

protected theorem Tidy.execRdmaReadRequest {p rkey va len} (h : Tidy s) : Kept (execRdmaReadRequest p rkey va len s) :=
  .ite h.hearQp.next (h.hearQp.inOrder (fun h => .ite h.nakError h.takePackets.hostRead) (fun h => .ite h.nakError h.hostRead)).next

protected theorem Tidy.execReadHoldRnr {qp} (h : Tidy s) : Kept (execReadHoldRnr qp s) := by
  unfold execReadHoldRnr
  dsimp only
  split
  · exact h.next
  · exact .ite h.next h.frame.setExpected.nak.next

protected theorem Tidy.hostSend {n psn data} (h : Tidy s) : Tidy (hostSend s n psn data) :=
  .ite h (.ite h.waitHost (.ite h.frame.setExpected.nak (.ite h.nakError h.nextCommit.planeWriteMsg.touchLines.ctrAdd.ack)))
protected theorem Tidy.execSend {p data} (h : Tidy s) : Kept (execSend p data s) :=
  .ite h.hearQp.next ((h.hearQp.inOrder (fun h => .ite h.nakError h.takePackets.hostSend) (fun h => h.ackAgain)).next)

protected theorem Tidy.execUnrecognisedFrame {f} (h : Tidy s) : Kept (execUnrecognisedFrame f s) := by
  unfold execUnrecognisedFrame
  dsimp only
  split
  · exact h.hearOdd.countDrop.next
  · exact .ite h.hearOdd.next h.hearOdd.cnpSend.nakError.next

protected theorem Tidy.serveReads (h : Tidy s) : Tidy (serveReads s) := h.frame.foldl .hostRead
protected theorem Tidy.serveLines (h : Tidy s) : Tidy (serveLines s) := h.readsIn.serveReads
protected theorem Tidy.serveAll (h : Tidy s) : Tidy (serveAll s) := h.serveHeld.serveLines

protected theorem Tidy.retryWrite {w} (h : Tidy s) : Tidy (retryWrite s w) := by
  unfold retryWrite
  split
  · exact h.hostWrite
  · exact h.hostSend
  · exact h.writeIn

protected theorem Tidy.serveWaiting (h : Tidy s) : Tidy (serveWaiting s) := h.frame.foldl .retryWrite
protected theorem Tidy.retire {n psn} (h : Tidy s) : Tidy (retire s n psn) := h.updQp

protected theorem Tidy.countResent {e n} (h : Tidy s) : Tidy (countResent s e n) := by
  unfold countResent
  refine .ite h (.ite ?_ ?_)
  · exact Tidy.eth h.tick.ethRec
  · exact Tidy.eth h.tick

protected theorem Tidy.resendPackets {n p} (h : Tidy s) : Tidy (resendPackets s n p) := (h.updQp.foldl .sendQp).countResent
protected theorem Tidy.retryFrom {n p} (h : Tidy s) : Tidy (retryFrom s n p) := .ite h.qpError h.updQp.resendPackets

protected theorem Tidy.execRdmaReadResponse {x data} (h : Tidy s) : Kept (execRdmaReadResponse x data s) := by
  unfold execRdmaReadResponse
  dsimp only
  split
  · exact h.hearQp.next
  · split
    · exact h.hearQp.next
    · split
      · exact h.hearQp.cnpSend.updQp.retire.pumpReads.next
      · exact h.hearQp.cnpSend.updQp.retire.arrived.next

protected theorem Tidy.execAcknowledge {p psn} (h : Tidy s) : Kept (execAcknowledge p psn s) := .ite h.hearQp.cnpSend.retire.next h.hearQp.next
protected theorem Tidy.execSequenceErrorNak {p psn} (h : Tidy s) : Kept (execSequenceErrorNak p psn s) :=
  .ite h.hearQp.cnpSend.countNak.retire.retryFrom.next h.hearQp.next
protected theorem Tidy.execRnrNak {p _delay} (h : Tidy s) : Kept (execRnrNak p _delay s) := .ite h.hearQp.cnpSend.countNak.updQp.next h.hearQp.next
protected theorem Tidy.execRnrDelayExpiry {qp} (h : Tidy s) : Kept (execRnrDelayExpiry qp s) := .ite h.updQp.resendPackets.next h.next
protected theorem Tidy.execRemoteAccessNak {p} (h : Tidy s) : Kept (execRemoteAccessNak p s) :=
  .ite h.hearQp.cnpSend.countNak.qpError.next h.hearQp.next
protected theorem Tidy.execInvalidRequestNak {p} (h : Tidy s) : Kept (execInvalidRequestNak p s) :=
  .ite h.hearQp.cnpSend.countNak.qpError.next h.hearQp.next
protected theorem Tidy.execAckTimeout {qp} (h : Tidy s) : Kept (execAckTimeout qp s) := .ite h.retryFrom.next h.next
protected theorem Tidy.qpReady {n} (h : Tidy s) : Tidy (qpReady s n) := .ite h.cfgSet h
protected theorem Tidy.qpReset {n} (h : Tidy s) : Tidy (qpReset s n) := h.cfgSet.qpStop
protected theorem Tidy.execQpReady {qp} (h : Tidy s) : Kept (execQpReady qp s) := h.qpReady.next
protected theorem Tidy.execQpReset {qp} (h : Tidy s) : Kept (execQpReset qp s) := h.qpReset.next

/-! ### Security -/

protected theorem Tidy.setFwSlot {i m} (h : Tidy s) : Tidy (setFwSlot s i m) := .ite h.frame h.frame
protected theorem Tidy.extend {i x} (h : Tidy s) : Tidy (extend s i x) := h.frame
protected theorem Tidy.measureRom (h : Tidy s) : Tidy (measureRom s) := h.frame.extend
protected theorem Tidy.bootFrom {i} (h : Tidy s) : Tidy (bootFrom s i) := (h.extend.extend.foldl .extend).frame

protected theorem Tidy.execBootRom (h : Tidy s) : Kept (execBootRom s) := by
  unfold execBootRom
  dsimp only
  split
  · split
    · exact h.frame.measureRom.frame.next
    · exact h.frame.measureRom.bootFrom.next
  · exact h.next

protected theorem Tidy.attReport (h : Tidy s) : Tidy (attReport s) := .ite h.reportRefused h.frame
protected theorem Tidy.execAttReport (h : Tidy s) : Kept (execAttReport s) := h.attReport.next

protected theorem Tidy.execAttReportDone (h : Tidy s) : Kept (execAttReportDone s) := by
  unfold execAttReportDone
  dsimp only
  split
  · exact h.next
  · exact h.frame.next

protected theorem Tidy.extendHost {i} (h : Tidy s) : Tidy (extendHost s i) := .ite h.reportRefused h.extend
protected theorem Tidy.execExtendMreg6 (h : Tidy s) : Kept (execExtendMreg6 s) := h.extendHost.next
protected theorem Tidy.execExtendMreg7 (h : Tidy s) : Kept (execExtendMreg7 s) := h.extendHost.next
protected theorem Tidy.killMagic (h : Tidy s) : Tidy (killMagic s) := h.setFwSlot
protected theorem Tidy.fwEnd {result} (h : Tidy s) : Tidy (fwEnd s result) := h.frame

protected theorem Tidy.installImage {bs} (h : Tidy s) : Tidy (installImage s bs) := by
  unfold installImage
  dsimp only
  split
  · exact h.fwEnd.killMagic
  · exact h.frame.setFwSlot

protected theorem Tidy.readImage {a n} (h : Tidy s) : Tidy (readImage s a n) := .ite h.fwEnd.killMagic h.installImage
protected theorem Tidy.install (h : Tidy s) : Tidy (install s) := .ite h.reportRefused (.ite h.fwEnd (.ite h.frame h.readImage))
protected theorem Tidy.execInstall (h : Tidy s) : Kept (execInstall s) := h.install.next

protected theorem Tidy.execInstallDone {ok} (h : Tidy s) : Kept (execInstallDone ok s) := by
  unfold execInstallDone
  dsimp only
  split
  · exact h.next
  · exact .ite h.next (.ite h.fwEnd.next (.ite ((Tidy.ite h.readImage h).next)
      (.ite (((Tidy.ite h.readImage h).fwEnd).next) ((((Tidy.ite h.readImage h).fwEnd).killMagic).next))))

protected theorem Tidy.commitSvn (h : Tidy s) : Tidy (commitSvn s) := .ite h.reportRefused (.ite h.tick.frame.fwEnd h.frame.fwEnd)
protected theorem Tidy.execCommitSvn (h : Tidy s) : Kept (execCommitSvn s) := h.commitSvn.next
protected theorem Tidy.revokeKey0 (h : Tidy s) : Tidy (revokeKey0 s) := .ite h.reportRefused (.ite h.frame.fwEnd h.fwEnd)
protected theorem Tidy.execRevokeKey0 (h : Tidy s) : Kept (execRevokeKey0 s) := h.revokeKey0.next
protected theorem Tidy.verify (h : Tidy s) : Tidy (verify s) := .ite h.reportRefused h.frame
protected theorem Tidy.execVerify (h : Tidy s) : Kept (execVerify s) := h.verify.next
protected theorem Tidy.execVerifyDone (h : Tidy s) : Kept (execVerifyDone s) := .ite h.next ((Tidy.ite h.frame.extend h.frame).next)
protected theorem Tidy.relock (h : Tidy s) : Tidy (relock s) := .ite h.reportRefused h.frame
protected theorem Tidy.execRelock (h : Tidy s) : Kept (execRelock s) := h.relock.next

/-! ### The module -/

protected theorem Tidy.execTelemetryIndexWrite {x} (h : Tidy s) : Kept (execTelemetryIndexWrite x s) := .ite h.next (.ite h.frame.next h.frame.next)
protected theorem Tidy.execTelemetryRead {x} (h : Tidy s) : Kept (execTelemetryRead x s) := .ite h.next (.ite h.send.next h.send.next)
protected theorem Tidy.execTelemetrySample (h : Tidy s) : Kept (execTelemetrySample s) := .ite h.frame.next h.next
protected theorem Tidy.capSample {watts volts amps} (h : Tidy s) : Tidy (capSample watts volts amps s) :=
  .ite (.ite h.frame.liveSet.tick.thermalRec h.frame.liveSet.tick) (.ite (.ite h.frame.liveSet.tick.thermalRec h.frame.liveSet.tick) h.frame.liveSet)
protected theorem Tidy.execCapSample {watts volts amps} (h : Tidy s) : Kept (execCapSample watts volts amps s) := .ite h.capSample.next h.next
protected theorem Tidy.dieSample {temps fall} (h : Tidy s) : Tidy (dieSample temps fall s) :=
  .ite ((Tidy.ite ((((h.foldl .liveSet).frame).liveSet).thermalRec) (((h.foldl .liveSet).frame).liveSet)).thermalRec)
  (.ite ((((h.foldl .liveSet).frame).liveSet).thermalRec) (((h.foldl .liveSet).frame).liveSet))
protected theorem Tidy.execDieTempSample {temps fall} (h : Tidy s) : Kept (execDieTempSample temps fall s) :=
  .ite .fault (.ite h.dieSample.next h.next)
protected theorem Tidy.stackSample {st temp} (h : Tidy s) : Tidy (stackSample st temp s) :=
  .ite ((Tidy.ite ((Tidy.ite h.tick.liveSet.frame.thermalRec h.tick.liveSet.frame).thermalRec)
  (.ite h.tick.liveSet.frame.thermalRec h.tick.liveSet.frame)).thermalRec)
  (.ite ((Tidy.ite h.tick.liveSet.frame.thermalRec h.tick.liveSet.frame).thermalRec)
  (.ite h.tick.liveSet.frame.thermalRec h.tick.liveSet.frame))
protected theorem Tidy.execHbmTempSample {st temp} (h : Tidy s) : Kept (execHbmTempSample st temp s) := .ite .fault (.ite h.stackSample.next h.next)
protected theorem Tidy.execCoolantCheck {inlet outlet} (h : Tidy s) : Kept (execCoolantCheck inlet outlet s) :=
  .ite h.next (.ite (.ite h.frame.next h.frame.frame.thermalRec.next) h.frame.next)
protected theorem Tidy.coolantClear (h : Tidy s) : Tidy (coolantClear s) := h.frame
protected theorem Tidy.execCoolantClear (h : Tidy s) : Kept (execCoolantClear s) := h.coolantClear.next

protected theorem Tidy.fwLoss (h : Tidy s) : Tidy (fwLoss s) := by
  unfold fwLoss
  dsimp only
  split
  · exact h
  · exact .ite h h.setFwSlot

theorem tidy_reset : Tidy State.reset := tidy_iff.mpr inv_reset

protected theorem Tidy.loseState : Tidy (loseState s) := by
  have hp : (loseState s).mem = State.reset.mem := by unfold loseState; rfl
  have hc : (loseState s).cores = State.reset.cores := by unfold loseState; rfl
  have hd : (loseState s).disp = State.reset.disp := by unfold loseState; rfl
  obtain ⟨plane, slots, staged, paired⟩ := tidy_reset
  exact ⟨by rwa [Memory.wf, hp], by rwa [hd], by rwa [hd], by rwa [hc]⟩

protected theorem Tidy.loseInput : Tidy (loseInput s) := Tidy.loseState.frame
protected theorem Tidy.beginStart (h : Tidy s) : Tidy (beginStart s) := .ite h.frame h
protected theorem Tidy.execPowerLoss : Kept (execPowerLoss s) := Tidy.loseInput.next
protected theorem Tidy.execInputUndervoltage : Kept (execInputUndervoltage s) := Tidy.loseInput.next
protected theorem Tidy.execInputRestored (h : Tidy s) : Kept (execInputRestored s) := .ite h.frame.beginStart.next h.next
protected theorem Tidy.execStandbyPowerOn (h : Tidy s) : Kept (execStandbyPowerOn s) := h.frame.next
protected theorem Tidy.execInputFault (h : Tidy s) : Kept (execInputFault s) := .ite Tidy.loseState.frame.next h.next
protected theorem Tidy.execThermalTrip (h : Tidy s) : Kept (execThermalTrip s) := .ite h.next Tidy.loseState.frame.next
protected theorem Tidy.execThermTripRelease (h : Tidy s) : Kept (execThermTripRelease s) := .ite h.next h.frame.next
protected theorem Tidy.execPwrEnRise (h : Tidy s) : Kept (execPwrEnRise s) := h.frame.beginStart.next
protected theorem Tidy.execPwrEnFall (h : Tidy s) : Kept (execPwrEnFall s) := ((Tidy.ite h Tidy.loseState).frame).next
protected theorem Tidy.execResetNAssert (h : Tidy s) : Kept (execResetNAssert s) := .ite h.frame.next Tidy.loseState.frame.next
protected theorem Tidy.execResetNDeassert (h : Tidy s) : Kept (execResetNDeassert s) := h.frame.next
protected theorem Tidy.execModIdChange {v} (h : Tidy s) : Kept (execModIdChange v s) := h.frame.next

/-! ### Management writes -/

protected theorem Tidy.execLatch (h : Tidy s) : Kept (execLatch s) := .ite h.frame.next h.next
protected theorem Tidy.writeQctl {q v} (h : Tidy s) : Tidy (writeQctl s q v) :=
  .ite ((Tidy.ite h.abortMatching h).abortMatching) (.ite h.abortMatching h)
protected theorem Tidy.reserved {off v} (h : Tidy s) : Tidy (reserved s off v) := h.reportReserved
protected theorem Tidy.refuse {off v} (h : Tidy s) : Tidy (refuse s off v) := (Tidy.ite h.reserved h).reportRefused
protected theorem Tidy.writeQp {n w off v} (h : Tidy s) : Tidy (writeQp s n w off v) :=
  .ite h.reserved (.ite (.ite h.putWord h.refuse) (.ite h.refuse (.ite
  (.ite ((Tidy.ite h.putWord.reportClamp h.putWord).qpReady) (.ite ((Tidy.ite h.putWord.reportClamp h.putWord).reportClamp)
  (.ite h.putWord.reportClamp h.putWord))) (.ite h.reserved.qpReset h.refuse))))
protected theorem Tidy.writePkey {k off v} (h : Tidy s) : Tidy (writePkey s k off v) := .ite h.refuse h.putWord
protected theorem Tidy.writeCoreDbg {c w off v} (h : Tidy s) : Tidy (writeCoreDbg s c w off v) :=
  .ite (.ite ((Tidy.ite ((Tidy.ite h.halt h).resume) (.ite h.halt h)).resume) (.ite ((Tidy.ite h.halt h).resume) (.ite h.halt h)))
  (.ite ((Tidy.ite h.reportClamp h).putWord) (.ite h (.ite h.refuse (.ite (h.updCore (fun _ h => h.gSet)) (.ite h.updCore h.updCore)))))
protected theorem Tidy.writeWatch {i w off v} (h : Tidy s) : Tidy (writeWatch s i w off v) :=
  .ite h.reserved (.ite h.watchEnable (.ite h.refuse ((Tidy.ite h.reportClamp h).putWord)))

protected theorem Tidy.writeSec {w off v} (h : Tidy s) : Tidy (writeSec s w off v) := by
  unfold writeSec
  dsimp only
  split
  · exact h.putWord
  · split
    · split
      · exact h.refuse
      · split
        · exact h.install
        · exact h.commitSvn
        · exact h.revokeKey0
        · exact h
    · split
      · split
        · exact h.refuse
        · split
          · exact h.attReport
          · exact h.extendHost
          · exact h.extendHost
          · exact h
      · exact .ite (.ite h.refuse h.frame) (.ite (.ite h.refuse (.ite ((Tidy.ite h.relock h).verify) (.ite h.relock h)))
          (.ite (.ite h.refuse h.frame) h))

protected theorem Tidy.writeGlobal {v} (h : Tidy s) : Tidy (writeGlobal s v) :=
  .ite (.ite (((Tidy.ite (.ite h.haltAll.sendDebug h.haltAll) h).resumeAll).sendDebug) ((Tidy.ite (.ite h.haltAll.sendDebug h.haltAll) h).resumeAll))
  (.ite (.ite h.haltAll.sendDebug h.haltAll) h)

protected theorem Tidy.writeSingle {off v} (h : Tidy s) : KeptOption (writeSingle s off v) :=
  .ite (Tidy.ite h.kvEnable h.kvDisable).some (.ite (Tidy.ite h.groupRegister h.groupUnregister).some
    (.ite h.errlogTailWrite.some (.ite (Tidy.ite h.alertClear h).some (.ite (Tidy.ite h.coolantClear h).some
      (.ite (Tidy.ite h.tick.snapRequest h).some (.ite h.writeGlobal.some .none))))))

protected theorem Tidy.writeSpecial {off v} (h : Tidy s) : KeptOption (writeSpecial s off v) := by
  unfold writeSpecial
  split
  · next ht => exact (h.writeSingle _ ht).some
  · refine .ite h.refuse.some ?_
    split
    · exact .ite h.writeQctl.some .none
    · exact .ite (Tidy.ite h.linkDisable h.linkEnable).some .none
    · exact h.writeSec.some
    · split
      · exact h.writeQp.some
      · exact h.writeCoreDbg.some
      · exact h.writeWatch.some
      · split
        · exact .ite h.writePkey.some .none
        · exact .none

protected theorem Tidy.mgmtPut {off v} (h : Tidy s) : Tidy (mgmtPut s off v) := by
  unfold mgmtPut
  split
  · exact h
  · split
    · exact h.qtailWrite
    · split
      · exact h.putWord
      · exact (Tidy.ite h h.reportReserved).writeSpecial.getD (.ite h h.reportReserved)

protected theorem Tidy.execRegisterWrite {off v} (h : Tidy s) : Kept (execRegisterWrite off v s) := (Tidy.ite h h.mgmtPut).next

/-! ### The factory channel -/

protected theorem Tidy.sendFct {e t x body} (h : Tidy s) : Tidy (sendFct s e t x body) := h.sendEth
protected theorem Tidy.fctAnswer {e src x tseq status} (h : Tidy s) : Tidy (fctAnswer s e src x tseq status) := h.sendFct
protected theorem Tidy.hearFct {e src n} (h : Tidy s) : Tidy (hearFct s e src n) := h.hearFrame
protected theorem Tidy.fctIn {e src x n type k} (h : Tidy s) (hk : ∀ {s}, Tidy s → Tidy (k s)) : Tidy (fctIn s e src x n type k) :=
  .ite h.countDrop (.ite h.fctAnswer (.ite h.fctAnswer (hk h)))
protected theorem Tidy.ringWrite {die q i bs} (h : Tidy s) : Tidy (ringWrite die s q i bs) := .ite h.planeWriteMsg.touchLines h
protected theorem Tidy.ringWrites {die q t recs} (h : Tidy s) : Tidy (ringWrites die s q t recs) := h.foldl .ringWrite
protected theorem Tidy.submit {e src x body} (h : Tidy s) : Tidy (submit s e src x body) :=
  .ite h.fctAnswer (.ite h.fctAnswer (.ite h.fctAnswer (.ite h.fctAnswer (.ite h.fctAnswer (.ite h.fctAnswer h.ringWrites.updQueue.fctAnswer)))))
protected theorem Tidy.execSubmit {e src hdr body} (h : Tidy s) : Kept (execSubmit e src hdr body s) := (h.hearFct.fctIn (fun h => h.submit)).next
protected theorem Tidy.execCompletionAck {e src d} (h : Tidy s) : Kept (execCompletionAck e src d s) := (h.hearFct.fctIn (fun h => h.frame)).next

protected theorem Tidy.execCompletionResend {x} (h : Tidy s) : Kept (execCompletionResend x s) := by
  unfold execCompletionResend
  split
  · exact h.next
  · exact h.sendFct.next

protected theorem Tidy.keepSource {m} (h : Tidy s) : Tidy (keepSource s m) := h.frame
protected theorem Tidy.storeResponse {a x body} (h : Tidy s) : Tidy (storeResponse s a x body) := h.frame

protected theorem Tidy.mgmtRespond {a status vals} (h : Tidy s) : Tidy (mgmtRespond s a status vals) := by
  unfold mgmtRespond
  dsimp only
  split
  · exact h.sendMsg
  · exact h.sendFct.storeResponse

protected theorem Tidy.mgmtAck {a} (h : Tidy s) : Tidy (mgmtAck s a) := h.sendFct
protected theorem Tidy.mgmtPuts {n body} (h : Tidy s) : Tidy (mgmtPuts s n body) := h.foldl .mgmtPut
protected theorem Tidy.mgmtRun {a type n body} (h : Tidy s) : Tidy (mgmtRun s a type n body) :=
  .ite h.mgmtPuts.mgmtRespond (.ite h.tick.snapRequest.frame h.mgmtRespond)
protected theorem Tidy.answerAsks (h : Tidy s) : Tidy (answerAsks s) := h.frame.foldl .mgmtRespond
protected theorem Tidy.mgmtTake {e src x body} (h : Tidy s) : Tidy (mgmtTake s e src x body) :=
  .ite (.ite h.fctAnswer h.frame.keepSource.sendMsg.mgmtAck) (.ite h.fctAnswer (.ite h.keepSource.mgmtRun.mgmtAck h.keepSource.mgmtRun))

protected theorem Tidy.mgmtIn {e src x body} (h : Tidy s) : Tidy (mgmtIn s e src x body) := by
  unfold mgmtIn
  dsimp only
  split
  · exact h.keepSource.mgmtTake
  · exact .ite h.keepSource.sendFct (.ite h.keepSource.fctAnswer h.keepSource.mgmtTake)

protected theorem Tidy.execMgmtRead {e src hdr body} (h : Tidy s) : Kept (execMgmtRead e src hdr body s) := (h.hearFct.fctIn (fun h => h.mgmtIn)).next
protected theorem Tidy.execMgmtWrite {e src hdr body} (h : Tidy s) : Kept (execMgmtWrite e src hdr body s) :=
  (h.hearFct.fctIn (fun h => h.mgmtIn)).next
protected theorem Tidy.mgmtReqIn {m} (h : Tidy s) : Tidy (mgmtReqIn s m) := .ite h (.ite h.mgmtRespond (.ite h.mgmtRespond h.mgmtRun))
protected theorem Tidy.dropForwarded {tag} (h : Tidy s) : Tidy (dropForwarded s tag) := h.frame

protected theorem Tidy.mgmtRespIn {m} (h : Tidy s) : Tidy (mgmtRespIn s m) := by
  unfold mgmtRespIn
  split
  · exact h
  · exact h.dropForwarded.mgmtRespond

protected theorem Tidy.vc3Apply {m} (h : Tidy s) : Tidy (vc3Apply s m) := .ite h.mgmtReqIn (.ite h.mgmtRespIn (.ite h.debugMsg h))
protected theorem Tidy.vc3Take {m} (h : Tidy s) : Tidy (vc3Take s m) := h.frame.vc3Apply

protected theorem Tidy.drainVc3 (h : Tidy s) {src n} : Tidy (drainVc3 src n s) := by
  induction n generalizing s with
  | zero => exact h
  | succ n ih =>
    unfold drainVc3
    split
    · exact h
    · exact ih (Tidy.vc3Take h.frame)

protected theorem Tidy.vc3In {m} (h : Tidy s) : Tidy (vc3In s m) := .ite h.vc3Take.drainVc3 (.ite h.frame h)
protected theorem Tidy.execMgmtReq {m} (h : Tidy s) : Kept (execMgmtReq m s) := .ite h.takeMsg.vc3In.next h.next
protected theorem Tidy.execMgmtResp {m} (h : Tidy s) : Kept (execMgmtResp m s) := .ite h.takeMsg.vc3In.next h.next
protected theorem Tidy.execDebugMsg {m} (h : Tidy s) : Kept (execDebugMsg m s) := .ite h.takeMsg.vc3In.next h.next

protected theorem Tidy.execMgmtForwardTimeout {tag dropped} (h : Tidy s) : Kept (execMgmtForwardTimeout tag dropped s) := by
  unfold execMgmtForwardTimeout
  split
  · exact h.next
  · exact h.dropForwarded.mgmtRespond.next

end Sys2Proof
end

section
/-!
The invariant is kept: fills, grants, release, tests, start-up and synchronisation.
-/
namespace Sys2Proof
open Machine
set_option Elab.async false

variable {s t : State}

/-! ### Fills -/

protected theorem Tidy.fillDone {f} (h : Tidy s) : Tidy (fillDone s f) := by
  unfold fillDone
  split
  · exact h.copyDone
  · exact h

protected theorem Tidy.execHbmLineFill {a flaw} (h : Tidy s) : Kept (execHbmLineFill a flaw s) := by
  unfold execHbmLineFill
  dsimp only
  split
  · exact h.next
  · exact .ite h.next (((h.fillLine.foldl .fillDone).serveLines).next)

/-! ### Grants -/

protected theorem Tidy.headFail {m c} (h : Tidy s) : KeptOption (headFail s m c) := by
  unfold headFail
  split
  · exact h.failFenced.some
  · refine .ite h.failDisp.some (.ite h.failWith.some (.ite ?_ .none))
    split
    · exact h.groupRec.failCmd.some
    · exact .ite h.groupRec.failCmd.some (.ite (.map fun _ => h.groupRec.failCmd.nextSeq') .none)

protected theorem Tidy.collFail {m c} (h : Tidy s) : KeptOption (collFail s m c) := by
  unfold collFail
  dsimp only
  split
  · exact h.failPoison.some
  · exact .none
  · split
    · exact h.failFenced.some
    · exact h.failPoison.some
    · exact .map fun _ => h.failDisp

protected theorem Tidy.grantFail {m core c} (h : Tidy s) : KeptOption (grantFail s m core c) := by
  unfold grantFail
  split
  · exact h.failWith.some
  · refine .ite h.failDisp.some (.ite (.map fun _ => h.failDisp) ?_)
    split
    · exact h.failDisp.some
    · exact .ite h.collFail .none

protected theorem Tidy.liftDeficits {es} (h : Tidy s) : Tidy (liftDeficits s es) := by
  unfold liftDeficits
  split
  · exact h
  · exact .ite h (h.foldl .updQueue)

protected theorem Tidy.startMember {based p} (h : Tidy s) : Tidy (startMember based s p) := by
  unfold startMember
  dsimp only
  split
  · exact h
  · refine .ite (Tidy.openInst ?_) (.ite (Tidy.frame ?_) ?_)
    all_goals
      refine Tidy.frame (Tidy.foldl (.ite (Tidy.mapSlots (Tidy.updCmd (.ite h.reportClamp h)) (fun _ => rfl) fun _ => rfl)
        (Tidy.updCmd (.ite h.reportClamp h))) fun h => h.updCore)

protected theorem Tidy.startSet {k ps} (h : Tidy s) : Tidy (startSet s k ps) :=
  .ite (((h.foldl .startMember).frame).chargeCmd) ((h.foldl .startMember).frame)

protected theorem Tidy.preempt {qs} (h : Tidy s) : Tidy (preempt s qs) := by
  unfold preempt
  dsimp only
  split
  · exact h
  · split
    · exact h
    · split
      · exact h
      · exact h.frame.updCmd.foldl .startKill

protected theorem Tidy.grantSet {k} (h : Tidy s) : Tidy (grantSet s k) := by
  unfold grantSet
  split
  · exact h
  · split
    · next ht => exact KeptOption.findSome? (fun _ => h.grantFail) _ ht
    · exact h.startSet

protected theorem Tidy.execGrant (h : Tidy s) : Kept (execGrant s) := by
  unfold execGrant
  dsimp only
  split
  · next ht => exact Tidy.next (KeptOption.findSome? (fun _ => .findSome? fun _ => h.headFail) _ ht)
  · refine .ite h.preempt.next ?_
    split
    · exact h.liftDeficits.next
    · exact h.liftDeficits.grantSet.next

/-! ### Scans -/

theorem vscanForm_keeps : vscanForm.Keeps := ⟨id, fun h => h.putPieces.putElems⟩

protected theorem Tidy.execVscan {c} (h : Tidy s) : Kept (execVscan c s) := (h.engineRow vscanForm_keeps).next

/-! ### Release -/

protected theorem Tidy.execRelease {b} (h : Tidy s) : Kept (execRelease b s) := by
  unfold execRelease
  split
  · exact h.next
  · exact .ite h.next h.setCommit.serveAll.next

protected theorem Tidy.sendPeerWrite {k e} (h : Tidy s) : Tidy (sendPeerWrite s k e) := h.countQueue.offerWrite
protected theorem Tidy.sendHostWrite {k e} (h : Tidy s) : Tidy (sendHostWrite s k e) := .ite h.ethRec h.countQueue.sendWrite
protected theorem Tidy.sendEgress {k} (h : Tidy s) : Tidy (sendEgress s k) := h.foldl (fun h => .ite h.sendHostWrite h.sendPeerWrite)

protected theorem Tidy.doneSignal {k} (h : Tidy s) : Tidy (doneSignal s k) := by
  unfold doneSignal
  split
  · exact h
  · exact .ite h h.ctrAdd

protected theorem Tidy.dropDists {slots} (h : Tidy s) : Tidy (dropDists s slots) := h.frame

protected theorem Tidy.closeRun {k} (h : Tidy s) : Tidy (closeRun s k) :=
  (h.chargeRest.updCores fun _ _ _ => rfl : Tidy (updCores _ _ fun _ => idleCore)).dropWalks

protected theorem Tidy.closeMember {k} (h : Tidy s) : Tidy (closeMember s k) := h.closeRun.countQueue.instEnd
protected theorem Tidy.noChange {slots} (h : Tidy s) : Tidy (noChange s slots) := h.frame
protected theorem Tidy.commitEnd {m} (h : Tidy s) : Tidy (commitEnd s m) :=
  (((((((((h.foldl .ctrAdd).foldl .doneSignal).foldl .sendEgress).foldl .closeMember).dropDists).noChange).endSet).setCommit).serveWaiting).serveAll

protected theorem Tidy.execReleaseDone (h : Tidy s) : Kept (execReleaseDone s) := by
  unfold execReleaseDone
  split
  · exact h.next
  · exact .ite h.next h.commitEnd.next

protected theorem Tidy.flushSignals {ks} (h : Tidy s) : Tidy (flushSignals s ks) := h.frame.foldl .ctrAdd
protected theorem Tidy.cancelGrants {k} (h : Tidy s) : Tidy (cancelGrants s k) := h.foldl .sendMsg
protected theorem Tidy.forget {ks} (h : Tidy s) : Tidy (forget s ks) := h.frame
protected theorem Tidy.dropStore {ks} (h : Tidy s) : Tidy (dropStore s ks) := .ite h.frame h

protected theorem Tidy.undoMember {k} (h : Tidy s) : Tidy (undoMember s k) := by
  unfold undoMember
  split
  · exact h
  · exact h.cancelGrants.pageUndo.closeRun.countQueue.instEnd

protected theorem Tidy.afterKill {k ks w} (h : Tidy s) : Tidy (afterKill s k ks w) := by
  unfold afterKill
  split
  · exact (h.updCmds (fun _ _ _ => .nil)).afterTests
  · exact (h.updCmds (fun _ _ _ => .nil)).afterTests
  · exact h.endSet
  · exact h.endSet

protected theorem Tidy.killEnd {k w} (h : Tidy s) : Tidy (killEnd s k w) :=
  (((((h.cancelMode.flushSignals.foldl .undoMember).dropDists).dropStore).forget).afterKill).serveAll

protected theorem Tidy.execKillComplete {k} (h : Tidy s) : Kept (execKillComplete k s) := by
  unfold execKillComplete
  split
  · exact h.next
  · split
    · exact h.next
    · exact .ite h.next h.killEnd.next

protected theorem Tidy.execSnapshotRelease (h : Tidy s) : Kept (execSnapshotRelease s) := .ite h.frame.answerAsks.serveWaiting.next h.next
protected theorem Tidy.linkTested {t} (h : Tidy s) : Tidy (linkTested s t) := .ite h.leaveFenced.pump h

protected theorem Tidy.execTestEnd {cls unit pass} (h : Tidy s) : Kept (execTestEnd cls unit pass s) := by
  unfold execTestEnd
  split
  · exact h.next
  · exact .ite h.next h.endTest.linkTested.serveWaiting.serveAll.next

protected theorem Tidy.ringRecord {c r} (h : Tidy s) : Tidy (ringRecord s c r) := .ite h h.sendWrite
protected theorem Tidy.fctRecord {c r} (h : Tidy s) : Tidy (fctRecord s c r) := h.sendFct.updQueue.frame
protected theorem Tidy.closeSlot {k q} (h : Tidy s) : Tidy (closeSlot s k q) := .ite h.forget.freeSlot.frame.updQueue h.forget.freeSlot.frame
protected theorem Tidy.letGo {c} (h : Tidy s) : Tidy (letGo s c) := .ite h.updCore.resumeCore h
protected theorem Tidy.completeCmd {k c} (h : Tidy s) : Tidy (completeCmd s k c) := (((Tidy.ite h.fctRecord h.ringRecord).updQueue).closeSlot).letGo

protected theorem Tidy.execCompletionRecord {k} (h : Tidy s) : Kept (execCompletionRecord k s) := by
  unfold execCompletionRecord
  split
  · exact h.next
  · exact .ite h.next (.ite h.next h.completeCmd.next)

/-! ### Self-tests -/

protected theorem Tidy.execTest {k} (h : Tidy s) : Kept (execTest k s) := by
  unfold execTest
  split
  · exact h.next
  · exact .ite h.next (.ite h.failFenced.next h.begun.requestTest.next)

protected theorem Tidy.failFencedRun {m unit} (h : Tidy s) : Tidy (failFencedRun s m unit) := by
  unfold failFencedRun
  split
  · exact h
  · exact .ite h h.failFenced

protected theorem Tidy.execFence {k} (h : Tidy s) : Kept (execFence k s) := by
  unfold execFence
  dsimp only
  split
  · exact h.next
  · split
    · exact h.next
    · refine Tidy.next ?_
      refine Tidy.finish ?_
      split
      · refine Tidy.leaveFenced ?_
        split
        · exact (Tidy.ite h.begun h.begun.fenceUnit).failFencedRun
        · exact .ite h.begun h.begun.fenceUnit
      · split
        · exact (Tidy.ite h.begun h.begun.fenceUnit).failFencedRun
        · exact .ite h.begun h.begun.fenceUnit

protected theorem Tidy.execUnfence {k} (h : Tidy s) : Kept (execUnfence k s) := by
  unfold execUnfence
  dsimp only
  split
  · exact h.next
  · exact .ite h.next (.ite h.begun.startTest.next h.begun.requestTest.next)

/-! ### Start-up -/

protected theorem Tidy.setStageNo {n} (h : Tidy s) : Tidy (setStageNo s n) := h.frame
protected theorem Tidy.failStage' {code} (h : Tidy s) : Tidy (failStage' s code) := h.frame
protected theorem Tidy.execRails {ok} (h : Tidy s) : Kept (execRails ok s) := .ite ((Tidy.ite h.setStageNo h.setStageNo.failStage').next) h.next
protected theorem Tidy.startLog (h : Tidy s) : Tidy (startLog s) := h.frame.liveSet

protected theorem Tidy.loadSettings (h : Tidy s) : Tidy (loadSettings s) := by
  unfold loadSettings
  dsimp only
  refine .ite (Tidy.extend (Tidy.mram ?_)) (Tidy.extend (Tidy.mram ?_))
  · exact Tidy.reportClamp (Tidy.defaultWays (Tidy.deriveWays (Tidy.defaultSettings (Tidy.mram h.startLog))))
  · exact Tidy.applyImage (Tidy.mram h.startLog)

protected theorem Tidy.execSettingsLoad {ok} (h : Tidy s) : Kept (execSettingsLoad ok s) :=
  .ite (Tidy.ite (h.setStageNo.loadSettings.withPlane (Map.canonical_nil _)) h.setStageNo.failStage').next h.next

protected theorem Tidy.execHbmTraining {bad} (h : Tidy s) : Kept (execHbmTraining bad s) := by
  refine .ite (Tidy.next (Tidy.foldl ?_ fun h => h.fenceUnit)) h.next
  exact (h.setStageNo (n := 5)).withPlane (Map.canonical_nil _)

protected theorem Tidy.execStartupLinks {bad} (h : Tidy s) : Kept (execStartupLinks bad s) :=
  .ite (((h.setStageNo.foldl .updLink).foldl .fenceUnit).next) h.next
protected theorem Tidy.execStartupEthernet (h : Tidy s) : Kept (execStartupEthernet s) := .ite h.setStageNo.liveSet.liveSet.next h.next
protected theorem Tidy.capZero (h : Tidy s) : Tidy (capZero s) := h.liveSet

protected theorem Tidy.countersZero (h : Tidy s) : Tidy (countersZero s) := by
  refine h.withCores (m := s.cores.map fun e => (e.1, { e.2 with issues := 0 })) fun e he => ?_
  obtain ⟨e', he', rfl⟩ := List.mem_map.mp he
  exact h.paired e' he'

protected theorem Tidy.execReady (h : Tidy s) : Kept (execReady s) := .ite h.countersZero.capZero.setStageNo.frame.next h.next
protected theorem Tidy.execStageTimeout (h : Tidy s) : Kept (execStageTimeout s) := .ite h.failStage'.next h.next

/-! ### Synchronisation -/

protected theorem Tidy.execCounterSignal {n} (h : Tidy s) : Kept (execCounterSignal n s) := by
  unfold execCounterSignal
  dsimp only
  split
  · exact h.next
  · exact .ite h.next ((Tidy.ite h.frame.ctrRead.ctrAdd h.frame.ctrRead).next)

protected theorem Tidy.proceed {c who v} (h : Tidy s) : Tidy (proceed s c who v) := by
  unfold proceed
  refine h.watchDrop.updCore fun _ h => ?_
  split
  · split
    · exact Core.Paired.gSet (r := _) (v := v) h
    · exact h
  · split <;> exact h

protected theorem Tidy.execWake {c who} (h : Tidy s) : Kept (execWake c who s) := by
  unfold execWake
  split
  · exact h.next
  · exact h.proceed.next

protected theorem Tidy.pollOne {n w} (h : Tidy s) : Tidy (pollOne n s w) := .ite h.frame.fireWatch (.ite h.frame h)
protected theorem Tidy.execCounterPoll {n} (h : Tidy s) : Kept (execCounterPoll n s) := (h.foldl .pollOne).next
protected theorem Tidy.timeoutRecs {c slot who at' w v} (h : Tidy s) : Tidy (timeoutRecs s c slot who at' w v) := h.logAppend

protected theorem Tidy.execWaitTimeout {c who} (h : Tidy s) : Kept (execWaitTimeout c who s) := by
  unfold execWaitTimeout
  dsimp only
  split
  · split
    · exact h.next
    · split
      · exact h.proceed.next
      · split
        · exact h.next
        · exact .ite h.watchDrop.next h.watchDrop.timeoutRecs.failCmd.next
  · exact h.next

end Sys2Proof
end

section
/-!
The invariant is kept by each instruction, by the idle step, and so by every step.
-/
namespace Sys2Proof
open Machine
set_option Elab.async false

variable {s t : State}

/-- The `next` state of an instruction is tidy. -/
protected theorem Tidy.exec {i} (h : Tidy s) : Kept (exec i s) := by
  cases i with
  | qtailWrite => exact h.execQtailWrite
  | abortOne => exact h.execAbortOne
  | abortAll => exact h.execAbortAll
  | admission => exact h.execAdmit
  | commandReady => exact h.execCommandReady
  | grant => exact h.execGrant
  | deficitCharge => exact h.execDeficitCharge
  | epochWaitTimeout => exact h.execEpochWaitTimeout
  | rtcLapsed => exact h.execRtcLapsed
  | nop => exact h.execNop
  | launch => exact h.execLaunch
  | copy => exact h.execCopy
  | collective => exact h.execCollective
  | fork => exact h.execFork
  | append => exact h.execAppend
  | relocate => exact h.execRelocate
  | free => exact h.execFree
  | mode => exact h.execMode
  | prepare => exact h.execPrepare
  | unitConfirm => exact h.execUnitConfirm
  | publish => exact h.execPublish
  | modeTimeout => exact h.execModeTimeout
  | store => exact h.execStore
  | report => exact h.execReport
  | test => exact h.execTest
  | fence => exact h.execFence
  | unfence => exact h.execUnfence
  | viewRead => exact h.execViewRead
  | viewWrite => exact h.execViewWrite
  | doneReport => exact h.execDoneReport
  | commitRequest => exact h.execCommitRequest
  | failMessage => exact h.execFailMessage
  | abortMessage => exact h.execAbortMessage
  | killComplete => exact h.execKillComplete
  | apply => exact h.execApply
  | applyDone => exact h.execApplyDone
  | release => exact h.execRelease
  | releaseDone => exact h.execReleaseDone
  | completionRecord => exact h.execCompletionRecord
  | holdTimeout => exact h.execHoldTimeout
  | alu => exact h.execAlu
  | addi => exact h.execAddi
  | andi => exact h.execAndi
  | ori => exact h.execOri
  | xori => exact h.execXori
  | shi => exact h.execShi
  | li => exact h.execLi
  | lih => exact h.execLih
  | cmp => exact h.execCmp
  | cmpi => exact h.execCmpi
  | plog => exact h.execPlog
  | br => exact h.execBr
  | call => exact h.execCall
  | jr => exact h.execJr
  | ld => exact h.execLd
  | st => exact h.execSt
  | amo => exact h.execAmo
  | dld => exact h.execDld
  | dst => exact h.execDst
  | drd => exact h.execDrd
  | dwr => exact h.execDwr
  | issue => exact h.execIssue
  | wait => exact h.execWait
  | signal => exact h.execSignal
  | rdctr => exact h.execRdctr
  | drain => exact h.execDrain
  | mfs => exact h.execMfs
  | endProg => exact h.execEndProg
  | icacheFill => exact h.execIcacheFill
  | loadReturn => exact h.execLoadReturn
  | acceptance => exact h.execAcceptance
  | basePoint => exact h.execBasePoint
  | mm => exact h.execMm
  | mmf => exact h.execMmf
  | mmp => exact h.execMmp
  | conv => exact h.execConv
  | convg => exact h.execConvg
  | cwin => exact h.execCwin
  | crop => exact h.execCrop
  | kmm => exact h.execKmm
  | kmmf => exact h.execKmmf
  | kmmp => exact h.execKmmp
  | mv => exact h.execMv
  | vcvt => exact h.execVcvt
  | vadd => exact h.execVadd
  | vsub => exact h.execVsub
  | vmul => exact h.execVmul
  | vfma => exact h.execVfma
  | vmin => exact h.execVmin
  | vmax => exact h.execVmax
  | vdiv => exact h.execVdiv
  | vaff => exact h.execVaff
  | vfn => exact h.execVfn
  | vrow => exact h.execVrow
  | vred => exact h.execVred
  | vsmx => exact h.execVsmx
  | vcmul => exact h.execVcmul
  | vbfly => exact h.execVbfly
  | vtrans => exact h.execVtrans
  | vrng => exact h.execVrng
  | vgate => exact h.execVgate
  | vscan => exact h.execVscan
  | kdesc => exact h.execKdesc
  | kpost => exact h.execKpost
  | ktake => exact h.execKtake
  | engineCopy => exact h.execEngineCopy
  | sync => exact h.execSync
  | engineComplete => exact h.execEngineComplete
  | residueMismatch => exact h.execResidueMismatch
  | walk => exact h.execWalk
  | kvEnable => exact h.execKvEnable
  | kvDisable => exact h.execKvDisable
  | kvInitDone => exact h.execKvInitDone
  | counterSignal => exact h.execCounterSignal
  | wake => exact h.execWake
  | counterPoll => exact h.execCounterPoll
  | waitTimeout => exact h.execWaitTimeout
  | prefetchIssue => exact h.execPrefetchIssue
  | prefetchArrival => exact h.execPrefetchArrival
  | hbmLineFill => exact h.execHbmLineFill
  | scrub => exact h.execScrub
  | hbmTempSample => exact h.execHbmTempSample
  | testEnd => exact h.execTestEnd
  | errlogTailWrite => exact h.execErrlogTailWrite
  | alertClear => exact h.execAlertClear
  | coolantClear => exact h.execCoolantClear
  | registerWrite => exact h.execRegisterWrite
  | groupRegister => exact h.execGroupRegister
  | groupUnregister => exact h.execGroupUnregister
  | linkDisable => exact h.execLinkDisable
  | linkEnable => exact h.execLinkEnable
  | linkTrained => exact h.execLinkTrained
  | dataFlit => exact h.execDataFlit
  | idle => exact h.execIdle
  | retrainRequest => exact h.execRetrainRequest
  | retrainDone => exact h.execRetrainDone
  | downExchange => exact h.execDownExchange
  | replayTimeout => exact h.execReplayTimeout
  | retrainStart => exact h.execRetrainStart
  | retrainAttemptTimeout => exact h.execRetrainAttemptTimeout
  | forward => exact h.execForward
  | readReq => exact h.execReadReq
  | readResp => exact h.execReadResp
  | peerReadTimeout => exact h.execPeerReadTimeout
  | writeReq => exact h.execWriteReq
  | writeGrant => exact h.execWriteGrant
  | write => exact h.execWrite
  | writeAck => exact h.execWriteAck
  | writeCancel => exact h.execWriteCancel
  | grantExpiry => exact h.execGrantExpiry
  | writeResend => exact h.execWriteResend
  | piece => exact h.execPiece
  | credit => exact h.execCredit
  | count => exact h.execCount
  | abandon => exact h.execAbandon
  | mgmtReq => exact h.execMgmtReq
  | mgmtResp => exact h.execMgmtResp
  | mgmtForwardTimeout => exact h.execMgmtForwardTimeout
  | debugMsg => exact h.execDebugMsg
  | arpRequest => exact h.execArpRequest
  | neighbourSolicitation => exact h.execNeighbourSolicitation
  | pauseFrame => exact h.execPauseFrame
  | cnp => exact h.execCnp
  | cnpRateRecovery => exact h.execCnpRateRecovery
  | rdmaWrite => exact h.execRdmaWrite
  | rdmaReadRequest => exact h.execRdmaReadRequest
  | readHoldRnr => exact h.execReadHoldRnr
  | send => exact h.execSend
  | rdmaReadResponse => exact h.execRdmaReadResponse
  | acknowledge => exact h.execAcknowledge
  | sequenceErrorNak => exact h.execSequenceErrorNak
  | rnrNak p delay => exact h.execRnrNak (_delay := delay)
  | rnrDelayExpiry => exact h.execRnrDelayExpiry
  | remoteAccessNak => exact h.execRemoteAccessNak
  | invalidRequestNak => exact h.execInvalidRequestNak
  | ackTimeout => exact h.execAckTimeout
  | qpReady => exact h.execQpReady
  | qpReset => exact h.execQpReset
  | ethLinkUp => exact h.execEthLinkUp
  | ethLinkDown => exact h.execEthLinkDown
  | submit => exact h.execSubmit
  | completionAck => exact h.execCompletionAck
  | completionResend => exact h.execCompletionResend
  | mgmtRead => exact h.execMgmtRead
  | mgmtWrite => exact h.execMgmtWrite
  | snapTake => exact h.execSnapTake
  | latch => exact h.execLatch
  | snapshotRelease => exact h.execSnapshotRelease
  | watchEnable => exact h.execWatchEnable
  | halt => exact h.execHalt
  | resume => exact h.execResume
  | step => exact h.execStep
  | halted => exact h.execHalted
  | haltAll => exact h.execHaltAll
  | resumeAll => exact h.execResumeAll
  | attReport => exact h.execAttReport
  | attReportDone => exact h.execAttReportDone
  | extendMreg6 => exact h.execExtendMreg6
  | extendMreg7 => exact h.execExtendMreg7
  | install => exact h.execInstall
  | installDone => exact h.execInstallDone
  | commitSvn => exact h.execCommitSvn
  | revokeKey0 => exact h.execRevokeKey0
  | verify => exact h.execVerify
  | verifyDone => exact h.execVerifyDone
  | relock => exact h.execRelock
  | telemetryIndexWrite => exact h.execTelemetryIndexWrite
  | telemetryRead => exact h.execTelemetryRead
  | telemetrySample => exact h.execTelemetrySample
  | capSample => exact h.execCapSample
  | dieTempSample => exact h.execDieTempSample
  | coolantCheck => exact h.execCoolantCheck
  | thermalTrip => exact h.execThermalTrip
  | inputFault => exact h.execInputFault
  | inputUndervoltage => exact Tidy.execInputUndervoltage
  | inputRestored => exact h.execInputRestored
  | powerLoss => exact Tidy.execPowerLoss
  | pwrEnRise => exact h.execPwrEnRise
  | pwrEnFall => exact h.execPwrEnFall
  | resetNAssert => exact h.execResetNAssert
  | resetNDeassert => exact h.execResetNDeassert
  | modIdChange => exact h.execModIdChange
  | bootRom => exact h.execBootRom
  | rails => exact h.execRails
  | settingsLoad => exact h.execSettingsLoad
  | hbmTraining => exact h.execHbmTraining
  | startupLinks => exact h.execStartupLinks
  | startupEthernet => exact h.execStartupEthernet
  | ready => exact h.execReady
  | stageTimeout => exact h.execStageTimeout
  | peerHoldTimeout => exact h.execPeerHoldTimeout
  | snapshotDeferredStart => exact h.execSnapshotDeferredStart
  | thermTripRelease => exact h.execThermTripRelease
  | standbyPowerOn => exact h.execStandbyPowerOn
  | groupRegistrationDone => exact h.execGroupRegistrationDone
  | unrecognisedFrame => exact h.execUnrecognisedFrame

protected theorem Tidy.vc3Pump (h : Tidy s) : Tidy (vc3Pump s) := by
  unfold vc3Pump
  split
  · exact h
  · exact .ite (Tidy.launchMsg h.frame) h.tick

protected theorem Tidy.pauseOver {e} (h : Tidy s) : Tidy (pauseOver s e) := .ite (.ite (Tidy.unstall h.frame) h.tick) h

protected theorem Tidy.logicFault (h : Tidy s) : Tidy (logicFault s) := by
  unfold logicFault
  split
  · exact h
  · dsimp only
    split
    · exact Tidy.chipFault h.frame
    · exact h.frame

protected theorem Tidy.idle (h : Tidy s) : Tidy (idle s) := h.logicFault.pauseOver.pauseOver.vc3Pump.serveLines

protected theorem Tidy.step (h : Tidy s) : Kept (step s) := by
  unfold Machine.step
  split
  · exact h.idle.next
  · exact Tidy.exec h.frame

/-- Settles O3: `Tidy`, the invariant by its parts, is kept by every operation on the state, hence by each instruction and by the idle step. -/
theorem stepKeepsInvariant : Obligations.StepKeepsInvariant := by
  unfold Obligations.StepKeepsInvariant
  intro s t hs ht
  exact tidy_iff.mp ((tidy_iff.mpr hs).step t ht)

end Sys2Proof
end

section
namespace Sys2Proof.Machine
set_option Elab.async false

/-! ### Sparse arrays: runs, cleared ranges and rewritten values -/

theorem Map.find?_putRun_outside {α : Type} (vs : List α) : ∀ {m : Map α} {a x : Nat}, (x < a ∨ a + vs.length ≤ x) →
    Map.find? (Map.putRun m a vs) x = Map.find? m x := by
  induction vs with
  | nil => exact fun _ => rfl
  | cons v vs ih =>
    intro m a x h
    rw [List.length_cons] at h
    rw [Map.putRun, ih (by omega), Map.find?_put, if_neg (by omega)]

theorem Map.find?_putRun_inside {α : Type} (vs : List α) : ∀ {m : Map α} {a i : Nat} (h : i < vs.length),
    Map.find? (Map.putRun m a vs) (a + i) = some vs[i] := by
  induction vs with
  | nil => exact fun h => absurd h (Nat.not_lt_zero _)
  | cons v vs ih =>
    intro m a i h
    rw [Map.putRun]
    cases i with
    | zero => rw [find?_putRun_outside vs (by omega), Map.find?_put, if_pos (by omega), List.getElem_cons_zero]
    | succ i =>
      rw [show a + (i + 1) = a + 1 + i by omega, ih (by simpa using h), List.getElem_cons_succ]

theorem Map.find?_filter_key {α : Type} (p : Nat → Bool) (m : Map α) (x : Nat) :
    Map.find? (m.filter fun e => p e.1) x = if p x then Map.find? m x else none := by
  induction m with
  | nil => simp
  | cons e m ih =>
    rw [List.filter_cons]
    by_cases hx : e.1 = x
    · subst hx
      cases hp : p e.1
      · simp [hp, ih]
      · simp
    · cases p e.1 <;> simp [ih, hx]

theorem Map.find?_clear {α : Type} (m : Map α) (lo hi x : Nat) :
    Map.find? (Map.clear m lo hi) x = if lo ≤ x ∧ x < hi then none else Map.find? m x := by
  rw [Map.clear, Map.find?_filter_key fun x => decide (x < lo) || decide (hi ≤ x)]
  by_cases h : lo ≤ x ∧ x < hi
  · rw [if_pos h, if_neg (by simp; omega)]
  · rw [if_neg h, if_pos (by simp; omega)]

theorem Map.find?_map_values {α β : Type} (f : Nat → α → β) (m : Map α) (x : Nat) :
    Map.find? (m.map fun e => (e.1, f e.1 e.2)) x = (Map.find? m x).map (f x) := by
  induction m with
  | nil => rfl
  | cons e m ih =>
    rw [List.map_cons, Map.find?_cons, Map.find?_cons]
    split
    · next h => cases h; rfl
    · exact ih

theorem Map.find?_isSome_iff {α : Type} {m : Map α} {k : Nat} : (Map.find? m k).isSome = true ↔ k ∈ m.map (·.1) := by
  induction m with
  | nil => simp
  | cons e m ih =>
    rw [Map.find?_cons]
    split
    · next h => simp [h]
    · next h => simp [ih, Ne.symm h]

theorem Map.find?_eq_none_of_lt {α : Type} {m : Map α} {k : Nat} (h : ∀ e ∈ m, k < e.1) : Map.find? m k = none := by
  rw [← Option.not_isSome_iff_eq_none, Map.find?_isSome_iff]
  intro hk
  obtain ⟨e, he, rfl⟩ := List.mem_map.mp hk
  exact Nat.lt_irrefl _ (h e he)

/-- Sorted arrays that agree at every key are equal. -/
theorem Map.ext_of_sorted {α : Type} : ∀ {m n : Map α}, Map.sorted m → Map.sorted n → (∀ k, Map.find? m k = Map.find? n k) → m = n
  | [], [], _, _, _ => rfl
  | [], e :: n, _, _, h => by simpa using h e.1
  | e :: m, [], _, _, h => by simpa using h e.1
  | e :: m, f :: n, hm, hn, h => by
    obtain ⟨he, hm⟩ := List.pairwise_cons.mp hm
    obtain ⟨hf, hn⟩ := List.pairwise_cons.mp hn
    have key : e.1 = f.1 := by
      rcases Nat.lt_trichotomy e.1 f.1 with hlt | heq | hgt
      · have := h e.1
        rw [Map.find?_cons, if_pos rfl, Map.find?_eq_none_of_lt (List.forall_mem_cons.mpr ⟨hlt, fun x hx => hlt.trans (hf x hx)⟩)] at this
        cases this
      · exact heq
      · have := h f.1
        rw [Map.find?_cons f, if_pos rfl, Map.find?_eq_none_of_lt (List.forall_mem_cons.mpr ⟨hgt, fun x hx => hgt.trans (he x hx)⟩)] at this
        cases this
    have value : e.2 = f.2 := by simpa [key] using h e.1
    have rest : m = n := by
      refine Map.ext_of_sorted hm hn fun k => ?_
      have hk := h k
      rw [Map.find?_cons, Map.find?_cons, key, value] at hk
      by_cases hkf : f.1 = k
      · subst hkf
        rw [Map.find?_eq_none_of_lt (key ▸ he), Map.find?_eq_none_of_lt hf]
      · simpa [hkf] using hk
    rw [show e = f from Prod.ext key value, rest]

theorem Map.sorted_map_values {α β : Type} {m : Map α} (f : Nat → α → β) (h : Map.sorted m) : Map.sorted (m.map fun e => (e.1, f e.1 e.2)) := by
  rw [Map.sorted, List.pairwise_map]
  exact h

/-! ### The commands of the slots, changed alike -/

theorem sorted_slots_updCmd {s : State} (k : Nat) (f : Cmd → Cmd) (h : Map.sorted s.disp.slots) : Map.sorted (updCmd s k f).disp.slots := by
  unfold updCmd
  split
  · exact h
  · exact Map.sorted_put _ _ h

theorem sorted_slots_updCmds (ks : List Nat) (f : Nat → Cmd → Cmd) : ∀ {s : State}, Map.sorted s.disp.slots →
    Map.sorted (updCmds s ks f).disp.slots := by
  induction ks with
  | nil => exact fun h => h
  | cons k ks ih => exact fun h => ih (sorted_slots_updCmd k (f k) h)

theorem cmdOf_updCmds (f : Nat → Cmd → Cmd) (j : Nat) : ∀ {ks : List Nat} (_ : ks.Nodup) (s : State),
    cmdOf (updCmds s ks f) j = if j ∈ ks then (cmdOf s j).map (f j) else cmdOf s j
  | [], _, _ => by simp [updCmds]
  | k :: ks, h, s => by
    obtain ⟨hk, h⟩ := List.nodup_cons.mp h
    have step : updCmds s (k :: ks) f = updCmds (updCmd s k (f k)) ks f := rfl
    rw [step, cmdOf_updCmds f j h, cmdOf_updCmd]
    by_cases hj : k = j
    · subst hj; simp [hk]
    · simp [hj, Ne.symm hj]

theorem slots_updCmds (f : Nat → Cmd → Cmd) {ks : List Nat} (hk : ks.Nodup) {s : State} (hs : Map.sorted s.disp.slots) :
    (updCmds s ks f).disp.slots = s.disp.slots.map fun e => (e.1, if e.1 ∈ ks then f e.1 e.2 else e.2) := by
  refine Map.ext_of_sorted (sorted_slots_updCmds ks f hs) (Map.sorted_map_values (fun k c => if k ∈ ks then f k c else c) hs) fun j => ?_
  rw [Map.find?_map_values fun k c => if k ∈ ks then f k c else c]
  refine (cmdOf_updCmds f j hk s).trans ?_
  by_cases hj : j ∈ ks <;> simp [hj, cmdOf]

theorem nodup_jointSet {s : State} (k : Nat) (hs : Map.sorted s.disp.slots) : (jointSet s k).Nodup := by
  unfold jointSet
  split
  · exact List.nodup_nil
  · exact (List.Pairwise.map _ (fun _ _ h => Nat.ne_of_lt h) (hs.filter _))

/-- Changes that keep each command's leader keep the joint sets. -/
theorem jointSet_updCmds {f : Nat → Cmd → Cmd} (hf : ∀ m c, (f m c).lead = c.lead) {ks : List Nat} (hk : ks.Nodup) {s : State}
    (hs : Map.sorted s.disp.slots) (k : Nat) : jointSet (updCmds s ks f) k = jointSet s k := by
  have lead : ∀ e : Nat × Cmd, (if e.1 ∈ ks then f e.1 e.2 else e.2).lead = e.2.lead := by
    intro e
    split <;> simp [hf]
  have cmd : (cmdOf (updCmds s ks f) k).map (·.lead) = (cmdOf s k).map (·.lead) := by
    rw [cmdOf_updCmds f k hk]
    split
    · rw [Option.map_map]
      exact congrArg (Option.map · _) (funext fun c => hf k c)
    · rfl
  unfold jointSet
  rw [slots_updCmds f hk hs]
  revert cmd
  cases cmdOf (updCmds s ks f) k <;> cases cmdOf s k
  · exact fun _ => rfl
  · intro h; cases h
  · intro h; cases h
  · intro h
    simp only [Option.map_some, Option.some.injEq] at h
    simp [List.filter_map, Function.comp_def, lead, h]

end Sys2Proof.Machine
end

section
namespace Sys2Proof.Machine
set_option Elab.async false

/-! ### Bytes of a number -/

theorem length_natLE (n : Nat) : ∀ v, (natLE n v).length = n := by
  induction n with
  | zero => exact fun _ => rfl
  | succ n ih => exact fun v => congrArg Nat.succ (ih _)

theorem getElem_natLE (n : Nat) : ∀ (v : Nat) {i : Nat} (h : i < (natLE n v).length), (natLE n v)[i] = BitVec.ofNat 8 (v / 256 ^ i) := by
  induction n with
  | zero => exact fun v i h => absurd h (Nat.not_lt_zero _)
  | succ n ih =>
    intro v i h
    cases i with
    | zero => simp [natLE]
    | succ i =>
      have hi : i < (natLE n (v / 256)).length := Nat.lt_of_succ_lt_succ h
      calc (natLE (n + 1) v)[i + 1] = (natLE n (v / 256))[i] := rfl
        _ = BitVec.ofNat 8 (v / 256 ^ (i + 1)) := by rw [ih, Nat.div_div_eq_div_mul, Nat.pow_succ']

/-! ### Staged bytes as the command sees them (R91) -/

theorem jointSet_stagePut {s : State} (hs : Map.sorted s.disp.slots) (k a : Nat) (bs : List Byte) (thru : Bool) (j : Nat) :
    jointSet (stagePut s k a bs thru) j = jointSet s j :=
  jointSet_updCmds (fun m c => by split <;> rfl) (nodup_jointSet k hs) hs j

theorem cmdOf_stagePut {s : State} (hs : Map.sorted s.disp.slots) (k a : Nat) (bs : List Byte) (thru : Bool) (m : Nat) :
    cmdOf (stagePut s k a bs thru) m = if m ∈ jointSet s k then (cmdOf s m).map fun c =>
      if m = k then { c with staged := Map.putRun c.staged a bs, thru := thruAfter c thru (linesOf a bs.length) }
      else { c with staged := Map.clear c.staged a (a + bs.length) } else cmdOf s m :=
  cmdOf_updCmds _ m (nodup_jointSet k hs) s

/-- A byte that the write covers is staged by the command that wrote it, and by no other of its joint set; others stay. -/
theorem staged_stagePut {s : State} (hs : Map.sorted s.disp.slots) (k a : Nat) (bs : List Byte) (thru : Bool) {m : Nat} (hm : m ∈ jointSet s k) (x : Nat) :
    ((cmdOf (stagePut s k a bs thru) m).bind fun c => Map.find? c.staged x) =
      if h : a ≤ x ∧ x < a + bs.length then (if m = k then (cmdOf s m).map fun _ => bs[x - a] else none)
      else (cmdOf s m).bind fun c => Map.find? c.staged x := by
  rw [cmdOf_stagePut hs, if_pos hm]
  cases cmdOf s m with
  | none => simp
  | some c =>
    by_cases h : a ≤ x ∧ x < a + bs.length
    · have put := Map.find?_putRun_inside bs (m := c.staged) (a := a) (i := x - a) (by omega)
      rw [show a + (x - a) = x by omega] at put
      by_cases hk : m = k <;> simp [hk, h, put, Map.find?_clear]
    · have put := Map.find?_putRun_outside bs (m := c.staged) (a := a) (x := x) (by omega)
      by_cases hk : m = k <;> simp [hk, h, put, Map.find?_clear]

theorem mem_jointSet_self {s : State} {k : Nat} {c : Cmd} (hc : cmdOf s k = some c) : k ∈ jointSet s k := by
  unfold jointSet
  rw [hc]
  exact List.mem_map.mpr ⟨(k, c), List.mem_filter.mpr ⟨Map.mem_of_find? hc, by simp⟩, rfl⟩

theorem findSome?_congr {α β : Type} {f g : α → Option β} {l : List α} (h : ∀ a ∈ l, f a = g a) : l.findSome? f = l.findSome? g := by
  induction l with
  | nil => rfl
  | cons a l ih =>
    obtain ⟨ha, hl⟩ := List.forall_mem_cons.mp h
    rw [List.findSome?_cons, List.findSome?_cons, ha, ih hl]

/-- What the command stages it sees, and each other byte as before (R91). -/
theorem seenByte_stagePut {s : State} (hs : Map.sorted s.disp.slots) {k : Nat} {c : Cmd} (hc : cmdOf s k = some c) (a : Nat) (bs : List Byte)
    (thru : Bool) (x : Nat) :
    seenByte (stagePut s k a bs thru) k x = if h : a ≤ x ∧ x < a + bs.length then bs[x - a] else seenByte s k x := by
  have plane : planeByte (stagePut s k a bs thru) x = planeByte s x := planeByte_congr (by simp) x
  have staged := fun {m} hm => staged_stagePut hs k a bs thru (m := m) hm x
  unfold seenByte
  rw [jointSet_stagePut hs, plane, findSome?_congr fun _ => staged]
  by_cases h : a ≤ x ∧ x < a + bs.length
  · simp only [dif_pos h]
    have hit : ((jointSet s k).findSome? fun m => if m = k then (cmdOf s m).map fun _ => bs[x - a] else none).isSome :=
      List.findSome?_isSome_iff.mpr ⟨k, mem_jointSet_self hc, by simp [hc]⟩
    obtain ⟨v, hv⟩ := Option.isSome_iff_exists.mp hit
    obtain ⟨m, -, hm⟩ := List.exists_of_findSome?_eq_some hv
    split at hm
    · next hk =>
      rw [hk, hc, Option.map_some, Option.some.injEq] at hm
      rw [hv, Option.getD_some, hm]
    · cases hm
  · simp only [dif_neg h]

/-! ### What staging reads of the state -/

/-- Where two states agree on the dispatcher and the registers, they agree on what a write stages and whether it overruns. -/
theorem stageOver_stagePut_congr {s : State} (cores live mem) (k a : Nat) (bs : List Byte) (thru : Bool) :
    stageOver (stagePut { s with cores := cores, live := live, mem := mem } k a bs thru) k = stageOver (stagePut s k a bs thru) k := by
  have upd : ∀ (ks : List Nat) (f : Nat → Cmd → Cmd) (s : State), updCmds { s with cores := cores, live := live, mem := mem } ks f =
      { updCmds s ks f with cores := cores, live := live, mem := mem } := by
    intro ks f
    induction ks with
    | nil => exact fun _ => rfl
    | cons k ks ih =>
      intro s
      have one : updCmd { s with cores := cores, live := live, mem := mem } k (f k) =
          { updCmd s k (f k) with cores := cores, live := live, mem := mem } := by
        unfold updCmd
        rw [show cmdOf { s with cores := cores, live := live, mem := mem } k = cmdOf s k from rfl]
        split <;> rfl
      exact (congrArg (fun t => updCmds t ks f) one).trans (ih _)
  have put : stagePut { s with cores := cores, live := live, mem := mem } k a bs thru =
      { stagePut s k a bs thru with cores := cores, live := live, mem := mem } := upd _ _ s
  rw [put]
  rfl

theorem stageBytes_of_stageOver {s : State} {k a : Nat} {bs : List Byte} {eng core : Option Nat} {thru : Bool}
    (h : stageOver (stagePut s k a bs thru) k = none) : stageBytes s k a bs eng core thru = stagePut s k a bs thru := by
  unfold stageBytes
  dsimp only
  rw [h]

/-! ### A control core's instruction that may issue (R128, R145, R193, R491) -/

theorem readCells_of_no_upsets {s : State} (h : s.flt.upsets = []) (r : Reader) (p : Cell → Bool) : readCells s r p = (s, true) := by
  simp [readCells, h]

theorem icUse_eta (k : Core) (a : Nat) : icUse k a = { k with icPlru := (icUse k a).icPlru } := by
  unfold icUse
  split <;> rfl

theorem issued_eq (k : Core) : issued k = { k with
    icPlru := (icUse k k.pc.toNat).icPlru, issues := k.issues + 1, dbg := { k.dbg with skipOnce := false } } := by
  rw [issued, icUse_eta]

theorem afterIssue_of_not_stepping {s : State} {c : Nat} (h : (coreOf s c).dbg.stepping = false) : afterIssue s c = s := by
  simp [afterIssue, h]

theorem ccTrue_issued (k : Core) (w : BitVec 32) : ccTrue (issued k) w = ccTrue k w := by
  rw [issued_eq]
  rfl

theorem ccIssue_of_legal {s : State} {c slot : Nat} {w : BitVec 32} {raw : BitVec 128} {f : State → Nat → Nat → BitVec 32 → BitVec 128 → State}
    (upsets : s.flt.upsets = []) (known : ccKnown (ccOp w) = true) (bad : ccBad w raw = false) (ht : ccTrue (coreOf s c) w = true)
    (base : (!isBase (ccOp w) || (cmdOf s slot).map (·.based) != some false) = true) : ccIssue s c slot w raw f = f s c slot w raw := by
  have regs : ∀ l, readRegs s c slot l = (s, true) := fun _ => readCells_of_no_upsets upsets _ _
  have legal : ¬ ((!ccKnown (ccOp w)) = true ∨ ccBad w raw = true) := by
    rw [known, bad]
    simp
  have started : ¬ (isBase (ccOp w) = true ∧ (cmdOf s slot).map (·.based) = some false) := by
    rintro ⟨hb, hm⟩
    rw [hb, hm] at base
    cases base
  unfold ccIssue
  simp only [if_neg legal, regs, ite_self, ht, if_neg started, Bool.not_true, Bool.false_eq_true, if_false, if_true]

/-- An instruction that may issue, with a true predicate, does what its opcode says, after what every instruction does (`issued`). -/
theorem ctl_of_issuable {s : State} {c slot : Nat} {w : BitVec 32} {f : State → Nat → Nat → BitVec 32 → BitVec 128 → State}
    (h : issuable s c slot w = true) (ht : ccTrue (coreOf s c) w = true) :
    ctl s c (ccOp w) f = afterIssue (f (updCore s c issued) c slot w ((issueRaw (coreOf s c)).getD 0)) c := by
  simp only [issuable, Bool.and_eq_true, decide_eq_true_eq, Bool.not_eq_true', List.isEmpty_iff] at h
  obtain ⟨⟨⟨⟨⟨⟨⟨⟨⟨⟨upsets, hslot⟩, may⟩, hmiss⟩, word⟩, known⟩, bad⟩, stall⟩, bp⟩, -⟩, base⟩ := h
  have hits : (if (coreOf s c).dbg.skipOnce then [] else bpHits (updCore s c fun k => icUse k k.pc.toNat) c (coreOf s c).pc) = [] := by
    rcases Bool.or_eq_true_iff.mp bp with hskip | hnone
    · rw [if_pos hskip]
    · split
      · rfl
      · exact List.head?_eq_none_iff.mp (Option.isNone_iff_eq_none.mp hnone)
  have pass : updCore (updCore s c fun k => icUse k k.pc.toNat) c (fun k => { k with issues := k.issues + 1, dbg := { k.dbg with skipOnce := false } }) =
      updCore s c issued := by
    rw [updCore_updCore]
    refine congrArg (updCore s c) (funext fun k => ?_)
    unfold issued
    rw [icUse_eta]
  have clean := readCells_of_no_upsets (s := updCore s c fun k => icUse k k.pc.toNat) upsets
  have issue := ccIssue_of_legal (s := updCore s c issued) (c := c) (slot := slot) (f := f) upsets known bad
    (by rw [coreOf_updCore_self, ccTrue_issued, ht]) base
  unfold ctl
  simp only [hslot, may, hmiss, word, Option.getD_some, known, bad, ht, stall, clean, hits, Bool.not_true, Bool.and_true, Bool.not_false, ne_eq, not_true_eq_false,
    and_false, if_false, Bool.true_and, Bool.false_eq_true]
  rw [← issue, ← pass]
  rfl

end Sys2Proof.Machine
end

section
namespace Sys2Proof.Machine
set_option Elab.async false

theorem issuable_upsets {s : State} {c slot : Nat} {w : BitVec 32} (h : issuable s c slot w = true) : s.flt.upsets = [] := by
  simp only [issuable, Bool.and_eq_true, List.isEmpty_iff] at h
  obtain ⟨⟨⟨⟨⟨⟨⟨⟨⟨⟨upsets, -⟩, -⟩, -⟩, -⟩, -⟩, -⟩, -⟩, -⟩, -⟩, -⟩ := h
  exact upsets

theorem issuable_not_stepping {s : State} {c slot : Nat} {w : BitVec 32} (h : issuable s c slot w = true) : (coreOf s c).dbg.stepping = false := by
  simp only [issuable, Bool.and_eq_true, Bool.not_eq_true'] at h
  obtain ⟨⟨-, step⟩, -⟩ := h
  exact step

theorem issuable_cmd {s : State} {c slot : Nat} {w : BitVec 32} (h : issuable s c slot w = true) : ∃ m, cmdOf s slot = some m := by
  simp only [issuable, Bool.and_eq_true] at h
  obtain ⟨⟨⟨⟨⟨⟨⟨⟨⟨-, may⟩, -⟩, -⟩, -⟩, -⟩, -⟩, -⟩, -⟩, -⟩ := h
  cases hm : cmdOf s slot with
  | some m => exact ⟨m, rfl⟩
  | none => simp [mayIssue, hm] at may

/-! ### Plane accesses of a control core (R135, R400, R407, R415) -/

theorem addrCause_eq_none {s : State} {slot : Nat} {a : Word} {n : Nat} (aligned : a.toNat % n = 0) (low : a.toNat < 2 ^ 48)
    (plane : inPlane s a.toNat n = true) (cset : csetOk s slot a.toNat = true) : addrCause s slot a n false = none := by
  have fits : ¬ (2 ^ 48 ≤ a.toNat ∨ (!inPlane s a.toNat n) = true ∨ (!csetOk s slot a.toNat) = true) := by
    rw [plane, cset]
    simpa using low
  unfold addrCause
  rw [if_neg (not_not_intro aligned), if_neg Bool.false_ne_true, if_neg fits]

theorem ccGuard_read {s : State} {c slot a n : Nat} {go : State → State} (upsets : s.flt.upsets = []) (fence : fencedIn s a n = none)
    (clean : seenPoison s slot a n = none) : ccGuard s c slot a n true go = go s := by
  unfold ccGuard
  simp only [fence, readCells_of_no_upsets upsets, clean, Bool.not_true, Bool.false_eq_true, if_false, ite_self]

theorem countPort_eq (s : State) (c n : Nat) (out : Bool) : countPort s c n out = { s with live := (countPort s c n out).live } := by
  unfold countPort
  dsimp only
  split <;> rfl

/-- A read of lines changes the cache's order and the requests alone. -/
theorem sheafAccess_eq (s : State) (k : Option Nat) (a : Asker) (ls : List Nat) (n : Bool) :
    sheafAccess s k a ls n = { s with mem := (sheafAccess s k a ls n).mem } := by
  have fold : ∀ {f : State → Nat → State}, (∀ s l, f s l = { s with mem := (f s l).mem }) →
      ∀ (ls : List Nat) (s : State), ls.foldl f s = { s with mem := (ls.foldl f s).mem } := by
    intro f hf ls
    induction ls with
    | nil => exact fun _ => rfl
    | cons l ls ih =>
      intro s
      rw [List.foldl_cons, ih (f s l), hf s l]
  refine fold (fun s l => ?_) ls s
  dsimp only
  split
  · rfl
  · split
    · rfl
    · split <;> rfl

theorem seenByte_congr {s t : State} (plane : t.mem.plane = s.mem.plane) (disp : t.disp = s.disp) (k : Nat) : seenByte t k = seenByte s k := by
  funext x
  unfold seenByte jointSet cmdOf
  rw [disp, planeByte_congr plane]

/-! ### AMO (R138) -/

theorem issued_loads (k : Core) : (issued k).loads = k.loads := by rw [issued_eq]

theorem issued_pc (k : Core) : (issued k).pc = k.pc := by rw [issued_eq]

theorem gGet_issued (k : Core) (r : Nat) : gGet (issued k) r = gGet k r := by rw [issued_eq]; rfl

/-- The core once its AMO has issued: the old value is outstanding, and the engines' instructions in flight keep theirs. -/
def amoCore (s : State) (slot : Nat) (w : BitVec 32) (a n old : Nat) (k : Core) : Core :=
  storeOver { issued k with pc := k.pc + 4, loads := k.loads ++ [⟨a, k.pc.toNat, true, n, .g (ccGd w) n false, some (BitVec.ofNat 256 old)⟩] }
    (seenByte s slot) 1 a n

/-- The state before the new value is staged. -/
def amoAccess (s : State) (c slot : Nat) (w : BitVec 32) (a n old : Nat) : State :=
  countPort (setCore (sheafAccess (updCore s c issued) (some slot) (.control c (coreOf s c).pc.toNat) (neededLines s slot a n) false) c
    (amoCore s slot w a n old (coreOf s c))) c 64 true

theorem amoFn_eq (denorm aop aw n old v want : Nat) (h : aop < 8) : amoFn denorm aop aw n old v want =
    if aw = 2 then fp32Add denorm old v else if aop = 0 then (old + v) % 2 ^ n
      else if aop = 1 then (if toSigned n old ≤ toSigned n v then old else v)
      else if aop = 2 then (if toSigned n old ≤ toSigned n v then v else old) else if aop = 3 then min old v
      else if aop = 4 then max old v else if aop = 5 then old &&& v else if aop = 6 then old ||| v else if old = want then v else old := by
  unfold amoFn
  split
  · rfl
  · interval_cases aop <;> rfl

theorem execAmo_of_issuable {s : State} {c : CoreId} {slot : Nat} {w : BitVec 32} (hiss : issuable s c.toNat slot w = true)
    (htrue : ccTrue (coreOf s c.toNat) w = true) (hop : ccOp w = 0x1A) {n a old new : Nat} (hn : n = if fld w 2 2 = 1 then 8 else 4)
    (ha : a = (gGet (coreOf s c.toNat) (ccGa w)).toNat) (hold : old = leNat (seenRead s slot a n))
    (hnew : new = amoFn (denormOf s slot) (fld w 4 3) (fld w 2 2) (8 * n) old ((gGet (coreOf s c.toNat) (ccGb w)).toNat % 2 ^ (8 * n))
      ((gGet (coreOf s c.toNat) (ccGd w)).toNat % 2 ^ (8 * n)))
    (cause : addrCause s slot (gGet (coreOf s c.toNat) (ccGa w)) n false = none) (reduce : inReduce s slot a n = true) (fence : fencedIn s a n = none)
    (clean : seenPoison s slot a n = none) :
    exec (.amo c) s = .next (afterIssue (stageBytes (amoAccess s c.toNat slot w a n old) slot a (natLE n new) none (some c.toNat)) c.toNat) := by
  have upsets := issuable_upsets hiss
  show Host.Outcome.next (ctl s c.toNat 0x1A _) = _
  rw [← hop, ctl_of_issuable hiss htrue]
  have addr : ccAddr (issued (coreOf s c.toNat)) w = gGet (coreOf s c.toNat) (ccGa w) := by rw [ccAddr, if_pos hop, gGet_issued]
  have cause' : addrCause (updCore s c.toNat issued) slot (gGet (coreOf s c.toNat) (ccGa w)) n false = none := cause
  have reduce' : inReduce (updCore s c.toNat issued) slot a n = true := reduce
  have fence' : fencedIn (updCore s c.toNat issued) a n = none := fence
  have clean' : seenPoison (updCore s c.toNat issued) slot a n = none := clean
  have upsets' : (updCore s c.toNat issued).flt.upsets = [] := upsets
  dsimp only
  simp only [coreOf_updCore_self, addr, ← hn, cause', ← ha, reduce', ccGuard_read upsets' fence' clean', Bool.not_true, Bool.false_eq_true, if_false]
  have core : ∀ l, coreOf (sheafAccess (updCore s c.toNat issued) (some slot) (.control c.toNat (coreOf s c.toNat).pc.toNat) l false) c.toNat =
      issued (coreOf s c.toNat) := by
    intro l
    rw [sheafAccess_eq]
    exact coreOf_updCore_self s c.toNat issued
  have seen : ∀ l, seenByte (sheafAccess (updCore s c.toNat issued) (some slot) (.control c.toNat (coreOf s c.toNat).pc.toNat) l false) slot =
      seenByte s slot := fun l => seenByte_congr (by simp) (by rw [sheafAccess_eq]; rfl) slot
  have read : seenRead (updCore s c.toNat issued) slot a n = seenRead s slot a n := rfl
  have denorm : denormOf (updCore s c.toNat issued) slot = denormOf s slot := rfl
  have lines : neededLines (updCore s c.toNat issued) slot a n = neededLines s slot a n := rfl
  rw [updCore, issued_pc, core, seen, read, denorm, lines, ← hold, gGet_issued, gGet_issued, ← hnew]
  simp only [advance, issued_loads, issued_pc]
  rfl

end Sys2Proof.Machine
end

section
namespace Sys2Proof.Machine
set_option Elab.async false

/-- An AMO's accesses change cores, registers and the memory's order, and neither the commands nor the plane's bytes. -/
theorem amoAccess_eq (s : State) (c slot : Nat) (w : BitVec 32) (a n old : Nat) : amoAccess s c slot w a n old =
    { s with cores := (amoAccess s c slot w a n old).cores, live := (amoAccess s c slot w a n old).live, mem := (amoAccess s c slot w a n old).mem } := by
  rw [amoAccess, countPort_eq, sheafAccess_eq]
  rfl

theorem amoAccess_cores (s : State) (c slot : Nat) (w : BitVec 32) (a n old : Nat) :
    (amoAccess s c slot w a n old).cores = Map.put (Map.put s.cores c (issued (coreOf s c))) c (amoCore s slot w a n old (coreOf s c)) := by
  rw [amoAccess, countPort_eq, sheafAccess_eq]
  rfl

theorem amoAccess_plane (s : State) (c slot : Nat) (w : BitVec 32) (a n old : Nat) : (amoAccess s c slot w a n old).mem.plane = s.mem.plane := by
  simp [amoAccess]

theorem sameMemory_of_plane {s t : State} (h : t.mem.plane = s.mem.plane) : SameMemory s t := fun a => planeByte_congr h a

/-- Settles O14: the steps of the AMO are evaluated (`execAmo_of_issuable`), and the rules of staging say what its command then sees. -/
theorem immediateAtomics : Obligations.ImmediateAtomics := by
  intro s c slot w inv hiss htrue hop k n a old v want less op new aligned low plane cset reduce fence clean room
  obtain ⟨m, hm⟩ := issuable_cmd hiss
  have slots : Map.sorted s.disp.slots := inv.2.1
  have hnew : new = amoFn (denormOf s slot) (fld w 4 3) (fld w 2 2) (8 * n) old v want :=
    (amoFn_eq _ _ _ _ _ _ _ (Nat.mod_lt _ (by decide))).symm
  have run := execAmo_of_issuable hiss htrue hop rfl rfl rfl hnew (addrCause_eq_none aligned low plane cset) reduce fence clean
  have fits : stageOver (stagePut (amoAccess s c.toNat slot w a n old) slot a (natLE n new)) slot = none := by
    rw [amoAccess_eq, stageOver_stagePut_congr, room]
  rw [stageBytes_of_stageOver fits] at run
  obtain ⟨t, ht⟩ : ∃ t, t = stagePut (amoAccess s c.toNat slot w a n old) slot a (natLE n new) := ⟨_, rfl⟩
  have core : ∀ o, coreOf t o = if c.toNat = o then amoCore s slot w a n old (coreOf s c.toNat) else coreOf s o := by
    intro o
    by_cases ho : c.toNat = o
    · rw [ht, ← ho]
      simp [coreOf, amoAccess_cores]
    · rw [ht, if_neg ho]
      simp [coreOf, amoAccess_cores, Map.get_put_ne _ _ _ ho]
  have idle : (coreOf t c.toNat).dbg.stepping = false := by
    rw [core, if_pos rfl, amoCore, issued_eq]
    exact issuable_not_stepping hiss
  have bytes : seenByte (amoAccess s c.toNat slot w a n old) slot = seenByte s slot :=
    seenByte_congr (amoAccess_plane ..) (by rw [amoAccess_eq]) slot
  rw [← ht, afterIssue_of_not_stepping idle] at run
  refine ⟨t, run, sameMemory_of_plane (by rw [ht]; simp [amoAccess_plane]), fun o ho => by rw [core, if_neg ho.symm], by rw [core, if_pos rfl]; rfl,
    fun x => ?_⟩
  rw [ht, seenByte_stagePut (by rw [amoAccess_eq]; exact slots) (c := m) (by rw [amoAccess_eq]; exact hm), bytes]
  simp only [getElem_natLE, length_natLE, dite_eq_ite]
end Sys2Proof.Machine
end

/-!
The state that refutes O24. Its commit applies the work of a command that has not been decided, which no run reaches and `Inv` allows. Slice 0
brings the staged line of the command in before it merges the command's delta. The victim line is read to be written back, and the read meets an
uncorrectable error on a bridge: the chip becomes faulted (R414), and each command that is not decided ends, so that its delta is dropped.
-/
section
namespace Sys2Proof.Machine
set_option Elab.async false

/-- A sum of 3 in four bytes at 0x10008. -/
def lostDelta : Delta := ⟨0x10008, 4, 0, 0, 0, 0, 3⟩

/-- A LAUNCH in its commit, though not decided, with a byte and a delta staged for one line of slice 0. -/
def undecidedCmd : Cmd :=
  { newCmd 1 0 0 0 0 1 0 0 with
    phase := .committing, csets := BitVec.ofNat 48 (2 ^ 48 - 1), ways := 0xFF, staged := [(0x10000, 1)], deltas := [lostDelta] }

/-- Slice 0 is about to apply: where the staged line goes, a dirty line stands that a bad bridge lies before. -/
def undecidedCommit : State :=
  { State.reset with
    disp := { Dispatch.reset with slots := [(0, undecidedCmd)], current := some ⟨[0], 1, .applying, [0], []⟩ }
    mem := { State.reset.mem with cache := [⟨0, 131072, 0, 0x30000, true⟩] }
    flt := { State.reset.flt with upsets := [⟨.bridge 1 0x30000, true⟩] } }

/-- What the delta's element holds in the state that an instruction leaves. -/
def elementAfter (i : Instr) (s : State) : Option (List Byte) :=
  match exec i s with
  | .next t => some (planeRead t 0x10008 4)
  | _ => none

theorem elementAfter_of_answers {i : Instr} {s t : State} (h : Answers i s t) : elementAfter i s = some (planeRead t 0x10008 4) := by
  unfold elementAfter
  rw [show exec i s = .next t from h]

/-- The command ends in the middle of its own apply, and its delta is never merged. -/
theorem elementAfter_undecidedCommit : elementAfter (.apply 0 none) undecidedCommit = some [0, 0, 0, 0] := by decide +kernel

/-- Refutes O24: the statement takes any command that is listed in the commit under way, decided or not (`undecidedCommit`). The delta of one that is
not decided can be dropped by the same APPLY that ought to merge it. -/
theorem not_applyWritesMemory : ¬ Obligations.ApplyWritesMemory := by
  rintro ⟨applies, -⟩
  obtain ⟨t, run, -, merges, -⟩ := applies undecidedCommit 0 ⟨[0], 1, .applying, [0], []⟩ 0 undecidedCmd (by decide +kernel) rfl rfl rfl
    (by decide) rfl (by decide +kernel) (by decide +kernel) (by decide +kernel) (by decide)
  have merged := merges lostDelta (by decide) (by decide +kernel) [lostDelta] (by decide) (by decide)
  have left : planeRead t 0x10008 4 = [0, 0, 0, 0] :=
    Option.some.inj ((elementAfter_of_answers run).symm.trans elementAfter_undecidedCommit)
  exact absurd (left.symm.trans merged) (by decide +kernel)

end Sys2Proof.Machine
end

section
namespace Sys2Proof.Machine
set_option Elab.async false

/-! ### Fields of a word -/

theorem getLsbD_setFld {n : Nat} (w : BitVec n) (lo len v i : Nat) (hi : i < n) :
    (setFld w lo len v).getLsbD i = if lo ≤ i ∧ i < lo + len then v.testBit (i - lo) else w.getLsbD i := by
  simp only [setFld, BitVec.getLsbD_or, BitVec.getLsbD_and, BitVec.getLsbD_not, BitVec.getLsbD_ofNat, Nat.testBit_shiftLeft,
    Nat.testBit_two_pow_sub_one, Nat.testBit_mod_two_pow, hi, decide_true, Bool.true_and, ge_iff_le]
  by_cases low : lo ≤ i
  · by_cases high : i < lo + len
    · simp [low, high, show i - lo < len by omega]
    · simp [low, high, show ¬ i - lo < len by omega]
  · simp [low]

theorem testBit_fld {n : Nat} (w : BitVec n) (lo len i : Nat) : (fld w lo len).testBit i = (decide (i < len) && w.getLsbD (lo + i)) := by
  rw [fld, Nat.testBit_mod_two_pow, Nat.testBit_shiftRight]
  rfl

theorem fld_setFld_self {n : Nat} (w : BitVec n) {lo len : Nat} (v : Nat) (h : lo + len ≤ n) : fld (setFld w lo len v) lo len = v % 2 ^ len := by
  refine Nat.eq_of_testBit_eq fun i => ?_
  rw [testBit_fld, Nat.testBit_mod_two_pow]
  by_cases hi : i < len
  · rw [getLsbD_setFld _ _ _ _ _ (by omega), if_pos (by omega), Nat.add_sub_cancel_left]
  · simp [hi]

theorem fld_setFld_of_disjoint {n : Nat} (w : BitVec n) {lo len a b : Nat} (v : Nat) (h : a + b ≤ n) (apart : a + b ≤ lo ∨ lo + len ≤ a) :
    fld (setFld w lo len v) a b = fld w a b := by
  refine Nat.eq_of_testBit_eq fun i => ?_
  rw [testBit_fld, testBit_fld]
  by_cases hi : i < b
  · rw [getLsbD_setFld _ _ _ _ _ (by omega), if_neg (by omega)]
  · simp [hi]

theorem fld_lt {n : Nat} (w : BitVec n) (lo len : Nat) : fld w lo len < 2 ^ len := Nat.mod_lt _ (Nat.two_pow_pos _)

/-! ### Fields of a register -/

theorem cfg_congr {s t : State} {off : Nat} (h : regGet t off = regGet s off) (lo len : Nat) : cfg t off lo len = cfg s off lo len := by rw [cfg, h, cfg]

theorem regGet_of_regs {s t : State} (h : t.regs = s.regs) (off : Nat) : regGet t off = regGet s off := by rw [regGet, h, regGet]

theorem cfg_cfgSet_self (s : State) (off : Nat) {lo len : Nat} (v : Nat) (h : lo + len ≤ 64) : cfg (cfgSet s off lo len v) off lo len = v % 2 ^ len := by
  rw [cfg, regGet_cfgSet, if_pos rfl, fld_setFld_self _ _ h]

theorem regGet_cfgSet_ne (s : State) {off o : Nat} (lo len v : Nat) (h : off ≠ o) : regGet (cfgSet s off lo len v) o = regGet s o := by
  rw [regGet_cfgSet, if_neg h]

theorem cfg_cfgSet_of_disjoint (s : State) (off o : Nat) {lo len a b : Nat} (v : Nat) (h : a + b ≤ 64) (apart : off = o → a + b ≤ lo ∨ lo + len ≤ a) :
    cfg (cfgSet s off lo len v) o a b = cfg s o a b := by
  by_cases ho : off = o
  · subst ho
    rw [cfg, regGet_cfgSet, if_pos rfl, fld_setFld_of_disjoint _ _ h (apart rfl), cfg]
  · exact cfg_congr (regGet_cfgSet_ne s lo len v ho) a b

/-! ### Records and reports -/

/-- Of the dispatcher, a record changes the commands alone, which keep the index of the first record that names them. -/
theorem updCmd_disp (s : State) (k : Nat) (f : Cmd → Cmd) : (updCmd s k f).disp = { s.disp with slots := (updCmd s k f).disp.slots } := by
  unfold updCmd
  split <;> rfl

theorem noteIndex_disp (s : State) (k : Option Nat) (i : Nat) : (noteIndex s k i).disp = { s.disp with slots := (noteIndex s k i).disp.slots } := by
  unfold noteIndex
  split
  · rfl
  · exact updCmd_disp ..

theorem logAppend_disp (s : State) (rs : List ErrRec) : (logAppend s rs).disp = { s.disp with slots := (logAppend s rs).disp.slots } := by
  simp only [logAppend]
  generalize logMakeRoom _ _ _ _ = room
  split
  · rfl
  · split
    · rw [noteIndex_disp]
      (repeat' split) <;> rfl
    · (repeat' split) <;> rfl

theorem noteIndex_flt (s : State) (k : Option Nat) (i : Nat) : (noteIndex s k i).flt = s.flt := by simp

/-- A record leaves the errors that the next reads find. -/
theorem logAppend_upsets (s : State) (rs : List ErrRec) : (logAppend s rs).flt.upsets = s.flt.upsets := by
  simp only [logAppend]
  generalize logMakeRoom _ _ _ _ = room
  split
  · rfl
  · split
    · rw [noteIndex_flt]
      (repeat' split) <;> rfl
    · (repeat' split) <;> rfl

theorem markClamped_disp (o : Origin) (s : State) : (markClamped o s).disp = { s.disp with slots := (markClamped o s).disp.slots } := by
  unfold markClamped
  split
  · rfl
  · exact updCmd_disp ..

theorem countClamp_disp (o : Origin) (d req app : Nat) (s : State) : (countClamp o d req app s).disp = s.disp := by
  unfold countClamp
  split <;> rfl

theorem reportClamp_disp (s : State) (o : Origin) (reason off lo len req app : Nat) :
    (reportClamp s o reason off lo len req app).disp = { s.disp with slots := (reportClamp s o reason off lo len req app).disp.slots } := by
  rw [reportClamp, countClamp_disp, markClamped_disp, logAppend_disp]

end Sys2Proof.Machine
end

section
namespace Sys2Proof.Machine
set_option Elab.async false
variable {s t : State} {k : Nat} {c : Cmd}

/-! ### A command that is alone in the dispatcher (R115) -/

/-- Slot `k` alone holds a command: `c`, but for the marks that records leave on it. -/
def SoleCmd (s : State) (k : Nat) (c : Cmd) : Prop := ∃ e b, s.disp.slots = [(k, { c with errIdx := e, clamped := b })]

theorem SoleCmd.of_slots (h : SoleCmd s k c) (slots : t.disp.slots = s.disp.slots) : SoleCmd t k c := by
  obtain ⟨e, b, h⟩ := h
  exact ⟨e, b, slots.trans h⟩

theorem Map.put_sole {α : Type} (k : Nat) (v w : α) : Map.put [(k, v)] k w = [(k, w)] := by
  simp [Map.put, Map.erase, Map.insert]

/-- A change of one command that leaves it its marks alone keeps it alone. -/
theorem SoleCmd.updCmd (h : SoleCmd s k c) {j : Nat} {f : Cmd → Cmd}
    (marks : ∀ e b, ∃ e' b', f { c with errIdx := e, clamped := b } = { c with errIdx := e', clamped := b' }) : SoleCmd (updCmd s j f) k c := by
  obtain ⟨e, b, h⟩ := h
  obtain ⟨e', b', marks⟩ := marks e b
  unfold Machine.updCmd cmdOf
  by_cases hj : k = j
  · subst hj
    refine ⟨e', b', ?_⟩
    simp [h, Map.put_sole, marks]
  · refine ⟨e, b, ?_⟩
    simp [h, hj]

theorem SoleCmd.noteIndex (h : SoleCmd s k c) (j : Option Nat) (i : Nat) : SoleCmd (noteIndex s j i) k c := by
  unfold Machine.noteIndex
  split
  · exact h
  · exact h.updCmd fun e b => ⟨_, b, rfl⟩

theorem SoleCmd.logAppend (h : SoleCmd s k c) (rs : List ErrRec) : SoleCmd (logAppend s rs) k c := by
  simp only [Machine.logAppend]
  generalize logMakeRoom _ _ _ _ = room
  split
  · exact h.of_slots rfl
  · split
    · refine SoleCmd.noteIndex (h.of_slots ?_) _ _
      (repeat' split) <;> rfl
    · refine h.of_slots ?_
      (repeat' split) <;> rfl

theorem SoleCmd.reportClamp (h : SoleCmd s k c) (o : Origin) (reason off lo len req app : Nat) :
    SoleCmd (reportClamp s o reason off lo len req app) k c := by
  refine SoleCmd.of_slots (s := markClamped o (Machine.logAppend s (clampRecs o reason off lo len req app))) ?_ (by
    rw [Machine.reportClamp, countClamp_disp])
  unfold markClamped
  split
  · exact h.logAppend _
  · exact (h.logAppend _).updCmd fun e b => ⟨e, true, rfl⟩

theorem SoleCmd.cmdOf (h : SoleCmd s k c) : ∃ e b, cmdOf s k = some { c with errIdx := e, clamped := b } := by
  obtain ⟨e, b, h⟩ := h
  exact ⟨e, b, by simp [Machine.cmdOf, h]⟩

/-! ### Its work ends -/

/-- The channel of an address lies by the register of its channel sets (R52). -/
theorem channelOf_congr (sets : ∀ i < 48, regGet t (mCset i) = regGet s (mCset i)) {a : Nat} (ha : a < hbmSize) : channelOf t a = channelOf s a := by
  have stack : a / 0x300000000 < 48 := Nat.div_lt_of_lt_mul ha
  simp only [channelOf, hbmDecode, cfg, sets _ stack]

theorem stagedFenced_congr (fence : t.flt.chanFence = s.flt.chanFence) (sets : ∀ i < 48, regGet t (mCset i) = regGet s (mCset i)) (c : Cmd) :
    stagedFenced t c = stagedFenced s c := by
  unfold stagedFenced chanFenced
  rw [fence]
  refine congrArg (List.find? _) (List.map_congr_left fun a ha => channelOf_congr sets ?_)
  simpa using (List.mem_filter.mp ha).2

/-- Whether a command writes part of a poisoned line goes by the marks and by what it has staged (R406). -/
theorem partialPoison_of_subset {d : Cmd} (hs : cmdOf s k = some c) (ht : cmdOf t k = some d) (staged : d.staged = c.staged)
    (deltas : d.deltas = c.deltas) (annex : d.annex = c.annex) (poison : ∀ l ∈ t.mem.poison, l ∈ s.mem.poison)
    (h : partialPoison s [k] = none) : partialPoison t [k] = none := by
  have lines : d.writesLine = c.writesLine := by
    funext l
    rw [Cmd.writesLine, Cmd.flips, staged, deltas, annex, Cmd.writesLine, Cmd.flips]
  unfold partialPoison at h ⊢
  simp only [List.findSome?_eq_none_iff, List.filterMap_cons, List.filterMap_nil, hs, ht, Option.map_some] at h ⊢
  intro l hl
  have := h l (poison l hl)
  simpa [staged, lines] using this

/-- A command that is alone, whose targets are neither fenced nor poisoned, ends its work and asks for its commit. -/
theorem finish_soleCmd (sole : SoleCmd t k c) (running : c.phase = .running) (kill : c.kill = none) (sent : c.failSent = false)
    (before : cmdOf s k = some c) (fence : t.flt.chanFence = s.flt.chanFence) (sets : ∀ i < 48, regGet t (mCset i) = regGet s (mCset i))
    (poison : ∀ l ∈ t.mem.poison, l ∈ s.mem.poison) (open' : stagedFenced s c = none) (clean : partialPoison s [k] = none) :
    ∃ d, finish t k = { t with disp := { t.disp with slots := [(k, d)] } } ∧ d.reqSent = true ∧ d.fin = true := by
  obtain ⟨e, b, slots⟩ := sole
  have cmd : cmdOf t k = some { c with errIdx := e, clamped := b } := by simp [cmdOf, slots]
  obtain ⟨d, hd⟩ : ∃ d, d = { c with errIdx := e, clamped := b, fin := true } := ⟨_, rfl⟩
  obtain ⟨u, hu⟩ : ∃ u, u = setCmd t k d := ⟨_, rfl⟩
  have held : u.disp.slots = [(k, d)] := by simp [hu, slots, Map.put_sole]
  have now : cmdOf u k = some d := by simp [cmdOf, held]
  have set : jointSet u k = [k] := by simp [jointSet, now, held]
  have free : setFenced u [k] = none := by
    have := stagedFenced_congr (s := s) (t := u) (by rw [hu]; exact fence) (by rw [hu]; exact sets) c
    have targets : stagedFenced u d = none := by rw [hd]; exact this.trans open'
    simp [setFenced, now, targets]
  have whole : partialPoison u [k] = none :=
    partialPoison_of_subset before now (by rw [hd]) (by rw [hd]) (by rw [hd]) (by rw [hu]; exact poison) clean
  obtain ⟨asked, ha⟩ : ∃ m, m = { d with reqSent := true } := ⟨_, rfl⟩
  refine ⟨asked, ?_, by rw [ha], by rw [ha, hd]⟩
  have stops : ¬ (c.phase ≠ .running ∨ c.kill.isSome = true ∨ c.failSent = true) := by simp [running, kill, sent]
  unfold finish
  simp only [cmd]
  rw [if_neg stops, ← hd, ← hu]
  have fin : d.fin = true := by rw [hd]
  have asks : updCmds u [k] (fun _ c => { c with reqSent := true }) = setCmd u k asked := by simp [updCmds, updCmd, now, ha]
  simp only [set, List.all_cons, List.all_nil, now, Option.map_some, Option.getD_some, fin, Bool.and_self, if_true, free, whole]
  rw [asks, setCmd, held, Map.put_sole, hu]
  rfl

end Sys2Proof.Machine
end

section
namespace Sys2Proof.Machine
set_option Elab.async false
variable {s t : State} {k : Nat} {c : Cmd}

/-! ### MODE: the drain begins (R114, R115) -/

theorem modeCap_of_no_limit (s : State) (k : Nat) {b : BitVec 64} (h : fld b 48 16 = 0) : modeCap s k b = (s, b) := by
  unfold modeCap
  exact if_pos h

theorem cmdOf_of_atWork {kind : Nat} (h : atWork s k kind = some c) : cmdOf s k = some c := by
  unfold atWork at h
  split at h
  · cases h
  · next hc =>
    split at h
    · rw [hc, Option.some.inj h]
    · cases h

theorem cmdOf_begun (s : State) (k j : Nat) : cmdOf (begun s k) j = if k = j then (cmdOf s k).map fun c => { c with work := true } else cmdOf s j :=
  cmdOf_updCmd ..

theorem execMode_of_block {k : SlotId} (work : atWork s k.toNat 0x07 = some c) (op : c.setOp = 1) (held : heldFor s k.toNat c.setAddr 8 = false)
    (sets : csetBad s k.toNat c.setAddr 8 = none) (fence : fencedIn s c.setAddr 8 = none) (clean : poisonIn s c.setAddr 8 = none)
    (good : modeBad (modeBlock s c) = none) (next : c.newEpoch = (s.disp.epoch + 1).toNat) (cap : fld (modeBlock s c) 48 16 = 0) :
    exec (.mode k) s = .next (setChange (begun s k.toNat) 1 (some
      { slot := k.toNat, epoch := s.disp.epoch + 1, shadow := modeBlock s c, split := splitChange s k.toNat c, confirmed := [] })) := by
  have epoch : BitVec.ofNat 32 c.newEpoch = s.disp.epoch + 1 := by rw [next, BitVec.ofNat_toNat, BitVec.setWidth_eq]
  show execMode k s = _
  unfold execMode
  simp only [work, op, held, sets, fence, clean, good, modeCap_of_no_limit _ _ cap, epoch]
  simp [next]

theorem setChange_cmdOf (s : State) (phase : Nat) (m : Option ModeChange) (j : Nat) : cmdOf (setChange s phase m) j = cmdOf s j := rfl

/-! ### PREPARE: the departing ways are written back (R38, R116) -/

theorem readBack_of_no_upsets (h : s.flt.upsets = []) (v : CLine) : readBack s v = s := by
  unfold readBack systemRead systemAccess
  rw [h]
  split <;> rfl

theorem countHbm_eq (s : State) (slot core quad : Option Nat) (ch n : Nat) :
    countHbm s slot core quad ch n = { s with live := (countHbm s slot core quad ch n).live } := by
  simp only [countHbm]
  repeat' split
  all_goals rfl

/-- The cache once `v` has been written back. -/
def cleaned (cache : List CLine) (v : CLine) : List CLine := mapIf (fun x => x = v) (fun x => { x with dirty := false }) cache

theorem cleaned_of_clean {cache : List CLine} {v : CLine} (h : v.dirty = false) : cleaned cache v = cache := by
  refine (List.map_congr_left fun x _ => ?_).trans (List.map_id cache)
  split
  · next hx =>
    rw [of_decide_eq_true hx, ← h]
    rfl
  · rfl

theorem mem_cleaned {cache : List CLine} {v x : CLine} (hx : x ∈ cleaned cache v) (dirty : x.dirty = true) : x ∈ cache ∧ x ≠ v := by
  obtain ⟨y, hy, rfl⟩ := List.mem_map.mp hx
  by_cases hv : y = v
  · simp [hv] at dirty
  · simpa [hv] using hy

theorem cleanLine_eq (h : s.flt.upsets = []) (k : Nat) (v : CLine) :
    ∃ live, cleanLine k s v = { s with mem := { s.mem with cache := cleaned s.mem.cache v }, live := live } := by
  unfold cleanLine
  split
  · rw [readBack_of_no_upsets h]
    dsimp only
    split
    · exact ⟨_, rfl⟩
    · rw [countHbm_eq]
      exact ⟨_, rfl⟩
  · next clean =>
    rw [cleaned_of_clean (Bool.eq_false_iff.mpr clean)]
    exact ⟨_, rfl⟩

theorem foldl_cleanLine_eq (k : Nat) : ∀ (vs : List CLine) {s : State} (_ : s.flt.upsets = []),
    ∃ live, vs.foldl (cleanLine k) s = { s with mem := { s.mem with cache := vs.foldl cleaned s.mem.cache }, live := live }
  | [], _, _ => ⟨_, rfl⟩
  | v :: vs, s, h => by
    obtain ⟨live, hv⟩ := cleanLine_eq h k v
    obtain ⟨live', hvs⟩ := foldl_cleanLine_eq k vs (s := cleanLine k s v) (by rw [hv]; exact h)
    refine ⟨live', ?_⟩
    rw [List.foldl_cons, hvs, hv]
    rfl

/-- What is dirty after a round of writing back was dirty before, and was not written back. -/
theorem mem_foldl_cleaned {x : CLine} (dirty : x.dirty = true) : ∀ {vs cache : List CLine}, x ∈ vs.foldl cleaned cache → x ∈ cache ∧ x ∉ vs
  | [], _, h => ⟨h, List.not_mem_nil⟩
  | v :: vs, cache, h => by
    obtain ⟨hx, hvs⟩ := mem_foldl_cleaned dirty (vs := vs) h
    obtain ⟨hx, hv⟩ := mem_cleaned hx dirty
    exact ⟨hx, by simp [hv, hvs]⟩

theorem execPrepare_of_drained {m : ModeChange} (change : s.disp.change = some m) (phase : s.disp.phase = 1) (done : drained s m.slot = true)
    (split' : m.split = false ∨ s.flt.upsets = []) : ∃ cache live, exec .prepare s =
      .next { setChange s 2 (some m) with mem := { s.mem with cache := cache }, live := live } ∧
      (m.split = true → ∀ l ∈ cache, cacheWays (fld m.shadow 0 3) ≤ l.way → l.dirty = false) := by
  have go : ¬ (s.disp.phase ≠ 1#2 ∨ (!drained s m.slot) = true) := by simp [phase, done]
  show ∃ cache live, execPrepare s = _ ∧ _
  unfold execPrepare
  simp only [change]
  rw [if_neg go]
  cases hs : m.split with
  | false => exact ⟨_, _, rfl, by simp⟩
  | true =>
    have upsets : (setChange s 2 (some m)).flt.upsets = [] := split'.resolve_left (by simp [hs])
    obtain ⟨live, fold⟩ := foldl_cleanLine_eq m.slot ((setChange s 2 (some m)).mem.cache.filter fun c => decide (cacheWays (fld m.shadow 0 3) ≤ c.way))
      upsets
    refine ⟨_, live, congrArg Host.Outcome.next fold, fun _ l hl way => ?_⟩
    by_contra dirty
    obtain ⟨mem, left⟩ := mem_foldl_cleaned (Bool.not_eq_false _ ▸ dirty) hl
    exact left (List.mem_filter.mpr ⟨mem, by simpa using way⟩)

/-! ### MODE_TIMEOUT (R116, R118) -/

theorem cmdOf_logAppend (h : cmdOf s k = some c) (rs : List ErrRec) : ∃ e, cmdOf (logAppend s rs) k = some { c with errIdx := e } := by
  have note : ∀ {t : State} (j : Option Nat) (i : Nat), t.disp.slots = s.disp.slots → ∃ e, cmdOf (noteIndex t j i) k = some { c with errIdx := e } := by
    intro t j i slots
    have held : cmdOf t k = some c := by rw [cmdOf, slots]; exact h
    unfold noteIndex
    split
    · exact ⟨_, held⟩
    · rw [cmdOf_updCmd]
      split
      · next hk =>
        rw [hk, held]
        exact ⟨_, rfl⟩
      · exact ⟨_, held⟩
  simp only [logAppend]
  generalize logMakeRoom _ _ _ _ = room
  split
  · exact ⟨_, h⟩
  · split
    · refine note _ _ ?_
      (repeat' split) <;> rfl
    · refine ⟨c.errIdx, ?_⟩
      (repeat' split) <;> exact h

/-- A change that is the same when made twice reaches each command of the slots named. -/
theorem cmdOf_updCmds_of_idem {f : Cmd → Cmd} (idem : ∀ c, f (f c) = f c) (j : Nat) : ∀ (ks : List Nat) (s : State),
    cmdOf (updCmds s ks fun _ => f) j = if j ∈ ks then (cmdOf s j).map f else cmdOf s j
  | [], _ => rfl
  | k :: ks, s => by
    have step : updCmds s (k :: ks) (fun _ => f) = updCmds (updCmd s k f) ks fun _ => f := rfl
    rw [step, cmdOf_updCmds_of_idem idem j ks, cmdOf_updCmd]
    by_cases hj : k = j
    · subst hj
      by_cases hk : k ∈ ks <;> simp [hk, Function.comp_def, idem]
    · simp [hj, Ne.symm hj]

/-- A running command that is not decided fails by a message (R113). -/
theorem failCmd_of_running (h : cmdOf s k = some c) (running : c.phase = .running) (open' : c.decided = false) :
    failCmd s k = updCmds s (jointSet s k) (fun _ m => { m with failSent := true }) ∧
      cmdOf (failCmd s k) k = some { c with failSent := true } := by
  have run : failCmd s k = updCmds s (jointSet s k) (fun _ m => { m with failSent := true }) := by
    simp [failCmd, h, running, open']
  refine ⟨run, ?_⟩
  rw [run, cmdOf_updCmds_of_idem (f := fun m => { m with failSent := true }) fun _ => rfl, if_pos (mem_jointSet_self h), h]
  rfl

end Sys2Proof.Machine
end

section
namespace Sys2Proof.Machine
set_option Elab.async false
variable {s t u : State} {k : Nat} {c : Cmd}

/-! ### Folds whose steps each have a place of their own -/

theorem foldl_keeps_of_mem {α β : Type} (p : State → β) {f : State → α → State} : ∀ (l : List α) (_ : ∀ s, ∀ a ∈ l, p (f s a) = p s) (s : State),
    p (l.foldl f s) = p s
  | [], _, _ => rfl
  | a :: l, h, s => (foldl_keeps_of_mem p l (fun s b hb => h s b (List.mem_cons_of_mem a hb)) (f s a)).trans (h s a List.mem_cons_self)

/-- Each step changes its own value by `g`, and the others not. -/
theorem foldl_each {β : Type} {f : State → Nat → State} {val : State → Nat → β} {g : β → β} {I : State → Prop} : ∀ {l : List Nat} (_ : l.Nodup)
    (_ : ∀ s, ∀ a ∈ l, I s → I (f s a)) (_ : ∀ s, ∀ a ∈ l, I s → val (f s a) a = g (val s a))
    (_ : ∀ s, ∀ a ∈ l, ∀ b ∈ l, a ≠ b → val (f s a) b = val s b) {s : State} (_ : I s) {a : Nat} (_ : a ∈ l), val (l.foldl f s) a = g (val s a)
  | [], _, _, _, _, _, _, _, ha => absurd ha List.not_mem_nil
  | b :: l, nodup, keep, self, other, s, hI, a, ha => by
    obtain ⟨hb, nodup⟩ := List.nodup_cons.mp nodup
    by_cases hab : a = b
    · subst hab
      refine Eq.trans ?_ (self s a List.mem_cons_self hI)
      refine foldl_keeps_of_mem (fun s => val s a) l (fun s b hbl => other s b (List.mem_cons_of_mem _ hbl) a List.mem_cons_self ?_) (f s a)
      rintro rfl
      exact hb hbl
    · have hal := (List.mem_cons.mp ha).resolve_left hab
      rw [List.foldl_cons, foldl_each nodup (fun s x hx => keep s x (List.mem_cons_of_mem _ hx)) (fun s x hx => self s x (List.mem_cons_of_mem _ hx))
        (fun s x hx y hy => other s x (List.mem_cons_of_mem _ hx) y (List.mem_cons_of_mem _ hy)) (keep s b List.mem_cons_self hI) hal,
        other s b List.mem_cons_self a ha (Ne.symm hab)]

/-! ### What adjusts registers and queues alone, and writes records -/

/-- Memory, the fabric and the fences of `t` are those of `s`, and a command that was alone still is. -/
structure Adjusts (s t : State) : Prop where
  mem : t.mem = s.mem
  fab : t.fab = s.fab
  fence : t.flt.chanFence = s.flt.chanFence
  upsets : t.flt.upsets = s.flt.upsets
  sole : ∀ {k c}, SoleCmd s k c → SoleCmd t k c

theorem Adjusts.refl (s : State) : Adjusts s s := ⟨rfl, rfl, rfl, rfl, id⟩

theorem Adjusts.trans (h : Adjusts s t) (h' : Adjusts t u) : Adjusts s u :=
  ⟨h'.mem.trans h.mem, h'.fab.trans h.fab, h'.fence.trans h.fence, h'.upsets.trans h.upsets, h'.sole ∘ h.sole⟩

theorem Adjusts.foldl {α : Type} {f : State → α → State} (h : ∀ s a, Adjusts s (f s a)) : ∀ (l : List α) (s : State), Adjusts s (l.foldl f s)
  | [], s => .refl s
  | a :: l, s => (h s a).trans (foldl h l (f s a))

theorem adjusts_cfgSet (s : State) (off lo len v : Nat) : Adjusts s (cfgSet s off lo len v) := ⟨rfl, rfl, rfl, rfl, fun h => h.of_slots rfl⟩

theorem adjusts_regSet (s : State) (off : Nat) (v : Word) : Adjusts s (regSet s off v) := ⟨rfl, rfl, rfl, rfl, fun h => h.of_slots rfl⟩

theorem adjusts_updQueue (s : State) (q : Nat) (f : Queue → Queue) : Adjusts s (updQueue s q f) := ⟨rfl, rfl, rfl, rfl, fun h => h.of_slots rfl⟩

theorem adjusts_logAppend (s : State) (rs : List ErrRec) : Adjusts s (logAppend s rs) := 
  ⟨by simp, by simp, by simp, logAppend_upsets s rs, fun h => h.logAppend rs⟩

theorem adjusts_reportClamp (s : State) (o : Origin) (reason off lo len req app : Nat) : Adjusts s (reportClamp s o reason off lo len req app) :=
  ⟨by simp, by simp, by simp, by simp [reportClamp, logAppend_upsets], fun h => h.reportClamp ..⟩

theorem adjusts_fixField (o : Origin) (reason off lo len app : Nat) (s : State) : Adjusts s (fixField o reason off lo len app s) := by
  unfold fixField
  dsimp only
  split
  · exact .refl s
  · exact (adjusts_cfgSet ..).trans (adjusts_reportClamp ..)

theorem adjusts_fixRing (o : Origin) (q : Nat) (s : State) : Adjusts s (fixRing o q s) := by
  unfold fixRing
  split
  · exact adjusts_fixField ..
  · exact .refl s

theorem adjusts_dropRecords (s : State) (q : Nat) : Adjusts s (dropRecords s q) := by
  unfold dropRecords
  dsimp only
  split
  · exact .refl s
  · exact (adjusts_updQueue ..).trans (adjusts_logAppend ..)

theorem adjusts_closeWatch (s : State) (i : Nat) : Adjusts s (closeWatch s i) := by
  unfold closeWatch
  split
  · exact adjusts_cfgSet ..
  · exact .refl s

theorem adjusts_publishField (b : BitVec 64) (s : State) (f : Nat × Nat × Nat × Nat) : Adjusts s (publishField b s f) := by
  unfold publishField
  split
  · exact .refl s
  · exact adjusts_cfgSet ..

theorem adjusts_fixCap (o : Origin) (s : State) : Adjusts s (fixCap o s) := by
  unfold fixCap
  dsimp only
  split
  · exact adjusts_fixField ..
  · split
    · exact adjusts_fixField ..
    · exact .refl s

/-! ### The registers that a change of mode writes (R114, R434, R456) -/

theorem regGet_fixField (w : Origin) (reason off lo len app : Nat) (s : State) (o : Nat) :
    regGet (fixField w reason off lo len app s) o = if cfg s off lo len = app then regGet s o else regGet (cfgSet s off lo len app) o := by
  unfold fixField
  dsimp only
  split
  · rfl
  · exact regGet_of_regs (by simp) o

theorem regGet_fixField_ne {off o : Nat} (h : off ≠ o) (w : Origin) (reason lo len app : Nat) (s : State) :
    regGet (fixField w reason off lo len app s) o = regGet s o := by
  rw [regGet_fixField, regGet_cfgSet_ne _ _ _ _ h, ite_self]

theorem cfg_fixField (w : Origin) (reason off lo len app : Nat) (s : State) (o a b : Nat) :
    cfg (fixField w reason off lo len app s) o a b = if cfg s off lo len = app then cfg s o a b else cfg (cfgSet s off lo len app) o a b := by
  rw [cfg, regGet_fixField]
  split <;> rfl

theorem cfg_fixField_of_disjoint (w : Origin) (reason : Nat) {off o lo len a b : Nat} (app : Nat) (s : State) (h : a + b ≤ 64)
    (apart : off = o → a + b ≤ lo ∨ lo + len ≤ a) : cfg (fixField w reason off lo len app s) o a b = cfg s o a b := by
  rw [cfg_fixField, cfg_cfgSet_of_disjoint _ _ _ _ h apart, ite_self]

theorem cfg_fixField_self (w : Origin) (reason off : Nat) {lo len app : Nat} (s : State) (h : lo + len ≤ 64) (fits : app < 2 ^ len) :
    cfg (fixField w reason off lo len app s) off lo len = app := by
  rw [cfg_fixField, cfg_cfgSet_self _ _ _ h, Nat.mod_eq_of_lt fits]
  split
  · assumption
  · rfl

/-- The places of two fields of the block do not meet. -/
def ApartFields (f g : Nat × Nat × Nat × Nat) : Prop := f.2.2.1 = g.2.2.1 → g.2.2.2 + g.2.1 ≤ f.2.2.2 ∨ f.2.2.2 + f.2.1 ≤ g.2.2.2

/-- The field `f` in effect, once the block's value for it is. -/
def fieldAfter (b : BitVec 64) (s : State) (f : Nat × Nat × Nat × Nat) : Nat :=
  if fld b f.1 f.2.1 = 0 then cfg s f.2.2.1 f.2.2.2 f.2.1 else fld b f.1 f.2.1

theorem cfg_publishField_self (b : BitVec 64) (s : State) (f : Nat × Nat × Nat × Nat) (h : f.2.2.2 + f.2.1 ≤ 64) :
    cfg (publishField b s f) f.2.2.1 f.2.2.2 f.2.1 = fieldAfter b s f := by
  unfold publishField fieldAfter
  split
  · rfl
  · rw [cfg_cfgSet_self _ _ _ h, Nat.mod_eq_of_lt (fld_lt ..)]

theorem cfg_publishField_of_apart (b : BitVec 64) (s : State) {f g : Nat × Nat × Nat × Nat} (h : g.2.2.2 + g.2.1 ≤ 64) (apart : ApartFields f g) :
    cfg (publishField b s f) g.2.2.1 g.2.2.2 g.2.1 = cfg s g.2.2.1 g.2.2.2 g.2.1 := by
  unfold publishField
  split
  · rfl
  · exact cfg_cfgSet_of_disjoint _ _ _ _ h apart

theorem regGet_publishField_ne (b : BitVec 64) (s : State) {f : Nat × Nat × Nat × Nat} {o : Nat} (h : f.2.2.1 ≠ o) :
    regGet (publishField b s f) o = regGet s o := by
  unfold publishField
  split
  · rfl
  · exact regGet_cfgSet_ne _ _ _ _ h

theorem cfg_foldl_publishField_of_apart (b : BitVec 64) {g : Nat × Nat × Nat × Nat} (h : g.2.2.2 + g.2.1 ≤ 64) {l : List (Nat × Nat × Nat × Nat)}
    (apart : ∀ f ∈ l, ApartFields f g) (s : State) : cfg (l.foldl (publishField b) s) g.2.2.1 g.2.2.2 g.2.1 = cfg s g.2.2.1 g.2.2.2 g.2.1 :=
  foldl_keeps_of_mem (fun s => cfg s g.2.2.1 g.2.2.2 g.2.1) l (fun s f hf => cfg_publishField_of_apart b s h (apart f hf)) s

/-- Each field of the block moves to its place, unless it is 0. -/
theorem cfg_foldl_publishField (b : BitVec 64) : ∀ {l : List (Nat × Nat × Nat × Nat)} (_ : l.Pairwise fun f g => ApartFields f g ∧ ApartFields g f)
    (_ : ∀ f ∈ l, f.2.2.2 + f.2.1 ≤ 64) (s : State) {f : Nat × Nat × Nat × Nat} (_ : f ∈ l),
    cfg (l.foldl (publishField b) s) f.2.2.1 f.2.2.2 f.2.1 = fieldAfter b s f
  | [], _, _, _, _, hf => absurd hf List.not_mem_nil
  | g :: l, apart, fits, s, f, hf => by
    obtain ⟨apart, rest⟩ := List.pairwise_cons.mp apart
    by_cases hl : f ∈ l
    · rw [List.foldl_cons, cfg_foldl_publishField b rest (fun f h => fits f (List.mem_cons_of_mem _ h)) _ hl, fieldAfter,
        cfg_publishField_of_apart b s (fits f hf) (apart f hl).1, fieldAfter]
    · obtain rfl := (List.mem_cons.mp hf).resolve_right hl
      exact (cfg_foldl_publishField_of_apart b (fits f hf) (fun g hg => (apart g hg).2) _).trans (cfg_publishField_self b s f (fits f hf))

theorem cfg_publishFields (b : BitVec 64) (s : State) {f : Nat × Nat × Nat × Nat} (h : f ∈ publishFields) :
    cfg (publishFields.foldl (publishField b) s) f.2.2.1 f.2.2.2 f.2.1 = fieldAfter b s f :=
  cfg_foldl_publishField b (by unfold ApartFields; decide) (by decide) s h

theorem regGet_publishFields_ne (b : BitVec 64) (s : State) {o : Nat} (h : o ∉ publishFields.map (·.2.2.1)) :
    regGet (publishFields.foldl (publishField b) s) o = regGet s o :=
  foldl_keeps_of_mem (fun s => regGet s o) _ (fun s f hf => regGet_publishField_ne b s fun hfo => h (List.mem_map.mpr ⟨f, hf, hfo⟩)) s

theorem regGet_fixCap_ne (w : Origin) (s : State) {o : Nat} (h : o ≠ mPwrCfg) : regGet (fixCap w s) o = regGet s o := by
  unfold fixCap
  dsimp only
  split
  · exact regGet_fixField_ne h.symm ..
  · split
    · exact regGet_fixField_ne h.symm ..
    · rfl

/-- Of the register of the power settings, the correction of CAP_LIMIT leaves the fields below it. -/
theorem cfg_fixCap_low (w : Origin) (s : State) (o : Nat) {a b : Nat} (h : a + b ≤ 48) : cfg (fixCap w s) o a b = cfg s o a b := by
  unfold fixCap
  dsimp only
  split
  · exact cfg_fixField_of_disjoint w _ _ s (by omega) fun _ => .inl h
  · split
    · exact cfg_fixField_of_disjoint w _ _ s (by omega) fun _ => .inl h
    · rfl

end Sys2Proof.Machine
end

section
namespace Sys2Proof.Machine
set_option Elab.async false
variable {s t u : State} {k : Nat} {c : Cmd}

/-! ### A new split: the rings are emptied (R117) -/

theorem queues_fixField (o : Origin) (reason off lo len app : Nat) (s : State) : (fixField o reason off lo len app s).disp.queues = s.disp.queues := by
  unfold fixField
  dsimp only
  split
  · rfl
  · rw [reportClamp_disp]
    rfl

theorem queues_fixRing (o : Origin) (q : Nat) (s : State) : (fixRing o q s).disp.queues = s.disp.queues := by
  unfold fixRing
  split
  · exact queues_fixField ..
  · rfl

/-- HEAD and TAIL of a ring. -/
def ringEnds (s : State) (q : Nat) : BitVec 32 × BitVec 32 := ((queueOf s q).head, (queueOf s q).tail)

theorem ringEnds_congr (h : t.disp.queues = s.disp.queues) (q : Nat) : ringEnds t q = ringEnds s q := by unfold ringEnds queueOf; rw [h]

theorem queues_dispRec (s : State) (slot : Option Nat) (reason obj low : Nat) : (dispRec s slot reason obj low).disp.queues = s.disp.queues := by
  rw [dispRec, logRec, logAppend_disp]

theorem ringEnds_dropRecords (s : State) (q : Nat) : ringEnds (dropRecords s q) q = ((queueOf s q).head, (queueOf s q).head) := by
  unfold dropRecords
  dsimp only
  split
  · next empty =>
    have level : (queueOf s q).tail = (queueOf s q).head := by
      have : (queueOf s q).tail - (queueOf s q).head = 0 := BitVec.eq_of_toNat_eq (by simpa [ringLoad] using empty)
      exact sub_eq_zero.mp this
    rw [ringEnds, level]
  · refine (ringEnds_congr (queues_dispRec ..) q).trans ?_
    rw [ringEnds, queueOf_updQueue_self]

theorem ringEnds_dropRecords_ne (s : State) {q p : Nat} (h : q ≠ p) : ringEnds (dropRecords s q) p = ringEnds s p := by
  unfold dropRecords
  dsimp only
  split
  · rfl
  · refine (ringEnds_congr (queues_dispRec ..) p).trans ?_
    rw [ringEnds, queueOf_updQueue_ne _ _ h, ringEnds]

theorem regs_dropRecords (s : State) (q : Nat) : (dropRecords s q).regs = s.regs := by
  unfold dropRecords
  dsimp only
  split <;> simp

theorem regGet_fixRing_ne (w : Origin) (s : State) {q o : Nat} (h : mQcfg q ≠ o) : regGet (fixRing w q s) o = regGet s o := by
  unfold fixRing
  split
  · exact regGet_fixField_ne h ..
  · rfl

/-- The rings of a state, each emptied and moved under the new split. -/
def ringsEmptied (k : Nat) (s : State) : State := (List.range 256).foldl (fun s q => fixRing (.mode k) q (dropRecords s q)) s

theorem adjusts_ringsEmptied (k : Nat) (s : State) : Adjusts s (ringsEmptied k s) :=
  Adjusts.foldl (fun s q => (adjusts_dropRecords s q).trans (adjusts_fixRing ..)) _ s

theorem regGet_ringsEmptied (k : Nat) (s : State) {o : Nat} (h : ∀ q < 256, mQcfg q ≠ o) : regGet (ringsEmptied k s) o = regGet s o :=
  foldl_keeps_of_mem (fun s => regGet s o) _
    (fun s q hq => (regGet_fixRing_ne _ _ (h q (List.mem_range.mp hq))).trans (regGet_of_regs (regs_dropRecords s q) o)) s

theorem ringEnds_ringsEmptied (k : Nat) (s : State) {q : Nat} (h : q < 256) : ringEnds (ringsEmptied k s) q = ((queueOf s q).head, (queueOf s q).head) :=
  foldl_each (g := fun e => (e.1, e.1)) (I := fun _ => True) (List.nodup_range) (fun _ _ _ _ => trivial)
    (fun s q _ _ => (ringEnds_congr (queues_fixRing ..) q).trans (ringEnds_dropRecords s q))
    (fun s _ _ p _ hqp => (ringEnds_congr (queues_fixRing ..) p).trans (ringEnds_dropRecords_ne s hqp)) trivial (List.mem_range.mpr h)

/-! ### A new split: the ways, the tables and the watches (R35, R65, R117, R487) -/

/-- The state with the ways of each queue cut to those of the new split. -/
def waysCut (k : Nat) (s : State) : State := (List.range 256).foldl (fun s q => fixWays (.mode k) q s) (deriveWays s)

theorem adjusts_waysCut (k : Nat) (s : State) : Adjusts s (waysCut k s) :=
  (adjusts_cfgSet ..).trans (Adjusts.foldl (fun _ _ => adjusts_fixField ..) _ _)

theorem queues_waysCut (k : Nat) (s : State) : (waysCut k s).disp.queues = s.disp.queues :=
  foldl_keeps (·.disp.queues) (fun _ _ => queues_fixField ..) _ _

theorem regGet_waysCut (k : Nat) (s : State) {o : Nat} (sheaf : o ≠ mSheaf) (h : ∀ q < 256, mQpart q ≠ o) : regGet (waysCut k s) o = regGet s o :=
  (foldl_keeps_of_mem (fun s => regGet s o) _ (fun _ q hq => regGet_fixField_ne (h q (List.mem_range.mp hq)) ..) _).trans
    (regGet_cfgSet_ne _ _ _ _ sheaf.symm)

theorem mQpart_ne_mSheaf (q : Nat) : mQpart q ≠ mSheaf := by unfold mQpart mSheaf; omega

theorem regGet_waysCut_sheaf (k : Nat) (s : State) : regGet (waysCut k s) mSheaf = regGet (deriveWays s) mSheaf :=
  foldl_keeps_of_mem (fun s => regGet s mSheaf) _ (fun _ q _ => regGet_fixField_ne (mQpart_ne_mSheaf q) ..) _

theorem cacheWays_lt (p : Nat) : cacheWays p < 2 ^ 16 ∧ cacheWays p ≤ 16 := by unfold cacheWays; omega

theorem cacheWays_waysCut (k : Nat) (s : State) : cfg (waysCut k s) mSheaf 12 4 = cacheWays (pinnedGib s) % 16 := by
  rw [cfg_congr (regGet_waysCut_sheaf k s), deriveWays, cfg_cfgSet_self _ _ _ (by decide)]
  rfl

theorem pinnedGib_waysCut (k : Nat) (s : State) : pinnedGib (waysCut k s) = pinnedGib s := by
  rw [pinnedGib, cfg_congr (regGet_waysCut_sheaf k s), deriveWays, cfg_cfgSet_of_disjoint _ _ _ _ (by decide) fun _ => .inl (by decide), pinnedGib]

theorem ways_waysCut (k : Nat) (s : State) {q : Nat} (h : q < 256) :
    cfg (waysCut k s) (mQpart q) 48 16 = cfg s (mQpart q) 48 16 % 2 ^ cacheWays (pinnedGib s) := by
  have derived : pinnedGib (deriveWays s) = pinnedGib s := cfg_cfgSet_of_disjoint _ _ _ _ (by decide) fun _ => .inl (by decide)
  have before : cfg (deriveWays s) (mQpart q) 48 16 = cfg s (mQpart q) 48 16 := cfg_congr (regGet_cfgSet_ne _ _ _ _ (mQpart_ne_mSheaf q).symm) ..
  rw [← before]
  refine foldl_each (val := fun s q => cfg s (mQpart q) 48 16) (g := fun w => w % 2 ^ cacheWays (pinnedGib s)) (I := fun t => pinnedGib t = pinnedGib s)
    List.nodup_range (fun t q _ ht => ?_) (fun t q _ ht => ?_) (fun t q _ p _ hqp => ?_) derived (List.mem_range.mpr h)
  · rw [← ht]
    exact cfg_congr (regGet_fixField_ne (mQpart_ne_mSheaf q) ..) ..
  · rw [← ht]
    exact cfg_fixField_self _ _ _ _ (by decide) ((Nat.mod_le _ _).trans_lt (fld_lt ..))
  · exact cfg_congr (regGet_fixField_ne (by unfold mQpart; omega) ..) ..

theorem regGet_closeWatch_ne (s : State) {i o : Nat} (h : mWatch i 0 ≠ o) : regGet (closeWatch s i) o = regGet s o := by
  unfold closeWatch
  split
  · exact regGet_cfgSet_ne _ _ _ _ h
  · rfl

theorem queues_closeWatch (s : State) (i : Nat) : (closeWatch s i).disp.queues = s.disp.queues := by
  unfold closeWatch
  split <;> rfl

/-- The watches whose region is still mapped. -/
def watchesClosed (s : State) : State := (List.range 64).foldl closeWatch s

theorem adjusts_watchesClosed (s : State) : Adjusts s (watchesClosed s) := Adjusts.foldl adjusts_closeWatch _ s

theorem queues_watchesClosed (s : State) : (watchesClosed s).disp.queues = s.disp.queues := foldl_keeps (·.disp.queues) queues_closeWatch _ s

theorem regGet_watchesClosed (s : State) {o : Nat} (h : o < 0xC00000) : regGet (watchesClosed s) o = regGet s o :=
  foldl_keeps (fun s => regGet s o) (fun s i => regGet_closeWatch_ne s (by unfold mWatch; omega)) _ s

/-! ### A new split as a whole -/

/-- The memory of a new split: what lies past the HBM is gone, the cache is empty, and each fill under way has its ways cut. -/
def splitMem (s : State) : Memory :=
  { s.mem with
    cache := [], wcache := []
    fills := s.mem.fills.map fun f => { f with ways := f.ways &&& BitVec.ofNat 16 (2 ^ cacheWays (pinnedGib s) - 1) }
    plane := s.mem.plane.filter fun e => decide (e.1 < hbmSize)
    poison := s.mem.poison.filter fun l => decide (l < hbmSize) }

/-- The KV tables are disabled and the registrations of groups are dropped (R117). -/
def tablesClosed (s : State) : State :=
  let s := regSet s mKvCtl 0
  { s with fab := { s.fab with groups := [] } }

theorem regGet_tablesClosed_ne (s : State) {o : Nat} (h : o ≠ mKvCtl) : regGet (tablesClosed s) o = regGet s o :=
  (regGet_regSet s mKvCtl o 0).trans (if_neg h.symm)

theorem regGet_tablesClosed_self (s : State) : regGet (tablesClosed s) mKvCtl = 0 := (regGet_regSet s mKvCtl mKvCtl 0).trans (if_pos rfl)

theorem tablesClosed_mem (s : State) : (tablesClosed s).mem = s.mem := rfl
theorem tablesClosed_flt (s : State) : (tablesClosed s).flt = s.flt := rfl
theorem tablesClosed_disp (s : State) : (tablesClosed s).disp = s.disp := rfl
theorem tablesClosed_groups (s : State) : (tablesClosed s).fab.groups = [] := rfl

/-- The new split before the rings: memory is cut. -/
def memCut (s : State) : State := { s with mem := splitMem s }

theorem publishSplit_def (s : State) (k : Nat) :
    publishSplit s k = watchesClosed (tablesClosed (waysCut k (ringsEmptied k (memCut ((s.mem.cache.filter (·.dirty)).foldl (cleanLine k) s))))) := rfl

theorem memCut_cache (cache : List CLine) (live : Map Word) (s : State) :
    memCut { s with mem := { s.mem with cache := cache }, live := live } = { s with mem := splitMem s, live := live } := rfl

theorem publishSplit_eq (h : s.flt.upsets = []) (k : Nat) :
    ∃ live, publishSplit s k = watchesClosed (tablesClosed (waysCut k (ringsEmptied k { s with mem := splitMem s, live := live }))) := by
  obtain ⟨live, fold⟩ := foldl_cleanLine_eq k (s.mem.cache.filter (·.dirty)) h
  exact ⟨live, by rw [publishSplit_def, fold, memCut_cache]⟩

theorem adjusts_cut (k : Nat) (s : State) : Adjusts s (waysCut k (ringsEmptied k s)) := (adjusts_ringsEmptied k s).trans (adjusts_waysCut k _)

theorem mem_publishSplit (h : s.flt.upsets = []) (k : Nat) : (publishSplit s k).mem = splitMem s := by
  obtain ⟨live, run⟩ := publishSplit_eq h k
  rw [run, (adjusts_watchesClosed _).mem, tablesClosed_mem, (adjusts_cut k _).mem]

theorem groups_publishSplit (h : s.flt.upsets = []) (k : Nat) : (publishSplit s k).fab.groups = [] := by
  obtain ⟨live, run⟩ := publishSplit_eq h k
  rw [run, (adjusts_watchesClosed _).fab, tablesClosed_groups]

theorem chanFence_publishSplit (h : s.flt.upsets = []) (k : Nat) : (publishSplit s k).flt.chanFence = s.flt.chanFence := by
  obtain ⟨live, run⟩ := publishSplit_eq h k
  rw [run, (adjusts_watchesClosed _).fence, tablesClosed_flt, (adjusts_cut k _).fence]

theorem sole_publishSplit (h : s.flt.upsets = []) (k : Nat) {j : Nat} (sole : SoleCmd s j c) : SoleCmd (publishSplit s k) j c := by
  obtain ⟨live, run⟩ := publishSplit_eq h k
  have cut := (adjusts_cut k { s with mem := splitMem s, live := live }).sole (sole.of_slots rfl)
  rw [run]
  exact (adjusts_watchesClosed _).sole (cut.of_slots (by rw [tablesClosed_disp]))

theorem ringEnds_publishSplit (h : s.flt.upsets = []) (k : Nat) {q : Nat} (hq : q < 256) :
    ringEnds (publishSplit s k) q = ((queueOf s q).head, (queueOf s q).head) := by
  obtain ⟨live, run⟩ := publishSplit_eq h k
  rw [run, ringEnds_congr (queues_watchesClosed _), ringEnds_congr (congrArg Dispatch.queues (tablesClosed_disp _)),
    ringEnds_congr (queues_waysCut ..), ringEnds_ringsEmptied k _ hq]
  rfl

theorem regGet_publishSplit (h : s.flt.upsets = []) (k : Nat) {o : Nat} (low : o < 0xC00000) (rings : ∀ q < 256, mQcfg q ≠ o) (kv : o ≠ mKvCtl)
    (sheaf : o ≠ mSheaf) (parts : ∀ q < 256, mQpart q ≠ o) : regGet (publishSplit s k) o = regGet s o := by
  obtain ⟨live, run⟩ := publishSplit_eq h k
  rw [run, regGet_watchesClosed _ low, regGet_tablesClosed_ne _ kv, regGet_waysCut k _ sheaf parts, regGet_ringsEmptied k _ rings]
  rfl

theorem kvCtl_publishSplit (h : s.flt.upsets = []) (k : Nat) : regGet (publishSplit s k) mKvCtl = 0 := by
  obtain ⟨live, run⟩ := publishSplit_eq h k
  rw [run, regGet_watchesClosed _ (by decide), regGet_tablesClosed_self]

theorem mQcfg_ne_of_le {q o : Nat} (hq : q < 256) (ho : 0x14000 ≤ o) : mQcfg q ≠ o := by unfold mQcfg; omega

theorem pinnedGib_ringsEmptied (k : Nat) (s : State) : pinnedGib (ringsEmptied k s) = pinnedGib s :=
  cfg_congr (regGet_ringsEmptied k s fun _ hq => mQcfg_ne_of_le hq (by decide)) ..

theorem pinnedGib_publishSplit (h : s.flt.upsets = []) (k : Nat) : pinnedGib (publishSplit s k) = pinnedGib s := by
  obtain ⟨live, run⟩ := publishSplit_eq h k
  rw [run, pinnedGib, cfg_congr (regGet_watchesClosed _ (by decide)), cfg_congr (regGet_tablesClosed_ne _ (by decide))]
  exact (pinnedGib_waysCut k _).trans (pinnedGib_ringsEmptied k _)

theorem cacheWays_publishSplit (h : s.flt.upsets = []) (k : Nat) : cfg (publishSplit s k) mSheaf 12 4 = cacheWays (pinnedGib s) % 16 := by
  obtain ⟨live, run⟩ := publishSplit_eq h k
  rw [run, cfg_congr (regGet_watchesClosed _ (by decide)), cfg_congr (regGet_tablesClosed_ne _ (by decide)), cacheWays_waysCut, pinnedGib_ringsEmptied]
  rfl

theorem ways_publishSplit (h : s.flt.upsets = []) (k : Nat) {q : Nat} (hq : q < 256) :
    cfg (publishSplit s k) (mQpart q) 48 16 = cfg s (mQpart q) 48 16 % 2 ^ cacheWays (pinnedGib s) := by
  have part : 0x14000 ≤ mQpart q ∧ mQpart q < 0xC00000 ∧ mQpart q ≠ mKvCtl := by unfold mQpart mKvCtl; omega
  obtain ⟨high, low, kv⟩ := part
  obtain ⟨live, run⟩ := publishSplit_eq h k
  rw [run, cfg_congr (regGet_watchesClosed _ low), cfg_congr (regGet_tablesClosed_ne _ kv), ways_waysCut k _ hq, pinnedGib_ringsEmptied,
    cfg_congr (regGet_ringsEmptied k _ fun _ hp => mQcfg_ne_of_le hp high)]
  rfl

end Sys2Proof.Machine
end

section
namespace Sys2Proof.Machine
set_option Elab.async false
variable {s t u : State} {k : Nat} {c : Cmd} {m : ModeChange}

/-! ### PUBLISH (R115) -/

/-- The fields of the block in effect, with CAP_LIMIT under the mode that they set. -/
def fieldsPublished (m : ModeChange) (s : State) : State := fixCap (.mode m.slot) (publishFields.foldl (publishField m.shadow) s)

/-- The change of mode in effect, before the epoch advances. -/
def modeApplied (m : ModeChange) (s : State) : State :=
  if m.split then publishSplit (fieldsPublished m s) m.slot else fieldsPublished m s

theorem adjusts_fieldsPublished (m : ModeChange) (s : State) : Adjusts s (fieldsPublished m s) :=
  (Adjusts.foldl (adjusts_publishField m.shadow) _ s).trans (adjusts_fixCap ..)

/-- The next epoch has begun: the state `s` with the epoch of the change. -/
def epochBegun (m : ModeChange) (s : State) : State := { s with disp := { s.disp with epoch := m.epoch, phase := 0 } }

theorem execPublish_of_confirmed (change : s.disp.change = some m) (phase : s.disp.phase = 2) (all : ∀ x ∈ modeUnits s, x ∈ m.confirmed)
    (runs : Machine.live s m.slot = true) :
    exec .publish s = .next (finish (((epochBegun m (modeApplied m s)).disp.slots.map (·.1)).foldl epochPassed (epochBegun m (modeApplied m s))) m.slot) := by
  have confirmed : ((modeUnits s).all (m.confirmed.contains ·)) = true := by simpa using all
  have go : ¬ (s.disp.phase ≠ 2#2 ∨ (!(modeUnits s).all (m.confirmed.contains ·)) = true ∨ (!Machine.live s m.slot) = true) := by
    rw [confirmed, runs]
    simp [phase]
  show execPublish s = _
  unfold execPublish
  simp only [change]
  rw [if_neg go]
  rfl

theorem epochPassed_of_running (h : cmdOf s k = some c) (running : c.phase = .running) : epochPassed s k = s := by
  simp [epochPassed, h, running]

/-- The publish, where the command of the change is alone: it ends its work, and the rest is the change in effect. -/
theorem execPublish_of_sole (change : s.disp.change = some m) (phase : s.disp.phase = 2) (all : ∀ x ∈ modeUnits s, x ∈ m.confirmed)
    (cmd : cmdOf s m.slot = some c) (running : c.phase = .running) (kill : c.kill = none) (sent : c.failSent = false)
    (sole : SoleCmd (modeApplied m s) m.slot c) (fence : (modeApplied m s).flt.chanFence = s.flt.chanFence)
    (sets : ∀ i < 48, regGet (modeApplied m s) (mCset i) = regGet s (mCset i)) (poison : ∀ l ∈ (modeApplied m s).mem.poison, l ∈ s.mem.poison)
    (open' : stagedFenced s c = none) (clean : partialPoison s [m.slot] = none) :
    ∃ t d, exec .publish s = .next t ∧ t = { modeApplied m s with disp :=
        { (modeApplied m s).disp with epoch := m.epoch, phase := 0, slots := [(m.slot, d)] } } ∧ d.reqSent = true ∧ d.fin = true := by
  have runs : Machine.live s m.slot = true := by simp [Machine.live, cmd, running, kill, sent]
  have sole' : SoleCmd (epochBegun m (modeApplied m s)) m.slot c := sole.of_slots rfl
  obtain ⟨e, b, held⟩ := sole'.cmdOf
  obtain ⟨d, ends, asks, fin⟩ := finish_soleCmd sole' running kill sent cmd fence sets poison open' clean
  refine ⟨_, d, ?_, rfl, asks, fin⟩
  rw [execPublish_of_confirmed change phase all runs]
  obtain ⟨e', b', slots⟩ := sole'
  rw [slots, List.map_cons, List.map_nil, List.foldl_cons, List.foldl_nil, epochPassed_of_running held running, ends]
  rfl

theorem regGet_fieldsPublished_ne (m : ModeChange) (s : State) {o : Nat} (h : o ∉ publishFields.map (·.2.2.1)) :
    regGet (fieldsPublished m s) o = regGet s o := by
  have cap : o ≠ mPwrCfg := by
    rintro rfl
    exact h (by decide)
  rw [fieldsPublished, regGet_fixCap_ne _ _ cap, regGet_publishFields_ne _ _ h]

theorem cfg_fieldsPublished (m : ModeChange) (s : State) {f : Nat × Nat × Nat × Nat} (h : f ∈ publishFields) (low : f.2.2.2 + f.2.1 ≤ 48) :
    cfg (fieldsPublished m s) f.2.2.1 f.2.2.2 f.2.1 = fieldAfter m.shadow s f := by
  rw [fieldsPublished, cfg_fixCap_low _ _ _ low, cfg_publishFields _ _ h]

theorem not_mem_publishFields_of_cset {i : Nat} (hi : i < 48) : mCset i ∉ publishFields.map (·.2.2.1) := by
  simp only [publishFields, List.map_cons, List.map_nil, List.mem_cons, List.not_mem_nil, or_false, mCset, mArith, mVcWeight, mPwrCfg, mSheaf]
  omega

theorem not_mem_publishFields_of_part {q : Nat} (hq : q < 256) : mQpart q ∉ publishFields.map (·.2.2.1) := by
  simp only [publishFields, List.map_cons, List.map_nil, List.mem_cons, List.not_mem_nil, or_false, mQpart, mArith, mVcWeight, mPwrCfg, mSheaf]
  omega

theorem pinnedGib_fieldsPublished (m : ModeChange) (s : State) (h : 0 < fld m.shadow 0 3) : pinnedGib (fieldsPublished m s) = fld m.shadow 0 3 := by
  have field := cfg_fieldsPublished m s (f := (0, 3, mSheaf, 0)) (by decide) (by decide)
  exact field.trans (if_neg (Nat.ne_of_gt h))

theorem queues_publishField (b : BitVec 64) (s : State) (f : Nat × Nat × Nat × Nat) : (publishField b s f).disp.queues = s.disp.queues := by
  unfold publishField
  split <;> rfl

theorem queues_fixCap (o : Origin) (s : State) : (fixCap o s).disp.queues = s.disp.queues := by
  unfold fixCap
  dsimp only
  split
  · exact queues_fixField ..
  · split
    · exact queues_fixField ..
    · rfl

theorem queues_fieldsPublished (m : ModeChange) (s : State) : (fieldsPublished m s).disp.queues = s.disp.queues :=
  (queues_fixCap ..).trans (foldl_keeps (·.disp.queues) (queues_publishField m.shadow) _ s)


end Sys2Proof.Machine
end

section
namespace Sys2Proof.Machine
set_option Elab.async false
variable {s t u : State} {k : Nat} {c : Cmd} {m : ModeChange}

/-! ### The clauses of ModeEpochs -/

theorem sameMemory_of_mem (h : t.mem = s.mem) : SameMemory s t := sameMemory_of_plane (by rw [h])

/-- MODE (R114, R115). -/
theorem mode_begins_drain {k : SlotId} (work : atWork s k.toNat 0x07 = some c) (op : c.setOp = 1) (held : heldFor s k.toNat c.setAddr 8 = false)
    (sets : csetBad s k.toNat c.setAddr 8 = none) (fence : fencedIn s c.setAddr 8 = none) (clean : poisonIn s c.setAddr 8 = none)
    (good : modeBad (modeBlock s c) = none) (next : c.newEpoch = (s.disp.epoch + 1).toNat) (cap : fld (modeBlock s c) 48 16 = 0) :
    ∃ t m, Answers (.mode k) s t ∧ SlotBecomes s t k.toNat { c with work := true } ∧ t.disp.phase = 1 ∧ t.disp.epoch = s.disp.epoch ∧
      t.disp.change = some m ∧ m.slot = k.toNat ∧ m.epoch = s.disp.epoch + 1 ∧ m.shadow = modeBlock s c ∧ m.confirmed = [] ∧ t.regs = s.regs := by
  refine ⟨_, _, execMode_of_block work op held sets fence clean good next cap, ⟨?_, fun j hj => ?_, fun o => ?_, sameMemory_of_mem ?_⟩, rfl, ?_, rfl, rfl,
    rfl, rfl, rfl, ?_⟩
  · rw [setChange_cmdOf, cmdOf_begun, if_pos rfl, cmdOf_of_atWork work]
    rfl
  · rw [setChange_cmdOf, cmdOf_begun, if_neg hj.symm]
  · show coreOf (begun s k.toNat) o = _
    simp [coreOf, begun]
  · show (begun s k.toNat).mem = _
    simp [begun]
  · show (begun s k.toNat).disp.epoch = _
    rw [begun, updCmd_disp]
  · show (begun s k.toNat).regs = _
    simp [begun]

/-- PREPARE (R38, R115, R116). -/
theorem prepare_holds_shadow (change : s.disp.change = some m) (phase : s.disp.phase = 1) (done : drained s m.slot = true)
    (split' : m.split = false ∨ s.flt.upsets = []) : ∃ t, Answers .prepare s t ∧ SameMemory s t ∧ t.regs = s.regs ∧ t.disp.change = some m ∧
      t.disp.phase = 2 ∧ t.disp.slots = s.disp.slots ∧ (m.split = true → ∀ l ∈ t.mem.cache, cacheWays (fld m.shadow 0 3) ≤ l.way → l.dirty = false) := by
  obtain ⟨cache, live, run, clean⟩ := execPrepare_of_drained change phase done split'
  exact ⟨_, run, sameMemory_of_plane rfl, rfl, rfl, rfl, rfl, clean⟩

/-- UNIT_CONFIRM (R115, R417). -/
theorem unit_confirms_once {cls : BitVec 4} {unit : BitVec 16} (change : s.disp.change = some m) (phase : s.disp.phase = 2)
    (counts : (cls.toNat, unit.toNat) ∈ modeUnits s) (first : (cls.toNat, unit.toNat) ∉ m.confirmed) :
    (unitInTest s cls.toNat unit.toNat = true → Answers (.unitConfirm cls unit) s s) ∧
    (unitInTest s cls.toNat unit.toNat = false → ∃ t, Answers (.unitConfirm cls unit) s t ∧
      t = { s with disp := { s.disp with change := some { m with confirmed := m.confirmed ++ [(cls.toNat, unit.toNat)] } } }) := by
  have run : exec (.unitConfirm cls unit) s = execUnitConfirm cls unit s := rfl
  unfold execUnitConfirm at run
  simp only [change] at run
  refine ⟨fun test => ?_, fun free => ⟨_, ?_, rfl⟩⟩
  · refine run.trans (if_neg ?_)
    simp [test]
  · refine run.trans ((if_pos ?_).trans ?_)
    · simp [phase, counts, first, free]
    · rw [setChange, show BitVec.ofNat 2 2 = s.disp.phase from phase.symm]

/-- MODE_TIMEOUT (R116, R118). -/
theorem modeTimeout_cancels (change : s.disp.change = some m) {x : Nat × Nat} (phase : s.disp.phase = 2) (counts : x ∈ modeUnits s)
    (open' : x ∉ m.confirmed) (cmd : cmdOf s m.slot = some c) (running : c.phase = .running) (undecided : c.decided = false) :
    ∃ t d, Answers .modeTimeout s t ∧ SameMemory s t ∧ t.disp.change = none ∧ t.disp.phase = 0 ∧ t.disp.epoch = s.disp.epoch ∧ t.regs = s.regs ∧
      cmdOf t m.slot = some d ∧ d.failSent = true := by
  obtain ⟨y, hy⟩ := Option.isSome_iff_exists.mp ((List.find?_isSome (p := fun u => !m.confirmed.contains u)).mpr ⟨x, counts, by simpa using open'⟩)
  obtain ⟨r, hr⟩ : ∃ r, r = epochRec s m.slot 0x22 y.1 y.2 m.epoch.toNat := ⟨_, rfl⟩
  have recorded : r.disp.change = some m := by rw [hr, epochRec, logRec, logAppend_disp]; exact change
  have run : exec .modeTimeout s = .next (failCmd (setChange r 0 none) m.slot) := by
    have cancelled : cancelMode r [m.slot] = setChange r 0 none := by simp [cancelMode, recorded]
    show execModeTimeout s = _
    unfold execModeTimeout
    simp only [change, hy]
    rw [if_neg (not_not_intro (show s.disp.phase = 2#2 from phase)), ← hr, cancelled]
  obtain ⟨e, held⟩ : ∃ e, cmdOf r m.slot = some { c with errIdx := e } := by
    rw [hr]
    exact cmdOf_logAppend cmd _
  obtain ⟨sends, fails⟩ := failCmd_of_running (s := setChange r 0 none) held running undecided
  refine ⟨_, _, run, sameMemory_of_mem ?_, ?_, ?_, ?_, ?_, fails, rfl⟩
  · rw [sends]
    simp [setChange, hr, epochRec]
  · rw [sends]
    simp [setChange]
  · rw [sends]
    simp [setChange]
  · rw [sends]
    have : r.disp.epoch = s.disp.epoch := by rw [hr, epochRec, logRec, logAppend_disp]
    simp [setChange, this]
  · rw [sends]
    simp [setChange, hr, epochRec]

/-- PUBLISH without a new split (R115, R117). -/
theorem publish_fields (change : s.disp.change = some m) (phase : s.disp.phase = 2) (all : ∀ x ∈ modeUnits s, x ∈ m.confirmed) (same : m.split = false)
    (cmd : cmdOf s m.slot = some c) (running : c.phase = .running) (kill : c.kill = none) (sent : c.failSent = false)
    (open' : stagedFenced s c = none) (clean : partialPoison s [m.slot] = none) (alone : s.disp.slots = [(m.slot, c)]) :
    ∃ t d, Answers .publish s t ∧ SameMemory s t ∧ t.disp.epoch = m.epoch ∧ t.disp.phase = 0 ∧ cmdOf t m.slot = some d ∧ d.reqSent = true ∧
      d.fin = true ∧ ∀ f ∈ publishFields, f.2.2.2 + f.2.1 ≤ 48 → cfg t f.2.2.1 f.2.2.2 f.2.1 = fieldAfter m.shadow s f := by
  have applied : modeApplied m s = fieldsPublished m s := by simp [modeApplied, same]
  have adjusts := adjusts_fieldsPublished m s
  rw [← applied] at adjusts
  have sole : SoleCmd s m.slot c := ⟨c.errIdx, c.clamped, alone⟩
  obtain ⟨t, d, run, ht, asks, fin⟩ := execPublish_of_sole change phase all cmd running kill sent (adjusts.sole sole) adjusts.fence
    (fun i hi => by rw [applied]; exact regGet_fieldsPublished_ne m s (not_mem_publishFields_of_cset hi)) (fun l hl => by rwa [adjusts.mem] at hl)
    open' clean
  refine ⟨t, d, run, sameMemory_of_mem (by rw [ht]; exact adjusts.mem), by rw [ht], by rw [ht], by simp [ht, cmdOf], asks, fin, fun f hf low => ?_⟩
  rw [← cfg_fieldsPublished m s hf low, ← applied, ht]
  rfl

/-- Past the HBM, memory reads as 0 after a new split. -/
theorem planeByte_splitMem (h : t.mem = splitMem s) (a : Nat) : planeByte t a = if a < hbmSize then planeByte s a else 0 := by
  rw [planeByte, h, splitMem, Map.get, Map.find?_filter_key fun a => decide (a < hbmSize)]
  by_cases low : a < hbmSize
  · rw [if_pos (decide_eq_true low), if_pos low, planeByte, Map.get]
  · rw [if_neg (by simpa using low), if_neg low]
    rfl

theorem ways_lt_of_mem_splitMem {f : FillReq} (split' : 0 < pinnedGib s) (hf : f ∈ (splitMem s).fills) : f.ways.toNat < 2 ^ cacheWays (pinnedGib s) := by
  obtain ⟨g, -, rfl⟩ := List.mem_map.mp hf
  have few : cacheWays (pinnedGib s) < 16 := by unfold cacheWays; omega
  have mask : 2 ^ cacheWays (pinnedGib s) ≤ 2 ^ 15 := Nat.pow_le_pow_right (by decide) (by omega)
  have pos := Nat.two_pow_pos (cacheWays (pinnedGib s))
  rw [BitVec.toNat_and, BitVec.toNat_ofNat, Nat.mod_eq_of_lt (by omega)]
  exact Nat.lt_of_le_of_lt Nat.and_le_right (by omega)

/-- PUBLISH with a new split (R38, R117). -/
theorem publish_split (change : s.disp.change = some m) (phase : s.disp.phase = 2) (all : ∀ x ∈ modeUnits s, x ∈ m.confirmed) (new : m.split = true)
    (some' : 0 < fld m.shadow 0 3) (most : fld m.shadow 0 3 ≤ 4) (cmd : cmdOf s m.slot = some c) (running : c.phase = .running) (kill : c.kill = none)
    (sent : c.failSent = false) (open' : stagedFenced s c = none) (clean : partialPoison s [m.slot] = none) (alone : s.disp.slots = [(m.slot, c)])
    (upsets : s.flt.upsets = []) :
    let p := fld m.shadow 0 3
    ∃ t d, Answers .publish s t ∧ t.disp.epoch = m.epoch ∧ t.disp.phase = 0 ∧ cmdOf t m.slot = some d ∧ d.reqSent = true ∧
      d.fin = true ∧ (∀ a, planeByte t a = if a < hbmSize then planeByte s a else 0) ∧ t.mem.cache = [] ∧ t.mem.wcache = [] ∧ t.fab.groups = [] ∧
      (∀ l ∈ t.mem.poison, l < hbmSize ∧ l ∈ s.mem.poison) ∧ (∀ q < 256, (queueOf t q).head = (queueOf s q).head ∧ (queueOf t q).tail = (queueOf t q).head) ∧
      (∀ f ∈ t.mem.fills, f.ways.toNat < 2 ^ cacheWays p) ∧
      cfg t mSheaf 0 3 = p ∧ cfg t mSheaf 12 4 = cacheWays p ∧ regGet t mKvCtl = 0 ∧
      ∀ q < 256, cfg t (mQpart q) 48 16 = cfg s (mQpart q) 48 16 % 2 ^ cacheWays p := by
  intro p
  obtain ⟨v, hv⟩ : ∃ v, v = fieldsPublished m s := ⟨_, rfl⟩
  obtain ⟨w, hw⟩ : ∃ w, w = publishSplit v m.slot := ⟨_, rfl⟩
  have applied : modeApplied m s = w := by simp [modeApplied, new, hw, hv]
  have adjusts : Adjusts s v := hv ▸ adjusts_fieldsPublished m s
  have none' : v.flt.upsets = [] := adjusts.upsets.trans upsets
  have gib : pinnedGib v = p := hv ▸ pinnedGib_fieldsPublished m s some'
  have mem : w.mem = splitMem v := hw ▸ mem_publishSplit none' m.slot
  have poison : ∀ l ∈ w.mem.poison, l < hbmSize ∧ l ∈ s.mem.poison := by
    intro l hl
    rw [mem, splitMem, adjusts.mem] at hl
    obtain ⟨hl, low⟩ := List.mem_filter.mp hl
    exact ⟨of_decide_eq_true low, hl⟩
  have sets : ∀ i < 48, regGet w (mCset i) = regGet s (mCset i) := by
    intro i hi
    have place : 0x14000 ≤ mCset i ∧ mCset i < 0xC00000 ∧ mCset i ≠ mKvCtl ∧ mCset i ≠ mSheaf := by unfold mCset mKvCtl mSheaf; omega
    obtain ⟨high, low, kv, sheaf⟩ := place
    rw [hw, regGet_publishSplit none' _ low (fun q hq => mQcfg_ne_of_le hq high) kv sheaf fun q _ => by unfold mCset mQpart; omega]
    rw [hv, regGet_fieldsPublished_ne m s (not_mem_publishFields_of_cset hi)]
  have sole : SoleCmd w m.slot c := hw ▸ sole_publishSplit none' _ (adjusts.sole ⟨c.errIdx, c.clamped, alone⟩)
  have fence : w.flt.chanFence = s.flt.chanFence := by rw [hw, chanFence_publishSplit none', adjusts.fence]
  have ends : ∀ q < 256, ringEnds w q = ((queueOf s q).head, (queueOf s q).head) := by
    intro q hq
    have same : queueOf v q = queueOf s q := by rw [queueOf, hv, queues_fieldsPublished, queueOf]
    rw [hw, ringEnds_publishSplit none' m.slot hq, same]
  have groups : w.fab.groups = [] := hw ▸ groups_publishSplit none' _
  have ways : cfg w mSheaf 12 4 = cacheWays p := by
    rw [hw, cacheWays_publishSplit none', gib, Nat.mod_eq_of_lt]
    unfold cacheWays
    omega
  have split' : cfg w mSheaf 0 3 = p := by
    rw [hw, ← gib]
    exact pinnedGib_publishSplit none' _
  have kv : regGet w mKvCtl = 0 := hw ▸ kvCtl_publishSplit none' _
  have parts : ∀ q < 256, cfg w (mQpart q) 48 16 = cfg s (mQpart q) 48 16 % 2 ^ cacheWays p := by
    intro q hq
    rw [hw, ways_publishSplit none' _ hq, gib, hv, cfg_congr (regGet_fieldsPublished_ne m s (not_mem_publishFields_of_part hq))]
  rw [← applied] at sole fence sets poison
  obtain ⟨t, d, run, ht, asks, fin⟩ := execPublish_of_sole change phase all cmd running kill sent sole fence sets (fun l hl => (poison l hl).2) open' clean
  rw [applied] at ht poison
  have regs : ∀ o, regGet t o = regGet w o := fun o => regGet_of_regs (by rw [ht]) o
  have rings : ∀ q < 256, ringEnds t q = ((queueOf s q).head, (queueOf s q).head) := fun q hq => (ringEnds_congr (by rw [ht]) q).trans (ends q hq)
  have tmem : t.mem = splitMem v := by rw [ht, ← mem]
  refine ⟨t, d, run, by rw [ht], by rw [ht], by simp [ht, cmdOf], asks, fin, fun a => ?_, by rw [tmem]; rfl, by rw [tmem]; rfl,
    by rw [ht]; exact groups, by rw [ht]; exact poison, fun q hq => ?_, fun f hf => ?_, by rw [cfg_congr (regs _), split'],
    by rw [cfg_congr (regs _), ways], by rw [regs, kv], fun q hq => by rw [cfg_congr (regs _), parts q hq]⟩
  · rw [planeByte_splitMem tmem, planeByte_congr (congrArg Memory.plane adjusts.mem)]
  · obtain ⟨head, tail⟩ := Prod.mk.inj (rings q hq)
    exact ⟨head, tail.trans head.symm⟩
  · rw [tmem] at hf
    exact gib ▸ ways_lt_of_mem_splitMem (by rw [gib]; omega) hf

/-- Settles O39: a clause for each instruction of a mode change, whose publish goes register by register and queue by queue. -/
theorem modeEpochs : Obligations.ModeEpochs := by
  intro s
  refine ⟨fun k c work op held sets fence clean good next cap => mode_begins_drain work op held sets fence clean good next cap,
    fun m change => ⟨fun phase done split' => prepare_holds_shadow change phase done split',
      fun cls unit phase counts first => unit_confirms_once change phase counts first,
      fun c phase all same cmd running kill sent _ open' clean alone => ?_,
      fun c phase all new some' most cmd running kill sent _ open' clean alone upsets =>
        publish_split change phase all new some' most cmd running kill sent open' clean alone upsets,
      fun c x phase counts open' cmd running _ undecided => modeTimeout_cancels change phase counts open' cmd running undecided⟩⟩
  obtain ⟨t, d, run, memory, epoch, idle, held, asks, fin, fields⟩ := publish_fields change phase all same cmd running kill sent open' clean alone
  have within : ∀ f ∈ [(6, 2, mArith, 6), (3, 3, mArith, 3), (16, 8, mVcWeight, 0), (24, 8, mVcWeight, 8), (32, 8, mVcWeight, 16), (40, 2, mPwrCfg, 40)],
      f ∈ publishFields ∧ f.2.2.2 + f.2.1 ≤ 48 := by decide
  exact ⟨t, d, run, memory, epoch, idle, held, asks, fin, fun f hf => fields f (within f hf).1 (within f hf).2⟩

end Sys2Proof.Machine
end

section
namespace Sys2Proof.Machine
set_option Elab.async false
variable {s t : State}

/-! ### Numbers as bytes -/

theorem leNat_natLE (n : Nat) : ∀ v, leNat (natLE n v) = v % 256 ^ n := by
  induction n with
  | zero => exact fun v => (Nat.mod_one v).symm
  | succ n ih =>
    intro v
    calc leNat (natLE (n + 1) v) = (BitVec.ofNat 8 v).toNat + 256 * leNat (natLE n (v / 256)) := rfl
      _ = v % 256 + 256 * (v / 256 % 256 ^ n) := by rw [ih, BitVec.toNat_ofNat]
      _ = v % 256 ^ (n + 1) := by rw [Nat.pow_succ', Nat.mod_mul]

theorem leNat_natLE_of_lt {n v : Nat} (h : v < 256 ^ n) : leNat (natLE n v) = v := (leNat_natLE n v).trans (Nat.mod_eq_of_lt h)

theorem leNat_replicate_zero (n : Nat) : leNat (List.replicate n 0) = 0 := by
  induction n with
  | zero => rfl
  | succ n ih =>
    rw [List.replicate_succ, leNat, ih]
    rfl

theorem length_padTo (n : Nat) (bs : List Byte) : (padTo n bs).length = n := by
  simp only [padTo, List.length_take, List.length_append, List.length_replicate]
  omega

/-- The piece of a list between two others. -/
theorem take_drop_middle {α : Type} {xs ys zs : List α} {a n : Nat} (before : xs.length = a) (size : ys.length = n) :
    ((xs ++ (ys ++ zs)).drop a).take n = ys := by
  rw [List.drop_left' before, List.take_left' size]

/-! ### Fields of a word that is made of fields -/

theorem foldl_fields (fs : List (Nat × Nat)) : ∀ a, fs.foldl (fun a f => a + f.2 <<< f.1) a = a + (fs.map fun f => f.2 * 2 ^ f.1).sum := by
  induction fs with
  | nil => exact fun a => rfl
  | cons f fs ih =>
    intro a
    rw [List.foldl_cons, ih, List.map_cons, List.sum_cons, Nat.shiftLeft_eq, Nat.add_assoc]

theorem toNat_ofFields (n : Nat) (fs : List (Nat × Nat)) : (ofFields n fs).toNat = (fs.map fun f => f.2 * 2 ^ f.1).sum % 2 ^ n := by
  rw [ofFields, BitVec.toNat_ofNat, foldl_fields, Nat.zero_add]

theorem fld_eq {n : Nat} (w : BitVec n) (lo len : Nat) : fld w lo len = w.toNat / 2 ^ lo % 2 ^ len := by rw [fld, Nat.shiftRight_eq_div_pow]

theorem bit_eq_fld {n : Nat} (w : BitVec n) (i : Nat) : bit w i = decide (fld w i 1 = 1) := by
  rw [bit, BitVec.getLsbD, Nat.testBit_eq_decide_div_mod_eq, fld, Nat.shiftRight_eq_div_pow, Nat.pow_one]

theorem b2n_le (b : Bool) : b2n b ≤ 1 := by cases b <;> decide

theorem b2n_eq_one {b : Bool} : b2n b = 1 ↔ b = true := by cases b <;> decide

/-! ### What a record without a command leaves -/

theorem disp_logRec_of_no_slot {r : ErrRec} (h : r.slot = none) (s : State) : (logRec s r).disp = s.disp := by
  have note : ∀ (s : State) (i : Nat), noteIndex s none i = s := fun _ _ => rfl
  simp only [logRec, logAppend]
  generalize logMakeRoom _ _ _ _ = room
  split
  · rfl
  · split
    · next eq _ =>
      rw [(List.cons.inj eq).1.symm, h, note]
      (repeat' split) <;> rfl
    · (repeat' split) <;> rfl

/-- Of the counts and samples, a record changes ERR_STAT alone. -/
theorem liveGet_logRec (s : State) (r : ErrRec) {o : Nat} (h : mErrStat ≠ o) : liveGet (logRec s r) o = liveGet s o := by
  have note : ∀ (s : State) (k : Option Nat) (i : Nat), liveGet (noteIndex s k i) o = liveGet s o := by
    intro s k i
    rw [liveGet, show (noteIndex s k i).live = s.live by simp, liveGet]
  have sat : ∀ (s : State) (lo len n : Nat), liveGet (liveSat s mErrStat lo len n) o = liveGet s o := fun s lo len n => by
    rw [liveSat, liveGet_liveSet, if_neg h]
  have alert : ∀ s, liveGet (setAlert s) o = liveGet s o := fun _ => rfl
  have flt : ∀ (s : State) f, liveGet { s with flt := f } o = liveGet s o := fun _ _ => rfl
  simp only [logRec, logAppend]
  generalize logMakeRoom _ _ _ _ = room
  split
  · rw [alert, sat]
  · split
    · rw [note]
      (repeat' split) <;> simp only [alert, sat, flt]
    · (repeat' split) <;> simp only [alert, sat, flt]

theorem disp_thermalRec (s : State) (reason obj : Nat) : (thermalRec s reason obj).disp = s.disp := disp_logRec_of_no_slot rfl s

theorem liveGet_thermalRec (s : State) (reason obj : Nat) {o : Nat} (h : mErrStat ≠ o) : liveGet (thermalRec s reason obj) o = liveGet s o :=
  liveGet_logRec _ _ h

end Sys2Proof.Machine
end

section
namespace Sys2Proof.Machine
set_option Elab.async false
variable {s t : State}

/-! ### The FRU area (R429, R467) -/

/-- The names and the serial number, the first 48 bytes. -/
def fruNames : List Byte :=
  padTo 16 (natLE 1 1) ++ padTo 16 ("WPN-9410-LQ".toList.map fun c => BitVec.ofNat 8 c.toNat) ++ padTo 16 Config.fruSerial

theorem length_fruNames : fruNames.length = 48 := by simp [fruNames, length_padTo]

theorem fruBody_eq : fruBody = fruNames ++ (natLE 2 1 ++ (natLE 2 Config.fruDate.toNat ++ (natLE 6 Config.fruMac.toNat ++ List.replicate 194 0))) := by
  simp only [fruBody, fruNames, List.append_assoc]

theorem length_fruBody : fruBody.length = 252 := by
  simp only [fruBody_eq, List.length_append, length_fruNames, length_natLE, List.length_replicate]

theorem length_fruBytes : fruBytes.length = 256 := by simp [fruBytes, length_fruBody, length_natLE]

/-- A piece of the FRU area, before its CRC, is a piece of the body. -/
theorem fruBytes_piece {xs ys zs : List Byte} (body : fruBody = xs ++ (ys ++ zs)) (a n : Nat) (before : xs.length = a) (size : ys.length = n) :
    (fruBytes.drop a).take n = ys := by
  rw [fruBytes, body, List.append_assoc, List.append_assoc]
  exact take_drop_middle before size

theorem fru_fields :
    let at' := fun (a n : Nat) => leNat ((fruBytes.drop a).take n)
    fruBytes.length = 256 ∧ at' 0 16 = 1 ∧ (fruBytes.drop 0x20).take 16 = padTo 16 Config.fruSerial ∧ at' 0x30 2 = 1 ∧
      at' 0x32 2 = Config.fruDate.toNat ∧ at' 0x34 6 = Config.fruMac.toNat ∧ at' 0x3A 194 = 0 ∧
      at' 0xFC 4 = (crc32c (fruBytes.take 252)).toNat := by
  intro at'
  refine ⟨length_fruBytes, ?_, ?_, ?_, ?_, ?_, ?_, ?_⟩
  · have piece : (fruBytes.drop 0).take 16 = padTo 16 (natLE 1 1) := 
      fruBytes_piece (xs := []) (by rw [fruBody]; simp only [List.append_assoc]; rfl) 0 16 rfl
        (length_padTo ..)
    simp only [at', piece]
    decide
  · exact fruBytes_piece (xs := padTo 16 (natLE 1 1) ++ padTo 16 ("WPN-9410-LQ".toList.map fun c => BitVec.ofNat 8 c.toNat))
      (by rw [fruBody]; simp only [List.append_assoc]; rfl) 0x20 16 (by simp [length_padTo]) (length_padTo ..)
  · simp only [at', fruBytes_piece fruBody_eq 0x30 2 length_fruNames (length_natLE ..)]
    decide
  · have body : fruBody = (fruNames ++ natLE 2 1) ++ (natLE 2 Config.fruDate.toNat ++ (natLE 6 Config.fruMac.toNat ++ List.replicate 194 0)) := by
      simp only [fruBody_eq, List.append_assoc]
    simp only [at', fruBytes_piece body 0x32 2 (by simp [length_fruNames, length_natLE]) (length_natLE ..)]
    exact leNat_natLE_of_lt (by have := Config.fruDate.isLt; omega)
  · have body : fruBody = (fruNames ++ natLE 2 1 ++ natLE 2 Config.fruDate.toNat) ++ (natLE 6 Config.fruMac.toNat ++ List.replicate 194 0) := by
      simp only [fruBody_eq, List.append_assoc]
    simp only [at', fruBytes_piece body 0x34 6 (by simp [length_fruNames, length_natLE]) (length_natLE ..)]
    exact leNat_natLE_of_lt (by have := Config.fruMac.isLt; omega)
  · have body : fruBody = (fruNames ++ natLE 2 1 ++ natLE 2 Config.fruDate.toNat ++ natLE 6 Config.fruMac.toNat) ++ (List.replicate 194 0 ++ []) := by
      simp only [fruBody_eq, List.append_assoc, List.append_nil]
    simp only [at', fruBytes_piece body 0x3A 194 (by simp [length_fruNames, length_natLE]) List.length_replicate]
    exact leNat_replicate_zero 194
  · have crc : (fruBytes.drop 0xFC).take 4 = natLE 4 (crc32c fruBody).toNat := by
      rw [fruBytes, List.drop_left' length_fruBody, List.take_of_length_le (length_natLE ..).le]
    have body : fruBytes.take 252 = fruBody := by rw [fruBytes, List.take_left' length_fruBody]
    simp only [at', crc, body]
    exact leNat_natLE_of_lt (by have := (crc32c fruBody).isLt; omega)

/-! ### I2C: the index and the bytes read (R429) -/

theorem length_i2cBytes (a : List Byte) (i : Byte) (n : Nat) : (i2cBytes a i n).length = n := by simp [i2cBytes]

theorem getD_i2cBytes (a : List Byte) (i : Byte) {n j : Nat} (h : j < n) : (i2cBytes a i n).getD j 0 = a.getD ((i.toNat + j) % 256) 0 := by
  simp [i2cBytes, List.getD, h]

theorem alwaysOn_of_stage (h : s.mod.stage ≠ 0) : alwaysOn s = true := by simpa [alwaysOn] using h

theorem telemetry_index (up : s.mod.stage ≠ 0) (i : Byte) :
    Answers (.telemetryIndexWrite ⟨false, i⟩) s { s with mod := { s.mod with teleIndex := i } } ∧
      Answers (.telemetryIndexWrite ⟨true, i⟩) s (if s.mod.inputOk = true then { s with mod := { s.mod with fruIndex := i } } else s) := by
  have on := alwaysOn_of_stage up
  constructor
  · show execTelemetryIndexWrite _ s = _
    simp [execTelemetryIndexWrite, i2cAnswers, on]
  · show execTelemetryIndexWrite _ s = _
    cases h : s.mod.inputOk <;> simp [execTelemetryIndexWrite, i2cAnswers, h]

theorem fru_read (ok : s.mod.inputOk = true) (n : BitVec 9) :
    ∃ bs : List Byte, Answers (.telemetryRead ⟨true, n⟩) s { s with sent := .i2c bs :: s.sent } ∧
      bs.length = n.toNat ∧ ∀ j < n.toNat, bs.getD j 0 = fruBytes.getD ((s.mod.fruIndex.toNat + j) % 256) 0 := by
  refine ⟨i2cBytes fruBytes s.mod.fruIndex n.toNat, ?_, length_i2cBytes .., fun j hj => getD_i2cBytes _ _ hj⟩
  show execTelemetryRead _ s = _
  simp [execTelemetryRead, i2cAnswers, ok, send]

theorem telemetry_read (up : s.mod.stage ≠ 0) (n : BitVec 9) :
    ∃ bs : List Byte, Answers (.telemetryRead ⟨false, n⟩) s { s with sent := .i2c bs :: s.sent } ∧
      bs.length = n.toNat ∧ ∀ j < n.toNat, bs.getD j 0 = s.mod.teleSet.getD ((s.mod.teleIndex.toNat + j) % 256) 0 := by
  refine ⟨i2cBytes s.mod.teleSet s.mod.teleIndex n.toNat, ?_, length_i2cBytes .., fun j hj => getD_i2cBytes _ _ hj⟩
  show execTelemetryRead _ s = _
  simp [execTelemetryRead, i2cAnswers, alwaysOn_of_stage up, send]

/-! ### TELEMETRY_SAMPLE (R429) -/

theorem maxOf_eq (l : List Nat) : maxOf l = l.foldl max 0 := rfl

theorem foldl_max_spec : ∀ (l : List Nat) (a : Nat), a ≤ l.foldl max a ∧ (∀ x ∈ l, x ≤ l.foldl max a) ∧ (l.foldl max a = a ∨ l.foldl max a ∈ l)
  | [], a => ⟨Nat.le_refl a, by simp, .inl rfl⟩
  | x :: l, a => by
    obtain ⟨low, all, one⟩ := foldl_max_spec l (max a x)
    refine ⟨(Nat.le_max_left a x).trans low, fun y hy => ?_, ?_⟩
    · rcases List.mem_cons.mp hy with rfl | hy
      · exact (Nat.le_max_right a y).trans low
      · exact all y hy
    · rw [List.foldl_cons]
      rcases one with one | one
      · rcases Nat.le_total a x with h | h
        · exact .inr (by rw [one, Nat.max_eq_right h]; exact List.mem_cons_self)
        · exact .inl (by rw [one, Nat.max_eq_left h])
      · exact .inr (List.mem_cons_of_mem _ one)

/-- The greatest of `n` samples is at least each of them, and is one of them, or 0. -/
theorem maxOf_spec (n : Nat) (f : Nat → Nat) : (∀ i < n, f i ≤ maxOf ((List.range n).map f)) ∧
    (maxOf ((List.range n).map f) = 0 ∨ ∃ i < n, f i = maxOf ((List.range n).map f)) := by
  obtain ⟨-, all, one⟩ := foldl_max_spec ((List.range n).map f) 0
  refine ⟨fun i hi => all _ (List.mem_map.mpr ⟨i, List.mem_range.mpr hi, rfl⟩), one.imp id fun mem => ?_⟩
  obtain ⟨i, hi, eq⟩ := List.mem_map.mp mem
  exact ⟨i, List.mem_range.mp hi, eq⟩

theorem maxOf_lt {n b : Nat} {f : Nat → Nat} (pos : 0 < b) (h : ∀ i, f i < b) : maxOf ((List.range n).map f) < b := by
  rcases (maxOf_spec n f).2 with zero | ⟨i, -, eq⟩
  · rwa [zero]
  · rw [← eq]
    exact h i

end Sys2Proof.Machine
end

section
namespace Sys2Proof.Machine
set_option Elab.async false
variable {s t : State}

theorem telemetry_sample (up : s.mod.stage ≠ 0) :
    ∃ b : List Byte, Answers .telemetrySample s { s with mod := { s.mod with teleSet := b } } ∧ b.length = 18 ∧
      let w := fun off => leNat ((b.drop off).take 2)
      let p := liveGet s mPwrStat
      let top := fun (x n : Nat) (f : Nat → Nat) => (∀ i < n, f i ≤ x) ∧ (x = 0 ∨ ∃ i < n, f i = x)
      w 0 = fld (modStatWord s) 0 16 ∧ w 2 = fld p 32 16 ∧ w 4 = fld p 16 16 ∧ w 6 = fld p 48 16 ∧ w 8 = s.mod.coolIn.toNat ∧
      w 10 = s.mod.coolOut.toNat ∧ top (w 12) 16 (fun i => fld (liveGet s (mDieTemp i)) 0 12) ∧
      top (w 14) 12 (fun i => fld (liveGet s (mStackTemp i)) 0 12) ∧ b.getD 16 0 = BitVec.ofNat 8 s.mod.capStep ∧ b.getD 17 0 = s.mod.fail := by
  have samples : ∀ (n : Nat) (off : Nat → Nat), maxOf ((List.range n).map fun i => fld (liveGet s (off i)) 0 12) < 2 ^ 16 := fun n off =>
    maxOf_lt (by decide) fun i => (fld_lt ..).trans (by decide)
  refine ⟨teleBytes s, ?_, rfl, ?_⟩
  · show execTelemetrySample s = _
    rw [execTelemetrySample, if_pos (alwaysOn_of_stage up)]
  · intro w p top
    have die : w 12 = maxOf ((List.range 16).map fun i => fld (liveGet s (mDieTemp i)) 0 12) := leNat_natLE_of_lt (n := 2) (samples 16 mDieTemp)
    have stack : w 14 = maxOf ((List.range 12).map fun i => fld (liveGet s (mStackTemp i)) 0 12) := leNat_natLE_of_lt (n := 2) (samples 12 mStackTemp)
    refine ⟨leNat_natLE_of_lt (n := 2) (fld_lt ..), leNat_natLE_of_lt (n := 2) (fld_lt ..), leNat_natLE_of_lt (n := 2) (fld_lt ..),
      leNat_natLE_of_lt (n := 2) (fld_lt ..), leNat_natLE_of_lt (n := 2) s.mod.coolIn.isLt, leNat_natLE_of_lt (n := 2) s.mod.coolOut.isLt, ?_, ?_, rfl,
      (BitVec.ofNat_toNat ..).trans (BitVec.setWidth_eq _)⟩
    · rw [die]
      exact maxOf_spec 16 _
    · rw [stack]
      exact maxOf_spec 12 _

/-! ### CAP_SAMPLE (R433 to R435, R437) -/

/-- The readings that the cap goes by: the last 1024 in mode 1, the last one in any other, each with their number. -/
def capReadings (s : State) (watts : Nat) : List Nat := if cfg s mPwrCfg 40 2 = 1 then (watts :: s.mod.samples).take 1024 else [watts]

/-- The limit in force. -/
def capLimit (s : State) : Nat := if cfg s mPwrCfg 40 2 = 3 then 3800 else cfg s mPwrCfg 48 16

/-- The lowest step that may be taken. -/
def capFloor (s : State) : Nat := max s.mod.warnStep (if cfg s mPwrCfg 40 2 = 3 then fixedFloor (cfg s mPwrCfg 48 16) else 0)

/-- The input stands above the limit. -/
abbrev CapAbove (s : State) (watts : Nat) : Prop := capLimit s * (capReadings s watts).length < (capReadings s watts).sum

/-- The input stands below 98 % of the limit, and a step above the floor has been held for 64 samples. -/
abbrev CapBelow (s : State) (watts : Nat) : Prop :=
  100 * (capReadings s watts).sum < 98 * capLimit s * (capReadings s watts).length ∧ capFloor s < s.mod.capStep ∧ 64 ≤ s.mod.capHeld

/-- Step and samples held, before the floor. -/
def capNext (s : State) (watts : Nat) : Nat × Nat :=
  if CapAbove s watts ∧ s.mod.capStep < 48 then (s.mod.capStep + 1, 0)
  else if CapBelow s watts then (s.mod.capStep - 1, 0) else (s.mod.capStep, s.mod.capHeld + 1)

def capStep (s : State) (watts : Nat) : Nat := max (capNext s watts).1 (capFloor s)

/-- PWR_STAT after a sample. -/
def capWord (s : State) (watts volts amps : Nat) : Word :=
  ofFields 64 [(0, s.mod.warnStep), (8, capStep s watts), (15, b2n (decide (CapAbove s watts) && s.mod.capStep = 48)), (16, amps), (32, volts), (48, watts)]

/-- The state after a sample, before its record. -/
def capStepped (s : State) (watts volts amps : Nat) : State :=
  liveSet { s with mod := { s.mod with
      samples := (watts :: s.mod.samples).take 1024
      capStep := capStep s watts
      capHeld := (capNext s watts).2
      capHigh := if capStep s watts = 0 then 0 else max s.mod.capHigh (capStep s watts) } }
    mPwrStat (capWord s watts volts amps)

theorem sum_capReadings (s : State) (watts : Nat) : (capReadings s watts).sum =
    if cfg s mPwrCfg 40 2 = 1 then ((watts :: s.mod.samples).take 1024).sum else watts := by
  unfold capReadings
  split <;> simp

theorem length_capReadings (s : State) (watts : Nat) : (capReadings s watts).length =
    if cfg s mPwrCfg 40 2 = 1 then ((watts :: s.mod.samples).take 1024).length else 1 := by
  unfold capReadings
  split <;> rfl

/-- The record of the model, where the step leaves 0 or returns to it. -/
def capRecord (s : State) (limit high : Nat) (t : State) : State :=
  if s.mod.capStep = 0 ∧ 0 < t.mod.capStep then (if freeBit t then thermalRec t.tick 0xD2 limit else t.tick)
  else if 0 < s.mod.capStep ∧ t.mod.capStep = 0 then (if freeBit t then thermalRec t.tick 0xD3 high else t.tick)
  else t

theorem capSample_eq (s : State) (watts volts amps : Nat) : capSample watts volts amps s =
    capRecord s (cfg s mPwrCfg 48 16) (max s.mod.capHigh (capStep s watts)) (capStepped s watts volts amps) := by
  unfold capSample capRecord capStepped capWord capStep capNext CapBelow CapAbove
  rw [sum_capReadings, length_capReadings]
  simp only [capLimit, capFloor, decide_eq_true_eq]
  rfl

end Sys2Proof.Machine
end

section
namespace Sys2Proof.Machine
set_option Elab.async false
variable {s t : State}

/-- Where a sample may write a record, all else that the statement speaks of stays. -/
structure RecordsOnly (s t : State) : Prop where
  mod : t.mod = s.mod
  regs : t.regs = s.regs
  mem : t.mem = s.mem
  cores : t.cores = s.cores
  disp : t.disp = s.disp
  live : ∀ o, mErrStat ≠ o → liveGet t o = liveGet s o

theorem RecordsOnly.refl (s : State) : RecordsOnly s s := ⟨rfl, rfl, rfl, rfl, rfl, fun _ _ => rfl⟩

theorem recordsOnly_tick (s : State) : RecordsOnly s s.tick := ⟨rfl, rfl, rfl, rfl, rfl, fun _ _ => rfl⟩

theorem recordsOnly_thermalRec (s : State) (reason obj : Nat) : RecordsOnly s (thermalRec s reason obj) :=
  ⟨by simp, by simp, by simp, by simp, disp_thermalRec .., fun _ h => liveGet_thermalRec s reason obj h⟩

theorem RecordsOnly.trans {u : State} (h : RecordsOnly s t) (h' : RecordsOnly t u) : RecordsOnly s u :=
  ⟨h'.mod.trans h.mod, h'.regs.trans h.regs, h'.mem.trans h.mem, h'.cores.trans h.cores, h'.disp.trans h.disp,
    fun o ho => (h'.live o ho).trans (h.live o ho)⟩

theorem RecordsOnly.ite {u : State} {p : Prop} [Decidable p] (h : RecordsOnly s t) (h' : RecordsOnly s u) : RecordsOnly s (if p then t else u) := by
  split
  · exact h
  · exact h'

theorem recordsOnly_capRecord (s : State) (limit high : Nat) (t : State) : RecordsOnly t (capRecord s limit high t) := by
  have record : ∀ reason obj, RecordsOnly t (thermalRec t.tick reason obj) := fun reason obj => (recordsOnly_tick t).trans (recordsOnly_thermalRec ..)
  exact .ite (.ite (record ..) (recordsOnly_tick t)) (.ite (.ite (record ..) (recordsOnly_tick t)) (.refl t))

theorem capRecord_of_level (limit high : Nat) (level : 0 < s.mod.capStep ↔ 0 < t.mod.capStep) : capRecord s limit high t = t := by
  unfold capRecord
  rw [if_neg (by omega), if_neg (by omega)]

/-! The cap's comparisons, over the rational numbers of the statement -/

theorem capReadings_pos (s : State) (watts : Nat) : 0 < (capReadings s watts).length := by
  rw [length_capReadings]
  split <;> simp

/-- The mean of the readings. -/
theorem capMean_eq (s : State) (watts : Nat) : (if cfg s mPwrCfg 40 2 = 1 then
      ((((watts :: s.mod.samples).take 1024).sum : ℚ) / ((watts :: s.mod.samples).take 1024).length) else watts) =
    ((capReadings s watts).sum : ℚ) / (capReadings s watts).length := by
  rw [sum_capReadings, length_capReadings]
  split <;> simp

theorem lt_capMean_iff (s : State) (watts : Nat) : (capLimit s : ℚ) < ((capReadings s watts).sum : ℚ) / (capReadings s watts).length ↔ CapAbove s watts := by
  have pos : (0 : ℚ) < (capReadings s watts).length := by exact_mod_cast capReadings_pos s watts
  rw [lt_div_iff₀ pos]
  exact_mod_cast Iff.rfl

theorem capMean_lt_iff (s : State) (watts : Nat) : ((capReadings s watts).sum : ℚ) / (capReadings s watts).length < 98 / 100 * capLimit s ↔
    100 * (capReadings s watts).sum < 98 * capLimit s * (capReadings s watts).length := by
  have pos : (0 : ℚ) < (capReadings s watts).length := by exact_mod_cast capReadings_pos s watts
  rw [div_lt_iff₀ pos, ← Nat.cast_lt (α := ℚ)]
  push_cast
  constructor <;> intro h <;> linarith

theorem capFloor_eq (s : State) : capFloor s =
    max s.mod.warnStep (if cfg s mPwrCfg 40 2 = 3 then (2 * (4000 - cfg s mPwrCfg 48 16) + 124) / 125 else 0) := by
  unfold capFloor fixedFloor ceilDiv
  rw [Nat.add_sub_assoc (by decide)]

/-- The fields of PWR_STAT: a step of up to 127 leaves those above bit 15. -/
theorem pwrStat_fields {warn step flag amps volts watts : Nat} (hwarn : warn < 64) (hstep : step < 128) (hflag : flag ≤ 1) (ha : amps < 2 ^ 16)
    (hv : volts < 2 ^ 16) (hw : watts < 2 ^ 16) {p : Word} (hp : p = ofFields 64 [(0, warn), (8, step), (15, flag), (16, amps), (32, volts), (48, watts)]) :
    fld p 0 6 = warn ∧ (step ≤ 63 → fld p 8 6 = step) ∧ fld p 15 1 = flag ∧ fld p 16 16 = amps ∧ fld p 32 16 = volts ∧ fld p 48 16 = watts := by
  have word : p.toNat = (warn * 2 ^ 0 + (step * 2 ^ 8 + (flag * 2 ^ 15 + (amps * 2 ^ 16 + (volts * 2 ^ 32 + (watts * 2 ^ 48 + 0)))))) % 2 ^ 64 := by
    rw [hp, toNat_ofFields, List.map_cons, List.map_cons, List.map_cons, List.map_cons, List.map_cons, List.map_cons, List.map_nil, List.sum_cons,
      List.sum_cons, List.sum_cons, List.sum_cons, List.sum_cons, List.sum_cons, List.sum_nil]
  rw [Nat.mod_eq_of_lt (by omega)] at word
  rw [fld_eq, fld_eq, fld_eq, fld_eq, fld_eq, fld_eq, word]
  refine ⟨?_, ?_, ?_, ?_, ?_, ?_⟩ <;> omega

theorem capWord_fields {watts volts amps : Nat} (warn : s.mod.warnStep < 64) (step : capStep s watts < 128) (w : watts < 2 ^ 16) (v : volts < 2 ^ 16)
    (a : amps < 2 ^ 16) {p : Word} (hp : p = capWord s watts volts amps) :
    fld p 0 6 = s.mod.warnStep ∧ (capStep s watts ≤ 63 → fld p 8 6 = capStep s watts) ∧
      (bit p 15 = true ↔ CapAbove s watts ∧ s.mod.capStep = 48) ∧ fld p 16 16 = amps ∧ fld p 32 16 = volts ∧ fld p 48 16 = watts := by
  obtain ⟨low, steps, flag, rest⟩ := pwrStat_fields warn step (b2n_le _) a v w hp
  refine ⟨low, steps, ?_, rest⟩
  rw [bit_eq_fld, flag, decide_eq_true_eq, b2n_eq_one]
  simp

theorem capStep_lt (cap : s.mod.capStep ≤ 48) (warn : s.mod.warnStep ≤ 48) (watts : Nat) : capStep s watts < 128 := by
  have next : (capNext s watts).1 ≤ 49 := by
    unfold capNext
    split
    · exact Nat.succ_le_succ cap
    · split
      · exact (Nat.sub_le ..).trans (cap.trans (by decide))
      · exact cap.trans (by decide)
  have floor : capFloor s ≤ 64 := by
    rw [capFloor_eq]
    refine Nat.max_le.mpr ⟨warn.trans (by decide), ?_⟩
    split <;> omega
  exact (Nat.max_le.mpr ⟨next.trans (by decide), floor⟩).trans_lt (by decide)

theorem capStepped_frame (s : State) (watts volts amps : Nat) : (capStepped s watts volts amps).regs = s.regs ∧
    (capStepped s watts volts amps).mem = s.mem ∧ (capStepped s watts volts amps).cores = s.cores ∧ (capStepped s watts volts amps).disp = s.disp ∧
    (capStepped s watts volts amps).flt = s.flt := by
  simp [capStepped]

theorem capStepped_mod (s : State) (watts volts amps : Nat) : (capStepped s watts volts amps).mod.samples = (watts :: s.mod.samples).take 1024 ∧
    (capStepped s watts volts amps).mod.capStep = capStep s watts ∧ (capStepped s watts volts amps).mod.capHeld = (capNext s watts).2 := by
  simp [capStepped]

theorem cap_sample (up : s.mod.stage ≠ 0) (watts volts amps : BitVec 16) (hcap : s.mod.capStep ≤ 48) (hwarn : s.mod.warnStep ≤ 48) :
    let m := s.mod
    let mode := cfg s mPwrCfg 40 2
    let limit := cfg s mPwrCfg 48 16
    let lim := if mode = 3 then 3800 else limit
    let lo := max m.warnStep (if mode = 3 then (2 * (4000 - limit) + 124) / 125 else 0)
    let seen := (watts.toNat :: m.samples).take 1024
    let q : ℚ := if mode = 1 then (seen.sum : ℚ) / seen.length else watts.toNat
    let up := (lim : ℚ) < q ∧ m.capStep < 48
    let down := ¬up ∧ q < (98 / 100 : ℚ) * lim ∧ lo < m.capStep ∧ 64 ≤ m.capHeld
    ∃ t, Answers (.capSample watts volts amps) s t ∧ t.mod.samples = seen ∧
      (up → t.mod.capStep = max (m.capStep + 1) lo ∧ t.mod.capHeld = 0) ∧
      (down → t.mod.capStep = m.capStep - 1 ∧ t.mod.capHeld = 0) ∧
      (¬up → ¬down → t.mod.capStep = max m.capStep lo ∧ t.mod.capHeld = m.capHeld + 1) ∧
      (let p := liveGet t mPwrStat
       fld p 0 6 = m.warnStep ∧ (t.mod.capStep ≤ 63 → fld p 8 6 = t.mod.capStep) ∧
       (bit p 15 = true ↔ (lim : ℚ) < q ∧ m.capStep = 48) ∧ fld p 16 16 = amps.toNat ∧ fld p 32 16 = volts.toNat ∧ fld p 48 16 = watts.toNat) ∧
      ((0 < m.capStep ↔ 0 < t.mod.capStep) → t.flt = s.flt) ∧ t.regs = s.regs ∧ t.mem = s.mem ∧ t.cores = s.cores ∧ t.disp = s.disp := by
  intro m mode limit lim lo seen q up' down
  obtain ⟨x, hx⟩ : ∃ x, x = capStepped s watts.toNat volts.toNat amps.toNat := ⟨_, rfl⟩
  obtain ⟨t, ht⟩ : ∃ t, t = capRecord s limit (max m.capHigh (capStep s watts.toNat)) x := ⟨_, rfl⟩
  have run : exec (.capSample watts volts amps) s = .next t := by
    show execCapSample watts volts amps s = _
    rw [execCapSample, if_pos (alwaysOn_of_stage up), capSample_eq, ht, hx]
  have only : RecordsOnly x t := ht ▸ recordsOnly_capRecord ..
  have mean : q = ((capReadings s watts.toNat).sum : ℚ) / (capReadings s watts.toNat).length := capMean_eq s watts.toNat
  have above : (lim : ℚ) < q ↔ CapAbove s watts.toNat := by
    rw [mean]
    exact lt_capMean_iff s watts.toNat
  have rises : up' ↔ CapAbove s watts.toNat ∧ s.mod.capStep < 48 := and_congr_left' above
  have floor : capFloor s = lo := capFloor_eq s
  have falls : down ↔ ¬(CapAbove s watts.toNat ∧ s.mod.capStep < 48) ∧ CapBelow s watts.toNat := by
    have below : q < (98 / 100 : ℚ) * lim ↔ _ := mean ▸ capMean_lt_iff s watts.toNat
    exact and_congr (not_congr rises) (by rw [CapBelow, floor]; exact and_congr_left' below)
  obtain ⟨regs, mem, cores, disp, flt⟩ := capStepped_frame s watts.toNat volts.toNat amps.toNat
  obtain ⟨samples, same, held⟩ := capStepped_mod s watts.toNat volts.toNat amps.toNat
  have stat : liveGet x mPwrStat = capWord s watts.toNat volts.toNat amps.toNat := by rw [hx, capStepped, liveGet_liveSet, if_pos rfl]
  rw [← hx] at regs mem cores disp flt samples same held
  rw [← only.mod] at samples same held
  have step : t.mod.capStep = max (capNext s watts.toNat).1 lo := by rw [same, capStep, floor]
  refine ⟨t, run, samples, fun h => ?_, fun h => ?_, fun h h' => ?_, ?_, fun level => ?_, only.regs.trans regs, only.mem.trans mem,
    only.cores.trans cores, only.disp.trans disp⟩
  · rw [step, held, capNext, if_pos (rises.mp h)]
    exact ⟨rfl, rfl⟩
  · obtain ⟨not, below⟩ := falls.mp h
    rw [step, held, capNext, if_neg not, if_pos below]
    obtain ⟨-, room, -⟩ := below
    exact ⟨Nat.max_eq_left (Nat.le_sub_one_of_lt (floor ▸ room)), rfl⟩
  · rw [step, held, capNext, if_neg (mt rises.mpr h), if_neg fun below => h' (falls.mpr ⟨mt rises.mpr h, below⟩)]
    exact ⟨rfl, rfl⟩
  · rw [same, above, only.live _ (by decide)]
    exact capWord_fields (hwarn.trans_lt (by decide)) (capStep_lt hcap hwarn _) watts.isLt volts.isLt amps.isLt stat
  · rw [ht, capRecord_of_level _ _ (by rw [← only.mod]; exact level), flt]

end Sys2Proof.Machine
end

section
namespace Sys2Proof.Machine
set_option Elab.async false
variable {s t : State}

theorem RecordsOnly.of_eq (h : t = s) : RecordsOnly s t := h ▸ .refl t

theorem recordsOnly_ite {p : Prop} [Decidable p] (s : State) (reason obj : Nat) : RecordsOnly s (if p then thermalRec s reason obj else s) :=
  .ite (recordsOnly_thermalRec ..) (.refl s)

/-! ### DIE_TEMP_SAMPLE (R436, R437) -/

/-- Samples of units, each written to its own place. -/
def sampled (off : Nat → Nat) (s : State) (es : List (Nat × Nat)) : State := es.foldl (fun s e => liveSet s (off e.1) (BitVec.ofNat 64 e.2)) s

theorem sampled_eq (off : Nat → Nat) : ∀ (es : List (Nat × Nat)) (s : State), sampled off s es = { s with live := (sampled off s es).live }
  | [], _ => rfl
  | e :: es, s => sampled_eq off es (liveSet s (off e.1) (BitVec.ofNat 64 e.2))

theorem liveGet_sampled_ne {off : Nat → Nat} {o : Nat} {es : List (Nat × Nat)} (h : ∀ e ∈ es, off e.1 ≠ o) (s : State) :
    liveGet (sampled off s es) o = liveGet s o :=
  foldl_keeps_of_mem (fun s => liveGet s o) es (fun _ e he => (liveGet_liveSet ..).trans (if_neg (h e he))) s

theorem liveGet_sampled {off : Nat → Nat} (inj : ∀ i j, off i = off j → i = j) : ∀ {es : List (Nat × Nat)} (_ : (es.map (·.1)).Nodup) (s : State)
    {i v : Nat} (_ : (i, v) ∈ es), liveGet (sampled off s es) (off i) = BitVec.ofNat 64 v
  | [], _, _, _, _, h => absurd h List.not_mem_nil
  | e :: es, nodup, s, i, v, h => by
    obtain ⟨fresh, nodup⟩ := List.nodup_cons.mp nodup
    rcases List.mem_cons.mp h with rfl | h
    · refine (liveGet_sampled_ne (fun e he eq => fresh (List.mem_map.mpr ⟨e, he, inj _ _ eq⟩)) _).trans ?_
      exact (liveGet_liveSet ..).trans (if_pos rfl)
    · exact liveGet_sampled inj nodup _ h

/-- The warning temperature. -/
def warnAt (s : State) : Nat := 8 * cfg s mModCfg 56 8

def someHot (s : State) (temps : List (BitVec 12)) : Bool := (temps.map (·.toNat)).any fun x => decide (warnAt s ≤ x)
def allCool (s : State) (temps : List (BitVec 12)) : Bool := (temps.map (·.toNat)).all fun x => decide (x + 16 < warnAt s)

/-- The floor after a sample of the dies. -/
def warnNext (s : State) (temps : List (BitVec 12)) (fall : Bool) : Nat :=
  if someHot s temps then min (s.mod.warnStep + 1) 48 else if fall ∧ allCool s temps then s.mod.warnStep - 1 else s.mod.warnStep

/-- The state after a sample of the dies, before its records. -/
def dieStepped (temps : List (BitVec 12)) (fall : Bool) (s : State) : State :=
  let t := sampled mDieTemp s ((List.range 16).zip (temps.map (·.toNat)))
  let w := warnNext s temps fall
  let u := { t with mod := { s.mod with warnStep := w, warnHigh := if w = 0 then 0 else max s.mod.warnHigh w, dieWarn := someHot s temps } }
  liveSet u mPwrStat (setFld (liveGet u mPwrStat) 0 6 w)

theorem recordsOnly_dieSample (temps : List (BitVec 12)) (fall : Bool) (s : State) : RecordsOnly (dieStepped temps fall s) (dieSample temps fall s) := by
  have hot : ((temps.map (·.toNat)).findIdx? fun x => decide (warnAt s ≤ x)).isSome = someHot s temps := by rw [List.findIdx?_isSome, someHot]
  have mod : (sampled mDieTemp s ((List.range 16).zip (temps.map (·.toNat)))).mod = s.mod := by rw [sampled_eq]
  have fold : ((List.range 16).zip (temps.map (·.toNat))).foldl (fun s e => liveSet s (mDieTemp e.1) (BitVec.ofNat 64 e.2)) s =
      sampled mDieTemp s ((List.range 16).zip (temps.map (·.toNat))) := rfl
  unfold dieSample
  dsimp only
  rw [fold, mod, show 8 * cfg s mModCfg 56 8 = warnAt s from rfl, hot]
  refine RecordsOnly.trans (.trans (.of_eq ?_) (recordsOnly_ite ..)) (recordsOnly_ite ..)
  rfl

theorem dieStepped_frame (temps : List (BitVec 12)) (fall : Bool) (s : State) : (dieStepped temps fall s).regs = s.regs ∧
    (dieStepped temps fall s).mem = s.mem ∧ (dieStepped temps fall s).cores = s.cores ∧ (dieStepped temps fall s).disp = s.disp := by
  unfold dieStepped
  rw [sampled_eq]
  exact ⟨rfl, rfl, rfl, rfl⟩

theorem dieStepped_mod (temps : List (BitVec 12)) (fall : Bool) (s : State) : (dieStepped temps fall s).mod.dieWarn = someHot s temps ∧
    (dieStepped temps fall s).mod.warnStep = warnNext s temps fall ∧ (dieStepped temps fall s).mod.capStep = s.mod.capStep := ⟨rfl, rfl, rfl⟩

theorem someHot_iff (s : State) (temps : List (BitVec 12)) : someHot s temps = true ↔ ∃ x ∈ temps, warnAt s ≤ x.toNat := by simp [someHot]

theorem allCool_iff (s : State) (temps : List (BitVec 12)) : allCool s temps = true ↔ ∀ x ∈ temps, x.toNat + 16 < warnAt s := by simp [allCool]

theorem liveGet_dieStepped {temps : List (BitVec 12)} (length : temps.length = 16) (fall : Bool) (s : State) {i : Nat} (hi : i < 16) :
    liveGet (dieStepped temps fall s) (mDieTemp i) = BitVec.ofNat 64 (temps.getD i 0).toNat := by
  have place : mPwrStat ≠ mDieTemp i := by unfold mPwrStat mDieTemp; omega
  have keys : (((List.range 16).zip (temps.map (·.toNat))).map (·.1)).Nodup := by
    rw [List.map_fst_zip (by simp [length])]
    exact List.nodup_range
  have mem : (i, (temps.getD i 0).toNat) ∈ (List.range 16).zip (temps.map (·.toNat)) := by
    refine List.mem_iff_getElem.mpr ⟨i, by simp [length, hi], ?_⟩
    simp [List.getD, length, hi]
  refine (liveGet_liveSet ..).trans ((if_neg place).trans ?_)
  exact liveGet_sampled (fun i j h => by unfold mDieTemp at h; omega) keys s mem

theorem die_sample (up : s.mod.stage ≠ 0) (temps : List (BitVec 12)) (fall : Bool) (length : temps.length = 16) :
    let m := s.mod
    let warn := 8 * cfg s mModCfg 56 8
    ∃ t, Answers (.dieTempSample temps fall) s t ∧
      (∀ i < 16, fld (liveGet t (mDieTemp i)) 0 12 = (temps.getD i 0).toNat) ∧
      (t.mod.dieWarn = true ↔ ∃ x ∈ temps, warn ≤ x.toNat) ∧
      ((∃ x ∈ temps, warn ≤ x.toNat) → t.mod.warnStep = min (m.warnStep + 1) 48) ∧
      ((∀ x ∈ temps, x.toNat + 16 < warn) → t.mod.warnStep = if fall then m.warnStep - 1 else m.warnStep) ∧
      ((∀ x ∈ temps, x.toNat < warn) → (∃ x ∈ temps, warn ≤ x.toNat + 16) → t.mod.warnStep = m.warnStep) ∧
      t.mod.capStep = m.capStep ∧ t.regs = s.regs ∧ t.mem = s.mem ∧ t.cores = s.cores ∧ t.disp = s.disp := by
  intro m warn
  have run : exec (.dieTempSample temps fall) s = .next (dieSample temps fall s) := by
    show execDieTempSample temps fall s = _
    rw [execDieTempSample, if_neg (not_not_intro length), if_pos (alwaysOn_of_stage up)]
  have only := recordsOnly_dieSample temps fall s
  obtain ⟨regs, mem, cores, disp⟩ := dieStepped_frame temps fall s
  obtain ⟨hot, floor, cap⟩ := dieStepped_mod temps fall s
  rw [← only.mod] at hot floor cap
  have cold : (∀ x ∈ temps, x.toNat < warn) → someHot s temps = false := by
    intro h
    refine Bool.eq_false_iff.mpr fun hot => ?_
    obtain ⟨x, hx, high⟩ := (someHot_iff s temps).mp hot
    exact Nat.not_lt.mpr high (h x hx)
  refine ⟨_, run, fun i hi => ?_, by rw [hot, someHot_iff]; rfl, fun h => ?_, fun h => ?_, fun h h' => ?_, cap, only.regs.trans regs, only.mem.trans mem,
    only.cores.trans cores, only.disp.trans disp⟩
  · rw [only.live _ (by unfold mErrStat mDieTemp; omega), liveGet_dieStepped length fall s hi, fld_eq, BitVec.toNat_ofNat]
    have := (temps.getD i 0).isLt
    omega
  · rw [floor, warnNext, if_pos ((someHot_iff s temps).mpr h)]
  · rw [floor, warnNext, cold fun x hx => by have := h x hx; omega, (allCool_iff s temps).mpr h]
    cases fall <;> rfl
  · have warm : allCool s temps = false := by
      refine Bool.eq_false_iff.mpr fun cool => ?_
      obtain ⟨x, hx, near⟩ := h'
      exact Nat.not_lt.mpr near ((allCool_iff s temps).mp cool x hx)
    rw [floor, warnNext, cold h, warm]
    simp [m]

end Sys2Proof.Machine
end

section
namespace Sys2Proof.Machine
set_option Elab.async false
variable {s t : State}

/-! ### HBM_TEMP_SAMPLE (R66, R68, R70) -/

/-- The throttle step of a stack. -/
def stackStep (s : State) (st : Nat) : Nat := fld (liveGet s (mStackTemp st)) 28 3

/-- The step after a sample. -/
def stackNext (s : State) (st temp : Nat) : Nat := nextStep s (stackStep s st) temp (freeBit s)

/-- Whether the stack has reached its escalation point after a sample. -/
def stackEsc (s : State) (st temp : Nat) : Bool :=
  if stackPriv s st ∧ 8 * (cfg s mTherm 0 8 + 6 * cfg s mTherm 8 4) ≤ temp then true
  else if stackNext s st temp < stackStep s st ∧ stackNext s st temp ≤ 5 then false else bit (liveGet s (mStackTemp st)) 31

/-- STACK_TEMP after a sample. -/
def stackWord (s : State) (st temp : Nat) : Word := ofFields 64 [(0, temp), (28, stackNext s st temp), (31, b2n (stackEsc s st temp))]

/-- The state after a sample of a stack, before its records. -/
def stackStepped (st temp : Nat) (s : State) : State :=
  let t := liveSet s.tick (mStackTemp st) (stackWord s st temp)
  let high := max (Map.get (fun _ => 0) s.mod.stackHigh st) (stackNext s st temp)
  { t with mod := { t.mod with stackHigh := Map.put t.mod.stackHigh st (if stackNext s st temp = 0 then 0 else high) } }

theorem recordsOnly_stackSample (st temp : Nat) (s : State) : RecordsOnly (stackStepped st temp s) (stackSample st temp s) := by
  unfold stackSample
  dsimp only
  exact RecordsOnly.trans (.trans (.trans (.of_eq rfl) (recordsOnly_ite ..)) (recordsOnly_ite ..)) (recordsOnly_ite ..)

theorem stackStepped_frame (st temp : Nat) (s : State) : (stackStepped st temp s).regs = s.regs ∧ (stackStepped st temp s).mem = s.mem ∧
    (stackStepped st temp s).cores = s.cores ∧ (stackStepped st temp s).disp = s.disp := ⟨rfl, rfl, rfl, rfl⟩

theorem liveGet_stackStepped (st temp : Nat) (s : State) (o : Nat) : liveGet (stackStepped st temp s) (mStackTemp o) =
    if mStackTemp st = mStackTemp o then stackWord s st temp else liveGet s (mStackTemp o) := by
  have live : (stackStepped st temp s).live = (liveSet s.tick (mStackTemp st) (stackWord s st temp)).live := by
    unfold stackStepped
    dsimp only
  have tick : liveGet s.tick (mStackTemp o) = liveGet s (mStackTemp o) := rfl
  rw [liveGet, live, ← liveGet, liveGet_liveSet, tick]

/-- A sample moves the step by one at most, up to 6. -/
theorem nextStep_spec (s : State) {k : Nat} (temp : Nat) (may : Bool) (h : k ≤ 6) : nextStep s k temp may ≤ 6 ∧
    (nextStep s k temp may = k ∨ (nextStep s k temp may = k + 1 ∧ stepEntry s (k + 1) ≤ temp) ∨
      (nextStep s k temp may + 1 = k ∧ temp + 8 ≤ stepEntry s k)) := by
  unfold nextStep
  split
  · next up =>
    obtain ⟨-, room, hot⟩ := up
    exact ⟨room, .inr (.inl ⟨rfl, hot⟩)⟩
  · split
    · next down =>
      obtain ⟨-, room, cool⟩ := down
      exact ⟨(Nat.sub_le ..).trans h, .inr (.inr ⟨Nat.sub_add_cancel room, cool⟩)⟩
    · exact ⟨h, .inl rfl⟩

theorem stackWord_fields {s : State} {st temp : Nat} (ht : temp < 2 ^ 12) (hk : stackNext s st temp ≤ 6) :
    fld (stackWord s st temp) 0 12 = temp ∧ fld (stackWord s st temp) 28 3 = stackNext s st temp := by
  have flag := b2n_le (stackEsc s st temp)
  have word : (stackWord s st temp).toNat =
      (temp * 2 ^ 0 + (stackNext s st temp * 2 ^ 28 + (b2n (stackEsc s st temp) * 2 ^ 31 + 0))) % 2 ^ 64 := by
    rw [stackWord, toNat_ofFields, List.map_cons, List.map_cons, List.map_cons, List.map_nil, List.sum_cons, List.sum_cons, List.sum_cons, List.sum_nil]
  rw [Nat.mod_eq_of_lt (by omega)] at word
  rw [fld_eq, fld_eq, word]
  constructor <;> omega

theorem stack_sample (up : s.mod.stage ≠ 0) (st : BitVec 4) (temp : BitVec 12) (hst : st.toNat < 12) :
    let k := fld (liveGet s (mStackTemp st.toNat)) 28 3
    let into := fun k => 8 * (cfg s mTherm 0 8 + (k - 1) * cfg s mTherm 8 4)
    k ≤ 6 → ∃ t, Answers (.hbmTempSample st temp) s t ∧
      (let w := liveGet t (mStackTemp st.toNat)
       let k' := fld w 28 3
       fld w 0 12 = temp.toNat ∧ k' ≤ 6 ∧ (k' = k ∨ (k' = k + 1 ∧ into (k + 1) ≤ temp.toNat) ∨ (k' + 1 = k ∧ temp.toNat + 8 ≤ into k))) ∧
      (∀ o < 12, o ≠ st.toNat → liveGet t (mStackTemp o) = liveGet s (mStackTemp o)) ∧
      t.regs = s.regs ∧ t.mem = s.mem ∧ t.cores = s.cores ∧ t.disp = s.disp := by
  intro k into hk
  have run : exec (.hbmTempSample st temp) s = .next (stackSample st.toNat temp.toNat s) := by
    show execHbmTempSample st temp s = _
    rw [execHbmTempSample, if_neg (Nat.not_le.mpr hst), if_pos (alwaysOn_of_stage up)]
  have only := recordsOnly_stackSample st.toNat temp.toNat s
  obtain ⟨regs, mem, cores, disp⟩ := stackStepped_frame st.toNat temp.toNat s
  obtain ⟨most, moves⟩ := nextStep_spec s temp.toNat (freeBit s) hk
  have place : ∀ o < 12, mErrStat ≠ mStackTemp o := fun o _ => by unfold mErrStat mStackTemp; omega
  have word : liveGet (stackSample st.toNat temp.toNat s) (mStackTemp st.toNat) = stackWord s st.toNat temp.toNat :=
    (only.live _ (place _ hst)).trans ((liveGet_stackStepped ..).trans (if_pos rfl))
  obtain ⟨low, step⟩ := stackWord_fields (s := s) (st := st.toNat) temp.isLt most
  refine ⟨_, run, ?_, fun o ho hne => ?_, only.regs.trans regs, only.mem.trans mem,
    only.cores.trans cores, only.disp.trans disp⟩
  · dsimp only
    rw [word, step]
    exact ⟨low, most, moves⟩
  · refine (only.live _ (place o ho)).trans ((liveGet_stackStepped ..).trans (if_neg ?_))
    unfold mStackTemp
    omega

/-! ### COOLANT_CHECK (R439) -/

theorem coolant_check (up : s.mod.stage ≠ 0) (inlet outlet : BitVec 16) :
    let m := s.mod
    let t := { s with mod := { m with coolIn := inlet, coolOut := outlet } }
    let bad := 384 < inlet.toNat ∨ inlet.toNat + 200 < outlet.toNat
    (¬bad ∨ m.coolant = true → Answers (.coolantCheck inlet outlet) s t) ∧
    (bad → m.coolant = false → Answers (.coolantCheck inlet outlet) s
      (thermalRec { t with mod := { t.mod with coolant := true } } 0xD4 (inlet.toNat * 65536 + outlet.toNat))) := by
  intro m t bad
  have run : exec (.coolantCheck inlet outlet) s = if bad then (if m.coolant = true then .next t
      else .next (thermalRec { t with mod := { t.mod with coolant := true } } 0xD4 (inlet.toNat * 65536 + outlet.toNat))) else .next t := by
    show execCoolantCheck inlet outlet s = _
    rw [execCoolantCheck, alwaysOn_of_stage up]
    rfl
  refine ⟨fun h => run.trans ?_, fun h still => run.trans ?_⟩
  · rcases h with fine | seen
    · exact if_neg fine
    · rw [if_pos seen, ite_self]
  · rw [if_pos h, if_neg (Bool.eq_false_iff.mp still)]

/-- Settles O58, sample by sample. What a sample does is a state before its records (`capStepped`, `dieStepped`, `stackStepped`), of which the records
change nothing that the statement speaks of (`RecordsOnly`). -/
theorem moduleSamples : Obligations.ModuleSamples := by
  intro s up
  refine ⟨telemetry_index up, fru_read, fru_fields, telemetry_read up, telemetry_sample up, cap_sample up, die_sample up, fun temps fall length => ?_,
    stack_sample up, fun st temp beyond => ?_, coolant_check up⟩
  · exact if_pos length
  · exact if_pos beyond

end Sys2Proof.Machine
end

section
namespace Sys2Proof.Machine
set_option Elab.async false
variable {s t u : State} {k : Nat} {c d : Cmd}

/-! ### What the readings of the state depend on -/

theorem cmdOf_congr (h : t.disp.slots = s.disp.slots) (j : Nat) : cmdOf t j = cmdOf s j := by rw [cmdOf, h, cmdOf]

theorem coreOf_congr (h : t.cores = s.cores) (j : Nat) : coreOf t j = coreOf s j := by rw [coreOf, h, coreOf]

theorem queueOf_congr (h : t.disp.queues = s.disp.queues) (q : Nat) : queueOf t q = queueOf s q := by rw [queueOf, h, queueOf]

theorem ctrGet_congr (h : t.sync.counters = s.sync.counters) (n : Nat) : ctrGet t n = ctrGet s n := by rw [ctrGet, h, ctrGet]

theorem jointSet_congr (h : t.disp.slots = s.disp.slots) (j : Nat) : jointSet t j = jointSet s j := by
  unfold jointSet
  rw [cmdOf_congr h, h]

/-! ### A command that is a joint set of its own (R89) -/

theorem updCmds_alone (hc : cmdOf s k = some c) (f : Nat → Cmd → Cmd) : updCmds s [k] f = setCmd s k (f k c) := by
  simp [updCmds, updCmd, hc]

theorem cmdOf_setCmd_self (s : State) (k : Nat) (c : Cmd) : cmdOf (setCmd s k c) k = some c := by simp [cmdOf_setCmd]

theorem Map.filter_insert_of_none {α : Type} {p : Nat × α → Bool} {v : α} (hv : p (k, v) = true) :
    ∀ {m : Map α} (_ : ∀ e ∈ m, p e = false), (Map.insert m k v).filter p = [(k, v)]
  | [], _ => by simp [Map.insert, hv]
  | e :: m, h => by
    obtain ⟨he, hm⟩ := List.forall_mem_cons.mp h
    rw [Map.insert]
    split
    · rw [List.filter_cons_of_pos hv, List.filter_eq_nil_iff.mpr fun x hx => by simp [h x hx]]
    · rw [List.filter_cons_of_neg (by simp [he]), Map.filter_insert_of_none hv hm]

/-- A command that is alone in its joint set stays so as its fields change, whatever the slots hold besides. -/
theorem jointSet_setCmd_alone (hc : cmdOf s k = some c) (alone : jointSet s k = [k]) (lead : d.lead = c.lead) :
    jointSet (setCmd s k d) k = [k] := by
  have others : ∀ e ∈ Map.erase s.disp.slots k, decide (e.2.lead = d.lead) = false := by
    intro e he
    obtain ⟨hmem, hne⟩ := Map.mem_erase he
    rw [decide_eq_false_iff_not, lead]
    intro hl
    have : e.1 ∈ jointSet s k := by
      unfold jointSet
      rw [hc]
      exact List.mem_map.mpr ⟨e, List.mem_filter.mpr ⟨hmem, by simpa using hl⟩, rfl⟩
    rw [alone, List.mem_singleton] at this
    exact hne this
  have filtered : (setCmd s k d).disp.slots.filter (fun e => decide (e.2.lead = d.lead)) = [(k, d)] :=
    Map.filter_insert_of_none (by simp) others
  unfold jointSet
  rw [cmdOf_setCmd_self]
  exact congrArg (List.map (·.1)) filtered

/-! ### One slot changes -/

theorem slotBecomes_setCmd (s : State) (k : Nat) (c : Cmd) : SlotBecomes s (setCmd s k c) k c :=
  ⟨cmdOf_setCmd_self s k c, fun j hj => by rw [cmdOf_setCmd, if_neg hj.symm], fun _ => rfl, fun _ => rfl⟩

/-- What keeps the slots, the cores and the plane may follow. -/
theorem slotBecomes_then (h : SlotBecomes s t k c) (slots : u.disp.slots = t.disp.slots) (cores : u.cores = t.cores)
    (plane : u.mem.plane = t.mem.plane) : SlotBecomes s u k c := by
  obtain ⟨now, others, same, mem⟩ := h
  exact ⟨by rw [cmdOf_congr slots, now], fun j hj => by rw [cmdOf_congr slots, others j hj], fun x => by rw [coreOf_congr cores, same],
    fun a => by rw [planeByte_congr plane, mem]⟩

/-- What keeps the slots, the cores and the plane may come first. -/
theorem slotBecomes_after (h : SlotBecomes t u k c) (slots : t.disp.slots = s.disp.slots) (cores : t.cores = s.cores)
    (plane : t.mem.plane = s.mem.plane) : SlotBecomes s u k c := by
  obtain ⟨now, others, same, mem⟩ := h
  exact ⟨now, fun j hj => by rw [others j hj, cmdOf_congr slots], fun x => by rw [same, coreOf_congr cores],
    fun a => by rw [mem, planeByte_congr plane]⟩

theorem updCmd_of_some (hc : cmdOf s k = some c) (f : Cmd → Cmd) : updCmd s k f = setCmd s k (f c) := by simp [updCmd, hc]

end Sys2Proof.Machine
end

section
namespace Sys2Proof.Machine
set_option Elab.async false
variable {s : State} {k : SlotId} {c : Cmd}

/-! ### Readiness and limits (R77, R85, R87, R90, R108, R110, R118, R184) -/

theorem commandReady_with_annex (hc : cmdOf s k.toNat = some c) (admitted : c.phase = .admitted)
    (epoch : c.epoch = 0xFFFFFFFF ∨ c.epoch = s.disp.epoch.toNat) {a : Option Annex} (start : startReady s c = true)
    (older : (c.ordered && olderLeft s c) = false) (whole : setWhole s c = true) (address : addressBad s c = none)
    (annex : readAnnex s k.toNat c = .ok a) :
    exec (.commandReady k) s = .next (becomeReady s k.toNat c a) := by
  have now : ¬ (c.epoch ≠ 0xFFFFFFFF ∧ c.epoch ≠ s.disp.epoch.toNat) := by omega
  show execCommandReady k s = _
  unfold execCommandReady
  simp only [hc]
  rw [if_neg (not_not_intro admitted), if_neg now]
  simp [start, older, whole, address, annex]

theorem commandReady_registers_watch (hc : cmdOf s k.toNat = some c) (admitted : c.phase = .admitted)
    (epoch : c.epoch = 0xFFFFFFFF ∨ c.epoch = s.disp.epoch.toNat) (start : startReady s c = false) :
    exec (.commandReady k) s = .next (startWatch s k.toNat c) := by
  have now : ¬ (c.epoch ≠ 0xFFFFFFFF ∧ c.epoch ≠ s.disp.epoch.toNat) := by omega
  show execCommandReady k s = _
  unfold execCommandReady
  simp only [hc]
  rw [if_neg (not_not_intro admitted), if_neg now]
  simp [start]

/-- The ranges that a command's annex and its destination give it (R81, R85). -/
def readyAnnex (s : State) (c : Cmd) (a : Option Annex) : Option Annex :=
  match a, c.destRange s with
  | none, [] => none
  | none, d => some { noAnnex with outs := d }
  | some a, d => some { a with outs := a.outs ++ d }

theorem becomeReady_eq (hc : cmdOf s k.toNat = some c) (a : Option Annex) : becomeReady s k.toNat c a =
    setCmd (watchDrop s fun w => w = .start k.toNat) k.toNat
      { c with phase := .ready, annex := readyAnnex s c a, stage := (a.map (·.stage)).getD [] } := by
  refine (updCmd_of_some (s := watchDrop s fun w => w = .start k.toNat) hc _).trans ?_
  cases a <;> cases h : c.destRange s <;> simp [readyAnnex, h]

/-- A charge that a queue's deficit bears at once (R108). -/
theorem payQueue_accrue (hc : cmdOf s k.toNat = some c) (n : Nat) :
    SlotBecomes s (payQueue (accrue s k.toNat n) c.queue n) k.toNat { c with charge := c.charge + BitVec.ofNat 64 n } ∧
    (queueOf (payQueue (accrue s k.toNat n) c.queue n) c.queue).deficit = clampDeficit ((queueOf s c.queue).deficit - n) ∧
    liveGet (payQueue (accrue s k.toNat n) c.queue n) (mQacct c.queue) = liveGet s (mQacct c.queue) + BitVec.ofNat 64 n := by
  simp only [accrue, hc, updCmd_of_some hc]
  refine ⟨slotBecomes_then (slotBecomes_setCmd _ _ _) rfl rfl rfl, ?_, (liveGet_liveSet ..).trans (if_pos rfl)⟩
  rw [payQueue, queueOf_updQueue_self]
  rfl

/-- Settles O20: each event is evaluated once its conditions hold; what it leaves of the command follows from the one slot that it writes. -/
theorem readinessAndLimits : Obligations.ReadinessAndLimits := by
  refine ⟨fun s k c hc admitted epoch => ⟨fun a start older whole address annex => ?_, fun start none => ?_⟩,
    fun s k c hc => ⟨fun active cores => ?_, fun admitted epoch late => ?_, fun running rtc limit => ?_⟩⟩
  · have run := commandReady_with_annex hc admitted epoch start older whole address annex
    rw [becomeReady_eq hc] at run
    refine ⟨_, _, run, slotBecomes_after (slotBecomes_setCmd _ _ _) rfl rfl rfl, rfl, ?_, ?_⟩
    · rintro rfl dest
      simp [readyAnnex, dest]
    · rintro x rfl
      simp [readyAnnex]
  · have run := commandReady_registers_watch hc admitted epoch start
    rw [startWatch, if_neg (by simp [none])] at run
    exact ⟨_, _, run, rfl, rfl, rfl, rfl⟩
  · have run : exec (.deficitCharge k) s = .next (payQueue (accrue s k.toNat 65536) c.queue 65536) := by
      show execDeficitCharge k s = _
      unfold execDeficitCharge
      simp [hc, active, cores]
    exact ⟨_, run, payQueue_accrue hc 65536⟩
  · show execEpochWaitTimeout k s = _
    unfold execEpochWaitTimeout
    simp only [hc]
    rw [if_pos ⟨admitted, epoch, late⟩, failEpoch, hc]
    rfl
  · have run : exec (.rtcLapsed k) s = .next (updCmd s k.toNat fun c => { c with lapsed := true }) := by
      show execRtcLapsed k s = _
      unfold execRtcLapsed
      simp [hc, running, rtc, Cmd.rtcMax, limit]
    rw [updCmd_of_some hc] at run
    exact ⟨_, run, slotBecomes_setCmd _ _ _⟩

end Sys2Proof.Machine
end

section
namespace Sys2Proof.Machine
set_option Elab.async false
variable {s t u : State} {k : Nat} {c d : Cmd} {st : Status}

/-! ### The positions of the queues (R75) -/

/-- Of a queue, only its deficit and the end of its joint set differ. -/
def QueuesStay (s t : State) : Prop :=
  ∀ q, queueOf t q = { queueOf s q with deficit := (queueOf t q).deficit, joinEnd := (queueOf t q).joinEnd }

theorem QueuesStay.of_queues (h : t.disp.queues = s.disp.queues) : QueuesStay s t := fun q => by rw [queueOf_congr h]

theorem QueuesStay.trans (h : QueuesStay s t) (h' : QueuesStay t u) : QueuesStay s u := fun q => by rw [h' q, h q]

theorem QueuesStay.foldl {α : Type} {f : State → α → State} (h : ∀ s a, QueuesStay s (f s a)) : ∀ (l : List α) (s : State), QueuesStay s (l.foldl f s)
  | [], _ => .of_queues rfl
  | a :: l, s => (h s a).trans (QueuesStay.foldl h l _)

theorem queuesStay_updQueue (s : State) (q : Nat) {f : Queue → Queue} (h : ∀ u, f u = { u with deficit := (f u).deficit, joinEnd := (f u).joinEnd }) :
    QueuesStay s (updQueue s q f) := by
  intro p
  by_cases hp : q = p
  · subst hp
    rw [queueOf_updQueue_self]
    exact h _
  · rw [queueOf_updQueue_ne _ _ hp]

/-! ### A command ends (R87, R107) -/

/-- The command once it has ended, `n`th of all. -/
def ended (st : Status) (n : Nat) (c : Cmd) : Cmd :=
  { dropRun c with status := some st, phase := .closing, kill := none, decided := true, unpaid := 0, endNo := some n }

theorem endOne_of_none (hc : cmdOf s k = none) : endOne st s k = s := by simp [endOne, hc]

theorem endSet_of_none (hc : cmdOf s k = none) : endSet st s k = s := by simp [endSet, hc]

theorem endOne_of_closing (hc : cmdOf s k = some c) (closing : c.phase = .closing) : endOne st s k = s := by
  unfold endOne
  simp [hc, closing]

theorem endOne_disp (hc : cmdOf s k = some c) (open' : c.phase ≠ .closing) : (endOne st s k).disp =
    { (payQueue s c.queue c.unpaid).disp with slots := Map.put s.disp.slots k (ended st s.disp.ends c), ends := s.disp.ends + 1 } := by
  unfold endOne
  simp only [hc, if_neg open']
  split
  · rw [(ctrAdd_frame _ _ _).2.2.2.2.2.2.1]
    rfl
  · rfl

/-- All that the end of a command does to the slots: one that is still open ends. -/
theorem cmdOf_endOne (st : Status) (s : State) (k j : Nat) :
    cmdOf (endOne st s k) j = if k = j then (cmdOf s k).map fun c => if c.phase = .closing then c else ended st s.disp.ends c else cmdOf s j := by
  cases hc : cmdOf s k with
  | none =>
    rw [endOne_of_none hc]
    split
    · next hj => rw [← hj, hc]; rfl
    · rfl
  | some c =>
    by_cases closing : c.phase = .closing
    · rw [endOne_of_closing hc closing]
      split
      · next hj => simp [← hj, hc, closing]
      · rfl
    · rw [cmdOf, endOne_disp hc closing]
      simp [Map.find?_put, closing, cmdOf]

theorem queuesStay_endOne (st : Status) (s : State) (k : Nat) : QueuesStay s (endOne st s k) := by
  cases hc : cmdOf s k with
  | none => rw [endOne_of_none hc]; exact .of_queues rfl
  | some c =>
    by_cases closing : c.phase = .closing
    · rw [endOne_of_closing hc closing]; exact .of_queues rfl
    · refine QueuesStay.trans (t := payQueue s c.queue c.unpaid) (queuesStay_updQueue s c.queue fun _ => rfl) (.of_queues ?_)
      rw [endOne_disp hc closing]

/-- A command that a list of commands to be ended names ends, once. -/
theorem cmdOf_endOnes : ∀ {ks : List Nat} (_ : k ∈ ks) {s : State} (_ : cmdOf s k = some c) (_ : c.phase ≠ .closing),
    ∃ n, cmdOf (ks.foldl (endOne st) s) k = some (ended st n c)
  | j :: ks, hk, s, hc, open' => by
    have closed : ∀ (ks : List Nat) (s : State) {m : Cmd}, cmdOf s k = some m → m.phase = .closing → cmdOf (ks.foldl (endOne st) s) k = some m := by
      intro ks
      induction ks with
      | nil => exact fun _ _ h _ => h
      | cons i ks ih =>
        refine fun s m h hm => ih _ ?_ hm
        rw [cmdOf_endOne]
        split
        · next hi => simp [hi, h, hm]
        · exact h
    by_cases hj : j = k
    · subst hj
      exact ⟨s.disp.ends, closed ks _ (by rw [cmdOf_endOne]; simp [hc, open']) rfl⟩
    · refine cmdOf_endOnes ((List.mem_cons.mp hk).resolve_left (Ne.symm hj)) ?_ open'
      rw [cmdOf_endOne, if_neg hj, hc]

/-- The index of a set's first error goes to those of its commands that have none (R89). -/
def shareIndex (st : Status) (idx : Option (BitVec 32)) (m : Cmd) : Cmd := if st = .failed then { m with errIdx := m.errIdx.or idx } else m

theorem shareIndex_eq (st : Status) (idx : Option (BitVec 32)) (m : Cmd) : shareIndex st idx m = { m with errIdx := (shareIndex st idx m).errIdx } := by
  unfold shareIndex
  split <;> rfl

theorem shareIndex_shareIndex (st : Status) (idx : Option (BitVec 32)) (m : Cmd) : shareIndex st idx (shareIndex st idx m) = shareIndex st idx m := by
  unfold shareIndex
  split <;> simp [Option.or_assoc]

/-- The members of a set end (R89): what `endSet` does before it notes the end for the members that are still to come. -/
def endMembers (st : Status) (s : State) (k : Nat) : State :=
  (jointSet s k).foldl (endOne st) (updCmds s (jointSet s k) fun _ => shareIndex st (setIndex s (jointSet s k)))

theorem endSet_eq (hc : cmdOf s k = some c) : endSet st s k =
    if (queueOf (endMembers st s k) c.queue).joinLead = c.lead ∧ 0 < (queueOf (endMembers st s k) c.queue).joinLeft then
      updQueue (endMembers st s k) c.queue fun q => { q with joinEnd := some (st, if st = .failed then setIndex s (jointSet s k) else none) }
    else endMembers st s k := by
  unfold endSet
  simp only [hc]
  rfl

theorem cmdOf_endMembers (hc : cmdOf s k = some c) (open' : c.phase ≠ .closing) :
    ∃ n e, cmdOf (endMembers st s k) k = some (ended st n { c with errIdx := e }) := by
  have marked := cmdOf_updCmds_of_idem (shareIndex_shareIndex st (setIndex s (jointSet s k))) k (jointSet s k) s
  rw [if_pos (mem_jointSet_self hc), hc, Option.map_some, shareIndex_eq] at marked
  obtain ⟨n, hn⟩ := cmdOf_endOnes (mem_jointSet_self hc) marked open'
  exact ⟨n, _, hn⟩

theorem cmdOf_endSet (hc : cmdOf s k = some c) (open' : c.phase ≠ .closing) :
    ∃ n e, cmdOf (endSet st s k) k = some (ended st n { c with errIdx := e }) := by
  obtain ⟨n, e, h⟩ := cmdOf_endMembers (st := st) hc open'
  refine ⟨n, e, ?_⟩
  rw [endSet_eq hc]
  split
  · exact h
  · exact h

theorem queuesStay_endSet (st : Status) (s : State) (k : Nat) : QueuesStay s (endSet st s k) := by
  cases hc : cmdOf s k with
  | none => rw [endSet_of_none hc]; exact .of_queues rfl
  | some c =>
    have members : QueuesStay s (endMembers st s k) :=
      QueuesStay.trans (.of_queues (by simp)) (QueuesStay.foldl (queuesStay_endOne st) _ _)
    rw [endSet_eq hc]
    split
    · exact members.trans (queuesStay_updQueue _ _ fun _ => rfl)
    · exact members

theorem nextRR_endSet (st : Status) (s : State) (k : Nat) : (endSet st s k).disp.nextRR = s.disp.nextRR := by
  have one : ∀ (s : State) (j : Nat), (endOne st s j).disp.nextRR = s.disp.nextRR := by
    intro s j
    cases hc : cmdOf s j with
    | none => rw [endOne_of_none hc]
    | some c =>
      by_cases closing : c.phase = .closing
      · rw [endOne_of_closing hc closing]
      · rw [endOne_disp hc closing]; rfl
  cases hc : cmdOf s k with
  | none => rw [endSet_of_none hc]
  | some c =>
    have members : (endMembers st s k).disp.nextRR = s.disp.nextRR := by
      rw [endMembers, foldl_keeps (·.disp.nextRR) one]
      simp
    rw [endSet_eq hc]
    split <;> exact members

end Sys2Proof.Machine
end

section
namespace Sys2Proof.Machine
set_option Elab.async false
variable {s : State} {q k : Nat}

/-! ### Admission (R73, R78, R89, R90, R112) -/

/-- The command that the record at the head of queue q gives, in the set of the command admitted as `lead`. -/
def headCmd (s : State) (q lead : Nat) : Cmd :=
  newCmd (headRecord s q) q (ringEntry s q (queueOf s q).head) s.disp.orders lead (fld (headRecord s q) 40 4 + 1) (regGet s (mQcfg q)) (regGet s (mQcomp q))

/-- The record has its slot, and its queue's head has moved on; what its admission finds out is still to come. -/
def taken (s : State) (q k lead left : Nat) (dead : Option (Status × Option (BitVec 32))) : State :=
  let t := setCmd s.tick k (headCmd s q lead)
  updQueue { t with disp := { t.disp with orders := s.disp.orders + 1, nextRR := (q + 1) % 256 } } q fun u => { u with
    head := u.head + 1, marks := u.marks.filter (· != u.head), joinLeft := left, joinLead := lead, joinEnd := if 0 < left then dead else none }

theorem slotBecomes_taken (s : State) (q k lead left : Nat) (dead : Option (Status × Option (BitVec 32))) :
    SlotBecomes s (taken s q k lead left dead) k (headCmd s q lead) :=
  slotBecomes_then (slotBecomes_after (slotBecomes_setCmd s.tick _ _) rfl rfl rfl) rfl rfl rfl

theorem queueOf_taken (s : State) (q k lead left : Nat) (dead : Option (Status × Option (BitVec 32))) :
    queueOf (taken s q k lead left dead) q = { queueOf s q with
      head := (queueOf s q).head + 1, marks := (queueOf s q).marks.filter (· != (queueOf s q).head), joinLeft := left, joinLead := lead,
      joinEnd := if 0 < left then dead else none } :=
  queueOf_updQueue_self ..

/-- ADMIT takes the head record: as the first of its set, or as a further member. -/
theorem admit_first (stopped : admissionStopped s = false) (turn : nextQueue s = some q) (free : lowestFree s = some k) (first : (queueOf s q).joinLeft = 0) :
    exec .admission s = .next (admitOutcome (taken s q k s.disp.orders (fld (headRecord s q) 40 4) none) k
      ((queueOf s q).marks.contains (queueOf s q).head) false none) := by
  show execAdmit s = _
  unfold execAdmit admitRecord
  simp [stopped, turn, free, first, taken, headCmd, newCmd]

theorem admit_member (stopped : admissionStopped s = false) (turn : nextQueue s = some q) (free : lowestFree s = some k) (member : 0 < (queueOf s q).joinLeft) :
    exec .admission s = .next (admitOutcome (taken s q k (queueOf s q).joinLead ((queueOf s q).joinLeft - 1) (queueOf s q).joinEnd) k
      ((queueOf s q).marks.contains (queueOf s q).head) true (queueOf s q).joinEnd) := by
  show execAdmit s = _
  unfold execAdmit admitRecord
  simp [stopped, turn, free, member, taken, headCmd, newCmd]

/-- A record that nothing is found against stays admitted. -/
theorem admitOutcome_passes {t : State} {c : Cmd} {member : Bool} (hc : cmdOf t k = some c) (good : recordBad c.record = none)
    (alone : member = true → c.join = 0) (epoch : c.epoch = 0xFFFFFFFF ∨ t.disp.epoch.toNat ≤ c.epoch)
    (group : c.kind = 3 → (Map.find? t.fab.groups c.group).isSome = true) : admitOutcome t k false member none = t := by
  have fits : ¬ (member = true ∧ c.join ≠ 0) := fun ⟨hm, hj⟩ => hj (alone hm)
  have now : ¬ (c.epoch ≠ 0xFFFFFFFF ∧ c.epoch < t.disp.epoch.toNat) := by omega
  have known : ¬ (c.kind = 3 ∧ (Map.find? t.fab.groups c.group).isNone = true) := by
    rintro ⟨hk, hg⟩
    have := group hk
    rw [Option.isNone_iff_eq_none] at hg
    simp [hg] at this
  unfold admitOutcome
  simp only [hc, good, Bool.false_eq_true, if_false, if_neg fits, if_neg now, if_neg known]

/-- A record that is turned away ends in its slot: its command is closing with the status given. -/
def TurnsAway (t u : State) (q k : Nat) (c : Cmd) (st : Status) (idx : Option (BitVec 32) → Prop) : Prop :=
  (∃ m, cmdOf u k = some m ∧ m.record = c.record ∧ m.phase = .closing ∧ m.status = some st ∧ idx m.errIdx) ∧
    (queueOf u q).head = (queueOf t q).head ∧ (queueOf u q).tail = (queueOf t q).tail ∧ u.disp.nextRR = t.disp.nextRR

theorem turnsAway_endSet {t : State} {c : Cmd} {st : Status} (hc : cmdOf t k = some c) (open' : c.phase ≠ .closing) (q : Nat) :
    TurnsAway t (endSet st t k) q k c st fun _ => True := by
  obtain ⟨n, e, h⟩ := cmdOf_endSet (st := st) hc open'
  have same := queuesStay_endSet st t k q
  exact ⟨⟨_, h, rfl, rfl, rfl, trivial⟩, by rw [same], by rw [same], nextRR_endSet ..⟩

theorem turnsAway_dead {t : State} {c : Cmd} {st : Status} {idx : Option (BitVec 32)} (hc : cmdOf t k = some c) (open' : c.phase ≠ .closing) (q : Nat) 
    (marked member : Bool) : TurnsAway t (admitOutcome t k marked member (some (st, idx))) q k c st (· = idx) := by
  have run : admitOutcome t k marked member (some (st, idx)) = endOne st (setCmd t k { c with errIdx := idx }) k := by
    simp [admitOutcome, hc, updCmd_of_some hc]
  have ends := cmdOf_endOne st (setCmd t k { c with errIdx := idx }) k k
  rw [if_pos rfl, cmdOf_setCmd_self, Option.map_some, if_neg open'] at ends
  have same := queuesStay_endOne st (setCmd t k { c with errIdx := idx }) k q
  have turn := endOne_disp (st := st) (cmdOf_setCmd_self t k { c with errIdx := idx }) open'
  rw [run]
  exact ⟨⟨_, ends, rfl, rfl, rfl, rfl⟩, by rw [same]; rfl, by rw [same]; rfl, by rw [turn]; rfl⟩

theorem turnsAway_marked {t : State} {c : Cmd} (hc : cmdOf t k = some c) (open' : c.phase ≠ .closing) (q : Nat) (member : Bool) :
    TurnsAway t (admitOutcome t k true member none) q k c .aborted fun _ => True := by
  have run : admitOutcome t k true member none = endSet .aborted t k := by simp [admitOutcome, hc]
  rw [run]
  exact turnsAway_endSet hc open' q

theorem turnsAway_bad {t : State} {c : Cmd} (hc : cmdOf t k = some c) (admitted : c.phase = .admitted) (open' : c.decided = false) (q : Nat)
    (member : Bool) (bad : (recordBad c.record).isSome = true) : TurnsAway t (admitOutcome t k false member none) q k c .failed fun _ => True := by
  obtain ⟨b, hb⟩ := Option.isSome_iff_exists.mp bad
  obtain ⟨u, hu⟩ : ∃ u, u = dispRec t (some k) 0x32 c.ring b := ⟨_, rfl⟩
  obtain ⟨e, he⟩ := cmdOf_logAppend hc [⟨eDescInvalid, 7, 0, some k, c.ring, 0x32 * 2 ^ 56 + b % 2 ^ 16⟩]
  have now : cmdOf u k = some { c with errIdx := e } := by rw [hu]; exact he
  have run : admitOutcome t k false member none = endSet .failed u k := by
    simp only [admitOutcome, hc, hb, failDisp, ← hu, Bool.false_eq_true, if_false]
    simp [failCmd, now, admitted, open']
  have queues : u.disp.queues = t.disp.queues := by rw [hu]; exact queues_dispRec ..
  have turn : u.disp.nextRR = t.disp.nextRR := by rw [hu, dispRec, logRec, logAppend_disp]
  obtain ⟨⟨m, hm, record, rest⟩, head, tail, rr⟩ := turnsAway_endSet (st := .failed) now (by simp [admitted]) q
  rw [run]
  exact ⟨⟨m, hm, record, rest⟩, by rw [head, queueOf_congr queues], by rw [tail, queueOf_congr queues], rr.trans turn⟩

/-- Settles O19: the record is taken as the first or as a further member of its set, and then stays or is turned away. -/
theorem admission : Obligations.Admission := by
  intro s q k stopped turn free u r c passes goesOn
  have cmd : ∀ lead left dead, cmdOf (taken s q k lead left dead) k = some (headCmd s q lead) := fun lead left dead => (slotBecomes_taken ..).1
  have moves : ∀ lead left dead, goesOn (taken s q k lead left dead) := fun lead left dead =>
    ⟨by rw [queueOf_taken], by rw [queueOf_taken], rfl⟩
  have away : ∀ {lead left dead t st idx}, TurnsAway (taken s q k lead left dead) t q k (headCmd s q lead) st idx →
      (∃ m, cmdOf t k = some m ∧ m.record = r ∧ m.phase = .closing ∧ m.status = some st ∧ idx m.errIdx) ∧ goesOn t := by
    rintro lead left dead t st idx ⟨ends, head, tail, rr⟩
    obtain ⟨h, ht, hr⟩ := moves lead left dead
    exact ⟨ends, head.trans h, tail.trans ht, rr.trans hr⟩
  refine ⟨fun first ok => ?_, fun member live alone ok => ?_, fun st idx member dead => ?_, fun first marked alone => ?_,
    fun first marked alone bad => ?_⟩
  · obtain ⟨unmarked, good, group, epoch⟩ := ok
    have run := admit_first stopped turn free first
    rw [unmarked, admitOutcome_passes (cmd ..) good (fun h => by cases h) epoch group] at run
    exact ⟨_, run, slotBecomes_taken .., moves .., by rw [queueOf_taken], by rw [queueOf_taken]⟩
  · obtain ⟨unmarked, good, group, epoch⟩ := ok
    have run := admit_member stopped turn free member
    rw [unmarked, live, admitOutcome_passes (cmd ..) good (fun _ => alone) epoch group] at run
    exact ⟨_, run, slotBecomes_taken .., moves .., by rw [queueOf_taken], by rw [queueOf_taken]⟩
  · have run := admit_member stopped turn free member
    rw [dead] at run
    obtain ⟨⟨m, hm, record, phase, status, err⟩, on⟩ := away (turnsAway_dead (cmd ..) (fun h => by cases h) q _ _)
    exact ⟨_, m, run, hm, record, phase, status, err, on⟩
  · have run := admit_first stopped turn free first
    rw [marked] at run
    obtain ⟨⟨m, hm, record, phase, status, -⟩, head, -⟩ := away (turnsAway_marked (cmd ..) (fun h => by cases h) q _)
    exact ⟨_, m, run, hm, record, phase, status, head⟩
  · have run := admit_first stopped turn free first
    rw [marked] at run
    obtain ⟨⟨m, hm, record, phase, status, -⟩, head, -⟩ := away (turnsAway_bad (cmd ..) rfl rfl q _ bad)
    exact ⟨_, m, run, hm, record, phase, status, head⟩

end Sys2Proof.Machine
end

section
namespace Sys2Proof.Machine
set_option Elab.async false
variable {s t : State} {k : Nat} {c : Cmd}

/-! ### The doorbell (R74) -/

theorem reportReserved_of_none {o : Origin} {off : Nat} {fs : List RField} {v : Word} (h : ∀ g ∈ reservedSpans fs, fld v g.1 g.2 = 0) (s : State) :
    reportReserved o off fs v s = s := by
  unfold reportReserved
  revert h
  induction reservedSpans fs with
  | nil => exact fun _ => rfl
  | cons g l ih =>
    intro h
    obtain ⟨hg, hl⟩ := List.forall_mem_cons.mp h
    rw [List.foldl_cons, if_pos hg, ih hl]

theorem reservedSpans_tail : reservedSpans [fRw 0 32] = [(32, 32)] := by decide

theorem qtailWrite_of_lt {v : Word} (h : v.toNat < 2 ^ 32) (s : State) (q : Nat) : qtailWrite s q v =
    if ringSize s q < (BitVec.ofNat 32 v.toNat - (queueOf s q).head).toNat then dispRec s none 0x31 v.toNat q
    else updQueue s q fun k => { k with tail := BitVec.ofNat 32 v.toNat } := by
  have high : fld v 32 32 = 0 := by rw [fld_eq, Nat.div_eq_of_lt h, Nat.zero_mod]
  have low : fld v 0 32 = v.toNat := by rw [fld_eq, Nat.pow_zero, Nat.div_one, Nat.mod_eq_of_lt h]
  unfold qtailWrite
  rw [reportReserved_of_none (by rw [reservedSpans_tail]; simpa using high), low]

/-! ### Aborts (R112) -/

/-- The records between HEAD and TAIL are those whose place from HEAD on is less than TAIL's. -/
theorem mem_waitingRecords {q : Nat} {n : BitVec 32} (h : (n - (queueOf s q).head).toNat < ((queueOf s q).tail - (queueOf s q).head).toNat) :
    n ∈ waitingRecords s q := by
  refine List.mem_map.mpr ⟨(n - (queueOf s q).head).toNat, List.mem_range.mpr h, ?_⟩
  rw [BitVec.ofNat_toNat, BitVec.setWidth_eq, add_sub_cancel]

theorem queuesStay_abortCmd (s : State) (k : Nat) : QueuesStay s (abortCmd s k) := by
  unfold abortCmd
  split
  · exact .of_queues rfl
  · split
    · exact queuesStay_endSet _ _ _
    · exact .of_queues (by simp)

/-- What an abort names: the numbers of one command, or all (R112). -/
def abortHits (seq : Option (BitVec 32)) (n : Nat) : Bool :=
  match seq with
  | none => true
  | some v => decide (v.toNat = n)

def abortCmds (s : State) (q : Nat) (seq : Option (BitVec 32)) : List Nat :=
  (s.disp.slots.filter fun e => e.2.queue = q && abortHits seq e.2.seq).map (·.1)

def abortRecs (s : State) (q : Nat) (seq : Option (BitVec 32)) : List (BitVec 32) :=
  (waitingRecords s q).filter fun i => abortHits seq (planeNat s (ringEntry s q i + 8) 4)

/-- The waiting records that the abort names are marked. -/
def abortMarked (s : State) (q : Nat) (seq : Option (BitVec 32)) : State :=
  updQueue s q fun k => { k with marks := (k.marks ++ abortRecs s q seq).eraseDups }

/-- An abort that finds something marks it and aborts the commands; one of a single command that finds nothing writes a record. -/
theorem abortMatching_of_hit {q : Nat} {seq : Option (BitVec 32)} (h : abortCmds s q seq ≠ [] ∨ abortRecs s q seq ≠ [] ∨ seq = none) :
    abortMatching s q seq = (leaders (abortMarked s q seq) (abortCmds s q seq)).foldl abortCmd (abortMarked s q seq) := by
  cases seq with
  | none =>
    dsimp only [abortMatching]
    split
    · next hs => cases hs
    · rfl
  | some v =>
    dsimp only [abortMatching]
    split
    · next hc hr _ => exact absurd h (by simp [show abortCmds s q (some v) = [] from hc, show abortRecs s q (some v) = [] from hr])
    · rfl

theorem mem_marks_abortMatching {q : Nat} {seq : Option (BitVec 32)} {n : BitVec 32} (h : n ∈ abortRecs s q seq) :
    n ∈ (queueOf (abortMatching s q seq) q).marks := by
  rw [abortMatching_of_hit (.inr (.inl (List.ne_nil_of_mem h))), QueuesStay.foldl queuesStay_abortCmd _ _ q, abortMarked, queueOf_updQueue_self]
  exact List.mem_eraseDups.mpr (List.mem_append_right _ h)

/-- Of one command alone in the dispatcher, an abort that names it is its own. -/
theorem abortMatching_sole {q : Nat} {seq : Option (BitVec 32)} (slots : s.disp.slots = [(k, c)]) (queue : c.queue = q)
    (hit : abortHits seq c.seq = true) : abortMatching s q seq = abortCmd (abortMarked s q seq) k := by
  have named : abortCmds s q seq = [k] := by simp [abortCmds, slots, queue, hit]
  rw [abortMatching_of_hit (.inl (by rw [named]; exact List.cons_ne_nil _ _)), named]
  rfl

theorem abortCmd_waiting (hc : cmdOf s k = some c) (waits : c.phase = .admitted ∨ c.phase = .ready) : abortCmd s k = endSet .aborted s k := by
  simp [abortCmd, hc, waits]

theorem abortCmd_running (hc : cmdOf s k = some c) (alone : jointSet s k = [k]) (running : c.phase = .running) :
    abortCmd s k = setCmd s k { c with aborts := c.aborts ++ [(c.reqSent, c.failSent)] } := by
  have : ¬ (c.phase = .admitted ∨ c.phase = .ready) := by simp [running]
  unfold abortCmd
  simp only [hc, if_neg this, alone]
  rw [updCmds_alone hc]

/-- A record that names no command goes to the log and the registers, whatever the dispatcher holds. -/
theorem logRec_withDisp {r : ErrRec} (h : r.slot = none) (s : State) (d : Dispatch) :
    (logRec { s with disp := d } r).flt = (logRec s r).flt ∧ (logRec { s with disp := d } r).live = (logRec s r).live := by
  have bits : ∀ cont i, recBits { s with disp := d } r cont i = recBits s r cont i := by
    intro cont i
    simp [recBits, h]
  have room : ∀ n fuel tail, logMakeRoom { s with disp := d } n fuel tail = logMakeRoom s n fuel tail := by
    intro n fuel
    induction fuel with
    | zero => exact fun _ => rfl
    | succ fuel ih =>
      intro tail
      unfold logMakeRoom
      simp only [ih]
      rfl
  unfold logRec logAppend
  simp only [room, List.length_singleton, List.range_one, List.map_cons, List.map_nil, List.zip_cons_cons, List.zip_nil_right, List.zipIdx_cons,
    List.zipIdx_nil, List.foldl_cons, List.foldl_nil, bits, h, noteIndex]
  generalize logMakeRoom _ _ _ _ = room'
  (repeat' split) <;> exact ⟨rfl, rfl⟩

/-- Settles O18: the doorbell and the aborts are evaluated; an abort keeps the marks that it makes through the ends of commands that follow. -/
theorem doorbellAndAborts : Obligations.DoorbellAndAborts := by
  refine ⟨fun s q v low => ⟨fun fits => ?_, fun large => ?_⟩, fun s q seq inv => ⟨fun k c slots queue hseq waits i hi => ?_,
    fun k c slots queue hseq running i hi => ?_, fun n place => ⟨fun number => ?_, ?_⟩, fun none' empty unmarked => ?_⟩⟩
  · have run : exec (.qtailWrite q v) s = .next (qtailWrite s q.toNat v) := rfl
    rw [qtailWrite_of_lt low, if_neg (by omega)] at run
    exact ⟨_, run, rfl, queueOf_updQueue_self .., fun p hp => queueOf_updQueue_ne _ _ hp.symm, rfl⟩
  · have run : exec (.qtailWrite q v) s = .next (qtailWrite s q.toNat v) := rfl
    rw [qtailWrite_of_lt low, if_pos large] at run
    rw [Answers, run, dispRec, Nat.mod_eq_of_lt (a := q.toNat) (by omega)]
    rfl
  · have hit : abortHits (some seq) c.seq = true ∧ abortHits none c.seq = true := ⟨by simp [abortHits, hseq], rfl⟩
    have ends : ∀ sq, abortHits sq c.seq = true → ∃ m, SameMemory s (abortMatching s q.toNat sq) ∧ cmdOf (abortMatching s q.toNat sq) k = some m ∧
        m.phase = .closing ∧ m.status = some .aborted := by
      intro sq hsq
      have now : cmdOf (abortMarked s q.toNat sq) k = some c := by simp [abortMarked, cmdOf, slots]
      rw [abortMatching_sole slots queue hsq, abortCmd_waiting now waits]
      obtain ⟨n, e, h⟩ := cmdOf_endSet (st := .aborted) now (by rcases waits with h | h <;> simp [h])
      exact ⟨_, sameMemory_of_plane (by simp [abortMarked]), h, rfl, rfl⟩
    rcases List.mem_pair.mp hi with rfl | rfl
    · obtain ⟨m, h⟩ := ends _ hit.1
      exact ⟨_, m, rfl, h⟩
    · obtain ⟨m, h⟩ := ends _ hit.2
      exact ⟨_, m, rfl, h⟩
  · have hit : abortHits (some seq) c.seq = true ∧ abortHits none c.seq = true := ⟨by simp [abortHits, hseq], rfl⟩
    have told : ∀ sq, abortHits sq c.seq = true →
        SlotBecomes s (abortMatching s q.toNat sq) k { c with aborts := c.aborts ++ [(c.reqSent, c.failSent)] } := by
      intro sq hsq
      have now : cmdOf (abortMarked s q.toNat sq) k = some c := by simp [abortMarked, cmdOf, slots]
      have alone : jointSet (abortMarked s q.toNat sq) k = [k] := by
        unfold jointSet
        rw [now]
        simp [abortMarked, slots]
      rw [abortMatching_sole slots queue hsq, abortCmd_running now alone running]
      exact slotBecomes_after (slotBecomes_setCmd _ _ _) rfl rfl rfl
    rcases List.mem_pair.mp hi with rfl | rfl
    · exact ⟨_, rfl, told _ hit.1⟩
    · exact ⟨_, rfl, told _ hit.2⟩
  · refine ⟨_, rfl, mem_marks_abortMatching (List.mem_filter.mpr ⟨mem_waitingRecords place, ?_⟩)⟩
    simp [abortHits, number]
  · exact ⟨_, rfl, mem_marks_abortMatching (List.mem_filter.mpr ⟨mem_waitingRecords place, rfl⟩)⟩
  · have nothing : waitingRecords s q.toNat = [] := by simp [waitingRecords, ringLoad, empty]
    have run : abortMatching s q.toNat (some seq) = logRec (abortMarked s q.toNat (some seq))
        { code := 0x0C, unitCls := 7, unit := 0, slot := none, object := seq.toNat, detail := 0x38 * 2 ^ 56 + q.toNat } := by
      unfold abortMatching abortMarked abortRecs
      simp only [none', nothing, List.filter_nil, List.map_nil]
      rfl
    refine ⟨_, rfl, ?_⟩
    rw [run]
    exact logRec_withDisp rfl s _

end Sys2Proof.Machine
end

section
namespace Sys2Proof.Machine
set_option Elab.async false
variable {s t u : State} {k : Nat} {c : Cmd}

/-! ### The work of a command ends (R95, R143) -/

theorem setCmd_setCmd (s : State) (k : Nat) (c d : Cmd) : setCmd (setCmd s k c) k d = setCmd s k d := by simp [setCmd, Map.put_put]

/-- A command that is a joint set of its own, and whose targets are neither fenced nor poisoned, ends its work and asks for its commit. -/
theorem finish_alone (hc : cmdOf s k = some c) (alone : jointSet s k = [k]) (running : c.phase = .running) (kill : c.kill = none)
    (sent : c.failSent = false) (open' : stagedFenced s c = none) (clean : partialPoison s [k] = none) :
    finish s k = setCmd s k { c with fin := true, reqSent := true } := by
  have stops : ¬ (c.phase ≠ .running ∨ c.kill.isSome = true ∨ c.failSent = true) := by simp [running, kill, sent]
  obtain ⟨d, hd⟩ : ∃ d, d = { c with fin := true } := ⟨_, rfl⟩
  have now := cmdOf_setCmd_self s k d
  have set : jointSet (setCmd s k d) k = [k] := jointSet_setCmd_alone hc alone (by rw [hd])
  have done : d.fin = true := by rw [hd]
  have free : setFenced (setCmd s k d) [k] = none := by
    have : stagedFenced (setCmd s k d) d = none := by rw [hd]; exact open'
    simp [setFenced, now, this]
  have whole : partialPoison (setCmd s k d) [k] = none :=
    partialPoison_of_subset hc now (by rw [hd]) (by rw [hd]) (by rw [hd]) (fun _ h => h) clean
  unfold finish
  simp only [hc]
  rw [if_neg stops, ← hd]
  simp only [set, List.all_cons, List.all_nil, now, Option.map_some, Option.getD_some, done, Bool.and_self, if_true, free, whole]
  rw [updCmds_alone now, setCmd_setCmd, hd]

theorem begun_eq (hc : cmdOf s k = some c) : begun s k = setCmd s k { c with work := true } := updCmd_of_some hc _

theorem atWork_of_running {kind : Nat} (hc : cmdOf s k = some c) (running : c.phase = .running) (hk : c.kind = kind) (work : c.work = false)
    (kill : c.kill = none) (sent : c.failSent = false) : atWork s k kind = some c := by
  simp [atWork, hc, running, hk, work, kill, sent]

theorem nop_commits {k : SlotId} (hc : cmdOf s k.toNat = some c) (alone : jointSet s k.toNat = [k.toNat]) (running : c.phase = .running) (kind : c.kind = 0)
    (work : c.work = false) (kill : c.kill = none) (sent : c.failSent = false) (open' : stagedFenced s c = none)
    (clean : partialPoison s [k.toNat] = none) :
    exec (.nop k) s = .next (setCmd s k.toNat { c with work := true, fin := true, reqSent := true }) := by
  obtain ⟨d, hd⟩ : ∃ d, d = { c with work := true } := ⟨_, rfl⟩
  have now := cmdOf_setCmd_self s k.toNat d
  have targets : stagedFenced (setCmd s k.toNat d) d = none := by rw [hd]; exact open'
  have whole : partialPoison (setCmd s k.toNat d) [k.toNat] = none :=
    partialPoison_of_subset hc now (by rw [hd]) (by rw [hd]) (by rw [hd]) (fun _ h => h) clean
  have ends := finish_alone now (jointSet_setCmd_alone hc alone (by rw [hd])) (by rw [hd]; exact running) (by rw [hd]; exact kill)
    (by rw [hd]; exact sent) targets whole
  show execNop k s = _
  unfold execNop
  rw [atWork_of_running hc running kind work kill sent]
  simp only [begun_eq hc, ← hd]
  rw [ends, setCmd_setCmd, hd]

/-! ### Lines are asked for (R43, R145) -/

/-- A read of lines changes the order of the cache and the requests alone. -/
theorem sheafAccess_fills (s : State) (k : Option Nat) (a : Asker) (ls : List Nat) (n ahead : Bool) : sheafAccess s k a ls n ahead =
    { s with mem := { s.mem with fills := (sheafAccess s k a ls n ahead).mem.fills, plru := (sheafAccess s k a ls n ahead).mem.plru } } := by
  have fold : ∀ {f : State → Nat → State}, (∀ s l, f s l = { s with mem := { s.mem with fills := (f s l).mem.fills, plru := (f s l).mem.plru } }) →
      ∀ (ls : List Nat) (s : State), ls.foldl f s = { s with mem := { s.mem with fills := (ls.foldl f s).mem.fills, plru := (ls.foldl f s).mem.plru } } := by
    intro f hf ls
    induction ls with
    | nil => exact fun _ => rfl
    | cons l ls ih =>
      intro s
      rw [List.foldl_cons, ih (f s l), hf s l]
  refine fold (fun s l => ?_) ls s
  dsimp only
  split
  · rfl
  · split
    · rfl
    · split <;> rfl

/-- Core `c` has asked for lines of its instruction cache, and nothing else has changed. -/
structure Asks (s t : State) (c : Nat) : Prop where
  frame : t = { s with cores := t.cores, mem := { s.mem with fills := t.mem.fills, plru := t.mem.plru } }
  others : ∀ o, o ≠ c → coreOf t o = coreOf s o
  core : coreOf t c = { coreOf s c with icReqs := (coreOf t c).icReqs }

theorem Asks.refl (s : State) (c : Nat) : Asks s s c := ⟨rfl, fun _ _ => rfl, rfl⟩

theorem Asks.trans {c : Nat} (h : Asks s t c) (h' : Asks t u c) : Asks s u c where
  frame := by rw [h'.frame, h.frame]
  others o ho := (h'.others o ho).trans (h.others o ho)
  core := by rw [h'.core, h.core]

theorem asks_sheafAccess (s : State) (c : Nat) (k : Option Nat) (a : Asker) (ls : List Nat) (n ahead : Bool) : Asks s (sheafAccess s k a ls n ahead) c := by
  have read := sheafAccess_fills s k a ls n ahead
  have cores : (sheafAccess s k a ls n ahead).cores = s.cores := by rw [read]
  exact ⟨by rw [cores]; exact read, fun o _ => coreOf_congr cores o, by rw [coreOf_congr cores]⟩

theorem asks_updCore (s : State) (c : Nat) (ls : List Nat) : Asks s (updCore s c fun k => { k with icReqs := k.icReqs ++ ls }) c :=
  ⟨rfl, fun _ ho => coreOf_updCore_ne s _ ho.symm, by rw [coreOf_updCore_self]⟩

theorem asks_icAsk (s : State) (c slot line : Nat) (ahead : Bool) : Asks s (icAsk s c slot line ahead) c := by
  unfold icAsk
  dsimp only
  split
  · exact .refl s c
  · exact (asks_updCore s c [line]).trans (asks_sheafAccess ..)

theorem asks_icMiss {c slot a : Nat} (fetch : fetchable s slot a = true) (fence : fencedIn s (icLineOf a) 128 = none) : Asks s (icMiss s c slot a) c := by
  unfold icMiss
  rw [fetch, fence]
  dsimp only [Bool.not_true]
  split
  · next h => cases h
  · split
    · exact (asks_icAsk ..).trans (asks_icAsk ..)
    · exact asks_icAsk ..

/-! ### LAUNCH (R80) -/

/-- A core as a LAUNCH leaves it: at PROG with its registers (R80), the `i`th of `n`. -/
def Launched (c : Cmd) (n i : Nat) (x : Core) : Prop :=
  x.pc.toNat = fld c.record 240 48 ∧ x.act = .running ∧ x.p = 0 ∧ x.dbg.state = 1 ∧ (∀ r, dGet x r = 0) ∧
  ∀ r, gGet x r = if r = 1 then BitVec.ofNat 64 (fld c.record 288 48) else if r = 2 then BitVec.ofNat 64 i
    else if r = 3 then BitVec.ofNat 64 n else if r = 4 then BitVec.ofNat 64 (fld c.record 448 64) else 0

/-- What a start reads besides its cores: where fetch may reach, and which channels are fenced. -/
def SameReach (s t : State) : Prop :=
  t.regs = s.regs ∧ t.flt = s.flt ∧ t.mem.plane = s.mem.plane ∧ ∀ j, (cmdOf t j).map (·.csets) = (cmdOf s j).map (·.csets)

theorem SameReach.refl (s : State) : SameReach s s := ⟨rfl, rfl, rfl, fun _ => rfl⟩

theorem SameReach.trans (h : SameReach s t) (h' : SameReach t u) : SameReach s u := by
  obtain ⟨regs, flt, plane, csets⟩ := h
  obtain ⟨regs', flt', plane', csets'⟩ := h'
  exact ⟨regs'.trans regs, flt'.trans flt, plane'.trans plane, fun j => (csets' j).trans (csets j)⟩

theorem sameReach_updCore (s : State) (c : Nat) (f : Core → Core) : SameReach s (updCore s c f) := ⟨rfl, rfl, rfl, fun _ => rfl⟩

theorem sameReach_begun (s : State) (k : Nat) : SameReach s (begun s k) := by
  refine ⟨by simp [begun], by simp [begun], by simp [begun], fun j => ?_⟩
  rw [begun, cmdOf_updCmd]
  split
  · next h => rw [h, Option.map_map]; rfl
  · rfl

theorem Asks.sameReach {c : Nat} (h : Asks s t c) : SameReach s t := by
  obtain ⟨frame, -, -⟩ := h
  rw [frame]
  exact ⟨rfl, rfl, rfl, fun _ => rfl⟩

theorem csetOk_eq (s : State) (k a : Nat) : csetOk s k a = (((cmdOf s k).map (·.csets)).map fun m => inCsets s m a).getD true := by
  unfold csetOk
  cases cmdOf s k <;> rfl

theorem fetchable_congr (h : SameReach s t) (slot a : Nat) : fetchable t slot a = fetchable s slot a := by
  obtain ⟨regs, -, -, csets⟩ := h
  have reach : ∀ m, inCsets t m a = inCsets s m a := fun m => by
    simp only [inCsets, channelOf, hbmDecode, cfg, regGet, regs]
  have pinned : pinnedGib t = pinnedGib s := by simp only [pinnedGib, cfg, regGet, regs]
  have plane : inPlane t a 4 = inPlane s a 4 := by unfold inPlane inPinned; rw [pinned]
  simp only [fetchable, csetOk_eq, csets, reach, plane]

theorem fencedIn_congr (h : SameReach s t) (a n : Nat) : fencedIn t a n = fencedIn s a n := by
  obtain ⟨regs, flt, -, -⟩ := h
  simp only [fencedIn, chanFenced, channelOf, hbmDecode, cfg, regGet, regs, flt]

theorem gGet_gSet (k : Core) (r x : Nat) (v : Word) : gGet (gSet k r v) x = if x = r ∧ r ≠ 0 then v else gGet k x := by
  unfold gSet
  by_cases hr : r = 0
  · simp [hr]
  by_cases h : x = r
  · simp [gGet, h, hr]
  · simp [gGet, Map.get_set, h, hr, Ne.symm h]

/-- What a LAUNCH makes of an idle core. -/
def startCore (c : Cmd) (undef n i : Nat) (k : Core) : Core :=
  let k := { k with
    act := .running, based := false, p := 0, pc := BitVec.ofNat 48 (fld c.record 240 48), d := [], g := [], scratch := [],
    acc := [], undef := undef, icache := [], icReqs := [], pbuf := none, kmmSum := false, lab := [],
    dbg := { k.dbg with state := 1, cause := 0, bp := 0, skipOnce := false, stepping := false } }
  gSet (gSet (gSet (gSet k 1 (BitVec.ofNat 64 (fld c.record 288 48))) 2 (BitVec.ofNat 64 i)) 3 (BitVec.ofNat 64 n)) 4
    (BitVec.ofNat 64 (fld c.record 448 64))

theorem launched_startCore (c : Cmd) (undef n i : Nat) (k : Core) : Launched c n i (startCore c undef n i k) := by
  refine ⟨?_, rfl, rfl, rfl, fun r => rfl, fun r => ?_⟩
  · exact (BitVec.toNat_ofNat ..).trans (Nat.mod_eq_of_lt (fld_lt ..))
  · rw [startCore, gGet_gSet, gGet_gSet, gGet_gSet, gGet_gSet]
    have empty : ∀ k : Core, k.g = [] → gGet k r = 0 := fun k h => by simp [gGet, h, Map.get_nil]
    rw [empty _ rfl]
    (repeat' split) <;> simp_all

theorem launchCore_eq {slot n : Nat} {p : Nat × Nat} (halt : (coreOf s p.1).dbg.request = none) : launchCore c slot n s p =
    icMiss (updCore s p.1 (startCore c (1024 * s.fresh + p.1) n p.2)) p.1 slot (fld c.record 240 48) := by
  have request : (coreOf (updCore s p.1 (startCore c (1024 * s.fresh + p.1) n p.2)) p.1).dbg.request = none := by
    rw [coreOf_updCore_self]
    exact halt
  unfold launchCore
  dsimp only
  split
  · next h => exact absurd (h.symm.trans request) (by simp)
  · rfl

theorem launchCore_starts {slot n : Nat} {p : Nat × Nat} (halt : (coreOf s p.1).dbg.request = none)
    (fetch : fetchable s slot (fld c.record 240 48) = true) (fence : fencedIn s (icLineOf (fld c.record 240 48)) 128 = none) :
    SameReach s (launchCore c slot n s p) ∧ (∀ o, o ≠ p.1 → coreOf (launchCore c slot n s p) o = coreOf s o) ∧
      Launched c n p.2 (coreOf (launchCore c slot n s p) p.1) := by
  rw [launchCore_eq halt]
  obtain ⟨x, hx⟩ : ∃ x, x = startCore c (1024 * s.fresh + p.1) n p.2 (coreOf s p.1) := ⟨_, rfl⟩
  have launched : Launched c n p.2 x := hx ▸ launched_startCore ..
  obtain ⟨t, ht⟩ : ∃ t, t = updCore s p.1 (startCore c (1024 * s.fresh + p.1) n p.2) := ⟨_, rfl⟩
  have same : SameReach s t := ht ▸ sameReach_updCore ..
  have others : ∀ o, o ≠ p.1 → coreOf t o = coreOf s o := fun o ho => by rw [ht, coreOf_updCore_ne _ _ ho.symm]
  have core : coreOf t p.1 = x := by rw [ht, coreOf_updCore_self, hx]
  rw [← ht]
  have asks := asks_icMiss (c := p.1) ((fetchable_congr same ..).trans fetch) ((fencedIn_congr same ..).trans fence)
  refine ⟨same.trans asks.sameReach, fun o ho => (asks.others o ho).trans (others o ho), ?_⟩
  rw [asks.core, core]
  exact launched

theorem launchCores_start {slot n : Nat} {l : List (Nat × Nat)} (distinct : (l.map (·.1)).Nodup) (halts : ∀ p ∈ l, (coreOf s p.1).dbg.request = none)
    (fetch : fetchable s slot (fld c.record 240 48) = true) (fence : fencedIn s (icLineOf (fld c.record 240 48)) 128 = none) :
    SameReach s (l.foldl (launchCore c slot n) s) ∧ (∀ o, o ∉ l.map (·.1) → coreOf (l.foldl (launchCore c slot n) s) o = coreOf s o) ∧
      ∀ p ∈ l, Launched c n p.2 (coreOf (l.foldl (launchCore c slot n) s) p.1) := by
  induction l generalizing s with
  | nil => exact ⟨.refl s, fun _ _ => rfl, by simp⟩
  | cons p l ih =>
    obtain ⟨hp, distinct⟩ := List.nodup_cons.mp distinct
    obtain ⟨halt, halts⟩ := List.forall_mem_cons.mp halts
    obtain ⟨same, others, starts⟩ := launchCore_starts (n := n) halt fetch fence
    have away : ∀ q ∈ l, q.1 ≠ p.1 := fun q hq h => hp (List.mem_map.mpr ⟨q, hq, h⟩)
    obtain ⟨same', others', starts'⟩ := ih (s := launchCore c slot n s p) distinct
      (fun q hq => by rw [others _ (away q hq)]; exact halts q hq) ((fetchable_congr same ..).trans fetch) ((fencedIn_congr same ..).trans fence)
    rw [List.foldl_cons]
    refine ⟨same.trans same', fun o ho => ?_, List.forall_mem_cons.mpr ⟨?_, starts'⟩⟩
    · obtain ⟨hop, hol⟩ := not_or.mp (fun h => ho (List.mem_cons.mpr h))
      rw [others' o hol, others o hop]
    · rw [others' _ hp]
      exact starts

theorem execLaunch_eq {k : SlotId} {m : Cmd} (hm : cmdOf s k.toNat = some m) (running : m.phase = .running) (kind : m.kind = 1)
    (work : m.work = false) (kill : m.kill = none) (sent : m.failSent = false) :
    exec (.launch k) s = .next (m.cores.zipIdx.foldl (launchCore m k.toNat m.cores.length) (begun s k.toNat)).tick := by
  show execLaunch k s = _
  unfold execLaunch
  rw [atWork_of_running hm running kind work kill sent]

/-- Settles O22: the cores of a LAUNCH start one after the other, each in its own place; a NOP's work ends as it begins. -/
theorem commandsStart : Obligations.CommandsStart := by
  refine ⟨?_, fun s k c _ hc alone running kind work kill sent open' clean =>
    ⟨_, nop_commits hc alone running kind work kill sent open' clean, slotBecomes_setCmd ..⟩⟩
  intro s k m hm running kind work kill sent distinct halts prog fetch fence
  have indexed : m.cores.zipIdx.map (·.1) = m.cores := List.zipIdx_map_fst ..
  have cores : ∀ x, coreOf (begun s k.toNat) x = coreOf s x := coreOf_congr (by simp [begun])
  have began := sameReach_begun s k.toNat
  obtain ⟨⟨-, -, plane, -⟩, others, starts⟩ := launchCores_start (c := m) (slot := k.toNat) (n := m.cores.length) (l := m.cores.zipIdx)
    (by rw [indexed]; exact distinct) (s := begun s k.toNat)
    (fun p hp => by rw [cores]; exact halts _ (indexed ▸ List.mem_map_of_mem hp)) ((fetchable_congr began ..).trans fetch) ((fencedIn_congr began ..).trans fence)
  refine ⟨_, execLaunch_eq hm running kind work kill sent, sameMemory_of_plane (plane.trans began.2.2.1), fun x hx => ?_, fun i h => ?_⟩
  · exact (others x (by rwa [indexed])).trans (cores x)
  · exact starts (m.cores[i], i) (List.mk_mem_zipIdx_iff_getElem?.mpr (List.getElem?_eq_getElem h))

end Sys2Proof.Machine
end

section
namespace Sys2Proof.Machine
set_option Elab.async false
variable {s t : State} {k q : Nat} {m c : Cmd} {cs : List Nat}

/-! ### A command is granted (R79, R88, R94, R106, R109) -/

theorem members_alone (hc : cmdOf s k = some c) (alone : jointSet s k = [k]) : members s k = [(k, c)] := by simp [members, alone, hc]

/-- Each core that a list names once is changed by its own entry, and no other core is. -/
theorem coreOf_foldl_updCore {α : Type} (core : α → Nat) (f : α → Core → Core) {l : List α} (distinct : (l.map core).Nodup) (s : State) :
    (∀ p ∈ l, coreOf (l.foldl (fun s x => updCore s (core x) (f x)) s) (core p) = f p (coreOf s (core p))) ∧
      ∀ o, o ∉ l.map core → coreOf (l.foldl (fun s x => updCore s (core x) (f x)) s) o = coreOf s o := by
  induction l generalizing s with
  | nil => exact ⟨by simp, fun _ _ => rfl⟩
  | cons p l ih =>
    obtain ⟨hp, distinct⟩ := List.nodup_cons.mp distinct
    obtain ⟨own, others⟩ := ih distinct (updCore s (core p) (f p))
    rw [List.foldl_cons]
    refine ⟨List.forall_mem_cons.mpr ⟨?_, fun q hq => ?_⟩, fun o ho => ?_⟩
    · rw [others _ hp, coreOf_updCore_self]
    · rw [own q hq, coreOf_updCore_ne _ _ fun h => hp (List.mem_map.mpr ⟨q, hq, h.symm⟩)]
    · obtain ⟨hop, hol⟩ := not_or.mp fun h => ho (List.mem_cons.mpr h)
      rw [others o hol, coreOf_updCore_ne _ _ (Ne.symm hop)]

/-- The command as a grant leaves it, before its charge. -/
def grantedCmd (s : State) (based : Bool) (cs : List Nat) (c : Cmd) : Cmd :=
  { c with
    phase := .running, runs := c.runs + 1, grantNo := s.disp.grants, cores := cs, based := based, stage := c.reserve s, promised := [], redo := false,
    epochAt := s.disp.epoch, modeAt := BitVec.ofNat 8 (cfg s mArith 0 8),
    csets := BitVec.ofNat 48 (cfg s (mQpart c.queue) 0 48), ways := BitVec.ofNat 16 (cfg s (mQpart c.queue) 48 16) }

/-- A command that is no collective and no SETTING takes its slot's run and its cores, in rank order. -/
theorem startMember_plain (hm : cmdOf s k = some m) (coll : m.kind ≠ 3) (setting : m.kind ≠ 7) (rtc : m.rtc = false) (distinct : cs.Nodup) (based : Bool) :
    (startMember based s (k, cs)).disp = (setCmd s k (grantedCmd s based cs m)).disp ∧ (startMember based s (k, cs)).mem.plane = s.mem.plane ∧
    (∀ i, (h : i < cs.length) → coreOf (startMember based s (k, cs)) cs[i] = { coreOf s cs[i] with slot := some k, rank := i, based := false }) ∧
    ∀ x, x ∉ cs → coreOf (startMember based s (k, cs)) x = coreOf s x := by
  have indexed : cs.zipIdx.map (·.1) = cs := List.zipIdx_map_fst ..
  obtain ⟨own, others⟩ := coreOf_foldl_updCore (fun x : Nat × Nat => x.1) (fun x y => { y with slot := some k, rank := x.2, based := false })
    (l := cs.zipIdx) (by rw [indexed]; exact distinct) (setCmd s k (grantedCmd s based cs m))
  have disp := foldl_keeps State.disp (f := fun s (x : Nat × Nat) => updCore s x.1 fun y => { y with slot := some k, rank := x.2, based := false })
    (fun _ _ => rfl) cs.zipIdx (setCmd s k (grantedCmd s based cs m))
  have mem := foldl_keeps State.mem (f := fun s (x : Nat × Nat) => updCore s x.1 fun y => { y with slot := some k, rank := x.2, based := false })
    (fun _ _ => rfl) cs.zipIdx (setCmd s k (grantedCmd s based cs m))
  rw [indexed] at others
  have noMode : m.isMode = false := by simp [Cmd.isMode, setting]
  unfold startMember
  simp only [hm, rtc, updCmd_of_some hm, noMode, coll, setting, Bool.false_eq_true, false_and, and_false, if_false]
  exact ⟨disp, congrArg (·.plane) mem, fun i h => own (cs[i], i) (List.mk_mem_zipIdx_iff_getElem?.mpr (List.getElem?_eq_getElem h)), others⟩

/-- A charge: the command, its queue's account and, in full steps, its queue's deficit. -/
theorem chargeCmd_eq (hc : cmdOf s k = some c) (n : Nat) : chargeCmd s k n =
    payQueue (setCmd (liveAdd s (mQacct c.queue) n) k { c with charge := c.charge + BitVec.ofNat 64 n, unpaid := (c.unpaid + n) % 65536 })
      c.queue ((c.unpaid + n) / 65536 * 65536) := by
  obtain ⟨d, hd⟩ : ∃ d : Cmd, d = { c with charge := c.charge + BitVec.ofNat 64 n } := ⟨_, rfl⟩
  obtain ⟨l, hl⟩ : ∃ l, l = liveAdd s (mQacct c.queue) n := ⟨_, rfl⟩
  have account : liveAdd (setCmd s k d) (mQacct c.queue) n = setCmd l k d := by rw [hl]; rfl
  simp only [chargeCmd, hc, accrue, updCmd_of_some hc, ← hd, account, updCmd_of_some (cmdOf_setCmd_self l k d), ← hl, setCmd_setCmd]
  rw [hd]

theorem chargeCmd_keeps (hc : cmdOf s k = some c) (n : Nat) :
    (∃ a b, cmdOf (chargeCmd s k n) k = some { c with charge := a, unpaid := b }) ∧
      (chargeCmd s k n).cores = s.cores ∧ (chargeCmd s k n).mem.plane = s.mem.plane := by
  rw [chargeCmd_eq hc]
  exact ⟨⟨_, _, cmdOf_setCmd_self ..⟩, rfl, rfl⟩

/-- Where one queue alone has a ready command, and it can be granted, GRANT starts it. -/
theorem grant_sole (ready : readyQueues s = [q]) (head : headOf s q = some k) (alone : jointSet s k = [k]) (hm : cmdOf s k = some m)
    (can : headFail s k m = none) (free : grantable s k = true) (due : 0 < (queueOf s q).deficit) (picked : pickCores s k = some [(k, cs)])
    (passes : grantFail s k (cs.headD 0) m = none) : exec .grant s = .next (startSet s k [(k, cs)]) := by
  have lifted : liftDeficits s [q] = s := by simp [liftDeficits, minBy?, liftBy, due]
  have starts : grantSet s k = startSet s k [(k, cs)] := by
    unfold grantSet
    simp only [picked, members_alone hm alone, List.findSome?_cons, List.find?_cons, decide_true, Option.map_some, Option.getD_some, passes, List.findSome?_nil]
  show execGrant s = _
  unfold execGrant
  simp [ready, head, members_alone hm alone, can, free, lifted, richest, minBy?, starts]

/-- Settles O21: the one queue with a ready command is the richest, and its command is a set of one member. -/
theorem grant : Obligations.Grant := by
  intro s q k m cs ready head alone hm can free due picked distinct passes coll setting rtc
  have run := grant_sole ready head alone hm can free due picked passes
  obtain ⟨based, hbased⟩ : ∃ b : Bool, b = !(members s k).any fun e => e.2.kind = 1 := ⟨_, rfl⟩
  obtain ⟨disp, plane, own, others⟩ := startMember_plain hm coll setting rtc distinct based
  obtain ⟨t, ht⟩ : ∃ t, t = startMember based s (k, cs) := ⟨_, rfl⟩
  rw [← ht] at disp plane own others
  obtain ⟨u, hu⟩ : ∃ u : State, u = { t with disp := { t.disp with grants := t.disp.grants + 1 } } := ⟨_, rfl⟩
  have start : startSet s k [(k, cs)] = if cs.isEmpty then chargeCmd u k 4096 else u := by
    unfold startSet
    rw [← hbased, hu, ht]
    simp
  have now : cmdOf u k = some (grantedCmd s based cs m) := by rw [hu]; exact (cmdOf_congr (congrArg Dispatch.slots disp) k).trans (cmdOf_setCmd_self ..)
  have ends : ∃ a b, cmdOf (startSet s k [(k, cs)]) k = some { grantedCmd s based cs m with charge := a, unpaid := b } ∧
      (startSet s k [(k, cs)]).cores = t.cores ∧ (startSet s k [(k, cs)]).mem.plane = t.mem.plane := by
    rw [start]
    split
    · obtain ⟨⟨a, b, charged⟩, cores, stays⟩ := chargeCmd_keeps now 4096
      exact ⟨a, b, charged, cores.trans (by rw [hu]), stays.trans (by rw [hu])⟩
    · exact ⟨_, _, now, by rw [hu], by rw [hu]⟩
  obtain ⟨a, b, charged, cores, stays⟩ := ends
  refine ⟨_, _, run, sameMemory_of_plane (stays.trans plane), charged, rfl, rfl, rfl, rfl, rfl, rfl, rfl, rfl, fun i h => ?_, fun x hx => ?_⟩
  · rw [coreOf_congr cores, own i h]
  · rw [coreOf_congr cores, others x hx]

end Sys2Proof.Machine
end

section
namespace Sys2Proof.Machine
set_option Elab.async false
variable {s t u : State} {k : Nat} {c : Cmd} {st : Status}

/-! ### Several cores change alike -/

theorem coreOf_updCores {f : Core → Core} (idem : ∀ x, f (f x) = f x) (x : Nat) : ∀ (cs : List Nat) (s : State),
    coreOf (updCores s cs fun _ => f) x = if x ∈ cs then f (coreOf s x) else coreOf s x
  | [], s => rfl
  | y :: cs, s => by
    refine (coreOf_updCores idem x cs (updCore s y f)).trans ?_
    by_cases hy : y = x
    · subst hy
      simp [coreOf_updCore_self, idem]
    · simp [coreOf_updCore_ne s f hy, Ne.symm hy]

/-! ### What a run held is handed back (R94, R104, R108) -/

theorem wcache_ctrAdd (s : State) (n inc : Nat) : (ctrAdd s n inc).mem.wcache = s.mem.wcache := by
  refine foldl_keeps (·.mem.wcache) (fun s w => ?_) _ _
  cases w <;> rfl

/-- The run in slot `k`, of a command that holds no walk, has handed back its cores; it has been charged. -/
structure RunClosed (s t : State) (k : Nat) (c : Cmd) : Prop where
  cmd : ∃ a b, cmdOf t k = some { c with charge := a, unpaid := b }
  alone : jointSet t k = [k]
  cores : ∀ x ∈ c.cores, coreOf t x = idleCore (coreOf s x)
  plane : t.mem.plane = s.mem.plane
  sync : t.sync = s.sync
  fab : t.fab = s.fab
  eth : t.eth = s.eth
  disp : t.disp = { s.disp with slots := t.disp.slots, queues := t.disp.queues }
  queues : QueuesStay s t

theorem RunClosed.refl (hc : cmdOf s k = some c) (alone : jointSet s k = [k]) (idle : c.cores = []) : RunClosed s s k c where
  cmd := ⟨c.charge, c.unpaid, hc⟩
  alone := alone
  cores x hx := by simp [idle] at hx
  plane := rfl
  sync := rfl
  fab := rfl
  eth := rfl
  disp := rfl
  queues := .of_queues rfl

theorem runClosed_closeRun (hc : cmdOf s k = some c) (alone : jointSet s k = [k]) (walks : (s.mem.wcache.all fun w => w.trans.slot != k) = true) :
    RunClosed s (closeRun s k) k c := by
  have dropped : ∀ {t : State}, t.mem.wcache = s.mem.wcache → dropWalks t k = t := by
    intro t h
    have : t.mem.wcache.filter (fun w => w.trans.slot = k) = [] := by
      rw [h, List.filter_eq_nil_iff]
      simpa using walks
    rw [dropWalks, this]
    rfl
  have closes : closeRun s k = dropWalks (updCores (chargeRest s k) c.cores fun _ => idleCore) k := by rw [closeRun, hc]; rfl
  by_cases idle : c.cores = []
  · have rest : chargeRest s k = s := by simp [chargeRest, hc, idle]
    rw [closes, rest, idle, show updCores s [] (fun _ => idleCore) = s from rfl, dropped rfl]
    exact .refl hc alone idle
  · obtain ⟨n, hn⟩ : ∃ n, n = (freeAt s 0).toNat % 65536 := ⟨_, rfl⟩
    obtain ⟨d, hd⟩ : ∃ d : Cmd, d = { c with charge := c.charge + BitVec.ofNat 64 n, unpaid := (c.unpaid + n) % 65536 } := ⟨_, rfl⟩
    obtain ⟨u, hu⟩ : ∃ u, u = (payQueue (setCmd (liveAdd s (mQacct c.queue) n) k d) c.queue ((c.unpaid + n) / 65536 * 65536)).tick := ⟨_, rfl⟩
    have rest : chargeRest s k = u := by
      simp only [chargeRest, hc, List.isEmpty_iff, idle, if_false, ← hn, chargeCmd_eq hc, ← hd, ← hu]
    rw [closes, rest, dropped (by simp [hu])]
    exact {
      cmd := ⟨c.charge + BitVec.ofNat 64 n, (c.unpaid + n) % 65536, (cmdOf_congr (by simp [hu]) k).trans ((cmdOf_setCmd_self s k d).trans (by rw [hd]))⟩
      alone := (jointSet_congr (by simp [hu]) k).trans (jointSet_setCmd_alone (d := d) hc alone (by rw [hd]))
      cores := fun x hx => by rw [coreOf_updCores (f := idleCore) (fun _ => rfl), if_pos hx, coreOf_congr (t := u) (s := s) (by rw [hu]; rfl)]
      plane := by simp [hu]
      sync := by simp [hu]
      fab := by simp [hu]
      eth := by simp [hu]
      disp := by simp [hu]
      queues := by
        refine .trans (t := u) ?_ (.of_queues (by simp))
        rw [hu]
        exact queuesStay_updQueue s c.queue (f := fun u => { u with deficit := clampDeficit (u.deficit - ((c.unpaid + n) / 65536 * 65536 : Nat)) }) fun _ => rfl }

/-- A run of a command that holds no walk and runs no collective ends, and is counted. -/
theorem runClosed_instEnd (hc : cmdOf s k = some c) (alone : jointSet s k = [k]) (plain : Plain s k c = true) (cnt : Nat) (abandon : Bool) :
    RunClosed s (instEnd (countQueue (closeRun s k) k cnt 1) k abandon) k c := by
  simp only [Plain, Bool.and_eq_true, Option.isNone_iff_eq_none] at plain
  obtain ⟨⟨-, inst⟩, walks⟩ := plain
  obtain ⟨t, ht⟩ : ∃ t, t = closeRun s k := ⟨_, rfl⟩
  have closed := runClosed_closeRun hc alone walks
  rw [← ht] at closed ⊢
  have none : instOf (countQueue t k cnt 1) k = none := by
    rw [instOf, (countQueue_frame ..).2.2.2.2.2.2.2.2.1, closed.fab]
    exact inst
  have ends : instEnd (countQueue t k cnt 1) k abandon = countQueue t k cnt 1 := by rw [instEnd, none]
  rw [ends]
  have disp : (countQueue t k cnt 1).disp = t.disp := by simp
  exact {
    cmd := by obtain ⟨a, b, h⟩ := closed.cmd; exact ⟨a, b, (cmdOf_congr (by rw [disp]) k).trans h⟩
    alone := (jointSet_congr (by rw [disp]) k).trans closed.alone
    cores := fun x hx => (coreOf_congr (by simp) x).trans (closed.cores x hx)
    plane := by simpa using closed.plane
    sync := by simpa using closed.sync
    fab := by simpa using closed.fab
    eth := by simpa using closed.eth
    disp := by rw [disp]; exact closed.disp
    queues := closed.queues.trans (.of_queues (by rw [disp])) }

/-! ### Nothing is held, and a command that is a joint set of its own ends -/

/-- No request is held, and nothing waits for the sequencer. -/
structure Unheld (s : State) : Prop where
  reqs : s.fab.heldReqs = []
  reads : s.fab.readWaits = []
  host : s.eth.held = []
  writes : s.disp.waiting = []

theorem unhindered_iff : Unhindered s = true ↔ Unheld s := by
  constructor
  · intro h
    simp only [Unhindered, Bool.and_eq_true, List.isEmpty_iff] at h
    obtain ⟨⟨⟨reqs, reads⟩, host⟩, writes⟩ := h
    exact ⟨reqs, reads, host, writes⟩
  · rintro ⟨reqs, reads, host, writes⟩
    simp [Unhindered, reqs, reads, host, writes]

theorem Unheld.congr (h : Unheld s) (reqs : t.fab.heldReqs = s.fab.heldReqs) (reads : t.fab.readWaits = s.fab.readWaits) (host : t.eth.held = s.eth.held)
    (writes : t.disp.waiting = s.disp.waiting) : Unheld t :=
  ⟨reqs.trans h.reqs, reads.trans h.reads, host.trans h.host, writes.trans h.writes⟩

theorem serveHeld_of_none (h : s.fab.heldReqs = []) : serveHeld s = s := by
  have same : { s with fab := { s.fab with heldReqs := [] } } = s := by rw [← h]
  rw [serveHeld, h]
  exact same

theorem readsIn_of_none (h : s.fab.readWaits = []) : readsIn s = s := by
  have same : { s with fab := { s.fab with readWaits := [] } } = s := by rw [← h]
  rw [readsIn, h]
  exact same

theorem serveReads_of_none (h : s.eth.held = []) : serveReads s = s := by
  have same : { s with eth := { s.eth with held := [] } } = s := by rw [← h]
  rw [serveReads, h]
  exact same

theorem serveAll_of_unheld (h : Unheld s) : serveAll s = s := by
  rw [serveAll, serveLines, serveHeld_of_none h.reqs, readsIn_of_none h.reads, serveReads_of_none h.host]

theorem serveWaiting_of_unheld (h : Unheld s) : serveWaiting s = s := by
  have same : { s with disp := { s.disp with waiting := [] } } = s := by rw [← h.writes]
  rw [serveWaiting, h.writes]
  exact same

theorem counters_endOne (hc : cmdOf s k = some c) (quiet : st = .committed ∨ c.sigOnEnd = false) :
    (endOne st s k).sync.counters = s.sync.counters := by
  have : ¬ (st ≠ .committed ∧ c.sigOnEnd ∧ c.doneInc ≠ 0) := by
    obtain rfl | h := quiet
    · simp
    · simp [h]
  unfold endOne
  simp only [hc, if_neg this]
  split <;> rfl

theorem waiting_endOne (st : Status) (s : State) (k : Nat) : (endOne st s k).disp.waiting = s.disp.waiting := by
  cases hc : cmdOf s k with
  | none => rw [endOne_of_none hc]
  | some c =>
    by_cases closing : c.phase = .closing
    · rw [endOne_of_closing hc closing]
    · rw [endOne_disp hc closing]
      rfl

/-- A command that is a joint set of its own, with no member to come, ends. -/
theorem endSet_alone (hc : cmdOf s k = some c) (alone : jointSet s k = [k]) (left : (queueOf s c.queue).joinLeft = 0) :
    ∃ e, endSet st s k = endOne st (setCmd s k { c with errIdx := e }) k := by
  have members : endMembers st s k = endOne st (setCmd s k (shareIndex st (setIndex s [k]) c)) k := by
    rw [endMembers, alone, updCmds_alone hc]
    rfl
  have none : ¬ ((queueOf (endMembers st s k) c.queue).joinLead = c.lead ∧ 0 < (queueOf (endMembers st s k) c.queue).joinLeft) := by
    have stays : (queueOf (endMembers st s k) c.queue).joinLeft = 0 := by
      rw [members, queuesStay_endOne st (setCmd s k (shareIndex st (setIndex s [k]) c)) k c.queue]
      exact left
    rw [stays]
    exact fun h => absurd h.2 (lt_irrefl 0)
  rw [endSet_eq hc, if_neg none, members, shareIndex_eq]
  exact ⟨_, rfl⟩

/-- It ends without a signal, and nothing is held then that was not held before. -/
theorem endSet_quiet (hc : cmdOf s k = some c) (open' : c.phase ≠ .closing) (alone : jointSet s k = [k]) (left : (queueOf s c.queue).joinLeft = 0)
    (quiet : st = .committed ∨ c.sigOnEnd = false) (free : Unheld s) :
    (∃ n e, cmdOf (endSet st s k) k = some (ended st n { c with errIdx := e })) ∧ (endSet st s k).sync.counters = s.sync.counters ∧
      Unheld (endSet st s k) := by
  obtain ⟨e, ends⟩ := endSet_alone (st := st) hc alone left
  refine ⟨cmdOf_endSet hc open', ?_, free.congr (by simp) (by simp) (by simp) ?_⟩
  · rw [ends]
    exact counters_endOne (cmdOf_setCmd_self ..) quiet
  · rw [ends]
    exact waiting_endOne ..

end Sys2Proof.Machine
end

section
namespace Sys2Proof.Machine
set_option Elab.async false
variable {s t : State} {k : SlotId} {c : Cmd}

/-! ### A record that names a command (R89) -/

/-- A record changes nothing of the slots but its command's index of the first error. -/
theorem slots_logRec {r : ErrRec} {k : Nat} (h : r.slot = some k) (hc : cmdOf s k = some c) :
    (logRec s r).disp.slots = s.disp.slots ∨ ∃ e, (logRec s r).disp.slots = (setCmd s k { c with errIdx := e }).disp.slots := by
  have note : ∀ {t : State} (i : Nat), t.disp.slots = s.disp.slots → (noteIndex t r.slot i).disp.slots = s.disp.slots ∨
      ∃ e, (noteIndex t r.slot i).disp.slots = (setCmd s k { c with errIdx := e }).disp.slots := by
    intro t i slots
    refine .inr ⟨some (c.errIdx.getD (BitVec.ofNat 32 i)), ?_⟩
    rw [h, noteIndex, updCmd_of_some ((cmdOf_congr slots k).trans hc)]
    exact congrArg (fun m => Map.put m k _) slots
  simp only [logRec, logAppend]
  generalize logMakeRoom _ _ _ _ = room
  split
  · exact .inl rfl
  · split
    · next first _ =>
      rw [← (List.cons.inj first).1]
      refine note _ ?_
      (repeat' split) <;> rfl
    · refine .inl ?_
      (repeat' split) <;> rfl

theorem logRec_alone {r : ErrRec} {k : Nat} (h : r.slot = some k) (hc : cmdOf s k = some c) (alone : jointSet s k = [k]) :
    (∃ e, cmdOf (logRec s r) k = some { c with errIdx := e }) ∧ jointSet (logRec s r) k = [k] := by
  obtain same | ⟨e, noted⟩ := slots_logRec h hc
  · exact ⟨⟨c.errIdx, (cmdOf_congr same k).trans hc⟩, (jointSet_congr same k).trans alone⟩
  · exact ⟨⟨e, (cmdOf_congr noted k).trans (cmdOf_setCmd_self ..)⟩,
      (jointSet_congr noted k).trans (jointSet_setCmd_alone hc alone rfl)⟩

/-! ### A kill begins (R104) -/

/-- An abort under way outlasts a failure (R105). -/
theorem Cmd.killWhy_fail (sent : c.failSent = true) : c.killWhy .fail = if c.kill = some .abort then .abort else .fail := by
  unfold Cmd.killWhy
  split <;> simp_all

/-- The kill of a command that is a joint set of its own. -/
theorem startKill_alone {k : Nat} (hc : cmdOf s k = some c) (alone : jointSet s k = [k]) (why : AfterKill) :
    cmdOf (startKill why s k) k = some { c with kill := some (c.killWhy why) } ∧ (startKill why s k).mem.plane = s.mem.plane ∧
      ∀ x ∈ c.cores, (coreOf (startKill why s k) x).act = .stopped := by
  unfold startKill
  simp only [alone, List.flatMap_cons, List.flatMap_nil, hc, Option.map_some, Option.getD_some, List.append_nil, updCmds_alone hc]
  refine ⟨?_, ?_, fun x hx => ?_⟩
  · refine (cmdOf_congr (congrArg (·.slots) ((updCores_frame ..).2.2.2.2.2.2.2.1)) k).trans (cmdOf_setCmd_self ..)
  · simp
  · refine (congrArg Core.act (coreOf_updCores (f := stopCore) (fun _ => rfl) x c.cores _)).trans ?_
    rw [if_pos hx]
    rfl

/-! ### The messages of a command (R95, R112, R113) -/

theorem commitRequest_begins (hc : cmdOf s k.toNat = some c) (alone : jointSet s k.toNat = [k.toNat]) (kind : c.kind = 1) (sent : c.reqSent = true)
    (undecided : c.decided = false) (running : c.phase = .running) (kill : c.kill = none) (first : c.aborts.all (·.1) = true)
    (free : s.disp.current = none) (idle : s.dbg.snap = .idle) (open' : stagedFenced s c = none) :
    exec (.commitRequest k) s = .next (beginCommit s [k.toNat]) := by
  show execCommitRequest k s = _
  unfold execCommitRequest
  simp only [hc, sent, undecided, running, kill, first, sequencerFree, free, idle, alone]
  simp [viewLost, hc, kind, setFenced, open']

theorem beginCommit_alone {k : Nat} (hc : cmdOf s k = some c) (kind : c.kind = 1) (staged : c.staged ≠ []) :
    ∃ t, beginCommit s [k] = t ∧ t.mem.plane = s.mem.plane ∧
      cmdOf t k = some { c with decided := true, phase := .committing, commitNo := s.disp.lastNo + 1 } ∧
      t.disp.lastNo = s.disp.lastNo + 1 ∧ t.disp.current = some ⟨[k], s.disp.lastNo + 1, .applying, List.range 8, []⟩ := by
  obtain ⟨d, hd⟩ : ∃ d : Cmd, d = { c with decided := true, phase := .committing, commitNo := s.disp.lastNo + 1 } := ⟨_, rfl⟩
  obtain ⟨u, hu⟩ : ∃ u, u = endSchedules (setCmd s k d) [k] := ⟨_, rfl⟩
  have now : cmdOf u k = some d := by rw [hu]; exact cmdOf_setCmd_self s k d
  have noView : viewApply u k = u := by
    have : d.kind = 1 := by rw [hd]; exact kind
    simp [viewApply, now, this]
  have touches : touchesSlices u [k] = true := by
    have : d.staged ≠ [] := by rw [hd]; exact staged
    simp [touchesSlices, now, this]
  refine ⟨_, rfl, ?_⟩
  unfold beginCommit
  simp only [updCmds_alone hc, ← hd, ← hu, List.foldl_cons, List.foldl_nil, noView, touches]
  refine ⟨?_, now, rfl, rfl⟩
  rw [hu]
  rfl

theorem failMessage_kills (hc : cmdOf s k.toNat = some c) (alone : jointSet s k.toNat = [k.toNat]) (sent : c.failSent = true) (undecided : c.decided = false)
    (failed : c.failed = false) (request : (c.reqSent && c.kill.isNone) = false) (first : c.aborts.all (·.2) = true) :
    exec (.failMessage k) s = .next (startKill .fail (setCmd s k.toNat { c with failed := true }) k.toNat) := by
  show execFailMessage k s = _
  unfold execFailMessage
  simp only [hc, sent, undecided, failed, request, first, alone, updCmds_alone hc]
  rfl

theorem abortMessage_kills (hc : cmdOf s k.toNat = some c) (alone : jointSet s k.toNat = [k.toNat]) (kind : c.kind = 1) (on : c.aborts ≠ [])
    (turn : c.abortWaits = false) (undecided : c.decided = false) (failed : c.failed = false) (running : c.phase = .running)
    (change : s.disp.change = none) : exec (.abortMessage k) s =
      .next (startKill .abort (setCmd s k.toNat { c with decided := true, aborts := c.aborts.drop 1 }) k.toNat) := by
  have cancel : cancelMode s [k.toNat] = s := by simp [cancelMode, change]
  show execAbortMessage k s = _
  unfold execAbortMessage
  simp [hc, on, turn, undecided, failed, running, alone, cancel, modePublished, Cmd.isMode, kind, updCmds_alone hc]

theorem abortMessage_late (hc : cmdOf s k.toNat = some c) (on : c.aborts ≠ []) (decided : c.decided = true) :
    exec (.abortMessage k) s = .next (abortLate s k.toNat c) := by
  show execAbortMessage k s = _
  unfold execAbortMessage
  simp [hc, on, decided, Cmd.abortWaits]

theorem abortLate_alone {k : Nat} (hc : cmdOf s k = some c) (alone : jointSet s k = [k]) :
    (∃ e, cmdOf (abortLate s k c) k = some { c with errIdx := e, tooLate := true, aborts := c.aborts.drop 1 }) ∧
      (abortLate s k c).mem = s.mem := by
  obtain ⟨r, hr⟩ : ∃ r : ErrRec, r = { code := eAbortTooLate, unitCls := 7, unit := 0, slot := some k, object := c.seq, detail := 0x39 * 2 ^ 56 } := ⟨_, rfl⟩
  obtain ⟨u, hu⟩ : ∃ u, u = logRec s r := ⟨_, rfl⟩
  obtain ⟨⟨e, noted⟩, still⟩ := logRec_alone (r := r) (by rw [hr]) hc alone
  have mem : u.mem = s.mem := by rw [hu]; simp
  have late : abortLate s k c = updCmds u (jointSet u k) fun _ m => { m with tooLate := true, aborts := m.aborts.drop 1 } := by
    rw [hu, hr]
    rfl
  rw [← hu] at noted still
  rw [late, still, updCmds_alone noted]
  exact ⟨⟨e, cmdOf_setCmd_self ..⟩, mem⟩

/-- Settles O23: each message finds a command that is a joint set of its own, and changes that command alone. -/
theorem sequencerMessages : Obligations.SequencerMessages := by
  refine fun s k c hc alone kind => ⟨?_, ?_, ?_, ?_⟩
  · intro sent undecided running kill first free idle open' staged
    obtain ⟨_, rfl, plane, now, lastNo, current⟩ := beginCommit_alone hc kind staged
    exact ⟨_, commitRequest_begins hc alone kind sent undecided running kill first free idle open', sameMemory_of_plane plane, now, lastNo, current⟩
  · intro sent undecided failed request first
    obtain ⟨now, plane, stopped⟩ := startKill_alone (cmdOf_setCmd_self s k.toNat { c with failed := true }) (jointSet_setCmd_alone hc alone rfl) .fail
    refine ⟨_, failMessage_kills hc alone sent undecided failed request first, sameMemory_of_plane plane, now.trans ?_, stopped⟩
    rw [← Cmd.killWhy_fail sent]
    rfl
  · intro a rest on turn undecided failed running kill change
    obtain ⟨now, plane, stopped⟩ := startKill_alone (cmdOf_setCmd_self s k.toNat { c with decided := true, aborts := c.aborts.drop 1 })
      (jointSet_setCmd_alone hc alone rfl) .abort
    refine ⟨_, abortMessage_kills hc alone kind (by simp [on]) turn undecided failed running change, sameMemory_of_plane plane, now.trans ?_, stopped⟩
    simp [Cmd.killWhy, kill, on]
  · intro a rest on decided
    obtain ⟨⟨e, now⟩, mem⟩ := abortLate_alone hc alone
    exact ⟨_, _, abortMessage_late hc (by simp [on]) decided, sameMemory_of_mem mem, now, rfl, by simp [on], rfl, rfl⟩

end Sys2Proof.Machine
end

section
namespace Sys2Proof.Machine
set_option Elab.async false
variable {s t : State} {b : SliceId} {k : Nat} {m : Commit} {c : Cmd}

/-! ### The rounds of a commit (R95) -/

theorem applyDone_last (current : s.disp.current = some m) (applying : m.round = .applying) (todo : m.todo = []) (last : m.answered = [b.toNat]) :
    exec (.applyDone b) s = .next (setCommit s (some { m with round := .releasing, todo := List.range 8, answered := [] })) := by
  show execApplyDone b s = _
  unfold execApplyDone
  simp [current, applying, todo, last]

theorem release_frees (current : s.disp.current = some m) (free : Unheld s) (releasing : m.round = .releasing) (todo : b.toNat ∈ m.todo) :
    exec (.release b) s = .next (setCommit s (some { m with todo := m.todo.filter (· != b.toNat) })) := by
  have on : ¬ (m.round ≠ .releasing ∨ (!m.todo.contains b.toNat) = true) := by simp [releasing, todo]
  show execRelease b s = _
  unfold execRelease
  simp only [current, if_neg on]
  exact congrArg _ (serveAll_of_unheld (free.congr rfl rfl rfl rfl))

theorem releaseDone_ends (current : s.disp.current = some m) (releasing : m.round = .releasing) (todo : m.todo = []) :
    exec .releaseDone s = .next (commitEnd s m) := by
  have on : ¬ (m.round ≠ .releasing ∨ (!m.todo.isEmpty) = true) := by simp [releasing, todo]
  show execReleaseDone s = _
  unfold execReleaseDone
  simp only [current, if_neg on]

/-- The end of a commit of one command that has a done signal, and neither sums nor egress. -/
theorem commitEnd_alone (slots : m.slots = [k]) (hc : cmdOf s k = some c) (alone : jointSet s k = [k]) (committing : c.phase = .committing)
    (plain : Plain s k c = true) (sums : c.sums = []) (egress : c.egress = []) (signals : c.doneInc ≠ 0) (left : (queueOf s c.queue).joinLeft = 0)
    (free : Unheld s) :
    (∃ n a b e, cmdOf (commitEnd s m) k = some (ended .committed n { c with charge := a, unpaid := b, errIdx := e })) ∧
      (commitEnd s m).mem.plane = s.mem.plane ∧ (commitEnd s m).disp.current = none ∧
      (commitEnd s m).sync.counters = (ctrAdd s c.doneCtr c.doneInc).sync.counters ∧
      ∀ x ∈ c.cores, coreOf (commitEnd s m) x = idleCore (coreOf s x) := by
  obtain ⟨t, ht⟩ : ∃ t, t = ctrAdd s c.doneCtr c.doneInc := ⟨_, rfl⟩
  have noSums : setSums s [k] = [] := by simp [setSums, hc, sums]
  have signal : doneSignal s k = t := by simp [doneSignal, hc, signals, ht]
  have disp : t.disp = s.disp := by rw [ht]; exact (ctrAdd_frame ..).2.2.2.2.2.2.1
  have slotsT : t.disp.slots = s.disp.slots := by rw [disp]
  have hct : cmdOf t k = some c := (cmdOf_congr slotsT k).trans hc
  have noEgress : sendEgress t k = t := by simp [sendEgress, hct, egress]
  have plainT : Plain t k c = true := by
    have : t.mem.wcache = s.mem.wcache := by rw [ht]; exact wcache_ctrAdd ..
    have fab : t.fab = s.fab := by simp [ht]
    simpa [Plain, instOf, this, fab] using plain
  obtain ⟨u, hu⟩ : ∃ u, u = closeMember t k := ⟨_, rfl⟩
  have closed : RunClosed t (closeMember t k) k c := runClosed_instEnd hct ((jointSet_congr slotsT k).trans alone) plainT 8 false
  rw [← hu] at closed
  obtain ⟨⟨a, b, charged⟩, aloneU, idle, plane, sync, fab, eth, dispU, queues⟩ := closed
  obtain ⟨v, hv⟩ : ∃ v, v = noChange (dropDists u [k]) [k] := ⟨_, rfl⟩
  have hcv : cmdOf v k = some { c with charge := a, unpaid := b } := by rw [hv]; exact charged
  have leftV : (queueOf v c.queue).joinLeft = 0 := by
    have stays : queueOf v c.queue = queueOf u c.queue := by rw [hv]; rfl
    rw [stays, queues c.queue, queueOf_congr (t := t) (s := s) (by rw [disp])]
    exact left
  have freeV : Unheld v := free.congr (by simp [hv, noChange, dropDists, fab, ht]) (by simp [hv, noChange, dropDists, fab, ht])
    (by simp [hv, noChange, dropDists, eth, ht]) (by rw [hv]; exact (congrArg (·.waiting) dispU).trans (by rw [disp]))
  obtain ⟨⟨n, e, now⟩, counters, freeW⟩ := endSet_quiet (st := .committed) hcv (by simp [committing]) (by rw [hv]; exact aloneU) leftV (.inl rfl) freeV
  obtain ⟨w, hw⟩ : ∃ w, w = endSet .committed v k := ⟨_, rfl⟩
  rw [← hw] at now counters freeW
  have ran : commitEnd s m = setCommit w none := by
    have freeW' : Unheld (setCommit w none) := freeW.congr rfl rfl rfl rfl
    unfold commitEnd
    simp only [slots, noSums, List.foldl_nil, List.foldl_cons, List.headD_cons, signal, noEgress]
    rw [← hu, ← hv, ← hw, serveWaiting_of_unheld freeW', serveAll_of_unheld freeW']
  rw [ran]
  refine ⟨⟨n, a, b, e, now⟩, ?_, rfl, ?_, fun y hy => ?_⟩
  · refine (congrArg (·.mem.plane) hw).trans ?_
    simp [hv, noChange, dropDists, plane, ht]
  · refine counters.trans ?_
    rw [hv, ← ht]
    exact congrArg (·.counters) sync
  · have cores : (setCommit w none).cores = u.cores := by simp [setCommit, hw, hv, noChange, dropDists]
    rw [coreOf_congr cores, idle y hy, coreOf_congr (t := t) (s := s) (by simp [ht])]

/-- Settles O25: the command is a set of its own with nothing to send; its run is closed, its done signal applied, and it ends. -/
theorem commitRounds : Obligations.CommitRounds := by
  refine fun s b m current free => ⟨fun applying todo last => ⟨_, applyDone_last current applying todo last, rfl⟩,
    fun releasing todo => ⟨_, release_frees current (unhindered_iff.mp free) releasing todo, rfl⟩, ?_⟩
  intro k c releasing todo slots hc committing _ alone plain sums egress signals left
  obtain ⟨⟨n, a, b, e, now⟩, plane, done, counters, idle⟩ :=
    commitEnd_alone slots hc alone committing plain sums egress signals left (unhindered_iff.mp free)
  refine ⟨_, _, releaseDone_ends current releasing todo, sameMemory_of_plane plane, done, now, rfl, rfl, ?_, fun n hn => ?_, fun x hx => ?_⟩
  · rw [ctrGet_congr counters, ctrGet_ctrAdd, if_pos rfl, BitVec.toNat_ofNat]
    exact Nat.mod_eq_of_lt ((Nat.min_le_right ..).trans_lt (by decide))
  · rw [ctrGet_congr counters, ctrGet_ctrAdd, if_neg (Ne.symm hn)]
  · rw [idle x hx]
    exact ⟨rfl, rfl⟩

end Sys2Proof.Machine
end

section
namespace Sys2Proof.Machine
set_option Elab.async false
variable {s t u : State} {k : Nat} {c : Cmd} {w : AfterKill}

/-! ### A kill ends (R104, R105, R106) -/

theorem killComplete_ends {k : SlotId} (hc : cmdOf s k.toNat = some c) (running : c.phase = .running) (kill : c.kill = some w)
    (taken : w = .rerun ∨ w = .abort ∨ (w = .fail ∧ c.failed = true)) : exec (.killComplete k) s = .next (killEnd s k.toNat w) := by
  have on : ¬ (c.phase ≠ .running ∨ (w = .fail ∧ (!c.failed) = true)) := by
    rintro (h | ⟨rfl, h⟩)
    · exact h running
    · obtain h' | h' | ⟨-, h'⟩ := taken <;> simp_all
  show execKillComplete k s = _
  unfold execKillComplete
  simp only [hc, kill, if_neg on]

/-- The command in slot `k` has handed back what its run held; no counter has changed and nothing is held. -/
structure RunGone (s t : State) (k : Nat) (c : Cmd) : Prop where
  cmd : ∃ a b, cmdOf t k = some { c with charge := a, unpaid := b }
  alone : jointSet t k = [k]
  cores : ∀ x ∈ c.cores, coreOf t x = idleCore (coreOf s x)
  plane : t.mem.plane = s.mem.plane
  counters : t.sync.counters = s.sync.counters
  left : ∀ q, (queueOf t q).joinLeft = (queueOf s q).joinLeft
  free : Unheld t

/-- What a kill undoes before its command ends or waits again. -/
def undone (s : State) (k : Nat) : State := forget (dropStore (dropDists (undoMember s k) [k]) [k]) [k]

theorem killEnd_eq (alone : jointSet s k = [k]) (change : s.disp.change = none) (quiet : s.sync.inflight = []) :
    killEnd s k w = serveAll (afterKill (undone s k) k [k] w) := by
  have cancel : cancelMode s [k] = s := by simp [cancelMode, change]
  have flush : flushSignals s [k] = s := by
    have same : { s with sync := { s.sync with inflight := [] } } = s := by rw [← quiet]
    rw [flushSignals, quiet]
    exact same
  unfold killEnd
  simp only [alone, cancel, flush]
  rfl

theorem runGone_undone (hc : cmdOf s k = some c) (alone : jointSet s k = [k]) (kind : c.kind = 1) (egress : c.egress = []) (plain : Plain s k c = true)
    (free : Unheld s) : RunGone s (undone s k) k c := by
  have grants : cancelGrants s k = s := by simp [cancelGrants, hc, egress]
  have pages : pageUndo s c = s := by
    have page : c.page = ⟨[], [], [], []⟩ := by
      simp only [Plain, Bool.and_eq_true, decide_eq_true_eq] at plain
      exact plain.1.1
    rw [pageUndo, page]
    rfl
  obtain ⟨u, hu⟩ : ∃ u, u = instEnd (countQueue (closeRun s k) k 9 1) k true := ⟨_, rfl⟩
  have undo : undoMember s k = u := by
    simp only [undoMember, hc, grants, pages, hu]
  have closed := runClosed_instEnd hc alone plain 9 true
  rw [← hu] at closed
  obtain ⟨⟨a, b, charged⟩, aloneU, idle, plane, sync, fab, eth, disp, queues⟩ := closed
  have store : dropStore (dropDists u [k]) [k] = dropDists u [k] := by
    have now : cmdOf (dropDists u [k]) k = some { c with charge := a, unpaid := b } := charged
    have no : decide (c.kind = 7 ∧ c.setOp = 2) = false := by simp [kind]
    unfold dropStore
    rw [List.any_cons, now]
    refine if_neg (Bool.not_eq_true _ ▸ (Bool.or_false _).trans no)
  have rest : undone s k = forget (dropDists u [k]) [k] := by rw [undone, undo, store]
  rw [rest]
  exact {
    cmd := ⟨a, b, charged⟩
    alone := aloneU
    cores := idle
    plane := plane
    counters := congrArg (·.counters) sync
    left := fun q => (congrArg Queue.joinLeft (queues q) : (queueOf u q).joinLeft = _)
    free := free.congr (congrArg (·.heldReqs) fab) (congrArg (·.readWaits) fab) (congrArg (·.held) eth) (congrArg (·.waiting) disp) }

/-- A command that was killed to run again waits for its grant. -/
theorem afterKill_rerun (hc : cmdOf s k = some c) (units : c.units = []) (lost : c.lost = none) :
    afterKill s k [k] .rerun = setCmd s k (rerunMember (draining s) false c) := by
  have now := cmdOf_setCmd_self s k (rerunMember (draining s) false c)
  rw [afterKill, updCmds_alone hc, afterTests, now]
  simp [rerunMember, dropRun, units, lost]

/-- Settles O26: what the kill undoes touches neither memory nor counters, and what follows changes the command alone. -/
theorem killLeavesNothing : Obligations.KillLeavesNothing := by
  intro s k c hc alone kind running free change quiet egress units sig left lost plain w kill taken
  have run := killComplete_ends hc running kill taken
  obtain ⟨u, hu⟩ : ∃ u, u = undone s k.toNat := ⟨_, rfl⟩
  have gone := runGone_undone hc alone kind egress plain (unhindered_iff.mp free)
  rw [← hu] at gone
  obtain ⟨⟨a, b, now⟩, aloneU, idle, plane, counters, leftU, freeU⟩ := gone
  rw [killEnd_eq alone change quiet, ← hu] at run
  have coresIdle : ∀ {t : State}, t.cores = u.cores → ∀ x ∈ c.cores, (coreOf t x).slot = none ∧ (coreOf t x).act = .idle := by
    intro t cores x hx
    rw [coreOf_congr cores, idle x hx]
    exact ⟨rfl, rfl⟩
  have ends : ∀ st, afterKill u k.toNat [k.toNat] w = endSet st u k.toNat → ∃ t d, Answers (.killComplete k) s t ∧ SameMemory s t ∧
      (∀ n, ctrGet t n = ctrGet s n) ∧ cmdOf t k.toNat = some d ∧ d.staged = [] ∧ d.deltas = [] ∧ d.sums = [] ∧ d.cores = [] ∧ d.kill = none ∧
      d.record = c.record ∧ d.phase = .closing ∧ d.status = some st ∧ ∀ x ∈ c.cores, (coreOf t x).slot = none ∧ (coreOf t x).act = .idle := by
    intro st after
    obtain ⟨⟨n, e, ended⟩, same, freeE⟩ := endSet_quiet (st := st) now (by simp [running]) aloneU ((leftU _).trans left) (.inr sig) freeU
    rw [after, serveAll_of_unheld freeE] at run
    exact ⟨_, _, run, sameMemory_of_plane ((by simp : (endSet st u k.toNat).mem.plane = u.mem.plane).trans plane),
      fun n => (ctrGet_congr same n).trans (ctrGet_congr counters n), ended, rfl, rfl, rfl, rfl, rfl, rfl, rfl, rfl, coresIdle (by simp)⟩
  obtain rfl | rfl | ⟨rfl, -⟩ := taken
  · have served := serveAll_of_unheld (s := afterKill u k.toNat [k.toNat] .rerun)
      (by rw [afterKill_rerun now units lost]; exact freeU.congr rfl rfl rfl rfl)
    rw [served, afterKill_rerun now units lost] at run
    exact ⟨_, _, run, sameMemory_of_plane plane, fun n => ctrGet_congr counters n, cmdOf_setCmd_self .., rfl, rfl, rfl, rfl, rfl, rfl,
      fun _ => ⟨rfl, rfl⟩, nofun, nofun, coresIdle rfl⟩
  · obtain ⟨t, d, answers, same, stay, slot, staged, deltas, sums, cores, kill, record, phase, status, idle⟩ := ends .aborted rfl
    exact ⟨t, d, answers, same, stay, slot, staged, deltas, sums, cores, kill, record, nofun, fun _ => ⟨phase, status⟩, nofun, idle⟩
  · obtain ⟨t, d, answers, same, stay, slot, staged, deltas, sums, cores, kill, record, phase, status, idle⟩ := ends .failed rfl
    exact ⟨t, d, answers, same, stay, slot, staged, deltas, sums, cores, kill, record, nofun, nofun, fun _ => ⟨phase, status⟩, idle⟩

end Sys2Proof.Machine
end

section
namespace Sys2Proof.Machine
set_option Elab.async false
variable {s t : State} {c : CoreId} {slot : Nat} {w : BitVec 32}

/-! ### LD and DLD from the plane (R134, R136, R139, R146) -/

/-- The data of a load as the core sees them. -/
def loadBytes (s : State) (k : Core) (slot a n : Nat) : List Byte := (span a n).map (ccSeen s k slot)

theorem length_loadBytes (s : State) (k : Core) (slot a n : Nat) : (loadBytes s k slot a n).length = n := by simp [loadBytes, span]

/-- A byte is seen as the command sees it, or as it was before an instruction in flight wrote it (R137). -/
theorem getElem?_loadBytes {k : Core} {a n x : Nat} (hx : x < n) : (loadBytes s k slot a n)[x]? = some (seenByte s slot (a + x)) ∨
    (loadBytes s k slot a n)[x]? = oldByte k none (locKey 1 (a + x)) := by
  have byte : (loadBytes s k slot a n)[x]? = some (ccSeen s k slot (a + x)) := by simp [loadBytes, span, hx]
  rw [byte, ccSeen, inFlight]
  split
  · exact .inl rfl
  · next old ho =>
    split
    · exact .inr ho.symm
    · exact .inl rfl

/-- The outstanding load of a core. -/
def planeLoadOf (s : State) (k : Core) (slot a n : Nat) (d : LoadDest) : Load :=
  ⟨a, k.pc.toNat, false, n, d, if (lockIn s (jointSet s slot) a n).isSome then none else some (BitVec.ofNat 256 (leNat (loadBytes s k slot a n)))⟩

/-- The core once its load has issued. -/
def loadCore (s : State) (k : Core) (slot a n : Nat) (d : LoadDest) : Core :=
  { issued k with pc := k.pc + 4, loads := k.loads ++ [planeLoadOf s k slot a n d] }

/-- The state once a load has issued. -/
def loadIssued (s : State) (c slot a n : Nat) (d : LoadDest) : State :=
  setCore (sheafAccess (updCore s c issued) (some slot) (.control c (coreOf s c).pc.toNat) (neededLines s slot a n) false) c
    (loadCore s (coreOf s c) slot a n d)

theorem ccAddr_issued (k : Core) (w : BitVec 32) : ccAddr (issued k) w = ccAddr k w := by rw [issued_eq]; rfl

theorem ccSeen_issued (s : State) (k : Core) (slot a : Nat) : ccSeen s (issued k) slot a = ccSeen s k slot a := by rw [issued_eq]; rfl

theorem planeLoad_issues {c a n : Nat} {d : LoadDest} (upsets : s.flt.upsets = []) (fence : fencedIn s a n = none) (clean : seenPoison s slot a n = none) :
    planeLoad (updCore s c issued) c slot a n d = loadIssued s c slot a n d := by
  have guard : ∀ go, ccGuard (updCore s c issued) c slot a n true go = go (updCore s c issued) := fun go =>
    ccGuard_read (s := updCore s c issued) upsets fence clean
  have seen : (span a n).map (ccSeen (updCore s c issued) (issued (coreOf s c)) slot) = loadBytes s (coreOf s c) slot a n :=
    List.map_congr_left fun x _ => ccSeen_issued s (coreOf s c) slot x
  have core : coreOf (sheafAccess (updCore s c issued) (some slot) (.control c (coreOf s c).pc.toNat) (neededLines s slot a n) false) c =
      issued (coreOf s c) := by
    rw [sheafAccess_eq]
    exact coreOf_updCore_self ..
  unfold planeLoad
  simp only [guard, coreOf_updCore_self, seen, issued_pc]
  rw [updCore, show neededLines (updCore s c issued) slot a n = neededLines s slot a n from rfl, core]
  simp only [advance, issued_pc, issued_loads]
  rfl

theorem ccLoad_of_plane {v : Word} {n : Nat} {d : LoadDest} (upsets : s.flt.upsets = []) (loc : bit w 8 = false)
    (size : ccSize w = n) (addr : ccAddr (coreOf s c.toNat) w = v) (aligned : v.toNat % n = 0) (low : v.toNat < 2 ^ 48)
    (plane : inPlane s v.toNat n = true) (cset : csetOk s slot v.toNat = true) (fence : fencedIn s v.toNat n = none)
    (clean : seenPoison s slot v.toNat n = none) :
    ccLoad (updCore s c.toNat issued) c.toNat slot w d = loadIssued s c.toNat slot v.toNat n d := by
  have cause : addrCause (updCore s c.toNat issued) slot v n (ccLoc w) = none := by
    rw [ccLoc, loc]
    exact addrCause_eq_none (s := updCore s c.toNat issued) aligned low plane cset
  unfold ccLoad
  simp only [coreOf_updCore_self, ccAddr_issued, addr, size, cause]
  rw [ccLoc, loc, if_neg Bool.false_ne_true, planeLoad_issues upsets fence clean]

/-- What an issued load leaves: the request of its lines, and the load in its core. -/
theorem loadIssued_spec (s : State) (c slot a n : Nat) (d : LoadDest) : loadIssued s c slot a n d =
      { s with cores := (loadIssued s c slot a n d).cores,
               mem := { s.mem with fills := (loadIssued s c slot a n d).mem.fills, plru := (loadIssued s c slot a n d).mem.plru } } ∧
    coreOf (loadIssued s c slot a n d) c = loadCore s (coreOf s c) slot a n d ∧
    ∀ o, o ≠ c → coreOf (loadIssued s c slot a n d) o = coreOf s o := by
  refine ⟨?_, by simp [loadIssued], fun o ho => ?_⟩
  · rw [loadIssued, sheafAccess_fills]
    rfl
  · rw [loadIssued, coreOf_setCore_ne _ _ ho.symm, sheafAccess_eq]
    exact coreOf_updCore_ne _ _ ho.symm

theorem load_issues {i : Instr} {op n : Nat} {d : BitVec 32 → LoadDest} {v : Word} (issues : issuable s c.toNat slot w = true) (yes : ccTrue (coreOf s c.toNat) w = true)
    (loc : bit w 8 = false) (hop : ccOp w = op) (size : ccSize w = n) (addr : ccAddr (coreOf s c.toNat) w = v)
    (run : exec i s = .next (ctl s c.toNat op fun s c slot w _ => ccLoad s c slot w (d w))) (aligned : v.toNat % n = 0) (low : v.toNat < 2 ^ 48)
    (plane : inPlane s v.toNat n = true) (cset : csetOk s slot v.toNat = true) (fence : fencedIn s v.toNat n = none)
    (clean : seenPoison s slot v.toNat n = none) :
    Answers i s (loadIssued s c.toNat slot v.toNat n (d w)) := by
  obtain ⟨-, core, -⟩ := loadIssued_spec s c.toNat slot v.toNat n (d w)
  have idle : (coreOf (loadIssued s c.toNat slot v.toNat n (d w)) c.toNat).dbg.stepping = false := by
    rw [core, loadCore, issued_eq]
    exact issuable_not_stepping issues
  subst hop
  rw [ctl_of_issuable issues yes, ccLoad_of_plane (issuable_upsets issues) loc size addr aligned low plane cset fence clean,
    afterIssue_of_not_stepping idle] at run
  exact run

/-! ### LOAD_RETURN (R93, R134, R138, R146) -/

/-- The state once the oldest outstanding load has returned its data. -/
def loadReturned (s : State) (c : Nat) (l : Load) (rest : List Load) (v : BitVec 256) : State :=
  updCore (countPort s c 64 false) c fun k => putLoad { k with loads := rest } l.dest v

theorem loadReturn_writes {k : Core} {l : Load} {rest : List Load} {v : BitVec 256} (core : coreOf s c.toNat = k) (hslot : k.slot = some slot)
    (loads : k.loads = l :: rest) (test : heldByTest s l.addr l.size = false) (fence : fencedIn s l.addr l.size = none) (upsets : s.flt.upsets = [])
    (data : l.value = some v ∨ l.value = none ∧ lockIn s (jointSet s slot) l.addr l.size = none ∧ seenPoison s slot l.addr l.size = none ∧
      v = BitVec.ofNat 256 (leNat (seenRead s slot l.addr l.size)))
    (come : (awaits s fun f => f.asker = .control c.toNat l.at' && f.line = lineOf l.addr) = false) :
    exec (.loadReturn c) s = .next (loadReturned s c.toNat l rest v) := by
  show execLoadReturn c s = _
  unfold execLoadReturn
  simp only [core, loads, hslot, come, fence, Bool.false_eq_true, if_false]
  obtain value | ⟨value, free, clean, rfl⟩ := data
  · simp only [value, test, Bool.false_eq_true, if_false]
    rfl
  · have held : heldFor s slot l.addr l.size = false := by simp [heldFor, free, test]
    simp only [value, held, readCells_of_no_upsets upsets, clean, Bool.false_eq_true, if_false, Bool.not_true]
    rfl

theorem loadReturned_spec (s : State) (c : Nat) (l : Load) (rest : List Load) (v : BitVec 256) :
    loadReturned s c l rest v = { s with cores := (loadReturned s c l rest v).cores, live := (loadReturned s c l rest v).live } ∧
    coreOf (loadReturned s c l rest v) c = putLoad { coreOf s c with loads := rest } l.dest v := by
  rw [loadReturned, countPort_eq]
  exact ⟨rfl, coreOf_updCore_self ..⟩

theorem putLoad_regs (k : Core) (d : LoadDest) (v : BitVec 256) : putLoad k d v = { k with g := (putLoad k d v).g, d := (putLoad k d v).d } := by
  cases d with
  | g r n signed => rw [putLoad, gSet]; split <;> rfl
  | d r => rfl

theorem putLoad_g (k : Core) (r n : Nat) (signed : Bool) (v : BitVec 256) (x : Nat) :
    dGet (putLoad k (.g r n signed) v) x = dGet k x ∧
      gGet (putLoad k (.g r n signed) v) x = if x = r ∧ r ≠ 0 then extendLoad n signed (v.toNat % 2 ^ (8 * n)) else gGet k x := by
  refine ⟨?_, gGet_gSet ..⟩
  rw [putLoad, gSet]
  split <;> rfl

theorem putLoad_d (k : Core) (r : Nat) (v : BitVec 256) (x : Nat) :
    gGet (putLoad k (.d r) v) x = gGet k x ∧ dGet (putLoad k (.d r) v) x = if x = r then v else dGet k x := by
  refine ⟨rfl, ?_⟩
  simp [putLoad, dSet, dGet, Map.get_set, eq_comm]

/-- Settles O12: a load issues with the bytes that its core sees (`getElem?_loadBytes`), and one that returns writes its register. -/
theorem loadsFromMemory : Obligations.LoadsFromMemory := by
  refine ⟨?_, ?_⟩
  · intro s c slot w issues yes loc k loads
    have all : ∀ {i : Instr} {op n : Nat} {d : BitVec 32 → LoadDest}, op ≠ 0x1A → ccOp w = op → ccSize w = n →
        exec i s = .next (ctl s c.toNat op fun s c slot w _ => ccLoad s c slot w (d w)) → loads i n (d w) := by
      intro i op n d noAmo hop size run
      dsimp only [loads]
      intro aligned low plane cset fence clean
      have addr : ccAddr (coreOf s c.toNat) w = gGet k (ccGa w) + BitVec.ofInt 64 (toSigned 8 (fld w 0 8) * (n : Int)) := by
        rw [ccAddr, if_neg (hop ▸ noAmo), size]
      obtain ⟨frame, core, others⟩ := loadIssued_spec s c.toNat slot
        (gGet k (ccGa w) + BitVec.ofInt 64 (toSigned 8 (fld w 0 8) * (n : Int))).toNat n (d w)
      exact ⟨_, loadBytes s k slot _ n, load_issues issues yes loc hop size addr run aligned low plane cset fence clean,
        sameMemory_of_plane (by rw [frame]), others, length_loadBytes .., fun x hx => getElem?_loadBytes hx, frame, core⟩
    refine ⟨fun hop => ?_, fun hop => ?_⟩
    · have size : ccSize w = 2 ^ fld w 9 2 := by simp [ccSize, hop]
      rw [← size]
      exact all (d := fun w => .g (ccGd w) (ccSize w) (bit w 11)) (by decide) hop rfl rfl
    · exact all (d := fun w => .d (ccGd w)) (by decide) hop (by simp [ccSize, hop]) rfl
  · intro s c slot l rest v k hslot loads test fence upsets data come
    obtain ⟨frame, core⟩ := loadReturned_spec s c.toNat l rest v
    refine ⟨_, loadReturn_writes rfl hslot loads test fence upsets data come, sameMemory_of_plane (by rw [frame]), frame, ?_, ?_⟩
    · rw [core, putLoad_regs]
    · rw [core]
      cases l.dest with
      | g r n signed => exact ⟨fun x => (putLoad_g _ r n signed v x).1, fun x => (putLoad_g _ r n signed v x).2⟩
      | d r => exact ⟨fun x => (putLoad_d _ r v x).1, fun x => (putLoad_d _ r v x).2⟩

end Sys2Proof.Machine
end

section
namespace Sys2Proof.Machine
set_option Elab.async false
variable {s t : State} {c : CoreId} {slot : Nat} {w : BitVec 32}

/-! ### ST and DST to the plane (R91, R92, R135, R136, R139) -/

/-- The core once its store has issued. -/
def storeCore (s : State) (slot a n : Nat) (k : Core) : Core :=
  storeOver { issued k with pc := k.pc + 4, stq := k.stq ++ [a] } (seenByte s slot) 1 a n

/-- The state before the bytes of a store are staged. -/
def storeAccess (s : State) (c slot a n : Nat) : State :=
  countPort (setCore (updCore s c issued) c (storeCore s slot a n (coreOf s c))) c 64 true

theorem storeAccess_eq (s : State) (c slot a n : Nat) : storeAccess s c slot a n =
    { s with cores := (storeAccess s c slot a n).cores, live := (storeAccess s c slot a n).live, mem := s.mem } := by
  rw [storeAccess, countPort_eq]
  rfl

theorem coreOf_storeAccess (s : State) (c slot a n o : Nat) :
    coreOf (storeAccess s c slot a n) o = if c = o then storeCore s slot a n (coreOf s c) else coreOf s o := by
  rw [storeAccess, countPort_eq]
  by_cases ho : c = o
  · subst ho
    rw [if_pos rfl]
    exact coreOf_setCore_self ..
  · rw [if_neg ho]
    exact (coreOf_setCore_ne _ _ ho).trans (coreOf_updCore_ne _ _ ho)

theorem ccGuard_write {s : State} {c slot a n : Nat} {go : State → State} (upsets : s.flt.upsets = []) (fence : fencedIn s a n = none) :
    ccGuard s c slot a n false go = go s := by
  unfold ccGuard
  simp only [fence, readCells_of_no_upsets upsets, Bool.false_and, Bool.not_true, Bool.not_false, Bool.false_eq_true, if_false, if_true]

theorem ccStore_of_plane {v : Word} {bs : List Byte} (upsets : s.flt.upsets = []) (loc : bit w 8 = false)
    (addr : ccAddr (coreOf s c.toNat) w = v) (aligned : v.toNat % bs.length = 0) (low : v.toNat < 2 ^ 48)
    (plane : inPlane s v.toNat bs.length = true) (cset : csetOk s slot v.toNat = true) (range : inWrite s slot v.toNat bs.length = true)
    (fence : fencedIn s v.toNat bs.length = none) :
    ccStore (updCore s c.toNat issued) c.toNat slot w bs =
      stageBytes (storeAccess s c.toNat slot v.toNat bs.length) slot v.toNat bs none (some c.toNat) := by
  have cause : addrCause (updCore s c.toNat issued) slot v bs.length (ccLoc w) = none := by
    rw [ccLoc, loc]
    exact addrCause_eq_none (s := updCore s c.toNat issued) aligned low plane cset
  have guard : ∀ go, ccGuard (updCore s c.toNat issued) c.toNat slot v.toNat bs.length false go = go (updCore s c.toNat issued) := fun go =>
    ccGuard_write (s := updCore s c.toNat issued) upsets fence
  have range' : inWrite (updCore s c.toNat issued) slot v.toNat bs.length = true := range
  unfold ccStore
  simp only [coreOf_updCore_self, ccAddr_issued, addr, cause, range', guard]
  rw [ccLoc, loc, if_neg Bool.false_ne_true, Bool.not_true, if_neg Bool.false_ne_true]
  rw [updCore, coreOf_updCore_self]
  simp only [advance, issued_pc]
  rw [storeAccess, storeCore, show (issued (coreOf s c.toNat)).stq = (coreOf s c.toNat).stq by rw [issued_eq]]
  rfl

theorem store_stages {i : Instr} {v : Word} {bs : List Byte} {n : Nat} {m : Cmd} (issues : issuable s c.toNat slot w = true)
    (loc : bit w 8 = false) (len : bs.length = n) (addr : ccAddr (coreOf s c.toNat) w = v)
    (run : exec i s = .next (afterIssue (ccStore (updCore s c.toNat issued) c.toNat slot w bs) c.toNat)) (aligned : v.toNat % n = 0) (low : v.toNat < 2 ^ 48)
    (plane : inPlane s v.toNat n = true) (cset : csetOk s slot v.toNat = true) (range : inWrite s slot v.toNat n = true)
    (fence : fencedIn s v.toNat n = none) (fits : stageOver (stagePut s slot v.toNat bs) slot = none) (slots : Map.sorted s.disp.slots)
    (hm : cmdOf s slot = some m) :
    ∃ t, Answers i s t ∧ SameMemory s t ∧ (∀ o, coreOf t o = if c.toNat = o then storeCore s slot v.toNat n (coreOf s c.toNat) else coreOf s o) ∧
      ∀ x, seenByte t slot x = if h : v.toNat ≤ x ∧ x < v.toNat + n then bs[x - v.toNat]'(by omega) else seenByte s slot x := by
  subst len
  obtain ⟨u, hu⟩ : ∃ u, u = storeAccess s c.toNat slot v.toNat bs.length := ⟨_, rfl⟩
  have frame := storeAccess_eq s c.toNat slot v.toNat bs.length
  have cores := coreOf_storeAccess s c.toNat slot v.toNat bs.length
  rw [← hu] at frame cores
  have fits' : stageOver (stagePut u slot v.toNat bs) slot = none := by rw [frame, stageOver_stagePut_congr, fits]
  rw [ccStore_of_plane (issuable_upsets issues) loc addr aligned low plane cset range fence, ← hu, stageBytes_of_stageOver fits'] at run
  have coreT : ∀ o, coreOf (stagePut u slot v.toNat bs) o = if c.toNat = o then storeCore s slot v.toNat bs.length (coreOf s c.toNat) else coreOf s o :=
    fun o => (coreOf_congr (by simp) o).trans (cores o)
  have idle : (coreOf (stagePut u slot v.toNat bs) c.toNat).dbg.stepping = false := by
    rw [coreT, if_pos rfl, storeCore, issued_eq]
    exact issuable_not_stepping issues
  rw [afterIssue_of_not_stepping idle] at run
  have bytes : seenByte u slot = seenByte s slot := seenByte_congr (by rw [frame]) (by rw [frame]) slot
  refine ⟨_, run, sameMemory_of_plane (by simp [hu, storeAccess]), coreT, fun x => ?_⟩
  rw [seenByte_stagePut (by rw [frame]; exact slots) (c := m) (by rw [frame]; exact hm), bytes]

theorem execSt_eq (issues : issuable s c.toNat slot w = true) (yes : ccTrue (coreOf s c.toNat) w = true) (hop : ccOp w = 0x19) :
    exec (.st c) s = .next (afterIssue (ccStore (updCore s c.toNat issued) c.toNat slot w
      (natLE (ccSize w) (gGet (coreOf s c.toNat) (ccGd w)).toNat)) c.toNat) := by
  show Host.Outcome.next (ctl s c.toNat 0x19 _) = _
  rw [← hop, ctl_of_issuable issues yes, coreOf_updCore_self, gGet_issued]

theorem execDst_eq (issues : issuable s c.toNat slot w = true) (yes : ccTrue (coreOf s c.toNat) w = true) (hop : ccOp w = 0x21) :
    exec (.dst c) s = .next (afterIssue (ccStore (updCore s c.toNat issued) c.toNat slot w
      (natLE 32 (dGet (coreOf s c.toNat) (ccGd w)).toNat)) c.toNat) := by
  have reg : dGet (issued (coreOf s c.toNat)) (ccGd w) = dGet (coreOf s c.toNat) (ccGd w) := by rw [issued_eq]; rfl
  show Host.Outcome.next (ctl s c.toNat 0x21 _) = _
  rw [← hop, ctl_of_issuable issues yes, coreOf_updCore_self, reg]

/-! ### The exceptions of a store (R135, R136, R148) -/

theorem cores_failWith (s : State) (k : Nat) (r : ErrRec) : (failWith s k r).cores = s.cores := by
  have fails : ∀ t : State, (failCmd t k).cores = t.cores := by
    intro t
    unfold failCmd
    repeat' split
    all_goals simp
  rw [failWith, fails]
  simp

theorem dbg_ccExc (s : State) (c slot cause obj : Nat) : (coreOf (ccExc s c slot cause obj) c).dbg = (coreOf s c).dbg := by
  unfold ccExc
  split
  · rfl
  · split
    · rfl
    · rw [breakUnit, coreOf_updCore_self, coreOf_congr (cores_failWith ..)]

/-- An instruction that raises an exception does nothing after it. -/
theorem afterIssue_ccExc (issues : issuable s c.toNat slot w = true) (cause obj : Nat) :
    afterIssue (ccExc (updCore s c.toNat issued) c.toNat slot cause obj) c.toNat = ccExc (updCore s c.toNat issued) c.toNat slot cause obj := by
  refine afterIssue_of_not_stepping ?_
  rw [dbg_ccExc, coreOf_updCore_self, issued_eq]
  exact issuable_not_stepping issues

theorem ccStore_raises {v : Word} {bs : List Byte} {cause : Nat} (addr : ccAddr (coreOf s c.toNat) w = v)
    (bad : addrCause s slot v bs.length (ccLoc w) = some cause) :
    ccStore (updCore s c.toNat issued) c.toNat slot w bs = ccExc (updCore s c.toNat issued) c.toNat slot cause v.toNat := by
  have bad' : addrCause (updCore s c.toNat issued) slot v bs.length (ccLoc w) = some cause := bad
  unfold ccStore
  simp only [coreOf_updCore_self, ccAddr_issued, addr, bad']

theorem ccStore_outside {v : Word} {bs : List Byte} (loc : bit w 8 = false) (addr : ccAddr (coreOf s c.toNat) w = v)
    (good : addrCause s slot v bs.length false = none) (range : inWrite s slot v.toNat bs.length = false) :
    ccStore (updCore s c.toNat issued) c.toNat slot w bs = ccExc (updCore s c.toNat issued) c.toNat slot 0x05 v.toNat := by
  have good' : addrCause (updCore s c.toNat issued) slot v bs.length false = none := good
  have range' : inWrite (updCore s c.toNat issued) slot v.toNat bs.length = false := range
  unfold ccStore
  rw [ccLoc, loc]
  simp only [coreOf_updCore_self, ccAddr_issued, addr, good', range', Bool.false_eq_true, if_false, Bool.not_false, if_true]

theorem addrCause_misaligned {v : Word} {n : Nat} (h : v.toNat % n ≠ 0) (loc : Bool) : addrCause s slot v n loc = some 0x03 := if_pos h

theorem addrCause_outside {v : Word} {n : Nat} (aligned : v.toNat % n = 0)
    (h : 2 ^ 48 ≤ v.toNat ∨ inPlane s v.toNat n = false ∨ csetOk s slot v.toNat = false) : addrCause s slot v n false = some 0x02 := by
  have out : 2 ^ 48 ≤ v.toNat ∨ (!inPlane s v.toNat n) = true ∨ (!csetOk s slot v.toNat) = true := by simpa using h
  unfold addrCause
  rw [if_neg (not_not_intro aligned), if_neg Bool.false_ne_true, if_pos out]

/-- Settles O13: a store that passes its checks stages its bytes, which alone its command sees (`seenByte_stagePut`); each check that fails gives its cause. -/
theorem storesToMemory : Obligations.StoresToMemory := by
  refine ⟨?_, ?_⟩
  · intro s c slot w inv issues yes loc k stores
    obtain ⟨m, hm⟩ := issuable_cmd issues
    have all : ∀ {i : Instr} {n v : Nat}, ccOp w ≠ 0x1A → ccSize w = n →
        exec i s = .next (afterIssue (ccStore (updCore s c.toNat issued) c.toNat slot w (natLE n v)) c.toNat) → stores i n v := by
      intro i n v noAmo size run
      dsimp only [stores]
      intro aligned low plane cset range fence fits
      have addr : ccAddr (coreOf s c.toNat) w = gGet k (ccGa w) + BitVec.ofInt 64 (toSigned 8 (fld w 0 8) * (n : Int)) := by
        rw [ccAddr, if_neg noAmo, size]
      obtain ⟨t, answers, same, cores, bytes⟩ := store_stages issues loc (length_natLE n v) addr run aligned low plane cset range fence fits inv.2.1 hm
      refine ⟨t, answers, same, fun o ho => by rw [cores, if_neg ho.symm], by rw [cores, if_pos rfl]; rfl, fun x => ?_⟩
      rw [bytes]
      simp only [getElem_natLE, dite_eq_ite]
    refine ⟨fun hop => ?_, fun hop => ?_⟩
    · have size : ccSize w = 2 ^ fld w 9 2 := by simp [ccSize, hop]
      exact all (by simp [hop]) size (size ▸ execSt_eq issues yes hop)
    · exact all (by simp [hop]) (by simp [ccSize, hop]) (execDst_eq issues yes hop)
  · intro s c slot w issues yes hop loc k n a s'
    have size : ccSize w = n := by simp [ccSize, hop, n]
    have addr : ccAddr (coreOf s c.toNat) w = gGet k (ccGa w) + BitVec.ofInt 64 (toSigned 8 (fld w 0 8) * (n : Int)) := by
      rw [ccAddr, if_neg (by simp [hop]), size]
    have run := execSt_eq issues yes hop
    rw [size] at run
    obtain ⟨bs, hbs⟩ : ∃ bs, bs = natLE n (gGet (coreOf s c.toNat) (ccGd w)).toNat := ⟨_, rfl⟩
    have len : bs.length = n := by rw [hbs, length_natLE]
    rw [← hbs] at run
    refine ⟨fun misaligned => ?_, fun aligned out => ?_, fun aligned low plane cset range => ?_⟩
    · rw [ccStore_raises addr (addrCause_misaligned (by rwa [len]) _), afterIssue_ccExc issues] at run
      exact run
    · rw [ccStore_raises addr (by rw [len, ccLoc, loc]; exact addrCause_outside aligned out), afterIssue_ccExc issues] at run
      exact run
    · rw [ccStore_outside loc addr (by rw [len]; exact addrCause_eq_none aligned low plane cset) (by rwa [len]), afterIssue_ccExc issues] at run
      exact run

end Sys2Proof.Machine
end

/-!
The state that refutes O27. A command ends while a read request of its own is still kept for resending: `egressOut` asks for its writes alone, so the
record may go. The slot that it frees is forgotten by every request that names it (`forget`), so the queue pair does not keep the read as it was.
-/
section
namespace Sys2Proof.Machine
set_option Elab.async false

/-- A read request of the command in slot 0, which has not been answered. -/
def openRead : Packet := { psn := 0, msg := 0, read := true, slot := some 0, rkey := 0, va := 0, data := [], len := 64 }

/-- A command that has ended, with its records in the host's ring by queue pair 0. -/
def endedCmd : Cmd := { newCmd 0 0 0 0 0 1 0 0 with phase := .closing, status := some .aborted, decided := true, endNo := some 0 }

/-- Queue pair 0 is READY and keeps the read. -/
def readOpen : State :=
  { cfgSet State.reset (mQp 0 0) 62 2 1 with
    disp := { Dispatch.reset with slots := [(0, endedCmd)], ends := 1 }
    eth := { Ether.reset with qps := [(0, { Qp.reset with kept := [openRead] })] } }

/-- The requests that a queue pair keeps in the state that an instruction leaves. -/
def keptAfter (i : Instr) (s : State) (n : Nat) : Option (List Packet) :=
  match exec i s with
  | .next t => some (qpOf t n).kept
  | _ => none

theorem keptAfter_of_answers {i : Instr} {s t : State} (h : Answers i s t) (n : Nat) : keptAfter i s n = some (qpOf t n).kept := by
  unfold keptAfter
  rw [show exec i s = .next t from h]

/-- Once the record has gone, the read belongs to no command. -/
theorem kept_readOpen : (keptAfter (.completionRecord 0) readOpen 0).map (·.head?) = some (some { openRead with slot := none }) := by decide +kernel

/-- Refutes O27: the statement says that the queue pair keeps what it kept, and the record's packet; a read of the command itself, still kept, loses its
slot when the slot is freed (`readOpen`). -/
theorem not_completionRecord : ¬ Obligations.CompletionRecord := by
  intro h
  obtain ⟨-, ring⟩ := h readOpen 0 endedCmd (by decide +kernel) rfl (by decide +kernel) (by decide +kernel) (by decide +kernel) (by decide +kernel)
  obtain ⟨t, p, ⟨run, -⟩, -, -, -, -, -, -, kept⟩ := ring (by decide +kernel) (by decide +kernel) (by decide +kernel) (by decide +kernel)
  have pair : fld endedCmd.qcomp 22 10 = 0 := by decide +kernel
  have before : (qpOf readOpen 0).kept = [openRead] := by decide +kernel
  rw [pair, before] at kept
  have left : (keptAfter (.completionRecord 0) readOpen 0).map (·.head?) = some (some { openRead with slot := none }) := kept_readOpen
  rw [(keptAfter_of_answers run 0 : keptAfter (.completionRecord 0) readOpen 0 = _), kept] at left
  exact absurd left (by simp [openRead])

end Sys2Proof.Machine
end

/-!
The state that refutes O47. Two COPY commands read the same line. The line is not in the Sheaf cache, and the first command's request for it is under
way. The second's access finds a request of a command unit for the line (`sheafAccess` compares line and asker, and the asker of every COPY is `.cmd`) and makes
none of its own. As no request bears its slot, nothing holds the second command back: its work has ended before the line comes.
-/
section
namespace Sys2Proof.Machine
set_option Elab.async false

/-- A running COPY of the line at 0x1000 to `dst`, with a reservation in every slice. -/
def copyTo (dst lead : Nat) : Cmd :=
  { newCmd (ofFields 512 [(0, 2), (256, 0x1000), (320, dst), (384, 64)]) 0 lead lead lead 1 0 0 with
    phase := .running, csets := BitVec.ofNat 48 (2 ^ 48 - 1), ways := 0xFF, stage := List.replicate 8 1 }

/-- The first COPY, in slot 0, waits for the line; the second, in slot 1, has not begun. -/
def sharedLine : State :=
  { State.reset with
    disp := { Dispatch.reset with slots := [(0, { copyTo 0x2000 0 with work := true }), (1, copyTo 0x3000 1)] }
    mem := { State.reset.mem with fills := [⟨0x1000, 0, false, some 0, .cmd, false⟩] } }

theorem inv_sharedLine : Inv sharedLine := by
  refine ⟨wf_reset, by decide +kernel, by decide +kernel, List.forall_mem_nil _⟩

/-- Whether the work of the command in slot `k` has ended in the state that an instruction leaves. -/
def finAfter (i : Instr) (s : State) (k : Nat) : Option (Option Bool) :=
  match exec i s with
  | .next t => some ((cmdOf t k).map (·.fin))
  | _ => none

theorem finAfter_of_answers {i : Instr} {s t : State} (h : Answers i s t) (k : Nat) : finAfter i s k = some ((cmdOf t k).map (·.fin)) := by
  unfold finAfter
  rw [show exec i s = .next t from h]

/-- The second COPY is done at once. -/
theorem finAfter_sharedLine : finAfter (.copy 1) sharedLine 1 = some (some true) := by decide +kernel

/-- Refutes O47: a COPY whose line has not come is said to wait for it, with a request in its own slot; the second of two COPYs that read one line
makes no request and is done at once (`sharedLine`). -/
theorem not_copiesAndPrefetch : ¬ Obligations.CopiesAndPrefetch := by
  intro h
  obtain ⟨copies, -⟩ := h sharedLine inv_sharedLine
  obtain ⟨-, near, -⟩ := copies 1 (copyTo 0x3000 1) (by decide +kernel) (by decide +kernel) rfl rfl (by decide +kernel) (by decide +kernel)
  obtain ⟨within, -⟩ := near (by decide +kernel) (fun host => absurd host (by decide +kernel)) rfl (by decide +kernel)
    ⟨by decide +kernel, by decide +kernel⟩ (by decide +kernel) (by decide +kernel)
  obtain ⟨t, run, -, now, -⟩ := within (by decide +kernel) ⟨by decide +kernel, by decide +kernel⟩ (by decide +kernel)
    ⟨by decide +kernel, by decide +kernel, by decide +kernel⟩
  have absent : ((neededLines sharedLine 1 (planePart (copyTo 0x3000 1).src) (copyTo 0x3000 1).bytes).filter fun l =>
      decide (l < hbmSize) && (cachedLine sharedLine l).isNone) ≠ [] := by decide +kernel
  have waits : (cmdOf t 1).map (·.fin) = some false := (congrArg (Option.map (·.fin)) (now.trans (if_neg absent))).trans (by decide +kernel)
  have left : some ((cmdOf t 1).map (·.fin)) = some (some true) := (finAfter_of_answers run 1).symm.trans finAfter_sharedLine
  exact absurd (waits.symm.trans (Option.some.inj left)) (by decide)

end Sys2Proof.Machine
end

/-!
The state that refutes O55. Nothing in the statement says that a queue pair is listed once. Where it is listed twice, `bufferUsed` counts the message held in
the second entry, which no instruction finds; the first change of the queue pair (`updQp`) drops that entry, so that the receive buffer takes more than the
statement counts. (`Inv` says that the slots of the dispatcher are listed once; of the queue pairs it says nothing, and the statement does not ask for it.)
-/
section
namespace Sys2Proof.Machine
set_option Elab.async false
variable {s : State} {n : Nat}

/-! ### A message that the buffer takes whole, while the sequencer is busy -/

/-- The message is whole, and it waits or is dropped: no part of it is left in the buffer. -/
theorem part_takeWrite {m : PartMsg} {data : List Byte} (fits : bufferTakes s n data.length = data.length) (busy : sequencerFree s = false) :
    (qpOf (takeWrite s n m data) n).part = none := by
  have written : ∀ t : State, (qpOf t n).part = none → sequencerFree t = false → (qpOf (hostWrite t n m.psn m.va (m.data ++ data)) n).part = none := by
    intro t none busy
    unfold hostWrite
    split
    · exact none
    · rw [busy, Bool.not_false, Bool.or_true, Bool.true_or, if_pos rfl]
      exact none
  have pause : ∀ used, (askPause s n used).dbg = s.dbg ∧ (askPause s n used).disp = s.disp := by
    intro used
    unfold askPause
    split <;> exact ⟨rfl, rfl⟩
  unfold takeWrite
  simp only [fits, if_true]
  refine written _ ?_ ?_
  · exact (congrArg Qp.part (qpOf_updQp_self (askPause s n (bufferUsed s (qpPort s n) + data.length)) n fun q => { q with part := none }))
  · refine Eq.trans ?_ busy
    obtain ⟨dbg, disp⟩ := pause (bufferUsed s (qpPort s n) + data.length)
    exact congrArg₂ (fun (d : Debug) (p : Dispatch) => decide (p.current = none) && decide (d.snap = .idle)) dbg disp

theorem hearFrame_eq (e : Nat) (s : State) (len : Bool → Nat) : hearFrame e s len = { s with live := (hearFrame e s len).live } := by
  unfold hearFrame liveAdd liveSet
  rfl

/-- Frames that arrive change what is counted, and nothing else. -/
theorem hearQp_eq (s : State) (n : Nat) (lens : List Nat) : hearQp s n lens = { s with live := (hearQp s n lens).live } := by
  have fold : ∀ (f : State → Nat → State), (∀ s l, f s l = { s with live := (f s l).live }) → ∀ (lens : List Nat) (s : State),
      lens.foldl f s = { s with live := (lens.foldl f s).live } := by
    intro f hf lens
    induction lens with
    | nil => exact fun _ => rfl
    | cons l lens ih =>
      intro s
      rw [List.foldl_cons, ih (f s l), hf s l]
  exact fold _ (fun s _ => hearFrame_eq _ s _) lens s

/-- The state once the frames of the next message are counted. -/
def heardWrite (s : State) (n len : Nat) : State :=
  updQp (hearQp s n (messageLens (qpMtu s n) 16 0 len)) n fun q => { q with seqNak := false }

theorem heardWrite_eq (s : State) (n len : Nat) : heardWrite s n len =
    { s with live := (heardWrite s n len).live, eth := { s.eth with qps := Map.put s.eth.qps n { qpOf s n with seqNak := false } } } := by
  rw [heardWrite, hearQp_eq]
  rfl

theorem rdmaWrite_takes {qp : QpId} {psn : BitVec 24} {rkey : BitVec 32} {va : BitVec 48} {data : List Byte}
    (takes : qpTakes s qp.toNat = true) (expected : psn = qpExpected s qp.toNat) (whole : (qpOf s qp.toNat).part = none) (small : data.length ≤ 1048576)
    (fits : bufferTakes (heardWrite s qp.toNat data.length) qp.toNat data.length = data.length) (key : pkeyOk s qp.toNat rkey va.toNat data.length true = true) :
    exec (.rdmaWrite ⟨qp, false⟩ psn rkey va data) s =
      .next (takeWrite (heardWrite s qp.toNat data.length) qp.toNat { psn := psn, va := va.toNat, len := data.length, data := [] } data) := by
  obtain ⟨u, hu⟩ : ∃ u, u = heardWrite s qp.toNat data.length := ⟨_, rfl⟩
  obtain ⟨h, hh⟩ : ∃ h, h = hearQp s qp.toNat (messageLens (qpMtu s qp.toNat) 16 0 data.length) := ⟨_, rfl⟩
  have heard : h = { s with live := h.live } := by rw [hh]; exact hearQp_eq ..
  have upd : updQp h qp.toNat (fun q => { q with seqNak := false }) = u := by rw [hu, heardWrite, hh]
  have takes' : qpTakes h qp.toNat = true := by rw [heard]; exact takes
  have expected' : psn = qpExpected h qp.toNat := by rw [heard]; exact expected
  have part : (qpOf u qp.toNat).part = none := by
    rw [← upd, heard]
    exact (congrArg Qp.part (qpOf_updQp_self ..)).trans whole
  have key' : pkeyOk u qp.toNat rkey va.toNat data.length true = true := by rw [← upd, heard]; exact key
  rw [← hu] at fits ⊢
  show execRdmaWrite _ _ _ _ _ s = _
  unfold execRdmaWrite
  simp only [whole, Option.isSome_none, Bool.false_eq_true, if_false, ← hh, takes', Bool.not_true, inOrder, cnpSend, Bool.not_false, if_true, ← expected',
    upd, part, if_neg (Nat.not_lt.mpr small), fits, key', ne_eq, not_and_self]

/-! ### The state that refutes O55 -/

/-- A message is written by queue pair 0, listed twice, while the sequencer is busy; `stray` is what the second entry holds. -/
def listedTwice (stray : List Byte) : State :=
  { cfgSet (cfgSet (cfgSet State.reset (mQp 0 0) 62 2 1) (mPkey 0 0) 60 4 0xB) (mPkey 0 2) 0 48 0x100000 with
    eth := { Ether.reset with qps := [(0, Qp.reset), (0, { Qp.reset with part := some ⟨0, 0, stray.length, stray⟩ })] }
    mod := { Module.reset with stage := 8 }
    dbg := { State.reset.dbg with snap := .latched } }

section
variable (stray : List Byte)

theorem qps_listedTwice : (listedTwice stray).eth.qps = [(0, Qp.reset), (0, { Qp.reset with part := some ⟨0, 0, stray.length, stray⟩ })] := rfl

theorem waiting_listedTwice : (listedTwice stray).disp.waiting = [] := rfl

theorem qpOf_listedTwice : qpOf (listedTwice stray) 0 = Qp.reset := by
  rw [qpOf, qps_listedTwice]
  rfl

/-- The registers, which do not depend on what the second entry holds. -/
theorem regs_listedTwice : qpTakes (listedTwice stray) 0 = true ∧ pkeyOk (listedTwice stray) 0 0 0 1048576 true = true ∧
    portSends (listedTwice stray) 0 = true ∧ qpMtu (listedTwice stray) 0 = 1024 ∧ qpPort (listedTwice stray) 0 = 0 ∧ qpExpected (listedTwice stray) 0 = 0 := by
  have same : qpTakes (listedTwice stray) 0 = qpTakes (listedTwice []) 0 ∧
      pkeyOk (listedTwice stray) 0 0 0 1048576 true = pkeyOk (listedTwice []) 0 0 0 1048576 true ∧
      portSends (listedTwice stray) 0 = portSends (listedTwice []) 0 ∧ qpMtu (listedTwice stray) 0 = qpMtu (listedTwice []) 0 ∧
      qpPort (listedTwice stray) 0 = qpPort (listedTwice []) 0 ∧ qpExpected (listedTwice stray) 0 = qpExpected (listedTwice []) 0 := 
    ⟨rfl, rfl, rfl, rfl, rfl, rfl⟩
  obtain ⟨takes, key, sends, mtu, port, expected⟩ := same
  rw [takes, key, sends, mtu, port, expected]
  decide +kernel

theorem bufferUsed_of_qps {s : State} (port : qpPort s 0 = 0) (waiting : s.disp.waiting = [])
    {qs : List (Nat × Qp)} (h : s.eth.qps = qs) (zero : ∀ q ∈ qs, q.1 = 0) :
    bufferUsed s 0 = (qs.map fun q => (q.2.part.map (·.data.length)).getD 0).sum := by
  rw [bufferUsed, waiting, h, List.map_nil, List.sum_nil, Nat.add_zero]
  refine congrArg List.sum (List.map_congr_left fun q hq => ?_)
  rw [zero q hq, if_pos port]

theorem bufferUsed_listedTwice : bufferUsed (listedTwice stray) 0 = stray.length := by
  obtain ⟨-, -, -, -, port, -⟩ := regs_listedTwice stray
  rw [bufferUsed_of_qps port rfl (qps_listedTwice stray) (by simp)]
  simp [Qp.reset]

/-- Once the first frame is counted, the second entry is gone. -/
theorem bufferUsed_heard (len : Nat) : bufferUsed (heardWrite (listedTwice stray) 0 len) 0 = 0 := by
  have dropped : Map.put (listedTwice stray).eth.qps 0 { qpOf (listedTwice stray) 0 with seqNak := false } = [(0, Qp.reset)] := by
    rw [qps_listedTwice, qpOf_listedTwice]
    rfl
  obtain ⟨-, -, -, -, port, -⟩ := regs_listedTwice stray
  have port' : qpPort (heardWrite (listedTwice stray) 0 len) 0 = 0 := by rw [heardWrite_eq]; exact port
  rw [bufferUsed_of_qps port' (by rw [heardWrite_eq]; rfl) (qs := [(0, Qp.reset)]) (by rw [heardWrite_eq]; exact dropped) (by simp)]
  rfl

end

/-- Refutes O55: of a message of 1 MiB the port is said to take the packets for which 1,100,000 bytes leave room, and to keep them; it takes the message
whole, which waits for the sequencer (`listedTwice`). -/
theorem not_hostAccess : ¬ Obligations.HostAccess := by
  intro h
  obtain ⟨stray, hs⟩ : ∃ l : List Byte, l.length = 1100000 := ⟨List.replicate 1100000 0, List.length_replicate⟩
  obtain ⟨data, hd⟩ : ∃ l : List Byte, l.length = 1048576 := ⟨List.replicate 1048576 0, List.length_replicate⟩
  have zero : (0 : QpId).toNat = 0 := rfl
  obtain ⟨takes, key, sends, mtu, port, -⟩ := regs_listedTwice stray
  have used := bufferUsed_listedTwice stray
  rw [hs] at used
  rw [← zero] at takes key port mtu
  have whole : (qpOf (listedTwice stray) (0 : QpId).toNat).part = none := congrArg Qp.part (qpOf_listedTwice stray)
  -- what the statement says: the buffer keeps 996,352 bytes of the message
  have room : (2097152 - bufferUsed (listedTwice stray) (qpPort (listedTwice stray) (0 : QpId).toNat)) / qpMtu (listedTwice stray) (0 : QpId).toNat *
      qpMtu (listedTwice stray) (0 : QpId).toNat = 996352 := by
    rw [port, mtu, zero, used]
  obtain ⟨-, -, -, -, -, pairs⟩ := h (listedTwice stray)
  obtain ⟨-, -, -, buffer, -⟩ := pairs 0 takes (by rw [port]; exact sends)
  obtain ⟨t, run, -, -, -, part, -⟩ := buffer 0 0 data whole (by rw [hd]) (by rw [port, zero, used, hd]; decide) (by rw [room]; decide) (by rw [hd]; exact key)
    (by rw [room, hd, packetsOf, mtu]; decide)
  -- what the model does: it takes the whole message
  obtain ⟨u, hu⟩ : ∃ u, u = heardWrite (listedTwice stray) (0 : QpId).toNat data.length := ⟨_, rfl⟩
  have fits : bufferTakes u (0 : QpId).toNat data.length = data.length := by
    have port' : qpPort u (0 : QpId).toNat = 0 := by rw [hu, heardWrite_eq]; exact port
    have free : bufferUsed u 0 = 0 := by rw [hu]; exact bufferUsed_heard stray data.length
    rw [bufferTakes, port', free, if_pos (by rw [hd]; decide)]
  have busy : sequencerFree u = false := by rw [hu, heardWrite_eq]; rfl
  have takesAll := rdmaWrite_takes (qp := 0) (rkey := 0) (va := 0) (data := data) takes rfl whole (by rw [hd]) (by rw [← hu]; exact fits) (by rw [hd]; exact key)
  rw [← hu] at takesAll
  have same : t = takeWrite u (0 : QpId).toNat ⟨qpExpected (listedTwice stray) (0 : QpId).toNat, 0, data.length, []⟩ data :=
    Host.Outcome.next.inj ((show exec _ _ = .next t from run).symm.trans takesAll)
  rw [same] at part
  exact absurd ((part_takeWrite fits busy).symm.trans part) (by simp)

end Sys2Proof.Machine
end

section
namespace Sys2Proof.Machine
variable {s : State} {c : CoreId} {e op slot : Nat} {i : Instr} {f : Form} {x : EInstr}

/-! ### An engine takes the instruction at the head of its queue (R172, R173) -/

/-- Every engine instruction is a step of its engine under the instruction's own form. -/
theorem exec_of_engInstr (h : engInstr s c e op = some (i, f)) : exec i s = .next (engineRow s c.toNat e op f) := by
  unfold engInstr at h
  split at h <;> cases h <;> rfl

theorem knownOps_of_engInstr (h : engInstr s c e op = some (i, f)) : op ∈ knownOps e := by
  unfold engInstr at h
  split at h <;> cases h <;> decide

/-- The checks of R176 find a reserved format first: FMT is the first of the fields that check 1 reads (log 30). -/
theorem allChecks_of_reserved_fmt {j : Job} (h : fmtKnown j.i.fmt = false) : allChecks f j = some (badBit 108) := by
  have first : check1 f j.i = some (badBit 108) := by simp [check1, encBit, h]
  simp [allChecks, checksFirst, firstBad, first]

/-- A command that is not decided fails with the record of the check, and the engine stops with its entry freed (R149, R172, R177). -/
theorem failEng_of_open (open' : (cmdOf s slot).map (·.decided) = some false) (core eng : Nat) (r : ErrRec) :
    failEng s slot core eng r = stopHead core eng (failWith s slot r) := by
  simp [failEng, open']

section
variable {core : Nat} (hslot : (coreOf s core).slot = some slot) (head : (queueOfEng (coreOf s core) e).head? = some x)
  (run : runs s slot = true) (sound : e ∉ (coreOf s core).broken) (upsets : s.flt.upsets = [])
include hslot head run sound upsets

theorem engineRow_of_reserved_op (h : x.op ∉ knownOps e) :
    engineRow s core e op f = failEng s slot core e (badRec core e slot x (badBit 120)) := by
  simp [engineRow, hslot, head, readCells_of_no_upsets upsets, run, sound, h]

variable (known : op ∈ knownOps e) (named : x.op = op)
include known named

theorem engineRow_of_woken (h : x.woken = true) : engineRow s core e op f = startJob f ⟨s, slot, core, e, x, operandsOf f x⟩ s := by
  subst named
  simp [engineRow, hslot, head, readCells_of_no_upsets upsets, run, sound, known, h]

theorem engineRow_of_bad (awake : x.asleep = false) (fresh : x.woken = false) (unchecked : x.checked = false) {b : Bad}
    (h : allChecks f ⟨s, slot, core, e, x, operandsOf f x⟩ = some b) :
    engineRow s core e op f = failEng s slot core e (badRec core e slot x b) := by
  subst named
  simp [engineRow, hslot, head, readCells_of_no_upsets upsets, run, sound, known, awake, fresh, unchecked, h]

theorem engineRow_of_passes (awake : x.asleep = false) (fresh : x.woken = false) (h : allChecks f ⟨s, slot, core, e, x, operandsOf f x⟩ = none)
    (free : depends f ⟨s, slot, core, e, x, operandsOf f x⟩ = false) :
    engineRow s core e op f = readAndGo f ⟨s, slot, core, e, x, operandsOf f x⟩ s := by
  subst named
  simp [engineRow, hslot, head, readCells_of_no_upsets upsets, run, sound, known, awake, fresh, h, free]

end

end Sys2Proof.Machine
end

section
namespace Sys2Proof.Machine

/-- Settles O28: the engine's step is evaluated at the head of its queue; a reserved opcode fails before the instruction is looked at
(`engineRow_of_reserved_op`), any other failure is that of the first check (`engineRow_of_bad`), as a reserved format is. -/
theorem engineChecks : Obligations.EngineChecks := by
  intro s c e op slot i f x instr hslot head run open' sound upsets fails j
  have row := exec_of_engInstr instr
  refine ⟨fun reserved => ?_, fun named awake fresh unchecked => ?_⟩
  · rwa [engineRow_of_reserved_op hslot head run sound upsets (by simpa using reserved), failEng_of_open open'] at row
  · have bad : ∀ b, allChecks f j = some b → fails b := by
      intro b hb
      rwa [engineRow_of_bad hslot head run sound upsets (knownOps_of_engInstr instr) named awake fresh unchecked hb,
        failEng_of_open open'] at row
    exact ⟨fun reserved => bad _ (allChecks_of_reserved_fmt reserved), bad⟩

end Sys2Proof.Machine
end

section
namespace Sys2Proof.Machine
variable {s t u : State}

/-! ### Messages leave (R337, R345, R383) -/

/-- Messages and packets have left or wait to leave: memory, cores, commands, counters and transfers are as they were. -/
structure Sends (s t : State) : Prop where
  mem : t.mem = s.mem
  sync : t.sync = s.sync
  cores : t.cores = s.cores
  disp : t.disp = s.disp
  transfers : t.fab.transfers = s.fab.transfers

theorem Sends.refl (s : State) : Sends s s := ⟨rfl, rfl, rfl, rfl, rfl⟩

theorem Sends.trans (h : Sends s t) (h' : Sends t u) : Sends s u :=
  ⟨h'.mem.trans h.mem, h'.sync.trans h.sync, h'.cores.trans h.cores, h'.disp.trans h.disp, h'.transfers.trans h.transfers⟩

theorem sends_updLink (s : State) (l : Nat) (f : Link → Link) : Sends s (updLink s l f) := ⟨rfl, rfl, rfl, rfl, rfl⟩

theorem sends_sendFlit (s : State) (l : Nat) (t : TFlit) : Sends s (sendFlit s l t) := ⟨rfl, rfl, rfl, rfl, rfl⟩

theorem sends_pumpTurns (l : Nat) : ∀ (n : Nat) (s : State), Sends s (pumpTurns l n s)
  | 0, s => .refl s
  | n + 1, s => by
    unfold pumpTurns
    dsimp only
    split
    · exact .refl s
    · split
      · exact (sends_sendFlit ..).trans (sends_pumpTurns l n _)
      · exact (sends_updLink ..).trans (sends_pumpTurns l n _)

theorem sends_queueOn (s : State) (l : Nat) (m : Msg) (sub : Bool) : Sends s (queueOn s l m sub) :=
  Sends.trans (t := updLink { s with fab := { s.fab with mids := s.fab.mids + 1 } } l _) ⟨rfl, rfl, rfl, rfl, rfl⟩ (sends_pumpTurns l 1024 _)

theorem sends_linkRec (s : State) (code reason l obj : Nat) : Sends s (linkRec s code reason l obj) :=
  ⟨by simp, by simp, by simp, disp_logRec_of_no_slot rfl s, by simp⟩

theorem sends_tick (s : State) : Sends s s.tick := ⟨rfl, rfl, rfl, rfl, rfl⟩

theorem sends_dropMsg (s : State) (p : Nat) (m : Msg) : Sends s (dropMsg s p m) := by
  unfold dropMsg
  dsimp only
  split
  · exact (sends_tick s).trans (sends_linkRec ..)
  · exact sends_tick s

theorem sends_outPort (s : State) (p : Nat) (m : Msg) (sub : Bool) : Sends s (outPort s p m sub) := by
  unfold outPort
  split
  · exact sends_queueOn ..
  · exact sends_dropMsg ..

theorem sends_routeMsg (s : State) (m : Msg) (inp : Option Nat) (sub : Bool) : Sends s (routeMsg s m inp sub) := by
  unfold routeMsg
  dsimp only
  split
  · exact .refl s
  · split
    · exact sends_outPort ..
    · split
      · exact ⟨rfl, rfl, rfl, rfl, rfl⟩
      · split <;> exact sends_outPort ..

theorem sends_launchMsg (s : State) (m : Msg) : Sends s (launchMsg s m) := by
  have number : Sends s (numberMsg s m).1 := by
    unfold numberMsg
    dsimp only
    split <;> exact ⟨rfl, rfl, rfl, rfl, rfl⟩
  exact number.trans (sends_routeMsg ..)

theorem sends_sendMsg (s : State) (m : Msg) : Sends s (sendMsg s m) := by
  unfold sendMsg
  split
  · exact sends_launchMsg s m
  · split
    · exact ⟨rfl, rfl, rfl, rfl, rfl⟩
    · split
      · exact Sends.trans (t := vc3Add s m.dst) ⟨rfl, rfl, rfl, rfl, rfl⟩ (sends_launchMsg ..)
      · split
        · exact (sends_tick s).trans (sends_launchMsg ..)
        · exact ⟨rfl, rfl, rfl, rfl, rfl⟩

theorem sends_sendQp (s : State) (n : Nat) (x : Wire → Sent) : Sends s (sendQp s n x) := by
  unfold sendQp sendEth
  split <;> exact ⟨rfl, rfl, rfl, rfl, rfl⟩

theorem sends_sendPacket (s : State) (n used i : Nat) (p : Packet) : Sends s (sendPacket s n used i p) := by
  unfold sendPacket
  dsimp only
  split
  · exact ⟨rfl, rfl, rfl, rfl, rfl⟩
  · refine Sends.trans ?_ (sends_sendQp ..)
    exact ⟨rfl, rfl, rfl, rfl, rfl⟩

/-! ### Transfers are asked for (R351, R389) -/

/-- The transfer has gone on: what it still asks for and what it awaits, taken together, is the same. -/
def Transfer.Continues (y x : Transfer) : Prop := y = { x with left := y.left, todo := y.todo } ∧ y.left ++ y.todo = x.left ++ x.todo

theorem Transfer.Continues.refl (x : Transfer) : x.Continues x := ⟨rfl, rfl⟩

theorem Transfer.Continues.trans {x y z : Transfer} (h : y.Continues x) (h' : z.Continues y) : z.Continues x :=
  ⟨by rw [h'.1, h.1], h'.2.trans h.2⟩

/-- Requests have left for transfers, each of which goes on; memory, cores, commands and counters are as they were. -/
structure Requests (s t : State) : Prop where
  mem : t.mem = s.mem
  sync : t.sync = s.sync
  cores : t.cores = s.cores
  disp : t.disp = s.disp
  goOn : ∀ x ∈ s.fab.transfers, ∃ y ∈ t.fab.transfers, y.Continues x

theorem Requests.trans (h : Requests s t) (h' : Requests t u) : Requests s u where
  mem := h'.mem.trans h.mem
  sync := h'.sync.trans h.sync
  cores := h'.cores.trans h.cores
  disp := h'.disp.trans h.disp
  goOn x hx := by
    obtain ⟨y, hy, hyx⟩ := h.goOn x hx
    obtain ⟨z, hz, hzy⟩ := h'.goOn y hy
    exact ⟨z, hz, hyx.trans hzy⟩

theorem Sends.requests (h : Sends s t) : Requests s t :=
  ⟨h.mem, h.sync, h.cores, h.disp, fun x hx => ⟨x, by rwa [h.transfers], .refl x⟩⟩

/-- Of a list whose first element that passes is changed, the others stay. -/
theorem mem_updFirst {α : Type} {p : α → Bool} {f : α → α} {l : List α} {x : α} (hx : x ∈ l) :
    x ∈ updFirst p f l ∨ (p x = true ∧ f x ∈ updFirst p f l) := by
  induction l with
  | nil => cases hx
  | cons a l ih =>
    unfold updFirst
    rcases List.mem_cons.mp hx with rfl | hx
    · cases hp : p x <;> simp
    · split
      · exact .inl (List.mem_cons_of_mem _ hx)
      · exact (ih hx).imp (List.mem_cons_of_mem _) fun h => ⟨h.1, List.mem_cons_of_mem _ h.2⟩

theorem requests_issueRead (s : State) (x : Transfer) : Requests s (issueRead s x) := by
  unfold issueRead
  split
  · exact (Sends.refl s).requests
  · next r rest todo =>
    obtain ⟨ts, hts⟩ : ∃ ts, ts = updFirst (· = x) (fun x => { x with left := x.left ++ [r], todo := rest }) s.fab.transfers := ⟨_, rfl⟩
    have moved : Requests s { s with fab := { s.fab with transfers := ts } } := by
      refine ⟨rfl, rfl, rfl, rfl, fun y hy => ?_⟩
      rw [hts]
      rcases mem_updFirst hy with stays | ⟨same, moves⟩
      · exact ⟨y, stays, .refl y⟩
      · obtain rfl : y = x := by simpa using same
        exact ⟨_, moves, rfl, by simp [todo]⟩
    dsimp only
    rw [← hts]
    split
    · exact moved.trans (sends_sendPacket ..).requests
    · exact moved.trans (sends_sendMsg ..).requests

theorem requests_pumpReads : ∀ (n : Nat) (s : State), Requests s (pumpReads n s)
  | 0, s => (Sends.refl s).requests
  | n + 1, s => by
    unfold pumpReads
    split
    · exact (Sends.refl s).requests
    · exact (requests_issueRead ..).trans (requests_pumpReads n _)

/-- A transfer begins: it is among the transfers, with all its requests left to send or to be answered. -/
theorem startTransfer_begins (s : State) (who : ReadFor) (k : Nat) (host : Bool) (dest : Nat) (rs : List (Nat × Nat)) (ins : Option EInstr) :
    Requests s (startTransfer s who k host dest rs ins) ∧ ∃ x ∈ (startTransfer s who k host dest rs ins).fab.transfers, x.who = who ∧ x.slot = k ∧
      x.host = host ∧ x.dest = dest ∧ x.buf = [] ∧ x.left ++ x.todo = (runsOf (if host then rs else rs.map wholeLines)).flatMap (cutRun 65536) := by
  obtain ⟨x, hx⟩ : ∃ x : Transfer, x = ⟨who, k, host, dest, [], (runsOf (if host then rs else rs.map wholeLines)).flatMap (cutRun 65536), [], ins⟩ :=
    ⟨_, rfl⟩
  have run : startTransfer s who k host dest rs ins = pumpReads 64 { s with fab := { s.fab with transfers := s.fab.transfers ++ [x] } } := by
    rw [hx]
    rfl
  have added : Requests s { s with fab := { s.fab with transfers := s.fab.transfers ++ [x] } } :=
    ⟨rfl, rfl, rfl, rfl, fun y hy => ⟨y, List.mem_append_left _ hy, .refl y⟩⟩
  have pumped := requests_pumpReads 64 { s with fab := { s.fab with transfers := s.fab.transfers ++ [x] } }
  obtain ⟨y, hy, same, asks⟩ := pumped.goOn x (List.mem_append_right _ (List.mem_singleton_self x))
  rw [run]
  refine ⟨added.trans pumped, y, hy, ?_⟩
  rw [asks, same, hx]
  exact ⟨rfl, rfl, rfl, rfl, rfl, rfl⟩

end Sys2Proof.Machine
end

section
namespace Sys2Proof.Machine
variable {s : State} {c : CoreId} {e op : Nat} {i : Instr} {f : Form} {j : Job}

/-! ### An instruction starts (R61, R173) -/

/-- The job with other counts and samples in its state. -/
def Job.counted (j : Job) (l : Map Word) : Job := { j with s := { j.s with live := l } }

/-- The form does not read the counts and samples. -/
structure Form.IgnoresCounts (f : Form) : Prop where
  late : ∀ j l, f.late (Job.counted j l) = f.late j
  ready : ∀ j l, f.ready (Job.counted j l) = f.ready j
  reads : ∀ j l, f.reads (Job.counted j l) = f.reads j
  writes : ∀ j l, f.writes (Job.counted j l) = f.writes j

/-- The job of an instruction in flight: it has its number. -/
def Job.numbered (j : Job) : Job := { j with i := { j.i with flight := (coreOf j.s j.core).started } }

/-- The instruction as it goes in flight: a signal to another chip rides in its write message (R191). -/
def Form.sent (f : Form) (j : Job) : EInstr := if f.remote j.i j.ops then { j.i with raw := setFld j.i.raw 67 4 0 } else j.i

/-- The entry of an instruction that has just left its queue. -/
def Form.entry (f : Form) (j : Job) : Flying where
  id := (coreOf j.s j.core).started
  addr := (f.sent j).addr
  op := BitVec.ofNat 8 (f.sent j).op
  sctr := (f.sent j).sctr
  sinc := (f.sent j).sinc
  accepted := (f.writes j.numbered).isEmpty
  reads := 0
  grants := 0
  zero := false
  writes := f.puts j.numbered
  old := []
  stored := []
  late := []

/-- The core once its engine `e` has taken an instruction in flight. -/
def Core.takes (k : Core) (e : Nat) (x : Flying) : Core := { k with
  started := k.started + 1, queues := Map.put k.queues e ((queueOfEng k e).drop 1), held := Map.erase k.held e,
  flying := Map.put k.flying e (flyingOf k e ++ [x]) }

/-- What `atHead` says, by name. -/
structure Job.AtHead (j : Job) (op : Nat) (f : Form) : Prop where
  upsets : j.s.flt.upsets = []
  slot : (coreOf j.s j.core).slot = some j.k
  sound : j.eng ∉ (coreOf j.s j.core).broken
  head : (queueOfEng (coreOf j.s j.core) j.eng).head? = some j.i
  runs : runs j.s j.k = true
  named : j.i.op = op
  known : op ∈ knownOps j.eng
  awake : j.i.woken = false → j.i.asleep = false
  ops : j.ops = operandsOf f j.i
  undecided : (cmdOf j.s j.k).map (·.decided) = some false

theorem atHead_iff (h : atHead f op j = true) : j.AtHead op f := by
  simp only [atHead, Bool.and_eq_true, List.isEmpty_iff, decide_eq_true_eq, Bool.not_eq_true', List.contains_eq_mem, decide_eq_false_iff_not,
    Bool.or_eq_true] at h
  obtain ⟨⟨⟨⟨⟨⟨⟨⟨⟨⟨upsets, sound⟩, slot⟩, head⟩, runs⟩, named⟩, known⟩, -⟩, awake⟩, ops⟩, open'⟩ := h
  exact ⟨upsets, slot, sound, head, runs, named, known, fun fresh => awake.resolve_right (by simp [fresh]), ops, open'⟩

/-- What `startsNow` says of the job as it runs, by name. -/
structure Job.Starts (g : Job) (f : Form) : Prop where
  late : f.late g = none
  ready : f.ready g = true
  zero : f.zero g.ops = false
  fence : ∀ p ∈ f.reads g ++ f.writes g, fencedIn g.s p.1 p.2 = none
  held : ∀ p ∈ f.reads g, heldFor g.s g.k p.1 p.2 = false
  clean : ∀ p ∈ f.reads g, seenPoison g.s g.k p.1 p.2 = none

theorem starting_eq (f : Form) (j : Job) : starting f j = { j with i := { j.i with alt := (starting f j).i.alt } } := by
  unfold starting
  split <;> rfl

/-- What `startsNow` says, by name. -/
theorem startsNow_iff (h : startsNow f op j = true) : j.AtHead op f ∧ allChecks f j = none ∧ (j.i.woken = false → depends f j = false) ∧
    waitMet j = true ∧ (starting f j).Starts f := by
  have same : (starting f j).s = j.s ∧ (starting f j).k = j.k ∧ (starting f j).ops = j.ops := by rw [starting_eq]; exact ⟨rfl, rfl, rfl⟩
  obtain ⟨hs, hk, ho⟩ := same
  simp only [startsNow, Bool.and_eq_true, Option.isNone_iff_eq_none, Bool.not_eq_true', Bool.or_eq_true, List.all_eq_true] at h
  obtain ⟨⟨⟨⟨⟨⟨⟨⟨head, checks⟩, zero⟩, free⟩, waits⟩, late⟩, ready⟩, fence⟩, reads⟩ := h
  refine ⟨atHead_iff head, checks, fun fresh => free.resolve_left (by simp [fresh]), waits, late, ready, by rw [ho]; exact zero,
    by rw [hs]; exact fence, fun p hp => ?_, fun p hp => ?_⟩
  · rw [hs, hk]
    exact (reads p hp).1
  · rw [hs, hk]
    exact (reads p hp).2

/-- An instruction that passes its wait runs at once, on the path that another has chosen for it, if any (R61, R302). -/
theorem readAndGo_of_waitMet (upsets : j.s.flt.upsets = []) (fresh : j.i.woken = false) (waits : waitMet j = true) :
    ∃ l, readAndGo f j j.s = startJob f ((starting f j).counted l) { j.s with live := l } := by
  have go : ∀ l, startJob f { { j with s := { j.s with live := l } } with i := { j.i with alt := (f.path j).getD false } } { j.s with live := l } =
      startJob f ((starting f j).counted l) { j.s with live := l } := by
    intro l
    rw [starting, if_neg (by simp [fresh])]
    rfl
  by_cases none : j.i.wreg = 0
  · refine ⟨j.s.live, ?_⟩
    rw [← go]
    simp [readAndGo, none]
  · obtain ⟨n, hn⟩ : ∃ n, n = (nameCtr j.core j.i.wctr).getD 0 := ⟨_, rfl⟩
    obtain ⟨behind, met⟩ : readBehind j.s j.core n = false ∧ satisfied (ctrGet j.s n) j.i.target = true := by
      simpa [waitMet, fresh, none, ← hn] using waits
    have read : ∀ det, ctrRead j.s (some j.k) det n = (j.s, true) := by
      intro det
      unfold ctrRead areaRead
      split
      · rfl
      · simp [upsets]
    have port : ∃ l, readPort j.s j.core n = { j.s with live := l } := by
      unfold readPort
      split
      · exact ⟨_, rfl⟩
      · exact ⟨_, countPort_eq ..⟩
    obtain ⟨l, hl⟩ := port
    have met' : satisfied (ctrGet { j.s with live := l } n) j.i.target = true := met
    refine ⟨l, ?_⟩
    rw [← go]
    simp [readAndGo, none, ← hn, behind, read, hl, met']

/-- A job that starts now is run by its instruction's step. -/
theorem exec_of_startsNow (instr : engInstr j.s c e op = some (i, f)) (core : j.core = c.toNat) (eng : j.eng = e) (h : startsNow f op j = true) :
    ∃ l, exec i j.s = .next (startJob f ((starting f j).counted l) { j.s with live := l }) := by
  obtain ⟨⟨upsets, slot, sound, head, runs, named, known, awake, ops, -⟩, checks, free, waits, -⟩ := startsNow_iff h
  have job : j = ⟨j.s, j.k, j.core, j.eng, j.i, operandsOf f j.i⟩ := by rw [← ops]
  rw [exec_of_engInstr instr, ← core, ← eng]
  cases fresh : j.i.woken with
  | true =>
    refine ⟨j.s.live, ?_⟩
    rw [engineRow_of_woken slot head runs sound upsets known named fresh, ← job, starting, if_pos fresh]
    rfl
  | false =>
    rw [job] at checks
    have free' := free fresh
    rw [job] at free'
    obtain ⟨l, hl⟩ := readAndGo_of_waitMet (f := f) upsets fresh waits
    refine ⟨l, ?_⟩
    rw [engineRow_of_passes slot head runs sound upsets known named (awake fresh) fresh checks free', ← job, hl]

/-- The state in which an instruction that starts runs: its engine has taken it in flight, and its lines are asked for. -/
def Form.started (f : Form) (g : Job) (l l' : Map Word) (m : Memory) : State :=
  { updCore g.s g.core (·.takes g.eng (f.entry (g.counted l))) with live := l', mem := m }

/-- An engine's reading of lines, and its count at the port, change counts and samples and the memory's order. -/
theorem access_eq (s : State) (k : Option Nat) (a : Asker) (ls : List Nat) (thru : Bool) (core n : Nat) (out : Bool) :
    ∃ l m, m.plane = s.mem.plane ∧ countPort (sheafAccess s k a ls thru) core n out = { s with live := l, mem := m } :=
  ⟨_, (sheafAccess s k a ls thru).mem, by simp, by rw [countPort_eq, sheafAccess_eq]⟩

/-- What keeps a job that starts from running is met neither in its state nor in one with other counts: it takes its place in flight, asks for its
lines, and runs. -/
theorem startJob_runs {g : Job} (blind : f.IgnoresCounts) (starts : g.Starts f) (upsets : g.s.flt.upsets = []) (l : Map Word) :
    ∃ l' m, m.plane = g.s.mem.plane ∧ startJob f (g.counted l) { g.s with live := l } =
      f.run (g.counted l).numbered (f.started g l l' m) := by
  obtain ⟨late, ready, zero, fence, held, clean⟩ := starts
  obtain ⟨hlate, hready, hreads, hwrites⟩ := blind
  have fence' : ((f.reads g ++ f.writes g).findSome? fun p => fencedIn { g.s with live := l } p.1 p.2) = none :=
    List.findSome?_eq_none_iff.mpr fence
  have held' : ((f.reads g).find? fun p => heldFor { g.s with live := l } g.k p.1 p.2) = none :=
    List.find?_eq_none.mpr fun p hp => by
      rw [show heldFor { g.s with live := l } g.k p.1 p.2 = heldFor g.s g.k p.1 p.2 from rfl, held p hp]
      exact Bool.false_ne_true
  have clean' : ((f.reads g).findSome? fun p => seenPoison { g.s with live := l } g.k p.1 p.2) = none :=
    List.findSome?_eq_none_iff.mpr clean
  have read : ∀ r p, readCells { g.s with live := l } r p = ({ g.s with live := l }, true) := readCells_of_no_upsets upsets
  unfold startJob
  have zero' : f.zero (g.counted l).ops = false := zero
  have slot : (g.counted l).k = g.k := rfl
  simp only [hlate, hready, hreads, hwrites, late, ready, zero', slot, fence', held', read, clean', Bool.not_true, Bool.false_eq_true, if_false]
  obtain ⟨l', m, plane, access⟩ := access_eq (updCore { g.s with live := l } g.core (·.takes g.eng (f.entry (g.counted l)))) (some g.k)
    (.engine g.core g.eng g.i.addr.toNat) ((f.reads g).flatMap fun p => neededLines g.s g.k p.1 p.2).eraseDups (f.bypass g.numbered.i) g.core
    (64 * ((f.reads g).flatMap fun p => linesOf p.1 p.2).eraseDups.length) false
  refine ⟨l', m, plane, congrArg (f.run (g.counted l).numbered) (Eq.trans ?_ access)⟩
  rfl

/-- An instruction that starts now is in flight, its lines asked for, and runs. -/
theorem exec_starts (blind : f.IgnoresCounts) (instr : engInstr j.s c e op = some (i, f)) (core : j.core = c.toNat) (eng : j.eng = e)
    (h : startsNow f op j = true) : ∃ l l' m, m.plane = j.s.mem.plane ∧
      exec i j.s = .next (f.run ((starting f j).counted l).numbered (f.started (starting f j) l l' m)) := by
  obtain ⟨l, run⟩ := exec_of_startsNow instr core eng h
  obtain ⟨⟨upsets, -⟩, -, -, -, starts⟩ := startsNow_iff h
  have state : (starting f j).s = j.s := by rw [starting_eq]
  obtain ⟨l', m, plane, runs⟩ := startJob_runs blind starts (by rw [state]; exact upsets) l
  rw [state] at plane runs
  refine ⟨l, l', m, plane, ?_⟩
  rw [run, runs, Form.started, state]

end Sys2Proof.Machine
end

section
namespace Sys2Proof.Machine
variable {s t : State} {c : CoreId} {j g : Job} {m : Cmd}

/-! ### The copy engine reads another memory (R155, R351, R389) -/

theorem copyForm_ignoresCounts : copyForm.IgnoresCounts := ⟨fun _ _ => rfl, fun _ _ => rfl, fun _ _ => rfl, fun _ _ => rfl⟩

/-- A copy that starts is evaluated. -/
theorem exec_copy_starts (core : j.core = c.toNat) (eng : j.eng = 3) (h : startsNow copyForm 0x01 j = true) : ∃ l l' m, m.plane = j.s.mem.plane ∧
    exec (.engineCopy c) j.s = .next (copyForm.run ((starting copyForm j).counted l).numbered (copyForm.started (starting copyForm j) l l' m)) :=
  exec_starts copyForm_ignoresCounts (e := 3) rfl core eng h

/-- What the transfer of a copy asks for: the ranges `rs` of another memory, in requests of at most 64 KiB. -/
def Transfer.Reads (x : Transfer) (g : Job) (host : Bool) (rs : List (Nat × Nat)) : Prop :=
  x.who = .engine g.core ∧ x.slot = g.k ∧ x.host = host ∧ x.dest = g.i.selector ∧ x.buf = [] ∧
    x.left ++ x.todo = (runsOf (if host then rs else rs.map wholeLines)).flatMap (cutRun 65536)

/-- A copy that reads another memory begins its transfer; no byte and no command changes. -/
theorem copy_begins_transfer {l l' : Map Word} {mem : Memory} (plane : mem.plane = g.s.mem.plane) (hm : cmdOf g.s g.k = some m)
    (fl : Flying → Flying) (host : Bool) (rs : List (Nat × Nat)) (ins : Option EInstr) {t : State}
    (ht : t = startTransfer (updLastFlying g.core fl (copyForm.started g l l' mem)) (.engine g.core) g.k host g.i.selector rs ins) :
    SameMemory g.s t ∧ cmdOf t g.k = some m ∧ ∃ x ∈ t.fab.transfers, x.Reads g host rs := by
  obtain ⟨⟨hmem, -, -, disp, -⟩, begins⟩ :=
    startTransfer_begins (updLastFlying g.core fl (copyForm.started g l l' mem)) (.engine g.core) g.k host g.i.selector rs ins
  rw [ht]
  exact ⟨sameMemory_of_plane (by rw [hmem]; exact plane), (cmdOf_congr (congrArg (·.slots) disp) _).trans hm, begins⟩

/-- The bytes of its destination that a copy reads before it sends (R389; log 22). -/
def copyEdges (dst : Opnd) : List (Nat × Nat) := if dst.loc = 2 then edgeBytes dst else peerEdges dst

theorem copyRun_of_far_source (far : g.i.far = 1) (u : State) : copyForm.run g u =
    startTransfer (updLastFlying g.core (fun f => { f with reads := 1 }) u) (.engine g.core) g.k (decide ((g.op .da).loc = 2)) g.i.selector
      (g.op .da).spans (some g.i) := by
  simp [copyForm, far]

theorem copyRun_of_far_edges (far : g.i.far = 2) (edges : copyEdges (getOp g.ops .dc) ≠ []) (u : State) : copyForm.run g u =
    updLastFlying g.core (fun f => { f with late := (g.op .da).located (g.op .da).spans })
      (startTransfer (updLastFlying g.core (fun f => { f with reads := 1 }) u) (.engine g.core) g.k (decide ((getOp g.ops .dc).loc = 2)) g.i.selector
        (copyEdges (getOp g.ops .dc)) (some g.i)) := by
  unfold copyEdges at edges ⊢
  simp [copyForm, far, edges]

theorem copyRun_of_far (far : g.i.far = 2) (edges : copyEdges (getOp g.ops .dc) = []) (u : State) :
    copyForm.run g u = stageFar g (fun _ => 0) u := by
  unfold copyEdges at edges
  simp [copyForm, far, edges]

theorem copyRun_of_near (far : g.i.far = 0) (red : g.i.red = 0) (u : State) : copyForm.run g u =
    putPieces g (getOp g.ops .dc).loc (copyPieces (g.byte (g.op .da).loc) (g.byte (getOp g.ops .dc).loc) (g.op .da) (getOp g.ops .dc)) u
      g.i.nonalloc := by
  simp [copyForm, far, red]

theorem copyRun_of_reduction (far : g.i.far = 0) (red : g.i.red ≠ 0) (u : State) :
    copyForm.run g u = putElems g (getOp g.ops .dc) (fun i0 r => g.pattern (g.op .da) i0 r) u g.i.nonalloc := by
  simp [copyForm, far, red]

end Sys2Proof.Machine
end

section
namespace Sys2Proof.Machine

/-! ### Pieces written over bytes -/

/-- The bytes `f` with those of a piece written over them. -/
def writeOver (f : Nat → Byte) (p : Nat × List Byte) (x : Nat) : Byte := if p.1 ≤ x then (p.2[x - p.1]?).getD (f x) else f x

/-- The piece covers the address. -/
def Covers (p : Nat × List Byte) (x : Nat) : Prop := p.1 ≤ x ∧ x < p.1 + p.2.length

theorem writeOver_of_covers {p : Nat × List Byte} {x : Nat} (h : Covers p x) (f : Nat → Byte) : some (writeOver f p x) = p.2[x - p.1]? := by
  obtain ⟨low, high⟩ := h
  have hi : x - p.1 < p.2.length := by omega
  rw [writeOver, if_pos low, List.getElem?_eq_getElem hi, Option.getD_some]

theorem writeOver_of_not_covers {p : Nat × List Byte} {x : Nat} (h : ¬ Covers p x) (f : Nat → Byte) : writeOver f p x = f x := by
  unfold writeOver
  split
  · next low =>
    have : p.2[x - p.1]? = none := List.getElem?_eq_none (by unfold Covers at h; omega)
    rw [this, Option.getD_none]
  · rfl

/-- Pieces written in order leave what none of them covers. -/
theorem foldl_writeOver_outside {x : Nat} : ∀ {ps : List (Nat × List Byte)} (_ : ∀ p ∈ ps, ¬ Covers p x) (f : Nat → Byte),
    ps.foldl writeOver f x = f x
  | [], _, _ => rfl
  | p :: ps, h, f => by
    obtain ⟨hp, hps⟩ := List.forall_mem_cons.mp h
    rw [List.foldl_cons, foldl_writeOver_outside hps, writeOver_of_not_covers hp]

/-- Of pieces that share no address, each stands as it is, whatever order they are written in. -/
theorem foldl_writeOver_inside {x : Nat} {p : Nat × List Byte} (hx : Covers p x) : ∀ {ps : List (Nat × List Byte)} (_ : p ∈ ps)
    (_ : ∀ q ∈ ps, Covers q x → q = p) (f : Nat → Byte), some (ps.foldl writeOver f x) = p.2[x - p.1]?
  | [], hp, _, _ => absurd hp List.not_mem_nil
  | q :: ps, hp, only, f => by
    obtain ⟨hq, hps⟩ := List.forall_mem_cons.mp only
    rw [List.foldl_cons]
    by_cases later : p ∈ ps
    · exact foldl_writeOver_inside hx later hps _
    · obtain rfl : p = q := (List.mem_cons.mp hp).resolve_right later
      rw [foldl_writeOver_outside fun r hr covers => later (hps r hr covers ▸ hr)]
      exact writeOver_of_covers hx f

theorem putRun_writeOver (m : Map Byte) (d : Nat → Byte) (p : Nat × List Byte) (x : Nat) :
    (Map.find? (Map.putRun m p.1 p.2) x).getD (d x) = writeOver (fun x => (Map.find? m x).getD (d x)) p x := by
  by_cases h : Covers p x
  · obtain ⟨low, high⟩ := h
    have hi : x - p.1 < p.2.length := by omega
    have put := Map.find?_putRun_inside p.2 (m := m) (a := p.1) hi
    rw [show p.1 + (x - p.1) = x by omega] at put
    rw [put, Option.getD_some]
    exact Option.some.inj ((List.getElem?_eq_getElem hi).symm.trans (writeOver_of_covers ⟨low, high⟩ _).symm)
  · rw [writeOver_of_not_covers h, Map.find?_putRun_outside _ (by unfold Covers at h; omega)]

/-- A sparse array in which pieces are listed reads as its bytes with the pieces written over them. -/
theorem putRuns_writeOver (d : Nat → Byte) : ∀ (ps : List (Nat × List Byte)) (m : Map Byte) (x : Nat),
    (Map.find? (ps.foldl (fun m p => Map.putRun m p.1 p.2) m) x).getD (d x) = ps.foldl writeOver (fun x => (Map.find? m x).getD (d x)) x
  | [], _, _ => rfl
  | p :: ps, m, x => by
    rw [List.foldl_cons, List.foldl_cons, putRuns_writeOver d ps, funext (putRun_writeOver m d p)]

theorem bytesOf_writeOver (d : Nat → Byte) (ps : List (Nat × List Byte)) (x : Nat) :
    (Map.find? (bytesOf ps) x).getD (d x) = ps.foldl writeOver d x := putRuns_writeOver d ps [] x

/-- A scratchpad in which pieces are written. -/
theorem scratchWrites_eq : ∀ (ps : List (Nat × List Byte)) (k : Core), ps.foldl (fun k p => scratchWrite k p.1 p.2) k =
    { k with scratch := ps.foldl (fun m p => Map.putRun m p.1 p.2) k.scratch }
  | [], _ => rfl
  | p :: ps, k => by rw [List.foldl_cons, scratchWrites_eq ps]; rfl

theorem scratchByte_writes (ps : List (Nat × List Byte)) (k : Core) (x : Nat) :
    scratchByte (ps.foldl (fun k p => scratchWrite k p.1 p.2) k) x = ps.foldl writeOver (scratchByte k) x := by
  rw [scratchWrites_eq]
  exact putRuns_writeOver (fun x => Config.freeByte k.undef x) ps k.scratch x

theorem sorted_slots_stagePut {s : State} (h : Map.sorted s.disp.slots) (k a : Nat) (bs : List Byte) (thru : Bool) :
    Map.sorted (stagePut s k a bs thru).disp.slots := sorted_slots_updCmds _ _ h

theorem deltas_stagePut {s : State} (h : Map.sorted s.disp.slots) (k a : Nat) (bs : List Byte) (thru : Bool) (m : Nat) :
    (cmdOf (stagePut s k a bs thru) m).map (·.deltas) = (cmdOf s m).map (·.deltas) := by
  rw [cmdOf_stagePut h]
  split
  · rw [Option.map_map]
    refine congrArg (Option.map · _) (funext fun c => ?_)
    dsimp only [Function.comp]
    split <;> rfl
  · rfl

theorem deltas_stagePuts {k : Nat} (thru : Bool) : ∀ (ps : List (Nat × List Byte)) {s : State} (_ : Map.sorted s.disp.slots),
    (cmdOf (ps.foldl (fun s p => stagePut s k p.1 p.2 thru) s) k).map (·.deltas) = (cmdOf s k).map (·.deltas)
  | [], _, _ => rfl
  | p :: ps, s, sorted => by
    rw [List.foldl_cons, deltas_stagePuts thru ps (sorted_slots_stagePut sorted ..), deltas_stagePut sorted]

/-- What a command stages in pieces, it sees over what it saw (R91). -/
theorem seenByte_stagePuts {k : Nat} (thru : Bool) : ∀ (ps : List (Nat × List Byte)) {s : State} {c : Cmd} (_ : Map.sorted s.disp.slots)
    (_ : cmdOf s k = some c), seenByte (ps.foldl (fun s p => stagePut s k p.1 p.2 thru) s) k = ps.foldl writeOver (seenByte s k)
  | [], _, _, _, _ => rfl
  | p :: ps, s, c, sorted, hc => by
    have one : seenByte (stagePut s k p.1 p.2 thru) k = writeOver (seenByte s k) p := by
      funext x
      rw [seenByte_stagePut sorted hc]
      split
      · next h => exact Option.some.inj ((List.getElem?_eq_getElem (by omega)).symm.trans (writeOver_of_covers h _).symm)
      · next h => exact (writeOver_of_not_covers h _).symm
    have cmd := cmdOf_stagePut sorted k p.1 p.2 thru k
    rw [if_pos (mem_jointSet_self hc), hc] at cmd
    rw [List.foldl_cons, List.foldl_cons, seenByte_stagePuts thru ps (sorted_slots_stagePut sorted ..) cmd, one]

end Sys2Proof.Machine
end

section
namespace Sys2Proof.Machine
variable {o : Opnd}

/-! ### Rows and scale bytes of an operand lie apart (R160, R162, R164) -/

/-- The byte stride of dimension `n + 1`. -/
def Opnd.stride (o : Opnd) (n : Nat) : Nat := (descStrides o.d).getD n 0

/-- The effective extents are within the descriptor's, and the descriptor passes R164. -/
structure Opnd.Fits (o : Opnd) : Prop where
  dims : o.ext.length = 5
  within : ∀ k < 5, o.e k ≤ o.own k
  apart : overlapDim o.d = none

theorem mem_rows {r : List Nat} : r ∈ o.rows ↔ ∃ i j k l, r = [i, j, k, l] ∧ i < o.e 1 ∧ j < o.e 2 ∧ k < o.e 3 ∧ l < o.e 4 := by
  have ext : ∀ n, o.outer.getD n 1 = o.e (n + 1) := by
    intro n
    simp [Opnd.outer, Opnd.e, List.getD_eq_getElem?_getD]
  simp only [Opnd.rows, rowsOver, List.mem_flatMap, List.mem_map, List.mem_range, ext]
  constructor
  · rintro ⟨l, hl, k, hk, j, hj, i, hi, rfl⟩
    exact ⟨i, j, k, l, rfl, hi, hj, hk, hl⟩
  · rintro ⟨i, j, k, l, rfl, hi, hj, hk, hl⟩
    exact ⟨l, hl, k, hk, j, hj, i, hi, rfl⟩

theorem rowAt_eq (i j k l : Nat) :
    o.rowAt [i, j, k, l] = o.base + (o.stride 0 * i + o.stride 1 * j + o.stride 2 * k + o.stride 3 * l) := by
  simp [Opnd.rowAt, dot, descStrides, Opnd.stride]
  omega

theorem rowNo_eq (i j k l : Nat) : o.rowNo [i, j, k, l] = i + o.own 1 * (j + o.own 2 * (k + o.own 3 * l)) := rfl

theorem dataSpan_eq : dataSpan o.d = rowLen (o.own 0) o.w + (o.stride 0 * (o.own 1 - 1) + o.stride 1 * (o.own 2 - 1) + o.stride 2 * (o.own 3 - 1) +
    o.stride 3 * (o.own 4 - 1)) := by
  simp [dataSpan, dot, descStrides, Opnd.stride, Opnd.own, descExt, predAll, Opnd.w, Opnd.code, Opnd.fmt]
  omega

/-- R164 for each dimension, and its MX clause. -/
theorem Opnd.Fits.strides (h : o.Fits) : (1 < o.own 1 → rowLen (o.own 0) o.w ≤ o.stride 0) ∧
    (1 < o.own 2 → rowLen (o.own 0) o.w + o.stride 0 * (o.own 1 - 1) ≤ o.stride 1) ∧
    (1 < o.own 3 → rowLen (o.own 0) o.w + (o.stride 0 * (o.own 1 - 1) + o.stride 1 * (o.own 2 - 1)) ≤ o.stride 2) ∧
    (1 < o.own 4 → rowLen (o.own 0) o.w + (o.stride 0 * (o.own 1 - 1) + o.stride 1 * (o.own 2 - 1) + o.stride 2 * (o.own 3 - 1)) ≤ o.stride 3) ∧
    (o.mx = true → dataSpan o.d ≤ 64 * descMxp o.d) := by
  have apart := h.apart
  unfold overlapDim at apart
  dsimp only at apart
  split at apart
  · cases apart
  · next none =>
    rw [List.find?_eq_none] at none
    have d1 := none 1 (by decide)
    have d2 := none 2 (by decide)
    have d3 := none 3 (by decide)
    have d4 := none 4 (by decide)
    simp [dot, descStrides, descExt, predAll, List.range_succ] at d1 d2 d3 d4
    simp [descStrides, Opnd.stride, Opnd.own, descExt, Opnd.w, Opnd.code, Opnd.fmt, Opnd.mx] at apart ⊢
    refine ⟨d1, d2, fun h => ?_, fun h => ?_, fun h => apart (of_decide_eq_true h)⟩
    · have := d3 h; omega
    · have := d4 h; omega

/-- Indices of one more dimension, whose stride holds what the dimensions below span, keep ranges of `n` bytes apart, if those below do where the
new indices agree. -/
theorem apart_of_stride {n span stride ext i i' below below' : Nat} (hi : i < ext) (hi' : i' < ext) (hb : below ≤ span) (hb' : below' ≤ span)
    (wide : 1 < ext → n + span ≤ stride) (same : i = i' → below + n ≤ below' ∨ below' + n ≤ below) :
    below + stride * i + n ≤ below' + stride * i' ∨ below' + stride * i' + n ≤ below + stride * i := by
  have step : ∀ {a b : Nat}, a < b → stride * a + stride ≤ stride * b := fun {a b} h => by
    rw [← Nat.mul_succ]
    exact Nat.mul_le_mul_left stride h
  rcases Nat.lt_trichotomy i i' with lt | rfl | gt
  · have := step lt; have := wide (by omega); omega
  · have := same rfl; omega
  · have := step gt; have := wide (by omega); omega

theorem mul_le_span (stride : Nat) {i ext : Nat} (h : i < ext) : stride * i ≤ stride * (ext - 1) := Nat.mul_le_mul_left _ (by omega)

theorem Opnd.Fits.index_lt (h : o.Fits) {k i : Nat} (hk : k < 5) (hi : i < o.e k) : i < o.own k := Nat.lt_of_lt_of_le hi (h.within k hk)

/-- The rows of an operand lie apart (R164). -/
theorem Opnd.Fits.rows_apart (h : o.Fits) {r r' : List Nat} (hr : r ∈ o.rows) (hr' : r' ∈ o.rows) (ne : r ≠ r') :
    o.rowAt r + rowLen (o.own 0) o.w ≤ o.rowAt r' ∨ o.rowAt r' + rowLen (o.own 0) o.w ≤ o.rowAt r := by
  obtain ⟨i, j, k, l, rfl, hi, hj, hk, hl⟩ := mem_rows.mp hr
  obtain ⟨i', j', k', l', rfl, hi', hj', hk', hl'⟩ := mem_rows.mp hr'
  obtain ⟨w1, w2, w3, w4, -⟩ := h.strides
  have hi := h.index_lt (by decide) hi; have hi' := h.index_lt (by decide) hi'
  have hj := h.index_lt (by decide) hj; have hj' := h.index_lt (by decide) hj'
  have hk := h.index_lt (by decide) hk; have hk' := h.index_lt (by decide) hk'
  have hl := h.index_lt (by decide) hl; have hl' := h.index_lt (by decide) hl'
  have s1 := mul_le_span (o.stride 0) hi; have s1' := mul_le_span (o.stride 0) hi'
  have s2 := mul_le_span (o.stride 1) hj; have s2' := mul_le_span (o.stride 1) hj'
  have s3 := mul_le_span (o.stride 2) hk; have s3' := mul_le_span (o.stride 2) hk'
  have dims := apart_of_stride hl hl' (Nat.add_le_add (Nat.add_le_add s1 s2) s3) (Nat.add_le_add (Nat.add_le_add s1' s2') s3') w4 fun el =>
    apart_of_stride hk hk' (Nat.add_le_add s1 s2) (Nat.add_le_add s1' s2') w3 fun ek =>
      apart_of_stride hj hj' s1 s1' w2 fun ej => by
        have first := apart_of_stride (n := rowLen (o.own 0) o.w) (below := 0) (below' := 0) hi hi' (Nat.le_refl 0) (Nat.le_refl 0) w1 fun ei =>
          absurd (by rw [ei, ej, ek, el]) ne
        omega
  rw [rowAt_eq, rowAt_eq]
  omega

/-- A row lies in the operand's data. -/
theorem Opnd.Fits.row_within (h : o.Fits) {r : List Nat} (hr : r ∈ o.rows) : o.rowAt r + rowLen (o.own 0) o.w ≤ o.base + dataSpan o.d := by
  obtain ⟨i, j, k, l, rfl, hi, hj, hk, hl⟩ := mem_rows.mp hr
  have s1 := mul_le_span (o.stride 0) (h.index_lt (by decide) hi)
  have s2 := mul_le_span (o.stride 1) (h.index_lt (by decide) hj)
  have s3 := mul_le_span (o.stride 2) (h.index_lt (by decide) hk)
  have s4 := mul_le_span (o.stride 3) (h.index_lt (by decide) hl)
  rw [rowAt_eq, dataSpan_eq]
  omega

theorem rowNo_step {n i i' q q' : Nat} (hi : i < n) (hi' : i' < n) (h : i + n * q = i' + n * q') : i = i' ∧ q = q' := by
  have hn : 0 < n := by omega
  have mod := congrArg (· % n) h
  have div := congrArg (· / n) h
  simp only [Nat.add_mul_mod_self_left, Nat.mod_eq_of_lt hi, Nat.mod_eq_of_lt hi'] at mod
  simp only [Nat.add_mul_div_left _ _ hn, Nat.div_eq_of_lt hi, Nat.div_eq_of_lt hi', Nat.zero_add] at div
  exact ⟨mod, div⟩

/-- Rows are numbered apart (R162). -/
theorem Opnd.Fits.rowNo_inj (h : o.Fits) {r r' : List Nat} (hr : r ∈ o.rows) (hr' : r' ∈ o.rows) (same : o.rowNo r = o.rowNo r') : r = r' := by
  obtain ⟨i, j, k, l, rfl, hi, hj, hk, hl⟩ := mem_rows.mp hr
  obtain ⟨i', j', k', l', rfl, hi', hj', hk', hl'⟩ := mem_rows.mp hr'
  rw [rowNo_eq, rowNo_eq] at same
  obtain ⟨ei, rest⟩ := rowNo_step (h.index_lt (by decide) hi) (h.index_lt (by decide) hi') same
  obtain ⟨ej, rest⟩ := rowNo_step (h.index_lt (by decide) hj) (h.index_lt (by decide) hj') rest
  obtain ⟨ek, el⟩ := rowNo_step (h.index_lt (by decide) hk) (h.index_lt (by decide) hk') rest
  rw [ei, ej, ek, el]

theorem ceilDiv_mono {a b : Nat} (h : a ≤ b) (d : Nat) : ceilDiv a d ≤ ceilDiv b d := Nat.div_le_div_right (by omega)

theorem rowLen_mono {a b : Nat} (h : a ≤ b) (w : Nat) : rowLen a w ≤ rowLen b w := ceilDiv_mono (Nat.mul_le_mul_right w h) 8

theorem Opnd.Fits.scales_within (h : o.Fits) : ceilDiv (o.e 0) 32 ≤ rowScales o.d := ceilDiv_mono (h.within 0 (by decide)) 32

/-- The scale bytes of different rows lie apart (R162). -/
theorem Opnd.Fits.scales_apart (h : o.Fits) {r r' : List Nat} (hr : r ∈ o.rows) (hr' : r' ∈ o.rows) (ne : r ≠ r') :
    o.scaleAt r + ceilDiv (o.e 0) 32 ≤ o.scaleAt r' ∨ o.scaleAt r' + ceilDiv (o.e 0) 32 ≤ o.scaleAt r := by
  have within := h.scales_within
  have step : ∀ {a b : Nat}, a < b → a * rowScales o.d + rowScales o.d ≤ b * rowScales o.d := fun {a b} h => by
    rw [← Nat.succ_mul]
    exact Nat.mul_le_mul_right _ h
  unfold Opnd.scaleAt
  rcases Nat.lt_trichotomy (o.rowNo r) (o.rowNo r') with lt | eq | gt
  · have := step lt; omega
  · exact absurd (h.rowNo_inj hr hr' eq) ne
  · have := step gt; omega

/-- The scale bytes of an MX operand lie behind its data (R162, R164). -/
theorem Opnd.Fits.scales_behind (h : o.Fits) (mx : o.mx = true) {r r' : List Nat} (hr : r ∈ o.rows) :
    o.rowAt r + rowLen (o.own 0) o.w ≤ o.scaleAt r' := by
  have row := h.row_within hr
  have span := h.strides.2.2.2.2 mx
  unfold Opnd.scaleAt
  omega

end Sys2Proof.Machine
end

section
namespace Sys2Proof.Machine
variable {rd keep f : Nat → Byte} {src dst : Opnd} {r : List Nat} {p q : Nat × List Byte} {x n : Nat}

/-! ### The pieces of a copy (R155) -/

/-- The last byte of a row whose elements end within it: the bits beside them keep their value. -/
def copyLast (rd keep : Nat → Byte) (src dst : Opnd) (r : List Nat) : Byte :=
  let whole := dst.e 0 * dst.w / 8
  let rem := dst.e 0 * dst.w % 8
  BitVec.ofNat 8 ((rd (src.rowAt r + whole)).toNat % 2 ^ rem + (keep (dst.rowAt r + whole)).toNat / 2 ^ rem * 2 ^ rem)

/-- The elements of a row. -/
def copyRow (rd keep : Nat → Byte) (src dst : Opnd) (r : List Nat) : Nat × List Byte :=
  (dst.rowAt r, (span (src.rowAt r) (dst.e 0 * dst.w / 8)).map rd ++ if dst.e 0 * dst.w % 8 = 0 then [] else [copyLast rd keep src dst r])

/-- The scale bytes of a row. -/
def copyScales (rd : Nat → Byte) (src dst : Opnd) (r : List Nat) : Nat × List Byte :=
  (dst.scaleAt r, (span (src.scaleAt r) (ceilDiv (dst.e 0) 32)).map rd)

theorem mem_copyPieces : p ∈ copyPieces rd keep src dst ↔
    ∃ r ∈ dst.rows, p = copyRow rd keep src dst r ∨ (dst.mx = true ∧ p = copyScales rd src dst r) := by
  unfold copyPieces
  rw [List.mem_flatMap]
  refine exists_congr fun r => and_congr_right fun _ => ?_
  rw [List.mem_cons]
  refine or_congr Iff.rfl ?_
  cases dst.mx
  · simp
  · simp [copyScales]

theorem length_span (a n : Nat) : (span a n).length = n := by simp [span]

theorem getElem?_map_span (f : Nat → Byte) {a n i : Nat} (h : i < n) : ((span a n).map f)[i]? = some (f (a + i)) := by
  simp [span, h]

theorem length_copyRow : (copyRow rd keep src dst r).2.length = rowLen (dst.e 0) dst.w := by
  unfold copyRow rowLen ceilDiv
  rw [List.length_append, List.length_map, length_span]
  split
  · rw [List.length_nil]; omega
  · rw [List.length_singleton]; omega

theorem length_copyScales : (copyScales rd src dst r).2.length = ceilDiv (dst.e 0) 32 := by
  rw [copyScales, List.length_map, length_span]

/-- The pieces of a copy share no address. -/
theorem copyPieces_apart (fits : dst.Fits) (hp : p ∈ copyPieces rd keep src dst) (hq : q ∈ copyPieces rd keep src dst) (px : Covers p x)
    (qx : Covers q x) : q = p := by
  have short := rowLen_mono (fits.within 0 (by decide)) dst.w
  obtain ⟨r, hr, hp⟩ := mem_copyPieces.mp hp
  obtain ⟨r', hr', hq⟩ := mem_copyPieces.mp hq
  have row : ∀ {r}, Covers (copyRow rd keep src dst r) x → dst.rowAt r ≤ x ∧ x < dst.rowAt r + rowLen (dst.e 0) dst.w := fun h =>
    ⟨h.1, length_copyRow (rd := rd) (keep := keep) (src := src) ▸ h.2⟩
  have scales : ∀ {r}, Covers (copyScales rd src dst r) x → dst.scaleAt r ≤ x ∧ x < dst.scaleAt r + ceilDiv (dst.e 0) 32 := fun h =>
    ⟨h.1, length_copyScales (rd := rd) (src := src) ▸ h.2⟩
  rcases hp with rfl | ⟨mx, rfl⟩ <;> rcases hq with rfl | ⟨mx, rfl⟩
  · obtain ⟨a, b⟩ := row px; obtain ⟨c, d⟩ := row qx
    by_cases ne : r = r'
    · rw [ne]
    · have := fits.rows_apart hr hr' ne; omega
  · obtain ⟨a, b⟩ := row px; obtain ⟨c, d⟩ := scales qx
    have := fits.scales_behind mx hr (r' := r'); omega
  · obtain ⟨a, b⟩ := scales px; obtain ⟨c, d⟩ := row qx
    have := fits.scales_behind mx hr' (r' := r); omega
  · obtain ⟨a, b⟩ := scales px; obtain ⟨c, d⟩ := scales qx
    by_cases ne : r = r'
    · rw [ne]
    · have := fits.scales_apart hr hr' ne; omega

/-- What a piece of the copy holds stands where it is written. -/
theorem copied (fits : dst.Fits) (hp : p ∈ copyPieces rd keep src dst) {b : Byte} (at' : p.2[n]? = some b) (f : Nat → Byte) :
    (copyPieces rd keep src dst).foldl writeOver f (p.1 + n) = b := by
  have short : n < p.2.length := (List.getElem?_eq_some_iff.mp at').1
  have covers : Covers p (p.1 + n) := ⟨by omega, by omega⟩
  have inside := foldl_writeOver_inside covers hp (fun q hq qx => copyPieces_apart fits hp hq covers qx) f
  rw [show p.1 + n - p.1 = n by omega, at'] at inside
  exact Option.some.inj inside

theorem copied_byte (fits : dst.Fits) (hr : r ∈ dst.rows) (hn : n < dst.e 0 * dst.w / 8) (f : Nat → Byte) :
    (copyPieces rd keep src dst).foldl writeOver f (dst.rowAt r + n) = rd (src.rowAt r + n) := by
  refine copied fits (mem_copyPieces.mpr ⟨r, hr, .inl rfl⟩) (p := copyRow rd keep src dst r) ?_ f
  rw [copyRow, List.getElem?_append_left (by rwa [List.length_map, length_span]), getElem?_map_span rd hn]

theorem copied_last (fits : dst.Fits) (hr : r ∈ dst.rows) (rem : dst.e 0 * dst.w % 8 ≠ 0) (f : Nat → Byte) :
    (copyPieces rd keep src dst).foldl writeOver f (dst.rowAt r + dst.e 0 * dst.w / 8) = copyLast rd keep src dst r := by
  refine copied fits (mem_copyPieces.mpr ⟨r, hr, .inl rfl⟩) (p := copyRow rd keep src dst r) ?_ f
  have len : ((span (src.rowAt r) (dst.e 0 * dst.w / 8)).map rd).length = dst.e 0 * dst.w / 8 := by rw [List.length_map, length_span]
  rw [copyRow, if_neg rem, List.getElem?_append_right (by omega), len, Nat.sub_self]
  rfl

theorem copied_scale (fits : dst.Fits) (mx : dst.mx = true) (hr : r ∈ dst.rows) (hn : n < ceilDiv (dst.e 0) 32) (f : Nat → Byte) :
    (copyPieces rd keep src dst).foldl writeOver f (dst.scaleAt r + n) = rd (src.scaleAt r + n) :=
  copied fits (mem_copyPieces.mpr ⟨r, hr, .inr ⟨mx, rfl⟩⟩) (p := copyScales rd src dst r) (getElem?_map_span rd hn) f

theorem spans_eq (fits : dst.Fits) : dst.spans = dst.rows.flatMap (dst.rowSpans (dst.e 0)) := by
  have self : ∀ l : List Nat, ((l.zip l).map fun p => Nat.min p.1 p.2) = l := by
    intro l
    induction l with
    | nil => rfl
    | cons a l ih => rw [List.zip_cons_cons, List.map_cons, ih]; exact congrArg (· :: l) (Nat.min_self a)
  have e0 : dst.ext.getD 0 0 = dst.e 0 := by
    have : 0 < dst.ext.length := by rw [fits.dims]; decide
    simp [Opnd.e, List.getD_eq_getElem?_getD, this]
  rw [Opnd.spans, Opnd.spansIn, e0, show dst.ext.drop 1 = dst.outer from rfl, self]
  exact congrArg (fun n => dst.rows.flatMap (dst.rowSpans n)) (Nat.min_self (dst.e 0))

/-- A copy writes its destination's elements and scales, and no other byte. -/
theorem not_copied (fits : dst.Fits) (out : apart (places dst) dst.loc x = true) (f : Nat → Byte) :
    (copyPieces rd keep src dst).foldl writeOver f x = f x := by
  refine foldl_writeOver_outside (fun p hp covers => ?_) f
  obtain ⟨r, hr, hp⟩ := mem_copyPieces.mp hp
  have clear : ∀ {a n}, (a, n) ∈ dst.rowSpans (dst.e 0) r → x < a ∨ a + n ≤ x := by
    intro a n h
    have mem : (dst.loc, a, n) ∈ places dst := List.mem_map.mpr ⟨(a, n), by rw [spans_eq fits]; exact List.mem_flatMap.mpr ⟨r, hr, h⟩, rfl⟩
    simpa using List.all_eq_true.mp out _ mem
  by_cases e0 : dst.e 0 = 0
  · rcases hp with rfl | ⟨-, rfl⟩
    · have high := covers.2; have low := covers.1
      rw [length_copyRow, e0, rowLen, Nat.zero_mul] at high
      exact absurd high (by simp [ceilDiv]; exact low)
    · have high := covers.2; have low := covers.1
      rw [length_copyScales, e0] at high
      exact absurd high (by simp [ceilDiv]; exact low)
  · rcases hp with rfl | ⟨mx, rfl⟩
    · have := clear (a := dst.rowAt r) (n := rowLen (dst.e 0) dst.w) (by simp [Opnd.rowSpans, e0])
      have high := covers.2; have low : dst.rowAt r ≤ x := covers.1
      rw [length_copyRow] at high
      exact absurd (show x < dst.rowAt r + _ from high) (by omega)
    · have := clear (a := dst.scaleAt r) (n := ceilDiv (dst.e 0) 32) (by simp [Opnd.rowSpans, e0, mx])
      have high := covers.2; have low : dst.scaleAt r ≤ x := covers.1
      rw [length_copyScales] at high
      exact absurd (show x < dst.scaleAt r + _ from high) (by omega)

end Sys2Proof.Machine
end

section
namespace Sys2Proof.Machine
variable {j g : Job} {f : Form} {o : Opnd} {i : EInstr}

/-! ### What the checks of R176 leave of a copy's operands -/

/-- An operand that an instruction names has the effective extents of its part. -/
theorem ext_of_mem (ho : o ∈ operandsOf f i) : o.ext = (List.range 5).map (effExtent f i o.part o.d) := by
  obtain ⟨p, -, rfl⟩ := List.mem_map.mp ho
  rfl

theorem e_of_mem (ho : o ∈ operandsOf f i) {k : Nat} (hk : k < 5) : o.e k = effExtent f i o.part o.d k := by
  rw [Opnd.e, ext_of_mem ho]
  simp [hk]

/-- Check 5: a run-time extent is within the descriptor's (R165). -/
theorem within_of_check5 (ho : o ∈ operandsOf f i) (h : check5 f i o = none) {k : Nat} (hk : k < 5) : o.e k ≤ o.own k := by
  rw [check5, Option.map_eq_none_iff, List.find?_eq_none] at h
  have pass := h k (List.mem_range.mpr hk)
  rw [e_of_mem ho hk, effExtent]
  revert pass
  cases f.tmap i (mapPart i o.part) k with
  | none => exact fun _ => Nat.le_refl _
  | some tm =>
    dsimp only
    cases runExtent i tm.1 with
    | none => exact fun _ => Nat.le_refl _
    | some v => exact fun pass => Nat.le_of_not_lt fun lt => pass (decide_eq_true lt)

theorem firstBad_eq_none {l : List (Option Bad)} : firstBad l = none ↔ ∀ b ∈ l, b = none := List.findSome?_eq_none_iff

/-- What passing every check says, check by check (R176). -/
structure Job.Passes (j : Job) (f : Form) : Prop where
  fields : check1 f j.i = none
  need : ∀ o ∈ j.ops, f.plain o.part = true → check3 f j.i j.ops o = none
  extents : ∀ o ∈ j.ops, f.plain o.part = true → check5 f j.i o = none
  agree : ∀ b ∈ f.agree j, b = none
  place : ∀ o ∈ j.ops, f.plain o.part = true → (f.loc9 j o).getD (locBad j.s j.k (f.locs j.i (mapPart j.i o.part)) o o.spans) = none
  overlap : ∀ o ∈ j.ops, f.plain o.part = true → o.part ∈ f.outs → overlapDim o.d = none

theorem passes_of_allChecks (h : allChecks f j = none) (zero : f.zero j.ops = false) : j.Passes f := by
  unfold allChecks at h
  split at h
  · cases h
  · next first =>
    rw [zero, if_neg Bool.false_ne_true] at h
    simp only [checksFirst, checksTouch, firstBad_eq_none, List.forall_mem_append, List.forall_mem_map, List.mem_filter, and_imp,
      List.forall_mem_singleton] at first h
    obtain ⟨⟨⟨⟨⟨⟨⟨⟨⟨one, -⟩, -⟩, need⟩, -⟩, extents⟩, -⟩, agree⟩, -⟩, -⟩ := first
    obtain ⟨⟨⟨⟨place, -⟩, overlap⟩, -⟩, -⟩ := h
    refine ⟨one, need, extents, agree, place, fun o ho plain out => ?_⟩
    have := overlap o ho plain
    rw [if_pos (by simpa using out)] at this
    exact Option.map_eq_none_iff.mp this

theorem need_of_check3 {ops : List Opnd} (h : check3 f i ops o = none) : f.need i ops o = none := by
  unfold check3 at h
  rw [Option.map_eq_none_iff] at h
  split at h
  · cases h
  · assumption

theorem mustAgree_eq_none {k : Nat} {ok : Bool} : mustAgree o k ok = none ↔ ok = true := by
  cases ok <;> simp [mustAgree, failIf]

/-- The operand of a part that some operand plays. -/
theorem getOp_of_mem {ops : List Opnd} {p : Part} (h : ∃ o ∈ ops, o.part = p) : getOp ops p ∈ ops ∧ (getOp ops p).part = p := by
  obtain ⟨o, ho, hp⟩ := h
  obtain ⟨x, hx⟩ := Option.isSome_iff_exists.mp (List.find?_isSome.mpr ⟨o, ho, decide_eq_true hp⟩ : (ops.find? fun o => o.part = p).isSome)
  rw [getOp, hx, Option.getD_some]
  exact ⟨List.mem_of_find?_eq_some hx, by simpa using List.find?_some hx⟩

/-- The operands of a copy: DA and DC, and the alternate of DA where ALTSEL names it (R155). -/
theorem copy_operands (i : EInstr) : ((operandsOf copyForm i).map (·.part)) = if i.altsel = 1 ∨ i.altsel = 2 then [.da, .dc, .dalt] else [.da, .dc] := by
  unfold operandsOf copyForm
  split <;> simp [*]

/-- What the checks leave of the source and of the destination of a copy. -/
structure Job.Copies (g : Job) : Prop where
  fits : (getOp g.ops .dc).Fits
  srcDims : (g.op .da).ext.length = 5
  fmt : (g.op .da).fmt = (getOp g.ops .dc).fmt
  same : ∀ k < 5, (g.op .da).e k = (getOp g.ops .dc).e k

theorem copies_of_passes (ops : g.ops = operandsOf copyForm g.i) (passes : g.Passes copyForm) : g.Copies := by
  have named : ∀ p, p ∈ (operandsOf copyForm g.i).map (·.part) → getOp g.ops p ∈ operandsOf copyForm g.i ∧ (getOp g.ops p).part = p := by
    intro p hp
    obtain ⟨o, ho, hop⟩ := List.mem_map.mp hp
    rw [ops]
    exact getOp_of_mem ⟨o, ho, hop⟩
  obtain ⟨dc, dcPart⟩ := named .dc (by rw [copy_operands]; split <;> decide)
  obtain ⟨da, daPart⟩ := named .da (by rw [copy_operands]; split <;> decide)
  obtain ⟨-, need, extents, agree, -, overlap⟩ := passes
  simp only [ops] at need extents overlap
  have dcFmt : g.i.fmt = (getOp g.ops .dc).fmt := by
    have := need_of_check3 (need _ dc rfl)
    simp only [copyForm, dcPart, if_true, Option.or_eq_none_iff] at this
    obtain ⟨equal, -⟩ := this
    unfold fmtEquals at equal
    split at equal
    · assumption
    · cases equal
  have inFmt : ∀ o ∈ operandsOf copyForm g.i, o.part ≠ .dc → o.fmt = g.i.fmt := by
    intro o ho part
    have := need_of_check3 (need o ho rfl)
    simp only [copyForm, if_neg part] at this
    unfold mustBe at this
    split at this
    · assumption
    · cases this
  have dims : ∀ o ∈ operandsOf copyForm g.i, o.ext.length = 5 := fun o ho => by rw [ext_of_mem ho]; simp
  have fits : (getOp g.ops .dc).Fits :=
    ⟨dims _ dc, fun k hk => within_of_check5 dc (extents _ dc rfl) hk, overlap _ dc rfl (by rw [dcPart]; decide)⟩
  simp only [copyForm, List.forall_mem_append, List.forall_mem_map, List.mem_range, mustAgree_eq_none, decide_eq_true_eq] at agree
  obtain ⟨same, alt⟩ := agree
  by_cases cheap : g.i.alt = true ∧ g.i.altsel = 1
  · obtain ⟨alt', sel⟩ := cheap
    have src : g.op .da = getOp g.ops .dalt := if_pos ⟨alt', .inl ⟨rfl, sel⟩⟩
    obtain ⟨da', da'Part⟩ := named .dalt (by rw [copy_operands, if_pos (.inl sel)]; decide)
    have map : mapPart g.i .dalt = .da := by simp [mapPart, sel]
    refine ⟨fits, by rw [src]; exact dims _ da', by rw [src, inFmt _ da' (by rw [da'Part]; decide), dcFmt], fun k hk => ?_⟩
    rw [altAgree, if_pos (.inl sel)] at alt
    simp only [List.forall_mem_map, List.mem_range, mustAgree_eq_none, decide_eq_true_eq, map] at alt
    rw [src, same k hk, e_of_mem da' hk, e_of_mem da hk, da'Part, daPart]
    unfold effExtent
    rw [map, show mapPart g.i .da = .da from rfl]
    have own : (descExt (getOp g.ops .dalt).d).getD k 1 = (descExt (getOp g.ops .da).d).getD k 1 := alt k hk
    rw [own]
  · have src : g.op .da = getOp g.ops .da := if_neg (by simpa using cheap)
    exact ⟨fits, by rw [src]; exact dims _ da, by rw [src, inFmt _ da (by rw [daPart]; decide), dcFmt], fun k hk => by rw [src, same k hk]⟩

/-- The path that an instruction takes is not among what a copy's checks read. -/
theorem Job.Passes.onPath (h : j.Passes copyForm) (a : Bool) : ({ j with i := { j.i with alt := a } } : Job).Passes copyForm :=
  ⟨h.fields, h.need, h.extents, h.agree, h.place, h.overlap⟩

/-- The destination of a copy that starts, and that its shape holds no zero. -/
theorem dc_of_startsNow {op : Nat} (h : startsNow copyForm op j = true) : getOp j.ops .dc ∈ j.ops ∧ (getOp j.ops .dc).part = .dc := by
  obtain ⟨head, -⟩ := startsNow_iff h
  rw [head.ops]
  exact getOp_of_mem (List.mem_map.mp (by rw [copy_operands]; split <;> decide))

theorem zero_of_startsNow {op : Nat} (h : startsNow copyForm op j = true) : copyForm.zero j.ops = false := by
  obtain ⟨-, -, -, -, starts⟩ := startsNow_iff h
  have := starts.zero
  rwa [starting_eq] at this

/-- A copy that starts now has source and destination of one format and of the same effective extents, and R164 holds of its destination. -/
theorem copies_of_startsNow {op : Nat} (h : startsNow copyForm op j = true) : (starting copyForm j).Copies := by
  obtain ⟨head, checks, -⟩ := startsNow_iff h
  rw [starting_eq]
  exact copies_of_passes head.ops ((passes_of_allChecks checks (zero_of_startsNow h)).onPath _)

/-- Check 9: a copy on the chip writes the scratchpad or the plane (R159). -/
theorem loc_of_near {op : Nat} (h : startsNow copyForm op j = true) (near : j.i.far = 0) :
    (getOp j.ops .dc).loc = 0 ∨ (getOp j.ops .dc).loc = 1 := by
  obtain ⟨-, checks, -⟩ := startsNow_iff h
  have place := (passes_of_allChecks checks (zero_of_startsNow h)).place _ (dc_of_startsNow h).1 rfl
  have here : farEnd j.i (getOp j.ops .dc) = false := by simp [farEnd, near]
  simp only [copyForm, here, Bool.false_eq_true, if_false, Option.getD_none] at place
  have allowed : locAllowed (if mapPart j.i (getOp j.ops .dc).part = .dc ∧ j.i.red ≠ 0 then locReduce else locCopy) (getOp j.ops .dc).loc = true := by
    by_contra no
    rw [locBad, if_pos (by simpa using no)] at place
    cases place
  revert allowed
  generalize (getOp j.ops .dc).loc = loc
  rcases loc with _ | _ | _ | loc
  · exact fun _ => .inl rfl
  · exact fun _ => .inr rfl
  · exact fun h => absurd h (by simp [locAllowed])
  · intro h
    split at h <;> rcases loc with _ | loc <;> simp [locAllowed, locReduce, locCopy] at h

end Sys2Proof.Machine
end

section
namespace Sys2Proof.Machine
variable {s t : State} {k eng core : Nat}

/-! ### Egress is staged, or its engine stops (R91, R92, R93) -/

theorem mem_broken_breakUnit (s : State) (core eng : Nat) : eng ∈ (coreOf (breakUnit core (some eng) s) core).broken := by
  simp [breakUnit]

theorem mem_broken_failStage (s : State) (k b obj eng core : Nat) : eng ∈ (coreOf (failStage s k b obj (some eng) (some core)) core).broken :=
  mem_broken_breakUnit ..

/-- Staging egress adds it to the command, or stops the engine. -/
theorem stageEgress_cases (s : State) (k : Nat) (e : Egress) (eng core : Nat) :
    stageEgress s k e (some eng) (some core) = updCmd s k (fun c => { c with egress := c.egress ++ [e] }) ∨
      eng ∈ (coreOf (stageEgress s k e (some eng) (some core)) core).broken := by
  unfold stageEgress
  dsimp only
  split
  · split
    · exact .inl rfl
    · unfold counterLimit
      split
      · exact .inr (mem_broken_breakUnit ..)
      · exact .inl rfl
  · exact .inr (mem_broken_failStage ..)

/-- Egress that its engine outlives is added to the command. -/
theorem stageEgress_of_sound {e : Egress} (sound : eng ∉ (coreOf (stageEgress s k e (some eng) (some core)) core).broken) :
    stageEgress s k e (some eng) (some core) = updCmd s k fun c => { c with egress := c.egress ++ [e] } :=
  (stageEgress_cases ..).resolve_right sound

/-- An engine that goes on after egress was staged had not stopped before. -/
theorem sound_of_stageEgress {e : Egress} (sound : eng ∉ (coreOf (stageEgress s k e (some eng) (some core)) core).broken) :
    eng ∉ (coreOf s core).broken := by
  rwa [stageEgress_of_sound sound, coreOf_congr (s := s) (by simp)] at sound

theorem sound_of_stageEgresses : ∀ {es : List Egress} {s : State}
    (_ : eng ∉ (coreOf (es.foldl (fun s e => stageEgress s k e (some eng) (some core)) s) core).broken), eng ∉ (coreOf s core).broken
  | [], _, sound => sound
  | _ :: _, _, sound => sound_of_stageEgress (sound_of_stageEgresses sound)

/-- Egresses that their engine outlives are added to the command, in their order. -/
theorem cmdOf_stageEgresses : ∀ {es : List Egress} {s : State}
    (_ : eng ∉ (coreOf (es.foldl (fun s e => stageEgress s k e (some eng) (some core)) s) core).broken),
    cmdOf (es.foldl (fun s e => stageEgress s k e (some eng) (some core)) s) k = (cmdOf s k).map fun c => { c with egress := c.egress ++ es }
  | [], s, _ => by cases h : cmdOf s k <;> simp [h]
  | e :: es, s, sound => by
    rw [List.foldl_cons] at sound ⊢
    rw [cmdOf_stageEgresses sound, stageEgress_of_sound (sound_of_stageEgresses sound), cmdOf_updCmd, if_pos rfl, Option.map_map]
    exact congrArg (Option.map · _) (funext fun c => by simp)

theorem plane_stageEgresses (es : List Egress) (s : State) :
    (es.foldl (fun s e => stageEgress s k e (some eng) (some core)) s).mem.plane = s.mem.plane :=
  foldl_keeps (·.mem.plane) (fun s e => by simp) es s

/-! ### A copy to another memory stages its data (R93, R352, R389) -/

/-- The pieces that a copy writes elsewhere; `keep` gives the bytes beside the elements. -/
def Job.farPieces (j : Job) (keep : Nat → Byte) : List (Nat × List Byte) :=
  copyPieces (j.byte (j.op .da).loc) keep (j.op .da) (getOp j.ops .dc)

/-- What a copy to the host sends. -/
def Job.hostWrites (j : Job) (keep : Nat → Byte) : List Egress := hostEgress j (j.farPieces keep) (egressLines j (j.op .da))

/-- What a copy to a peer sends. -/
def Job.peerWrite (j : Job) (keep : Nat → Byte) : Egress :=
  peerEgress j (getOp j.ops .dc) (j.farPieces keep) keep (egressLines j (j.op .da))

theorem counted_port (s : State) (c n : Nat) (out : Bool) : (countPort s c n out).mem = s.mem ∧ (∀ k, cmdOf (countPort s c n out) k = cmdOf s k) := by
  rw [countPort_eq]
  exact ⟨rfl, fun _ => rfl⟩

theorem stageFar_of_host {g : Job} (host : (getOp g.ops .dc).loc = 2) (keep : Nat → Byte) (u : State) :
    (stageFar g keep u).mem.plane = u.mem.plane ∧ (3 ∉ (coreOf (stageFar g keep u) g.core).broken →
      cmdOf (stageFar g keep u) g.k = (cmdOf u g.k).map fun c => { c with egress := c.egress ++ g.hostWrites keep }) := by
  obtain ⟨mem, cmd⟩ := counted_port u g.core (64 * (egressLines g (g.op .da)).length) true
  have run : stageFar g keep u = (g.hostWrites keep).foldl (fun s e => stageEgress s g.k e (some 3) (some g.core))
      (countPort u g.core (64 * (egressLines g (g.op .da)).length) true) := if_pos host
  rw [run]
  exact ⟨(plane_stageEgresses ..).trans (by rw [mem]), fun sound => by rw [cmdOf_stageEgresses sound, cmd]⟩

theorem stageFar_of_peer {g : Job} (peer : (getOp g.ops .dc).loc ≠ 2) (keep : Nat → Byte) (u : State) :
    (stageFar g keep u).mem.plane = u.mem.plane ∧ (3 ∉ (coreOf (stageFar g keep u) g.core).broken →
      cmdOf (stageFar g keep u) g.k = (cmdOf u g.k).map fun c => { c with egress := c.egress ++ [g.peerWrite keep] }) := by
  obtain ⟨mem, cmd⟩ := counted_port u g.core (64 * (egressLines g (g.op .da)).length) true
  obtain ⟨t, ht⟩ : ∃ t, t = stageEgress (countPort u g.core (64 * (egressLines g (g.op .da)).length) true) g.k (g.peerWrite keep) (some 3)
    (some g.core) := ⟨_, rfl⟩
  have plane : t.mem.plane = u.mem.plane := by rw [ht]; simp
  have run : stageFar g keep u = if (coreOf t g.core).broken.contains 3 then t
      else askRoom (updFlyingAt g.core g.i.flight (fun f => { f with grants := 1 }) t) (g.peerWrite keep) := by
    rw [ht]
    exact if_neg peer
  have asked := sends_sendMsg (updFlyingAt g.core g.i.flight (fun f => { f with grants := 1 }) t)
    (mkMsg (updFlyingAt g.core g.i.flight (fun f => { f with grants := 1 }) t) (g.peerWrite keep).dest 0x03 ((g.peerWrite keep).data.length / 64)
      [(0, (g.peerWrite keep).addr)] [])
  rw [run]
  split
  · next stopped => exact ⟨plane, fun sound => absurd (by simpa using stopped) sound⟩
  · next sound =>
    refine ⟨(congrArg (·.plane) asked.mem).trans plane, fun _ => ?_⟩
    have sound' : 3 ∉ (coreOf t g.core).broken := by simpa using sound
    rw [ht] at sound'
    rw [askRoom, cmdOf_congr (congrArg (·.slots) asked.disp), updFlyingAt, updCore, show ∀ c k, cmdOf (setCore t c k) g.k = cmdOf t g.k from fun _ _ => rfl,
      ht, stageEgress_of_sound sound', cmdOf_updCmd, if_pos rfl, cmd]

end Sys2Proof.Machine
end

section
namespace Sys2Proof.Machine
variable {rs : List (Nat × Nat)} {r : Nat × Nat} {m x : Nat}

/-! ### Runs cover their ranges, and a run's requests the run (R351, R389) -/

/-- Some range of the list holds `x`. -/
def Within (rs : List (Nat × Nat)) (x : Nat) : Prop := ∃ r ∈ rs, r.1 ≤ x ∧ x < r.1 + r.2

/-- The ranges stand in rising order of their starts. -/
def Rising (rs : List (Nat × Nat)) : Prop := rs.Pairwise fun a b => a.1 ≤ b.1

theorem mem_insertRun {q : Nat × Nat} : ∀ {l : List (Nat × Nat)}, q ∈ insertRun r l ↔ q = r ∨ q ∈ l
  | [] => by simp [insertRun]
  | a :: l => by
    unfold insertRun
    split
    · exact List.mem_cons
    · rw [List.mem_cons, mem_insertRun, List.mem_cons]
      exact or_left_comm

theorem rising_insertRun : ∀ {l : List (Nat × Nat)}, Rising l → Rising (insertRun r l)
  | [], _ => List.pairwise_singleton _ _
  | a :: l, h => by
    obtain ⟨ha, hl⟩ := List.pairwise_cons.mp h
    unfold insertRun
    split
    · next lt =>
      refine List.pairwise_cons.mpr ⟨fun q hq => ?_, h⟩
      rcases List.mem_cons.mp hq with rfl | hq
      · exact Nat.le_of_lt lt
      · exact Nat.le_trans (Nat.le_of_lt lt) (ha q hq)
    · next ge =>
      refine List.pairwise_cons.mpr ⟨fun q hq => ?_, rising_insertRun hl⟩
      rcases mem_insertRun.mp hq with rfl | hq
      · exact Nat.le_of_not_lt ge
      · exact ha q hq

/-- Ranges inserted one by one stand in order, all of them. -/
theorem insertRuns : ∀ {rs l : List (Nat × Nat)}, Rising l → Rising (rs.foldl (fun l r => insertRun r l) l) ∧
    ∀ q, q ∈ rs.foldl (fun l r => insertRun r l) l ↔ q ∈ rs ∨ q ∈ l
  | [], _, h => ⟨h, by simp⟩
  | r :: rs, l, h => by
    obtain ⟨rising, mem⟩ := insertRuns (rs := rs) (rising_insertRun (r := r) h)
    refine ⟨rising, fun q => ?_⟩
    rw [List.foldl_cons, mem, mem_insertRun, List.mem_cons]
    exact or_assoc.symm.trans (or_congr_left or_comm)

/-- A joined list begins where the list begins. -/
theorem joinRuns_cons (r : Nat × Nat) (l : List (Nat × Nat)) : ∃ n u, joinRuns (r :: l) = (r.1, n) :: u := by
  unfold joinRuns
  split
  · exact ⟨_, _, rfl⟩
  · split
    · exact ⟨_, _, rfl⟩
    · exact ⟨_, _, rfl⟩

/-- Joining ranges in order loses no address. -/
theorem within_joinRuns : ∀ {l : List (Nat × Nat)}, Rising l → Within l x → Within (joinRuns l) x
  | [], _, h => h
  | [_], _, h => h
  | r :: a :: l, rising, ⟨q, hq, low, high⟩ => by
    obtain ⟨first, rest⟩ := List.pairwise_cons.mp rising
    obtain ⟨n, u, join⟩ := joinRuns_cons a l
    have ra := first a (List.mem_cons_self ..)
    have later : q ∈ a :: l → Within ((a.1, n) :: u) x := fun hq => join ▸ within_joinRuns rest ⟨q, hq, low, high⟩
    unfold joinRuns
    rw [join]
    dsimp only
    split
    · next touch =>
      have head : r.1 ≤ x → x < r.1 + max r.2 (a.1 + n - r.1) → Within ((r.1, max r.2 (a.1 + n - r.1)) :: u) x :=
        fun low high => ⟨_, List.mem_cons_self .., low, high⟩
      rcases List.mem_cons.mp hq with rfl | hq
      · exact head low (by omega)
      · obtain ⟨p, hp, low, high⟩ := later hq
        rcases List.mem_cons.mp hp with rfl | hp
        · exact head (Nat.le_trans ra low) (by dsimp only at high; omega)
        · exact ⟨p, List.mem_cons_of_mem _ hp, low, high⟩
    · rcases List.mem_cons.mp hq with rfl | hq
      · exact ⟨_, List.mem_cons_self .., low, high⟩
      · obtain ⟨p, hp, inside⟩ := later hq
        exact ⟨p, List.mem_cons_of_mem _ hp, inside⟩

/-- What a set of ranges holds is in one of its runs. -/
theorem within_runsOf (h : Within rs x) : Within (runsOf rs) x := by
  obtain ⟨q, hq, low, high⟩ := h
  obtain ⟨rising, mem⟩ := insertRuns (rs := rs.filter fun r => r.2 != 0) (l := []) List.Pairwise.nil
  have kept : q ∈ rs.filter fun r => r.2 != 0 := List.mem_filter.mpr ⟨hq, by simp; omega⟩
  exact within_joinRuns rising ⟨q, (mem q).mpr (.inl kept), low, high⟩

/-- What a run holds is in one of its requests. -/
theorem within_cutRun (hm : 0 < m) (low : r.1 ≤ x) (high : x < r.1 + r.2) : Within (cutRun m r) x := by
  have whole := Nat.div_add_mod (x - r.1) m
  have short := Nat.mod_lt (x - r.1) hm
  have count : (x - r.1) / m < ceilDiv r.2 m := by
    rw [ceilDiv, Nat.lt_iff_add_one_le, Nat.le_div_iff_mul_le hm, Nat.add_mul, Nat.mul_comm _ m]
    omega
  refine ⟨_, List.mem_map.mpr ⟨(x - r.1) / m, List.mem_range.mpr count, rfl⟩, ?_, ?_⟩ <;> dsimp only <;> omega

theorem within_cutRuns (hm : 0 < m) (h : Within rs x) : Within ((runsOf rs).flatMap (cutRun m)) x := by
  obtain ⟨r, hr, low, high⟩ := within_runsOf h
  obtain ⟨q, hq, inside⟩ := within_cutRun hm low high
  exact ⟨q, List.mem_flatMap.mpr ⟨r, hr, hq⟩, inside⟩

theorem cutRuns_short {q : Nat × Nat} (h : q ∈ (runsOf rs).flatMap (cutRun m)) : q.2 ≤ m := by
  obtain ⟨r, -, hq⟩ := List.mem_flatMap.mp h
  obtain ⟨i, -, rfl⟩ := List.mem_map.mp hq
  exact Nat.min_le_left ..

/-- Each message has its share of the lines. -/
theorem length_dealLines : ∀ (lens ls : List Nat), (dealLines lens ls).length = lens.length
  | [], _ => rfl
  | [_], _ => rfl
  | _ :: b :: t, ls => by simp [dealLines, length_dealLines (b :: t)]

/-- An element of a list has a partner in one as long. -/
theorem exists_mem_zip {α β : Type} {l : List α} {l' : List β} {a : α} (ha : a ∈ l) (len : l.length ≤ l'.length) :
    ∃ b, (a, b) ∈ l.zip l' := by
  rw [← List.map_fst_zip len] at ha
  obtain ⟨p, hp, rfl⟩ := List.mem_map.mp ha
  exact ⟨p.2, hp⟩

/-! ### What a copy sends (R93, R352, R389) -/

variable {g : Job} {rows : List Nat} {keep : Nat → Byte} {n : Nat}

/-- The bytes of the pieces of a copy stand at their elements' addresses. -/
theorem bytesOf_farPieces (fits : (getOp g.ops .dc).Fits) (hr : rows ∈ (getOp g.ops .dc).rows) (hn : n < (getOp g.ops .dc).e 0 * (getOp g.ops .dc).w / 8)
    (d : Nat → Byte) : (Map.find? (bytesOf (g.farPieces keep)) ((getOp g.ops .dc).rowAt rows + n)).getD (d ((getOp g.ops .dc).rowAt rows + n)) =
      g.byte (g.op .da).loc ((g.op .da).rowAt rows + n) := by
  rw [bytesOf_writeOver, Job.farPieces, copied_byte fits hr hn]

/-- Of each message to the host the run it was cut from, and its fields. -/
theorem mem_hostWrites {x : Egress} (hx : x ∈ g.hostWrites keep) : x.host = true ∧ x.core = some g.core ∧ x.dest = g.i.selector ∧
    x.data.length ≤ 1048576 ∧ x.granted = true := by
  obtain ⟨p, hp, rfl⟩ := List.mem_map.mp hx
  refine ⟨rfl, rfl, rfl, ?_, rfl⟩
  rw [List.length_map, length_span]
  exact cutRuns_short (List.of_mem_zip hp).1

/-- Each whole byte of the destination's rows is in a message to the host, and there the source's byte. -/
theorem hostWrites_hold (fits : (getOp g.ops .dc).Fits) (hr : rows ∈ (getOp g.ops .dc).rows)
    (hn : n < (getOp g.ops .dc).e 0 * (getOp g.ops .dc).w / 8) : ∃ x ∈ g.hostWrites keep, x.addr ≤ (getOp g.ops .dc).rowAt rows + n ∧
      x.data[(getOp g.ops .dc).rowAt rows + n - x.addr]? = some (g.byte (g.op .da).loc ((g.op .da).rowAt rows + n)) := by
  obtain ⟨a, ha⟩ : ∃ a, a = (getOp g.ops .dc).rowAt rows + n := ⟨_, rfl⟩
  have row : copyRow (g.byte (g.op .da).loc) keep (g.op .da) (getOp g.ops .dc) rows ∈ g.farPieces keep := mem_copyPieces.mpr ⟨rows, hr, .inl rfl⟩
  have covered : Within ((g.farPieces keep).map fun p => (p.1, p.2.length)) a := by
    refine ⟨_, List.mem_map.mpr ⟨_, row, rfl⟩, ?_, ?_⟩
    · rw [ha]
      exact Nat.le_add_right ..
    · have long : n < rowLen ((getOp g.ops .dc).e 0) (getOp g.ops .dc).w := by unfold rowLen ceilDiv; omega
      rw [length_copyRow, ha]
      exact Nat.add_lt_add_left long _
  obtain ⟨q, hq, low, high⟩ := within_cutRuns (m := 1048576) (by decide) covered
  obtain ⟨ls, hls⟩ := exists_mem_zip (l' := dealLines (((runsOf ((g.farPieces keep).map fun p => (p.1, p.2.length))).flatMap
    (cutRun 1048576)).map (·.2)) (egressLines g (g.op .da))) hq (by rw [length_dealLines, List.length_map])
  refine ⟨_, List.mem_map.mpr ⟨(q, ls), hls, rfl⟩, ?_, ?_⟩ <;> dsimp only <;> rw [← ha]
  · exact low
  · rw [getElem?_map_span _ (by omega), show q.1 + (a - q.1) = a by omega, ha]
    exact congrArg some (bytesOf_farPieces fits hr hn fun _ => 0)

/-- An operand that has elements has no extent 0, so its footprint holds its data (R163). -/
theorem dataSpan_le_footprint {o : Opnd} (fits : o.Fits) (hr : rows ∈ o.rows) (some0 : 0 < o.e 0) : dataSpan o.d ≤ footprint o.d := by
  obtain ⟨i, j, k, l, -, hi, hj, hk, hl⟩ := mem_rows.mp hr
  have h0 := fits.index_lt (k := 0) (by decide) some0
  have h1 := fits.index_lt (by decide) hi
  have h2 := fits.index_lt (by decide) hj
  have h3 := fits.index_lt (by decide) hk
  have h4 := fits.index_lt (by decide) hl
  have whole : (descExt o.d).contains 0 = false := by
    simp [Opnd.own, descExt] at h0 h1 h2 h3 h4
    simp [descExt]
    omega
  rw [footprint, whole, if_neg Bool.false_ne_true]
  split
  · exact Nat.le_refl _
  · exact Nat.le_max_left ..

theorem lineOf_le (a : Nat) : lineOf a ≤ a := Nat.sub_le ..

theorem le_ceilDiv_mul (n : Nat) : n ≤ 64 * ceilDiv n 64 := by unfold ceilDiv; omega

/-- The write message for a peer holds each whole byte of the destination's rows, and there the source's. -/
theorem peerWrite_holds (fits : (getOp g.ops .dc).Fits) (hr : rows ∈ (getOp g.ops .dc).rows)
    (hn : n < (getOp g.ops .dc).e 0 * (getOp g.ops .dc).w / 8) :
    (g.peerWrite keep).data[(getOp g.ops .dc).rowAt rows + n - lineOf (getOp g.ops .dc).base]? =
      some (g.byte (g.op .da).loc ((g.op .da).rowAt rows + n)) := by
  obtain ⟨o, ho⟩ : ∃ o, o = getOp g.ops .dc := ⟨_, rfl⟩
  rw [← ho] at fits hr hn ⊢
  have some0 : 0 < o.e 0 := Nat.pos_of_ne_zero fun none => by simp [none] at hn
  have long : n < rowLen (o.own 0) o.w :=
    Nat.lt_of_lt_of_le (show n < rowLen (o.e 0) o.w by unfold rowLen ceilDiv; omega) (rowLen_mono (fits.within 0 (by decide)) o.w)
  have low : o.base ≤ o.rowAt rows := by
    obtain ⟨i, j, k, l, rfl, -⟩ := mem_rows.mp hr
    rw [rowAt_eq]
    exact Nat.le_add_right ..
  have high : o.rowAt rows + n < o.base + footprint o.d := by
    have := fits.row_within hr
    have := dataSpan_le_footprint fits hr some0
    omega
  have first := lineOf_le o.base
  have last := le_ceilDiv_mul (o.base + footprint o.d - lineOf o.base)
  have inside : o.rowAt rows + n - lineOf o.base < (peerLines o).2 := by
    show _ < 64 * ceilDiv _ 64
    omega
  show ((span (peerLines (getOp g.ops .dc)).1 (peerLines (getOp g.ops .dc)).2).map _)[_]? = _
  rw [← ho, getElem?_map_span _ inside, show (peerLines o).1 + (o.rowAt rows + n - lineOf o.base) = o.rowAt rows + n by
    show lineOf o.base + _ = _
    omega, ho]
  exact congrArg some (bytesOf_farPieces (ho ▸ fits) (ho ▸ hr) (ho ▸ hn) keep)

end Sys2Proof.Machine
end

section
namespace Sys2Proof.Machine
variable {j j' : Job} {o src dst : Opnd} {r : List Nat} {i0 x n t : Nat} {s : State}

/-! ### The bits of an element (R160, R170) -/

/-- A bit of a number is a bit of one of its bytes (R7). -/
theorem testBit_leNat : ∀ (bs : List Byte) (t : Nat), (leNat bs).testBit t = (bs.getD (t / 8) 0).toNat.testBit (t % 8)
  | [], t => by simp [leNat]
  | b :: bs, t => by
    have split : leNat (b :: bs) = 2 ^ 8 * leNat bs + b.toNat := by simp [leNat]; omega
    rw [split, Nat.testBit_two_pow_mul_add _ b.isLt]
    split
    · next low => rw [Nat.div_eq_of_lt low, Nat.mod_eq_of_lt low]; rfl
    · next high =>
      rw [testBit_leNat bs, show t / 8 = (t - 8) / 8 + 1 by omega, show t % 8 = (t - 8) % 8 by omega]
      rfl

theorem testBit_bits (j : Job) (loc a b : Nat) (h : t < n) :
    (j.bits loc a b n).testBit t = (j.byte loc (a + (b + t) / 8)).toNat.testBit ((b + t) % 8) := by
  have inside : (b + t) / 8 < ceilDiv (b + n) 8 := by unfold ceilDiv; omega
  rw [Job.bits, Nat.testBit_mod_two_pow, Nat.testBit_div_two_pow, decide_eq_true h, Bool.true_and, testBit_leNat, Nat.add_comm t b,
    List.getD_eq_getElem?_getD, getElem?_map_span _ inside, Option.getD_some]

/-- A bit of an element is a bit of its row. -/
theorem testBit_stored (j : Job) (o : Opnd) (i0 : Nat) (r : List Nat) (h : t < o.w) :
    (j.stored o i0 r).testBit t = (j.byte o.loc (o.rowAt r + (i0 * o.w + t) / 8)).toNat.testBit ((i0 * o.w + t) % 8) := by
  rw [Job.stored, testBit_bits _ _ _ _ h, show o.rowAt r + i0 * o.w / 8 + (i0 * o.w % 8 + t) / 8 = o.rowAt r + (i0 * o.w + t) / 8 by omega,
    show (i0 * o.w % 8 + t) % 8 = (i0 * o.w + t) % 8 by omega]

theorem stored_lt (j : Job) (o : Opnd) (i0 : Nat) (r : List Nat) : j.stored o i0 r < 2 ^ o.w := Nat.mod_lt _ (Nat.two_pow_pos _)

/-- The bits of a row's last byte inside its elements are the source's. -/
theorem testBit_copyLast (rd keep : Nat → Byte) {b : Nat} (h : b < dst.e 0 * dst.w % 8) :
    (copyLast rd keep src dst r).toNat.testBit b = (rd (src.rowAt r + dst.e 0 * dst.w / 8)).toNat.testBit b := by
  have inByte : b < 8 := by omega
  rw [copyLast, BitVec.toNat_ofNat, Nat.testBit_mod_two_pow, decide_eq_true inByte, Bool.true_and, Nat.add_comm (_ % _), Nat.mul_comm (_ / _),
    Nat.testBit_two_pow_mul_add _ (Nat.mod_lt _ (Nat.two_pow_pos _)), if_pos h, Nat.testBit_mod_two_pow, decide_eq_true h, Bool.true_and]

/-- A job that reads of a destination what a copy has put over it finds the source's elements there. -/
theorem stored_copied (fits : dst.Fits) (w : src.w = dst.w) (f keep : Nat → Byte) (hr : r ∈ dst.rows) (hi : i0 < dst.e 0)
    (reads : ∀ x, j'.byte dst.loc x = (copyPieces (j.byte src.loc) keep src dst).foldl writeOver f x) :
    j'.stored dst i0 r = j.stored src i0 r % 2 ^ dst.w := by
  have short := stored_lt j src i0 r
  rw [w] at short
  rw [Nat.mod_eq_of_lt short]
  refine Nat.eq_of_testBit_eq fun t => ?_
  by_cases ht : t < dst.w
  · rw [testBit_stored _ _ _ _ ht, testBit_stored _ _ _ _ (by rwa [w]), reads, w]
    obtain ⟨p, hp⟩ : ∃ p, p = i0 * dst.w + t := ⟨_, rfl⟩
    have inside : p < dst.e 0 * dst.w := by
      have : i0 * dst.w + dst.w ≤ dst.e 0 * dst.w := by
        rw [← Nat.succ_mul]
        exact Nat.mul_le_mul_right _ hi
      omega
    rw [← hp]
    by_cases whole : p / 8 < dst.e 0 * dst.w / 8
    · rw [copied_byte fits hr whole]
    · have last : p / 8 = dst.e 0 * dst.w / 8 := by omega
      rw [last, copied_last fits hr (by omega), testBit_copyLast _ _ (by omega)]
  · have high : 2 ^ dst.w ≤ 2 ^ t := Nat.pow_le_pow_right (by decide) (Nat.le_of_not_lt ht)
    rw [Nat.testBit_lt_two_pow (Nat.lt_of_lt_of_le (stored_lt j' dst i0 r) high),
      Nat.testBit_lt_two_pow (Nat.lt_of_lt_of_le short high)]

/-! ### Reading with nothing in flight (R137) -/

theorem byte_still_scratch (j : Job) (t : State) (x : Nat) :
    Job.byte { j with s := still t j.core } 0 x = scratchByte (coreOf t j.core) x := by
  simp [Job.byte, still, inFlight, oldByte, scratchByte]

theorem byte_still_plane (j : Job) (t : State) (x : Nat) : Job.byte { j with s := still t j.core } 1 x = seenByte t j.k x := by
  simp [Job.byte, still, inFlight, oldByte]
  exact congrFun (seenByte_congr rfl rfl j.k) x

end Sys2Proof.Machine
end

section
namespace Sys2Proof.Machine
variable {g : Job} {x : Flying} {l l' : Map Word} {m : Memory} {t : State} {loc : Nat} {ps : List (Nat × List Byte)}

/-! ### An engine writes what its instruction puts (R91, R137, R172) -/

/-- The state in which the engine has taken its instruction in flight as `x`. -/
def Job.taken (g : Job) (x : Flying) (l : Map Word) (m : Memory) : State := { updCore g.s g.core (·.takes g.eng x) with live := l, mem := m }

theorem coreOf_taken (g : Job) (x : Flying) (l : Map Word) (m : Memory) : coreOf (g.taken x l m) g.core = (coreOf g.s g.core).takes g.eng x :=
  (coreOf_congr (s := updCore g.s g.core (·.takes g.eng x)) rfl g.core).trans (coreOf_updCore_self g.s g.core _)

theorem coreOf_taken_ne (g : Job) (x : Flying) (l : Map Word) (m : Memory) {o : Nat} (h : o ≠ g.core) :
    coreOf (g.taken x l m) o = coreOf g.s o :=
  (coreOf_congr (s := updCore g.s g.core (·.takes g.eng x)) rfl o).trans (coreOf_updCore_ne g.s _ h.symm)

theorem updLast_append {α : Type} {p : α → Bool} {a : α} (h : p a = true) (f : α → α) (l : List α) : updLast p f (l ++ [a]) = l ++ [f a] := by
  simp [updLast, updFirst, h]

/-- The bytes `was` under pieces, noted where none is noted yet. -/
def noteBytes (was : Nat → Byte) (loc : Nat) (ps : List (Nat × List Byte)) (old : Map Byte) : Map Byte :=
  ps.foldl (fun m p => (span p.1 p.2.length).foldl
    (fun m a => if (Map.find? m (locKey loc a)).isSome then m else Map.put m (locKey loc a) (was a)) m) old

/-- The core whose engine `e` has the old bytes of its instruction number `n` changed by `add`. -/
def Core.notes (k : Core) (e n : Nat) (add : Map Byte → Map Byte) : Core := { k with
  flying := Map.put k.flying e (updLast (fun f => f.id = n) (fun f => { f with old := add f.old }) (flyingOf k e)) }

theorem noteOld_eq (j : Job) (loc : Nat) (ps : List (Nat × List Byte)) (s : State) : noteOld j loc ps s = updCore s j.core fun k =>
    k.notes j.eng j.i.flight (noteBytes (fun a => if loc = 0 then scratchByte k a else if loc = 3 then accByte k a else seenByte s j.k a) loc ps) :=
  rfl

/-- The newest entry notes the bytes under what is written (R137, R175). -/
theorem noteOld_taken (id : x.id = (coreOf g.s g.core).started) (loc : Nat) (ps : List (Nat × List Byte)) :
    ∃ old, noteOld (g.counted l).numbered loc ps (g.taken x l' m) = g.taken { x with old := old } l' m := by
  have newest : decide (x.id = (g.counted l).numbered.i.flight) = true := decide_eq_true id
  have flying : flyingOf ((coreOf g.s g.core).takes g.eng x) g.eng = flyingOf (coreOf g.s g.core) g.eng ++ [x] := Map.get_put_self ..
  have noted : ∀ add : Core → Map Byte → Map Byte,
      updCore (g.taken x l' m) g.core (fun k => k.notes g.eng (g.counted l).numbered.i.flight (add k)) =
        g.taken { x with old := add ((coreOf g.s g.core).takes g.eng x) x.old } l' m := by
    intro add
    rw [updCore, coreOf_taken, Core.notes, flying, updLast_append (p := fun f : Flying => decide (f.id = (g.counted l).numbered.i.flight)) newest]
    unfold Job.taken updCore setCore Core.takes
    dsimp only
    rw [Map.put_put, Map.put_put]
  exact ⟨_, (noteOld_eq ..).trans (noted _)⟩

/-- The instruction is in flight as `x`; besides it only the scratchpad, the dispatcher, the samples and the memory's order may have changed. -/
structure Job.Took (g : Job) (x : Flying) (t : State) : Prop where
  plane : t.mem.plane = g.s.mem.plane
  sync : t.sync = g.s.sync
  others : ∀ o, o ≠ g.core → coreOf t o = coreOf g.s o
  core : coreOf t g.core = { (coreOf g.s g.core).takes g.eng x with scratch := (coreOf t g.core).scratch }

/-- The instruction is in flight as `x` and has put pieces into a location. -/
structure Job.Puts (g : Job) (x : Flying) (loc : Nat) (ps : List (Nat × List Byte)) (t : State) : Prop extends g.Took x t where
  scratch : scratchByte (coreOf t g.core) =
    if loc = 0 then ps.foldl writeOver (scratchByte (coreOf g.s g.core)) else scratchByte (coreOf g.s g.core)
  seen : seenByte t g.k = if loc = 1 then ps.foldl writeOver (seenByte g.s g.k) else seenByte g.s g.k
  deltas : (cmdOf t g.k).map (·.deltas) = (cmdOf g.s g.k).map (·.deltas)

theorem puts_scratch (plane : m.plane = g.s.mem.plane) (id : x.id = (coreOf g.s g.core).started) (ps : List (Nat × List Byte)) (thru : Bool) :
    ∃ old, g.Puts { x with old := old } 0 ps (putPieces (g.counted l).numbered 0 ps (g.taken x l' m) thru) := by
  obtain ⟨old, note⟩ := noteOld_taken (l := l) (l' := l') (m := m) id 0 ps
  obtain ⟨u, hu⟩ : ∃ u, u = g.taken { x with old := old } l' m := ⟨_, rfl⟩
  have run : putPieces (g.counted l).numbered 0 ps (g.taken x l' m) thru =
      updCore u g.core fun k => ps.foldl (fun k p => scratchWrite k p.1 p.2) k := by
    rw [hu, ← note]
    rfl
  have core : coreOf u g.core = (coreOf g.s g.core).takes g.eng { x with old := old } := by rw [hu, coreOf_taken]
  refine ⟨old, run ▸ ⟨⟨by rw [hu]; exact plane, by rw [hu]; rfl, fun o ho => ?_, ?_⟩, ?_, ?_, by rw [hu]; rfl⟩⟩
  · rw [coreOf_updCore_ne _ _ ho.symm, hu, coreOf_taken_ne _ _ _ _ ho]
  · rw [coreOf_updCore_self, scratchWrites_eq, core]
  · rw [coreOf_updCore_self, funext (scratchByte_writes ps _), core]
    rfl
  · exact seenByte_congr (by rw [hu]; exact plane) (by rw [hu]; rfl) g.k

/-- Pieces for the plane are staged, or stop the engine (R91). -/
theorem puts_plane {c : Cmd} (sorted : Map.sorted g.s.disp.slots) (hc : cmdOf g.s g.k = some c) (plane : m.plane = g.s.mem.plane)
    (id : x.id = (coreOf g.s g.core).started) (ps : List (Nat × List Byte)) (thru : Bool)
    (ht : t = putPieces (g.counted l).numbered 1 ps (g.taken x l' m) thru) :
    g.eng ∈ (coreOf t g.core).broken ∨ ∃ old, g.Puts { x with old := old } 1 ps t := by
  obtain ⟨old, note⟩ := noteOld_taken (l := l) (l' := l') (m := m) id 1 ps
  obtain ⟨v, hv⟩ : ∃ v, v = countPort (g.taken { x with old := old } l' m) g.core
      (64 * (ps.flatMap fun p => linesOf p.1 p.2.length).eraseDups.length) true := ⟨_, rfl⟩
  have run : t = stageAll v g.k ps (some g.eng) (some g.core) thru := by
    rw [ht, hv, ← note]
    rfl
  rw [countPort_eq] at hv
  have coresV : v.cores = (g.taken { x with old := old } l' m).cores := by rw [hv]
  have memV : v.mem = m := by rw [hv]; rfl
  have syncV : v.sync = g.s.sync := by rw [hv]; rfl
  have dispV : v.disp = g.s.disp := by rw [hv]; rfl
  obtain ⟨u, hu⟩ : ∃ u, u = ps.foldl (fun s p => stagePut s g.k p.1 p.2 thru) v := ⟨_, rfl⟩
  have coresU : u.cores = v.cores := hu ▸ foldl_keeps (·.cores) (fun s p => by simp) ps v
  have memU : u.mem = v.mem := hu ▸ foldl_keeps (·.mem) (fun s p => by simp) ps v
  have syncU : u.sync = v.sync := hu ▸ foldl_keeps (·.sync) (fun s p => by simp) ps v
  have core : coreOf u g.core = (coreOf g.s g.core).takes g.eng { x with old := old } := by
    rw [coreOf_congr coresU, coreOf_congr coresV, coreOf_taken]
  have sortedV : Map.sorted v.disp.slots := dispV ▸ sorted
  have cmdV : cmdOf v g.k = cmdOf g.s g.k := cmdOf_congr (congrArg (·.slots) dispV) _
  unfold stageAll at run
  dsimp only at run
  rw [← hu] at run
  split at run
  · subst run
    refine .inr ⟨old, ⟨⟨by rw [memU, memV, plane], by rw [syncU, syncV], fun o ho => ?_, by rw [core]⟩, by rw [core]; rfl, ?_, ?_⟩⟩
    · rw [coreOf_congr coresU, coreOf_congr coresV, coreOf_taken_ne _ _ _ _ ho]
    · rw [hu, seenByte_stagePuts thru ps sortedV (cmdV.trans hc), if_pos rfl, seenByte_congr (by rw [memV, plane]) dispV]
    · rw [hu, deltas_stagePuts thru ps sortedV, cmdV]
  · rw [run]
    exact .inl (mem_broken_failStage ..)

end Sys2Proof.Machine
end

section
namespace Sys2Proof.Machine
variable {g : Job} {x : Flying} {l l' : Map Word} {m : Memory} {t : State} {loc : Nat} {ps : List (Nat × List Byte)}
  {outs : List (Nat × Nat × Nat)} {c : Cmd}

/-! ### A copy on the chip (R155, R170, R172) -/

/-- An instruction in flight that has written only where it says has started, and all else is as it was. -/
theorem started_of_took (took : g.Took x t) (addr : x.addr = g.i.addr) (sctr : x.sctr = g.i.sctr) (op : x.op.toNat = g.i.op)
    (scratch : ∀ a, apart outs 0 a = true → scratchByte (coreOf t g.core) a = scratchByte (coreOf g.s g.core) a)
    (seen : ∀ a, apart outs 1 a = true → seenByte t g.k a = seenByte g.s g.k a) : Started g t false outs := by
  obtain ⟨plane, sync, others, core⟩ := took
  have queue : ∀ e, queueOfEng (coreOf t g.core) e = if e = g.eng then (queueOfEng (coreOf g.s g.core) e).drop 1 else queueOfEng (coreOf g.s g.core) e := by
    intro e
    rw [core]
    split
    · next same =>
      subst same
      exact Map.get_put_self ..
    · next other => exact Map.get_put_ne _ _ _ (Ne.symm other)
  have flying : flyingOf (coreOf t g.core) g.eng = flyingOf (coreOf g.s g.core) g.eng ++ [x] := by
    rw [core]
    exact Map.get_put_self ..
  refine ⟨sameMemory_of_plane plane, others, ctrGet_congr (by rw [sync]), ?_, fun _ => ?_, queue, ⟨x, flying, addr, sctr, op⟩, scratch,
    fun a _ => ?_, seen⟩
  all_goals rw [core]
  · rfl
  · exact ⟨rfl, rfl, rfl⟩
  · rfl

/-- The entry in flight of a copy on the chip. -/
theorem entry_of_near (near : g.i.far = 0) (named : g.i.op = 1) : (copyForm.entry (g.counted l)).addr = g.i.addr ∧
    (copyForm.entry (g.counted l)).sctr = g.i.sctr ∧ (copyForm.entry (g.counted l)).op.toNat = g.i.op := by
  have sent : copyForm.sent (g.counted l) = g.i := by
    have here : copyForm.remote (g.counted l).i (g.counted l).ops = false := by simp [copyForm, Job.counted, near]
    exact if_neg (by simp [here])
  unfold Form.entry
  rw [sent]
  refine ⟨rfl, rfl, ?_⟩
  rw [named]
  rfl

/-- What a copy on the chip has put, with nothing in flight before it. -/
theorem byte_of_puts (puts : g.Puts x loc ps t) (loc01 : loc = 0 ∨ loc = 1) :
    ∃ f, ∀ a, Job.byte { g with s := still t g.core } loc a = ps.foldl writeOver f a := by
  obtain ⟨-, scratch, seen, -⟩ := puts
  rcases loc01 with rfl | rfl
  · exact ⟨_, fun a => (byte_still_scratch g t a).trans (by rw [scratch, if_pos rfl])⟩
  · exact ⟨_, fun a => (byte_still_plane g t a).trans (by rw [seen, if_pos rfl])⟩

/-- The pieces of a copy on the chip: each element, and each scale byte, of the source at its place in the destination. -/
def Job.nearPieces (g : Job) : List (Nat × List Byte) :=
  copyPieces (g.byte (g.op .da).loc) (g.byte (getOp g.ops .dc).loc) (g.op .da) (getOp g.ops .dc)

/-- A copy that has put its pieces holds the source's elements. -/
theorem holds_of_puts (copies : g.Copies) (loc01 : (getOp g.ops .dc).loc = 0 ∨ (getOp g.ops .dc).loc = 1)
    (puts : g.Puts x (getOp g.ops .dc).loc g.nearPieces t) : Holds g t (getOp g.ops .dc) fun i0 r => g.stored (g.op .da) i0 r := by
  obtain ⟨f, bytes⟩ := byte_of_puts puts loc01
  have w : (g.op .da).w = (getOp g.ops .dc).w := congrArg (fun n => fmtBits (n % 128)) copies.fmt
  exact fun r hr i0 hi => stored_copied copies.fits w f _ hr hi bytes

/-- A copy that has put its pieces holds the source's scale bytes. -/
theorem scales_of_puts (copies : g.Copies) (loc01 : (getOp g.ops .dc).loc = 0 ∨ (getOp g.ops .dc).loc = 1)
    (puts : g.Puts x (getOp g.ops .dc).loc g.nearPieces t) (mx : (getOp g.ops .dc).mx = true) {r : List Nat} (hr : r ∈ (getOp g.ops .dc).rows)
    {n : Nat} (hn : n < ceilDiv ((getOp g.ops .dc).e 0) 32) : Job.byte { g with s := still t g.core } (getOp g.ops .dc).loc
      ((getOp g.ops .dc).scaleAt r + n) = g.byte (g.op .da).loc ((g.op .da).scaleAt r + n) := by
  obtain ⟨f, bytes⟩ := byte_of_puts puts loc01
  rw [bytes, Job.nearPieces, copied_scale copies.fits mx hr hn]

/-- A copy that has put its pieces has written its destination's places and no other byte. -/
theorem started_of_puts (copies : g.Copies) (puts : g.Puts x (getOp g.ops .dc).loc g.nearPieces t) (addr : x.addr = g.i.addr)
    (sctr : x.sctr = g.i.sctr) (op : x.op.toNat = g.i.op) : Started g t false (places (getOp g.ops .dc)) := by
  obtain ⟨took, scratch, seen, -⟩ := puts
  refine started_of_took took addr sctr op (fun a out => ?_) fun a out => ?_
  · rw [scratch]
    split
    · next here => exact not_copied copies.fits (here ▸ out) _
    · rfl
  · rw [seen]
    split
    · next here => exact not_copied copies.fits (here ▸ out) _
    · rfl

/-- A copy on the chip puts its pieces; where the destination is in the plane and overruns the staging, its engine stops. -/
theorem copyRun_puts (near : g.i.far = 0) (red : g.i.red = 0) (loc01 : (getOp g.ops .dc).loc = 0 ∨ (getOp g.ops .dc).loc = 1)
    (sorted : Map.sorted g.s.disp.slots) (hc : cmdOf g.s g.k = some c) (plane : m.plane = g.s.mem.plane)
    (ht : t = copyForm.run (g.counted l).numbered (copyForm.started g l l' m)) :
    ((getOp g.ops .dc).loc = 1 ∧ g.eng ∈ (coreOf t g.core).broken) ∨
      ∃ old, g.Puts { copyForm.entry (g.counted l) with old := old } (getOp g.ops .dc).loc g.nearPieces t := by
  rw [copyRun_of_near (g := (g.counted l).numbered) near red] at ht
  have ht' : t = putPieces (g.counted l).numbered (getOp g.ops .dc).loc g.nearPieces (g.taken (copyForm.entry (g.counted l)) l' m) g.i.nonalloc := ht
  rcases loc01 with here | here <;> rw [here] at ht' ⊢
  · obtain ⟨old, puts⟩ := puts_scratch (g := g) (x := copyForm.entry (g.counted l)) (l := l) (l' := l') plane rfl g.nearPieces g.i.nonalloc
    exact .inr ⟨old, ht' ▸ puts⟩
  · exact (puts_plane sorted hc plane rfl g.nearPieces g.i.nonalloc ht').imp_left fun stopped => ⟨rfl, stopped⟩

end Sys2Proof.Machine
end

section
namespace Sys2Proof.Machine
variable {g : Job} {s t : State} {x : Flying} {l l' : Map Word} {m : Memory} {c : Cmd} {src dst : Opnd} {r : List Nat} {i0 : Nat}

/-! ### A copy that reduces (R46, R48, R154) -/

/-- A change of a command that keeps its leader and its staged bytes keeps what is seen. -/
theorem seenByte_updCmd {f : Cmd → Cmd} {k : Nat} (sorted : Map.sorted s.disp.slots) (lead : ∀ c, (f c).lead = c.lead)
    (staged : ∀ c, (f c).staged = c.staged) (j : Nat) : seenByte (updCmd s k f) j = seenByte s j := by
  have joint : jointSet (updCmd s k f) j = jointSet s j :=
    jointSet_updCmds (f := fun _ => f) (ks := [k]) (fun _ => lead) (List.nodup_singleton k) sorted j
  have bytes : ∀ n a, ((cmdOf (updCmd s k f) n).bind fun c => Map.find? c.staged a) = (cmdOf s n).bind fun c => Map.find? c.staged a := by
    intro n a
    rw [cmdOf_updCmd]
    split
    · next same =>
      subst same
      rw [Option.bind_map]
      exact congrArg (Option.bind _) (funext fun c => congrArg (Map.find? · a) (staged c))
    · rfl
  funext a
  unfold seenByte
  rw [joint, planeByte_congr (s := s) (by simp), findSome?_congr fun n _ => bytes n a]

/-- The rows of an operand of the same extents are rows of the other. -/
theorem hasRow_of_same (dims : src.ext.length = 5) (same : ∀ k < 5, src.e k = dst.e k) (hr : r ∈ dst.rows) : src.hasRow r = true := by
  obtain ⟨i, j, k, n, rfl, hi, hj, hk, hn⟩ := mem_rows.mp hr
  rw [← same 1 (by decide)] at hi
  rw [← same 2 (by decide)] at hj
  rw [← same 3 (by decide)] at hk
  rw [← same 4 (by decide)] at hn
  obtain ⟨a, b, c, d, e, ext⟩ : ∃ a b c d e, src.ext = [a, b, c, d, e] := by
    match src.ext, dims with
    | [a, b, c, d, e], _ => exact ⟨a, b, c, d, e, rfl⟩
  simp only [Opnd.e, ext, List.getD_cons_succ, List.getD_cons_zero] at hi hj hk hn
  simp [Opnd.hasRow, Opnd.outer, ext, hi, hj, hk, hn]

/-- Of each element of its destination a copy reads the source's stored pattern. -/
theorem pattern_of_copies (copies : g.Copies) (hr : r ∈ (getOp g.ops .dc).rows) (hi : i0 < (getOp g.ops .dc).e 0) :
    g.pattern (g.op .da) i0 r = g.stored (g.op .da) i0 r :=
  if_pos ⟨by rw [copies.same 0 (by decide)]; exact hi, hasRow_of_same copies.srcDims copies.same hr⟩

/-- The elements that a job contributes, with their addresses. -/
def elems (o : Opnd) (fn : Nat → List Nat → Nat) : List (Nat × Nat) :=
  o.rows.flatMap fun r => (List.range (o.e 0)).map fun i0 => (o.rowAt r + i0 * o.w / 8, fn i0 r)

/-- The delta of an element. -/
def Job.delta (g : Job) (o : Opnd) (e : Nat × Nat) : Delta where
  addr := e.1
  bytes := o.w / 8
  op := g.i.red
  contrib := g.i.contrib
  core := g.core
  eng := g.eng
  value := BitVec.ofNat 64 (if g.i.red = 9 then e.2 * 2 ^ 16 else e.2)

theorem deltas_elems (g : Job) (o : Opnd) {fn fn' : Nat → List Nat → Nat} (same : ∀ r ∈ o.rows, ∀ i0 < o.e 0, fn i0 r = fn' i0 r) :
    (elems o fn).map (g.delta o) = contributions g o fn' := by
  rw [elems, List.map_flatMap, contributions]
  refine List.flatMap_congr fun r hr => ?_
  rw [List.map_map]
  refine List.map_congr_left fun i0 hi => ?_
  rw [← same r hr i0 (List.mem_range.mp hi)]
  rfl

/-- What an engine contributes joins the command's deltas, or stops the engine. -/
theorem contribute_adds (upsets : g.s.flt.upsets = []) (sorted : Map.sorted g.s.disp.slots) (plane : m.plane = g.s.mem.plane) (o : Opnd)
    (es : List (Nat × Nat)) (thru : Bool) (ht : t = contribute (g.counted l).numbered o es (g.taken x l' m) thru) :
    g.eng ∈ (coreOf t g.core).broken ∨ (g.Took x t ∧ scratchByte (coreOf t g.core) = scratchByte (coreOf g.s g.core) ∧
      seenByte t g.k = seenByte g.s g.k ∧ (cmdOf t g.k).map (·.deltas) =
        (cmdOf g.s g.k).map fun c => (es.map (g.delta o)).foldl (fun l d => foldDelta g.denorm d l) c.deltas) := by
  have cells : ∀ r p, readCells (g.taken x l' m) r p = (g.taken x l' m, true) := readCells_of_no_upsets upsets
  unfold contribute at ht
  simp only [cells, Bool.not_true, Bool.false_eq_true, if_false] at ht
  split at ht
  · right
    obtain ⟨v, hv⟩ : ∃ v, v = countPort (g.taken x l' m) g.core (64 * (es.map fun e => e.1 / 64).eraseDups.length) true := ⟨_, rfl⟩
    have frame : v.cores = (g.taken x l' m).cores ∧ v.mem = m ∧ v.sync = g.s.sync ∧ v.disp = g.s.disp := by
      rw [hv, countPort_eq]
      exact ⟨rfl, rfl, rfl, rfl⟩
    obtain ⟨coresV, memV, syncV, dispV⟩ := frame
    obtain ⟨th, run⟩ : ∃ th : Cmd → List Nat, t = updCmd v g.k fun c =>
        { c with deltas := (es.map (g.delta o)).foldl (fun l d => foldDelta g.denorm d l) c.deltas, thru := th c } := ⟨_, hv ▸ ht⟩
    have coresT : t.cores = (g.taken x l' m).cores := by
      rw [run, ← coresV]
      simp
    have core : coreOf t g.core = (coreOf g.s g.core).takes g.eng x := (coreOf_congr coresT _).trans (coreOf_taken ..)
    have sortedV : Map.sorted v.disp.slots := dispV ▸ sorted
    refine ⟨⟨?_, ?_, fun n hn => (coreOf_congr coresT n).trans (coreOf_taken_ne _ _ _ _ hn), by rw [core]⟩, by rw [core]; rfl, ?_, ?_⟩
    · rw [run, ← plane, ← memV]
      simp
    · rw [run, ← syncV]
      simp
    · rw [run]
      refine Eq.trans (seenByte_updCmd sortedV ?_ ?_ g.k) (seenByte_congr (by rw [memV, plane]) dispV g.k)
      all_goals exact fun _ => rfl
    · rw [run, cmdOf_updCmd, if_pos rfl, cmdOf_congr (congrArg (·.slots) dispV), Option.map_map]
      rfl
  · rw [ht]
    exact .inl (mem_broken_failStage ..)

/-- A reducing copy contributes the source's elements, or stops its engine. -/
theorem copyRun_reduces (near : g.i.far = 0) (red : g.i.red ≠ 0) (copies : g.Copies) (upsets : g.s.flt.upsets = [])
    (sorted : Map.sorted g.s.disp.slots) (plane : m.plane = g.s.mem.plane)
    (ht : t = copyForm.run (g.counted l).numbered (copyForm.started g l l' m)) :
    g.eng ∈ (coreOf t g.core).broken ∨ (g.Took (copyForm.entry (g.counted l)) t ∧
      scratchByte (coreOf t g.core) = scratchByte (coreOf g.s g.core) ∧ seenByte t g.k = seenByte g.s g.k ∧ (cmdOf t g.k).map (·.deltas) =
        (cmdOf g.s g.k).map fun c => (contributions g (getOp g.ops .dc) fun i0 r => g.stored (g.op .da) i0 r).foldl
          (fun l d => foldDelta g.denorm d l) c.deltas) := by
  rw [copyRun_of_reduction (g := (g.counted l).numbered) near red] at ht
  have ht' : t = contribute (g.counted l).numbered (getOp g.ops .dc) (elems (getOp g.ops .dc) fun i0 r => g.pattern (g.op .da) i0 r)
      (g.taken (copyForm.entry (g.counted l)) l' m) g.i.nonalloc := ht.trans (if_neg red)
  rw [← deltas_elems g (getOp g.ops .dc) fun r hr i0 hi => pattern_of_copies copies hr hi]
  exact contribute_adds upsets sorted plane _ _ _ ht'

end Sys2Proof.Machine
end

section
namespace Sys2Proof.Machine
variable {s t : State} {c : CoreId} {j g : Job} {x : Flying} {m : Cmd} {op : Nat}

/-! ### A copy on the chip completes its start (R155, R503) -/

theorem goesOn_iff : goesOn t j = true ↔ j.eng ∉ (coreOf t j.core).broken := by simp [goesOn]

/-- An engine whose instruction is in flight has not stopped by it. -/
theorem goesOn_of_took (took : g.Took x t) (sound : g.eng ∉ (coreOf g.s g.core).broken) : goesOn t g = true := by
  rw [goesOn_iff, took.core]
  exact sound

/-- A copy that starts has elements to write. -/
theorem places_of_startsNow (h : startsNow copyForm op j = true) : ∃ p, p ∈ places (getOp j.ops .dc) := by
  obtain ⟨dc, part⟩ := dc_of_startsNow h
  have copies := copies_of_startsNow h
  rw [starting_eq] at copies
  have fits : (getOp j.ops .dc).Fits := copies.fits
  have whole : 0 ∉ (getOp j.ops .dc).ext := by
    have := List.any_eq_false.mp (zero_of_startsNow h) _ dc
    simpa [part] using this
  have pos : ∀ k < 5, 0 < (getOp j.ops .dc).e k := by
    intro k hk
    have hk' : k < (getOp j.ops .dc).ext.length := by rw [fits.dims]; exact hk
    refine Nat.pos_of_ne_zero fun none => whole ?_
    rw [← none, Opnd.e, List.getD_eq_getElem?_getD, List.getElem?_eq_getElem hk', Option.getD_some]
    exact List.getElem_mem hk'
  have row : [0, 0, 0, 0] ∈ (getOp j.ops .dc).rows :=
    mem_rows.mpr ⟨0, 0, 0, 0, rfl, pos 1 (by decide), pos 2 (by decide), pos 3 (by decide), pos 4 (by decide)⟩
  have first : ((getOp j.ops .dc).rowAt [0, 0, 0, 0], rowLen ((getOp j.ops .dc).e 0) (getOp j.ops .dc).w) ∈ (getOp j.ops .dc).spans := by
    rw [spans_eq fits]
    refine List.mem_flatMap.mpr ⟨_, row, ?_⟩
    rw [Opnd.rowSpans, if_neg (Nat.ne_of_gt (pos 0 (by decide)))]
    exact List.mem_cons_self ..
  exact ⟨_, List.mem_map.mpr ⟨_, first, rfl⟩⟩

/-- The command that a job runs for. -/
theorem cmd_of_atHead {f : Form} (h : j.AtHead op f) : ∃ m, cmdOf j.s j.k = some m := by
  have := h.undecided
  cases hc : cmdOf j.s j.k with
  | none => simp [hc] at this
  | some m => exact ⟨m, rfl⟩

/-- The job of a copy that starts on the path `a`. -/
theorem starting_onPath (f : Form) (j : Job) : ∃ a, starting f j = { j with i := { j.i with alt := a } } := ⟨_, starting_eq f j⟩

/-- What a copy on the chip leaves where its engine goes on: elements and scales at their places, or the command's deltas. -/
structure Job.CopiedNear (g : Job) (t : State) : Prop where
  started : Started g t false (if g.i.red = 0 then places (getOp g.ops .dc) else [])
  scales : g.i.red = 0 → (getOp g.ops .dc).mx = true → ∀ r ∈ (getOp g.ops .dc).rows, ∀ n < ceilDiv ((getOp g.ops .dc).e 0) 32,
    Job.byte { g with s := still t g.core } (getOp g.ops .dc).loc ((getOp g.ops .dc).scaleAt r + n) =
      g.byte (g.op .da).loc ((g.op .da).scaleAt r + n)
  elements : if g.i.red = 0 then Holds g t (getOp g.ops .dc) (fun i0 r => g.stored (g.op .da) i0 r) ∧
      (cmdOf t g.k).map (·.deltas) = (cmdOf g.s g.k).map (·.deltas)
    else (cmdOf t g.k).map (·.deltas) = (cmdOf g.s g.k).map fun m =>
      (contributions g (getOp g.ops .dc) fun i0 r => g.stored (g.op .da) i0 r).foldl (fun l d => foldDelta g.denorm d l) m.deltas

/-- A copy that moves elements on the chip goes on where its destination is in the scratchpad, and leaves the source's elements where it goes on. -/
theorem copied_of_move {l l' : Map Word} {mem : Memory} (near : g.i.far = 0) (red : g.i.red = 0) (named : g.i.op = 1) (copies : g.Copies)
    (loc01 : (getOp g.ops .dc).loc = 0 ∨ (getOp g.ops .dc).loc = 1) (sound : g.eng ∉ (coreOf g.s g.core).broken)
    (sorted : Map.sorted g.s.disp.slots) (hc : cmdOf g.s g.k = some m) (plane : mem.plane = g.s.mem.plane)
    (ht : t = copyForm.run (g.counted l).numbered (copyForm.started g l l' mem)) :
    ((getOp g.ops .dc).loc ≠ 1 → goesOn t g = true) ∧ (goesOn t g = true → g.CopiedNear t) := by
  rcases copyRun_puts near red loc01 sorted hc plane ht with ⟨inPlane, stopped⟩ | ⟨old, puts⟩
  · exact ⟨fun no => absurd inPlane no, fun goes => absurd stopped (goesOn_iff.mp goes)⟩
  · obtain ⟨addr, sctr, opcode⟩ := entry_of_near (l := l) near named
    refine ⟨fun _ => goesOn_of_took puts.toTook sound, fun _ => ⟨?_, fun _ mx r hr n hn => scales_of_puts copies loc01 puts mx hr hn, ?_⟩⟩
    · rw [if_pos red]
      exact started_of_puts copies puts addr sctr opcode
    · rw [if_pos red]
      exact ⟨holds_of_puts copies loc01 puts, puts.deltas⟩

/-- A copy that reduces contributes the source's elements where it goes on. -/
theorem copied_of_reduction {l l' : Map Word} {mem : Memory} (near : g.i.far = 0) (red : g.i.red ≠ 0) (named : g.i.op = 1) (copies : g.Copies)
    (upsets : g.s.flt.upsets = []) (sorted : Map.sorted g.s.disp.slots) (plane : mem.plane = g.s.mem.plane)
    (ht : t = copyForm.run (g.counted l).numbered (copyForm.started g l l' mem)) (goes : goesOn t g = true) : g.CopiedNear t := by
  obtain ⟨took, scratch, seen, deltas⟩ := (copyRun_reduces near red copies upsets sorted plane ht).resolve_left (goesOn_iff.mp goes)
  obtain ⟨addr, sctr, opcode⟩ := entry_of_near (l := l) near named
  refine ⟨?_, fun none => absurd none red, ?_⟩
  · exact started_of_took took addr sctr opcode (fun a _ => congrFun scratch a) fun a _ => congrFun seen a
  · rw [if_neg red]
    exact deltas

/-- A copy on the chip that starts. -/
theorem copy_near (core : j.core = c.toNat) (eng : j.eng = 3) (sorted : Map.sorted j.s.disp.slots) (h : startsNow copyForm 0x01 j = true)
    (near : j.i.far = 0) : ∃ t, Answers (.engineCopy c) j.s t ∧ ((getOp j.ops .dc).loc ≠ 1 → j.i.red = 0 → goesOn t j = true) ∧
      (goesOn t j = true → (starting copyForm j).CopiedNear t) := by
  obtain ⟨l, l', mem, plane, run⟩ := exec_copy_starts core eng h
  obtain ⟨head, -⟩ := startsNow_iff h
  obtain ⟨m, hc⟩ := cmd_of_atHead head
  have copies := copies_of_startsNow h
  have loc01 := loc_of_near h near
  obtain ⟨a, hg⟩ := starting_onPath copyForm j
  rw [hg] at run copies ⊢
  refine ⟨_, run, ?_⟩
  by_cases red : j.i.red = 0
  · obtain ⟨goes, copied⟩ := copied_of_move (g := { j with i := { j.i with alt := a } }) near red head.named copies loc01 head.sound sorted hc plane rfl
    exact ⟨fun no _ => goes no, copied⟩
  · exact ⟨fun _ none => absurd none red,
      copied_of_reduction (g := { j with i := { j.i with alt := a } }) near red head.named copies head.upsets sorted plane rfl⟩

end Sys2Proof.Machine
end

section
namespace Sys2Proof.Machine
variable {s t : State} {c : CoreId} {j g : Job} {m : Cmd}

/-! ### The copy engine (R155, R503) -/

/-- A copy on the chip produces the source's elements, and its scale bytes. -/
theorem copy_produces : Produces 3 0x01 false (fun j => j.i.far = 0) (fun j i0 r => j.stored (j.op .da) i0 r) (fun _ => [])
    (fun j t => j.i.red = 0 → (getOp j.ops .dc).mx = true → ∀ r ∈ (getOp j.ops .dc).rows, ∀ n < ceilDiv ((getOp j.ops .dc).e 0) 32,
      Job.byte { j with s := still t j.core } (getOp j.ops .dc).loc ((getOp j.ops .dc).scaleAt r + n) =
        j.byte (j.op .da).loc ((j.op .da).scaleAt r + n)) := by
  intro s c i f j instr inv state core eng starts g near o all
  obtain ⟨rfl, rfl⟩ : Instr.engineCopy c = i ∧ copyForm = f := by
    simpa [engInstr] using instr
  subst state
  obtain ⟨-, sorted, -⟩ := inv
  have near' : j.i.far = 0 := by
    have : (starting copyForm j).i.far = 0 := of_decide_eq_true near
    rwa [starting_eq] at this
  obtain ⟨t, run, goes, copied⟩ := copy_near core eng sorted starts near'
  have hall : all = (if j.i.red = 0 then places o else []) := List.append_nil _
  refine ⟨t, run, fun no red => goes ?_ red, fun on => ?_⟩
  · obtain ⟨p, hp⟩ := places_of_startsNow starts
    rw [hall, if_pos red] at no
    have away := List.all_eq_true.mp no p hp
    obtain ⟨q, -, rfl⟩ := List.mem_map.mp hp
    simpa using away
  · have copied := copied on
    rw [hall]
    obtain ⟨a, hg⟩ := starting_onPath copyForm j
    have hg' : g = { j with i := { j.i with alt := a } } := hg
    rw [hg] at copied
    rw [hg']
    exact ⟨copied.started, copied.scales, copied.elements⟩

section
variable {l l' : Map Word} {mem : Memory} (plane : mem.plane = g.s.mem.plane)
  (ht : t = copyForm.run (g.counted l).numbered (copyForm.started g l l' mem))
include plane ht

/-- A source elsewhere is asked for. -/
theorem copy_reads_source (hm : cmdOf g.s g.k = some m) (far : g.i.far = 1) : SameMemory g.s t ∧ cmdOf t g.k = some m ∧
    ∃ x ∈ t.fab.transfers, x.Reads g (decide ((g.op .da).loc = 2)) (g.op .da).spans := by
  rw [copyRun_of_far_source (g := (g.counted l).numbered) far] at ht
  exact copy_begins_transfer plane hm _ _ _ _ ht

/-- What a destination elsewhere must keep is asked for. -/
theorem copy_reads_edges (hm : cmdOf g.s g.k = some m) (far : g.i.far = 2) (edges : copyEdges (getOp g.ops .dc) ≠ []) :
    SameMemory g.s t ∧ cmdOf t g.k = some m ∧
      ∃ x ∈ t.fab.transfers, x.Reads g (decide ((getOp g.ops .dc).loc = 2)) (copyEdges (getOp g.ops .dc)) := by
  rw [copyRun_of_far_edges (g := (g.counted l).numbered) far edges] at ht
  have begun := copy_begins_transfer (l := l) (l' := l') plane hm (fun f => { f with reads := 1 }) (decide ((getOp g.ops .dc).loc = 2))
    (copyEdges (getOp g.ops .dc)) (some (g.counted l).numbered.i) rfl
  rw [ht]
  exact begun

/-- A destination at the host takes its bytes in messages of at most 1 MiB. -/
theorem copy_sends_host (hm : cmdOf g.s g.k = some m) (fits : (getOp g.ops .dc).Fits) (far : g.i.far = 2)
    (edges : copyEdges (getOp g.ops .dc) = []) (host : (getOp g.ops .dc).loc = 2) : SameMemory g.s t ∧ (3 ∉ (coreOf t g.core).broken →
      ∃ xs, cmdOf t g.k = some { m with egress := m.egress ++ xs } ∧
        (∀ x ∈ xs, x.host = true ∧ x.core = some g.core ∧ x.dest = g.i.selector ∧ x.data.length ≤ 1048576 ∧ x.granted = true) ∧
        ∀ r ∈ (getOp g.ops .dc).rows, ∀ n < (getOp g.ops .dc).e 0 * (getOp g.ops .dc).w / 8, ∃ x ∈ xs,
          x.addr ≤ (getOp g.ops .dc).rowAt r + n ∧
            x.data[(getOp g.ops .dc).rowAt r + n - x.addr]? = some (g.byte (g.op .da).loc ((g.op .da).rowAt r + n))) := by
  rw [copyRun_of_far (g := (g.counted l).numbered) far edges] at ht
  obtain ⟨same, staged⟩ := stageFar_of_host (g := (g.counted l).numbered) host (fun _ => 0) (copyForm.started g l l' mem)
  have cmd : cmdOf (copyForm.started g l l' mem) g.k = some m := hm
  rw [ht]
  refine ⟨sameMemory_of_plane (same.trans plane), fun sound => ⟨_, (staged sound).trans (congrArg (Option.map _) cmd), fun x hx => ?_, ?_⟩⟩
  · exact mem_hostWrites (g := (g.counted l).numbered) hx
  · exact fun r hr n hn => hostWrites_hold (g := (g.counted l).numbered) fits hr hn

/-- A destination at a peer takes its bytes in one message of whole lines. -/
theorem copy_sends_peer (hm : cmdOf g.s g.k = some m) (fits : (getOp g.ops .dc).Fits) (far : g.i.far = 2)
    (edges : copyEdges (getOp g.ops .dc) = []) (peer : (getOp g.ops .dc).loc ≠ 2) : SameMemory g.s t ∧ (3 ∉ (coreOf t g.core).broken →
      ∃ x, cmdOf t g.k = some { m with egress := m.egress ++ [x] } ∧ x.host = false ∧ x.core = some g.core ∧ x.dest = g.i.selector ∧
        x.addr = lineOf (getOp g.ops .dc).base ∧ x.sctr = g.i.sctr ∧ x.sinc = g.i.sinc ∧
        ∀ r ∈ (getOp g.ops .dc).rows, ∀ n < (getOp g.ops .dc).e 0 * (getOp g.ops .dc).w / 8,
          x.data[(getOp g.ops .dc).rowAt r + n - x.addr]? = some (g.byte (g.op .da).loc ((g.op .da).rowAt r + n))) := by
  rw [copyRun_of_far (g := (g.counted l).numbered) far edges] at ht
  obtain ⟨same, staged⟩ := stageFar_of_peer (g := (g.counted l).numbered) peer (fun _ => 0) (copyForm.started g l l' mem)
  have cmd : cmdOf (copyForm.started g l l' mem) g.k = some m := hm
  rw [ht]
  refine ⟨sameMemory_of_plane (same.trans plane), fun sound =>
    ⟨_, (staged sound).trans (congrArg (Option.map _) cmd), rfl, rfl, rfl, rfl, rfl, rfl, ?_⟩⟩
  exact fun r hr n hn => peerWrite_holds (g := (g.counted l).numbered) fits hr hn

end

/-- The transfer of a copy of core `c`, in the statement's terms. -/
theorem fields_of_reads {x : Transfer} {host : Bool} {rs : List (Nat × Nat)} (core : g.core = c.toNat) (h : x.Reads g host rs) :
    x.who = .engine c.toNat ∧ x.slot = g.k ∧ x.host = host ∧ x.dest = g.i.selector ∧ x.buf = [] ∧
      x.left ++ x.todo = (runsOf (if host then rs else rs.map wholeLines)).flatMap (cutRun 65536) :=
  core ▸ h

section
variable {l l' : Map Word} {mem : Memory} (plane : mem.plane = g.s.mem.plane)
  (ht : t = copyForm.run (g.counted l).numbered (copyForm.started g l l' mem)) (core : g.core = c.toNat) (hm : cmdOf g.s g.k = some m)
include plane ht core hm

theorem copy_reads_peer_edges (far : g.i.far = 2) (loc : (getOp g.ops .dc).loc = 1) (edges : peerEdges (getOp g.ops .dc) ≠ []) :
    SameMemory g.s t ∧ cmdOf t g.k = some m ∧ ∃ x ∈ t.fab.transfers, x.who = .engine c.toNat ∧ x.slot = g.k ∧ x.host = false ∧
      x.dest = g.i.selector ∧ x.buf = [] ∧ x.left ++ x.todo = (runsOf [wholeLines (peerLines (getOp g.ops .dc))]).flatMap (cutRun 65536) := by
  have peer : (getOp g.ops .dc).loc ≠ 2 := by rw [loc]; decide
  have whole : copyEdges (getOp g.ops .dc) = [peerLines (getOp g.ops .dc)] := by
    rw [copyEdges, if_neg peer]
    unfold peerEdges at edges ⊢
    split at edges
    · exact absurd rfl edges
    · next h => rw [if_neg h]
  obtain ⟨same, cmd, x, hx, reads⟩ := copy_reads_edges plane ht hm far (by rw [whole]; exact List.cons_ne_nil _ _)
  rw [whole, decide_eq_false peer] at reads
  exact ⟨same, cmd, x, hx, fields_of_reads core reads⟩

theorem copy_reads_host_edges (far : g.i.far = 2) (loc : (getOp g.ops .dc).loc = 2) (edges : edgeBytes (getOp g.ops .dc) ≠ []) :
    SameMemory g.s t ∧ cmdOf t g.k = some m ∧ ∃ x ∈ t.fab.transfers, x.who = .engine c.toNat ∧ x.slot = g.k ∧ x.host = true ∧
      x.dest = g.i.selector ∧ x.buf = [] ∧ x.left ++ x.todo = (runsOf (edgeBytes (getOp g.ops .dc))).flatMap (cutRun 65536) := by
  have bytes : copyEdges (getOp g.ops .dc) = edgeBytes (getOp g.ops .dc) := if_pos loc
  obtain ⟨same, cmd, x, hx, reads⟩ := copy_reads_edges plane ht hm far (by rwa [bytes])
  rw [bytes, decide_eq_true loc] at reads
  exact ⟨same, cmd, x, hx, fields_of_reads core reads⟩

theorem copy_reads_far_source (far : g.i.far = 1) : SameMemory g.s t ∧ cmdOf t g.k = some m ∧
    ∃ x ∈ t.fab.transfers, x.who = .engine c.toNat ∧ x.slot = g.k ∧ x.host = decide ((g.op .da).loc = 2) ∧ x.dest = g.i.selector ∧ x.buf = [] ∧
      x.left ++ x.todo = (runsOf (if (g.op .da).loc = 2 then (g.op .da).spans else (g.op .da).spans.map wholeLines)).flatMap (cutRun 65536) := by
  obtain ⟨same, cmd, x, hx, reads⟩ := copy_reads_source plane ht hm far
  have fields := fields_of_reads core reads
  simp only [decide_eq_true_eq] at fields
  exact ⟨same, cmd, x, hx, fields⟩

end

/-- Settles O36: a copy on the chip writes the source's rows over its destination byte by byte; one to or from elsewhere begins the transfer of
what it reads, or stages what it sends. -/
theorem engineCopies : Obligations.EngineCopies := by
  unfold Obligations.EngineCopies
  refine ⟨copy_produces, ?_⟩
  intro s c j m inv state core eng starts hm
  subst state
  obtain ⟨l, l', mem, plane, run⟩ := exec_copy_starts core eng starts
  have fits := (copies_of_startsNow starts).fits
  obtain ⟨a, hg⟩ := starting_onPath copyForm j
  rw [hg] at run fits ⊢
  intro g src dst
  obtain ⟨t, ht⟩ : ∃ t, t = copyForm.run (g.counted l).numbered (copyForm.started g l l' mem) := ⟨_, rfl⟩
  have run' : Answers (.engineCopy c) j.s t := ht ▸ run
  have sound : goesOn t j = true → 3 ∉ (coreOf t g.core).broken := fun goes => eng ▸ goesOn_iff.mp goes
  refine ⟨fun far => ?_, fun far loc edges => ?_, fun far loc edges => ?_, fun far loc edges => ?_, fun far loc edges => ?_⟩
  · obtain ⟨same, cmd, x, hx, fields⟩ := copy_reads_far_source (g := g) plane ht core hm far
    exact ⟨t, x, run', same, cmd, hx, fields⟩
  · obtain ⟨same, cmd, x, hx, fields⟩ := copy_reads_peer_edges (g := g) plane ht core hm far loc edges
    exact ⟨t, x, run', same, cmd, hx, fields⟩
  · obtain ⟨same, cmd, x, hx, fields⟩ := copy_reads_host_edges (g := g) plane ht core hm far loc edges
    exact ⟨t, x, run', same, cmd, hx, fields⟩
  · have none : copyEdges dst = [] := (if_pos loc).trans edges
    obtain ⟨same, sends⟩ := copy_sends_host (g := g) plane ht hm fits far none loc
    exact ⟨t, run', same, fun goes => core ▸ sends (sound goes)⟩
  · have peer : dst.loc ≠ 2 := by rw [loc]; decide
    have none : copyEdges dst = [] := (if_neg peer).trans edges
    obtain ⟨same, sends⟩ := copy_sends_peer (g := g) plane ht hm fits far none peer
    exact ⟨t, run', same, fun goes => core ▸ sends (sound goes)⟩

end Sys2Proof.Machine
end

section
namespace Sys2Proof.Machine
variable {α : Type} {p : α → Bool} {l r : List α} {a : α}

/-! ### The first element of a list that passes a test -/

theorem find?_append_cons (skip : ∀ x ∈ l, p x = false) (hit : p a = true) : (l ++ a :: r).find? p = some a :=
  List.find?_eq_some_iff_append.mpr ⟨hit, l, r, rfl, fun x hx => by rw [skip x hx]; rfl⟩

theorem dropFirst_append_cons (skip : ∀ x ∈ l, p x = false) (hit : p a = true) : dropFirst p (l ++ a :: r) = l ++ r := by
  induction l with
  | nil => exact if_pos hit
  | cons b l ih =>
    obtain ⟨hb, hl⟩ := List.forall_mem_cons.mp skip
    rw [List.cons_append, dropFirst, hb, ih hl]
    rfl

theorem updFirst_append_cons (f : α → α) (skip : ∀ x ∈ l, p x = false) (hit : p a = true) : updFirst p f (l ++ a :: r) = l ++ f a :: r := by
  induction l with
  | nil => exact if_pos hit
  | cons b l ih =>
    obtain ⟨hb, hl⟩ := List.forall_mem_cons.mp skip
    rw [List.cons_append, updFirst, hb, ih hl]
    rfl

/-- What alone passes a test stands once in the list. -/
theorem split_of_filter_eq_singleton (h : l.filter p = [a]) : p a = true ∧ ∃ b c, l = b ++ a :: c ∧ a ∉ b ∧ a ∉ c := by
  obtain ⟨b, c, rfl, none, hit, rest⟩ := List.filter_eq_cons_iff.mp h
  exact ⟨hit, b, c, rfl, fun hb => none a hb hit, fun hc => List.filter_eq_nil_iff.mp rest a hc hit⟩

end Sys2Proof.Machine
end

section
namespace Sys2Proof.Machine
variable {s : State} {v : Word} {w : Watch}

/-! ### A counter rises, and its wakes leave (R179, R184) -/

/-- The waiter is a core's, which a wake tells of its counter (R184). -/
def Waiter.hears : Waiter → Bool
  | .control _ => true
  | .engine _ _ => true
  | .prefetch _ _ _ => false
  | .start _ => false

theorem sync_fireWatch (v : Word) (s : State) (x : Waiter) :
    (fireWatch v s x).sync = { s.sync with wakes := s.sync.wakes ++ if x.hears then [⟨x, v⟩] else [] } := by
  cases x with
  | control c => rfl
  | engine c e => rfl
  | prefetch b k i => simp [fireWatch, Waiter.hears]
  | start k => simp [fireWatch, Waiter.hears]

theorem sync_foldl_fireWatch (v : Word) (xs : List Waiter) (s : State) :
    (xs.foldl (fireWatch v) s).sync = { s.sync with wakes := s.sync.wakes ++ (xs.filter Waiter.hears).map fun x => ⟨x, v⟩ } := by
  induction xs generalizing s with
  | nil => simp
  | cons x xs ih =>
    rw [List.foldl_cons, ih, sync_fireWatch]
    cases hx : x.hears <;> simp [hx]

/-- What a counter holds once `inc` is added to it (R179). -/
def ctrSum (s : State) (n inc : Nat) : Word := BitVec.ofNat 64 (min ((ctrGet s n).toNat + inc) (2 ^ 64 - 1))

theorem sync_ctrAdd (s : State) (n inc : Nat) : (ctrAdd s n inc).sync =
    { s.sync with
      counters := Map.set (fun _ => 0) s.sync.counters n (ctrSum s n inc)
      watches := s.sync.watches.filter fun w => !wokenBy n (ctrSum s n inc) w
      wakes := s.sync.wakes ++
        (((s.sync.watches.filter (wokenBy n (ctrSum s n inc))).map (·.who)).filter Waiter.hears).map fun x => ⟨x, ctrSum s n inc⟩ } :=
  sync_foldl_fireWatch ..

theorem mem_watches_ctrAdd {n inc : Nat} :
    w ∈ (ctrAdd s n inc).sync.watches ↔ w ∈ s.sync.watches ∧ wokenBy n (ctrSum s n inc) w = false := by
  simp [sync_ctrAdd]

theorem mem_wakes_ctrAdd {n inc : Nat} (hw : w ∈ s.sync.watches) (woken : wokenBy n (ctrSum s n inc) w = true) (hears : w.who.hears = true) :
    ⟨w.who, ctrSum s n inc⟩ ∈ (ctrAdd s n inc).sync.wakes := by
  rw [sync_ctrAdd]
  have hit : w.who ∈ ((s.sync.watches.filter (wokenBy n (ctrSum s n inc))).map (·.who)).filter Waiter.hears :=
    List.mem_filter.mpr ⟨List.mem_map_of_mem (List.mem_filter.mpr ⟨hw, woken⟩), hears⟩
  exact List.mem_append_right _ (List.mem_map_of_mem hit)

theorem wokenBy_iff {n : Nat} : wokenBy n v w = true ↔ w.ctr = n ∧ w.polling = false ∧ w.target.toNat ≤ v.toNat := by
  simp [wokenBy, and_assoc]

/-! ### COUNTER_SIGNAL (R20, R182) -/

/-- The signals in flight become `l`, as one has left them. -/
def signalTaken (s : State) (l : List Sig) : State := { s with sync := { s.sync with inflight := l } }

/-- A counter of a core is read without the system area, and one of the chip without an error where no error waits to be found (R400, R405). -/
theorem ctrRead_clean {n : Nat} (h : n < 0xC000 ∨ s.flt.upsets = []) (slot : Option Nat) (det : Nat) : ctrRead s slot det n = (s, true) := by
  unfold ctrRead
  split
  · rfl
  · next high =>
    rw [areaRead, h.resolve_left high]
    rfl

section
variable {n : BitVec 16} {g : Sig} {before after : List Sig} (queue : s.sync.inflight = before ++ g :: after)
  (first : ∀ x ∈ before, x.ctr ≠ n.toNat) (ctr : g.ctr = n.toNat)
include queue first ctr

theorem find?_inflight : (s.sync.inflight.find? fun x => x.ctr = n.toNat) = some g := by
  rw [queue]
  exact find?_append_cons (fun x hx => decide_eq_false (first x hx)) (decide_eq_true ctr)

theorem sentBefore_inflight : sentBefore n.toNat s.sync.inflight = before := by
  rw [sentBefore, queue, List.takeWhile_append_of_pos fun x hx => bne_iff_ne.mpr (first x hx), List.takeWhile_cons_of_neg (by simp [ctr]),
    List.append_nil]

/-- A signal waits for those that were sent before it along its path. -/
theorem execCounterSignal_waits (behind : ∃ x ∈ before, g.sharesPath x = true) : execCounterSignal n s = .next s := by
  simp only [execCounterSignal, find?_inflight queue first ctr, sentBefore_inflight queue first ctr, List.any_eq_true.mpr behind, if_true]

theorem execCounterSignal_applies (ahead : ∀ x ∈ before, g.sharesPath x = false) (clean : n.toNat < 0xC000 ∨ s.flt.upsets = []) :
    execCounterSignal n s = .next (ctrAdd (signalTaken s (before ++ after)) n.toNat g.inc) := by
  have none : before.any g.sharesPath = false := List.any_eq_false.mpr fun x hx => by simp [ahead x hx]
  have taken : dropFirst (fun x => decide (x.ctr = n.toNat)) s.sync.inflight = before ++ after := by
    rw [queue]
    exact dropFirst_append_cons (fun x hx => decide_eq_false (first x hx)) (decide_eq_true ctr)
  have read := ctrRead_clean (s := signalTaken s (before ++ after)) clean g.slot 0
  rw [signalTaken] at read ⊢
  simp only [execCounterSignal, find?_inflight queue first ctr, sentBefore_inflight queue first ctr, none, taken, ctr, read, Bool.false_eq_true,
    if_false, if_true]

end

/-! ### A waiter goes on (R184, R188) -/

/-- The control core goes past its WAIT, whose register takes the value that it was told. -/
theorem proceed_control {c n gd : Nat} {target : Word} {pc : BitVec 48} (waits : (coreOf s c).act = .waiting n target gd pc) (v : Word) :
    proceed s c 0 v = setCore (watchDrop s fun w => w = .control c) c { gSet (coreOf s c) gd v with act := .running, pc := pc + 4 } := by
  have core : coreOf (watchDrop s fun w => w = .control c) c = coreOf s c := rfl
  simp only [proceed, updCore, waiterAt, if_true, core, waits]

/-- Core `c` alone changes, and its own watches and wakes are dropped (R184). -/
theorem proceed_control_spec {c n gd : Nat} {target : Word} {pc : BitVec 48} (waits : (coreOf s c).act = .waiting n target gd pc) (v : Word) :
    SameMemory s (proceed s c 0 v) ∧ (∀ o, o ≠ c → coreOf (proceed s c 0 v) o = coreOf s o) ∧
    coreOf (proceed s c 0 v) c = { coreOf s c with g := (coreOf (proceed s c 0 v) c).g, act := .running, pc := pc + 4 } ∧
    (∀ r, gGet (coreOf (proceed s c 0 v) c) r = if r = gd ∧ r ≠ 0 then v else gGet (coreOf s c) r) ∧
    (proceed s c 0 v).sync.watches = (s.sync.watches.filter fun w => w.who ≠ .control c) ∧
    (proceed s c 0 v).sync.wakes = s.sync.wakes.filter fun w => w.who ≠ .control c := by
  have regs : gSet (coreOf s c) gd v = { coreOf s c with g := (gSet (coreOf s c) gd v).g } := by rw [gSet]; split <;> rfl
  have dropped : ∀ x : Waiter, (!decide (x = .control c)) = decide (x ≠ .control c) := fun x => by simp
  rw [proceed_control waits, coreOf_setCore_self]
  refine ⟨fun a => rfl, fun o ho => coreOf_setCore_ne _ _ ho.symm, ?_, fun r => ?_, ?_, ?_⟩
  · rw [regs]
  · exact (gGet_gSet (coreOf s c) gd r v).trans (if_congr (and_congr_right fun h => by rw [h]) rfl rfl)
  · simp only [setCore_sync, watchDrop, dropped]
  · simp only [setCore_sync, watchDrop, dropped]

theorem execWake_control {c : CoreId} {v : Word} {before after : List WakeUp} (queue : s.sync.wakes = before ++ ⟨.control c.toNat, v⟩ :: after)
    (first : ∀ x ∈ before, x.who ≠ .control c.toNat) : execWake c 0 s = .next (proceed s c.toNat 0 v) := by
  have found : (s.sync.wakes.find? fun x => x.who = waiterAt c.toNat (0 : BitVec 3).toNat) = some ⟨.control c.toNat, v⟩ := by
    rw [queue]
    exact find?_append_cons (fun x hx => decide_eq_false (first x hx)) (decide_eq_true rfl)
  rw [execWake, found]
  rfl

/-- The instruction at the head of an engine's queue is awake and has been told. -/
theorem proceed_engine {c e : Nat} {i : EInstr} {rest : List EInstr} (head : queueOfEng (coreOf s c) e = i :: rest) (v : Word) :
    proceed s c (e + 1) v = setCore (watchDrop s fun w => w = .engine c e) c
      { coreOf s c with queues := Map.put (coreOf s c).queues e ({ i with asleep := false, woken := true } :: rest) } := by
  have core : coreOf (watchDrop s fun w => w = .engine c e) c = coreOf s c := rfl
  simp only [proceed, updCore, waiterAt, Nat.add_eq_zero_iff, Nat.one_ne_zero, and_false, if_false, Nat.add_sub_cancel, core, head]

theorem queueOfEng_put (k : Core) (e x : Nat) (q : List EInstr) :
    queueOfEng { k with queues := Map.put k.queues e q } x = if x = e then q else queueOfEng k x := by
  simp only [queueOfEng, Map.get, Map.find?_put, eq_comm (a := x)]
  split <;> rfl

theorem execWake_engine {c : CoreId} {e : Nat} (he : e < 5)
    (found : (s.sync.wakes.find? fun w => w.who = .engine c.toNat e) = some ⟨.engine c.toNat e, v⟩) :
    execWake c (BitVec.ofNat 3 (e + 1)) s = .next (proceed s c.toNat (e + 1) v) := by
  have who : (BitVec.ofNat 3 (e + 1)).toNat = e + 1 := Nat.mod_eq_of_lt (by omega)
  have waiter : waiterAt c.toNat (e + 1) = .engine c.toNat e := by simp [waiterAt]
  rw [execWake, who, waiter, found]

/-! ### COUNTER_POLL (R185) -/

section
variable {n : BitVec 16} (only : (s.sync.watches.filter fun x => x.ctr = n.toNat && x.polling) = [w])
include only

theorem execCounterPoll_one : execCounterPoll n s = .next (pollOne n.toNat s w) := by
  rw [execCounterPoll, only]
  rfl

/-- The one that polls stands once among the watches. -/
theorem polling_split : w.polling = true ∧ ∃ before after, s.sync.watches = before ++ w :: after ∧ w ∉ before ∧ w ∉ after := by
  obtain ⟨hit, parts⟩ := split_of_filter_eq_singleton only
  exact ⟨(Bool.and_eq_true_iff.mp hit).2, parts⟩

theorem pollOne_satisfied (reached : w.target.toNat ≤ (ctrGet s n.toNat).toNat) (hears : w.who.hears = true) :
    SameMemory s (pollOne n.toNat s w) ∧ (pollOne n.toNat s w).sync.wakes = s.sync.wakes ++ [⟨w.who, ctrGet s n.toNat⟩] ∧
      w ∉ (pollOne n.toNat s w).sync.watches := by
  obtain ⟨-, before, after, list, notBefore, notAfter⟩ := polling_split only
  have gone : dropFirst (· = w) s.sync.watches = before ++ after := by
    rw [list]
    exact dropFirst_append_cons (fun x hx => decide_eq_false fun e => notBefore (e ▸ hx)) (decide_eq_true rfl)
  have fired : pollOne n.toNat s w =
      fireWatch (ctrGet s n.toNat) { s with sync := { s.sync with watches := before ++ after } } w.who := by
    simp only [pollOne, satisfied, reached, decide_true, if_true, gone]
  rw [fired]
  refine ⟨sameMemory_of_plane (by simp), ?_, ?_⟩
  · rw [sync_fireWatch, hears]
    rfl
  · rw [sync_fireWatch]
    exact fun h => (List.mem_append.mp h).elim notBefore notAfter

theorem pollOne_registers (short : (ctrGet s n.toNat).toNat < w.target.toNat) (room : watchRoom s n.toNat = true) :
    pollOne n.toNat s w = { s with sync := { s.sync with watches := (pollOne n.toNat s w).sync.watches } } ∧
      w ∉ (pollOne n.toNat s w).sync.watches ∧ { w with polling := false } ∈ (pollOne n.toNat s w).sync.watches := by
  obtain ⟨polling, before, after, list, notBefore, notAfter⟩ := polling_split only
  have taken : updFirst (· = w) (fun w => { w with polling := false }) s.sync.watches = before ++ { w with polling := false } :: after := by
    rw [list]
    exact updFirst_append_cons _ (fun x hx => decide_eq_false fun e => notBefore (e ▸ hx)) (decide_eq_true rfl)
  have registered : pollOne n.toNat s w = { s with sync := { s.sync with watches := before ++ { w with polling := false } :: after } } := by
    simp only [pollOne, satisfied, Nat.not_le.mpr short, decide_false, Bool.false_eq_true, if_false, room, if_true, taken]
  rw [registered]
  refine ⟨rfl, fun h => ?_, List.mem_append_right _ List.mem_cons_self⟩
  rcases List.mem_append.mp h with h | h
  · exact notBefore h
  · rcases List.mem_cons.mp h with h | h
    · exact absurd ((congrArg Watch.polling h).symm.trans polling) Bool.false_ne_true
    · exact notAfter h

end

/-! ### WAIT_TIMEOUT (R188, R189) -/

section
variable {c : CoreId} {slot : Nat} (watch : (s.sync.watches.find? fun w => w.who = .control c.toNat) = some w)
  (hslot : (coreOf s c.toNat).slot = some slot) (runs : (coreOf s c.toNat).dbg.state = 1)
include watch hslot runs

/-- The last reading satisfies the wait. -/
theorem execWaitTimeout_satisfied (reached : w.target.toNat ≤ (ctrGet s w.ctr).toNat) :
    execWaitTimeout c 0 s = .next (proceed s c.toNat 0 (ctrGet s w.ctr)) := by
  have waiter : waiterAt c.toNat (0 : BitVec 3).toNat = .control c.toNat := rfl
  simp only [execWaitTimeout, waiter, watch, hslot, runs, satisfied, reached, decide_true, if_true]
  rfl

theorem execWaitTimeout_fails {m : Cmd} (cmd : cmdOf s slot = some m) (undecided : m.decided = false) (alive : m.kill = none)
    (short : (ctrGet s w.ctr).toNat < w.target.toNat) :
    execWaitTimeout c 0 s = .next (failCmd (timeoutRecs (watchDrop s fun x => x = .control c.toNat) c.toNat slot 0 (coreOf s c.toNat).pc.toNat w
      (ctrGet s w.ctr)) slot) := by
  have waiter : waiterAt c.toNat (0 : BitVec 3).toNat = .control c.toNat := rfl
  simp only [execWaitTimeout, waiter, watch, hslot, runs, satisfied, Nat.not_le.mpr short, decide_false, cmd, undecided, alive,
    Option.isSome_none, Bool.false_eq_true, or_self, if_false]
  rfl

end

/-- The records of a control core's timeout. -/
theorem timeoutRecs_control (s : State) (c slot : Nat) (pc : BitVec 48) (w : Watch) (v : Word) : timeoutRecs s c slot 0 pc.toNat w v =
    logAppend s [⟨0x03, 1, c, some slot, w.target.toNat, 0x40 * 2 ^ 56 + pc.toNat⟩,
      ⟨0x03, 1, c, some slot, v.toNat, w.ticks % 2 ^ 32 * 2 ^ 32 + w.ctr⟩] := by
  rw [timeoutRecs, Nat.mod_eq_of_lt pc.isLt]
  rfl

/-- Settles O38: adding to a counter raises it and sends its wakes (`sync_ctrAdd`), a waiter that is told goes on (`proceed_control`,
`proceed_engine`), and one reading decides at a poll or a timeout. -/
theorem counterEvents : Obligations.CounterEvents := by
  intro s
  refine ⟨fun n g before after queue first ctr => ⟨execCounterSignal_waits queue first ctr, fun ahead clean => ?_⟩, ?_, ?_, ?_, ?_⟩
  · intro v
    refine ⟨_, execCounterSignal_applies queue first ctr ahead clean, sameMemory_of_plane (by simp [signalTaken]),
      fun c => coreOf_congr (by simp [signalTaken]) c, by simp [signalTaken], fun x => ?_, fun w hw => ?_⟩
    · simp only [eq_comm (a := x)]
      exact ctrGet_ctrAdd ..
    · split
      · next told =>
        have woken : wokenBy n.toNat v w = true := wokenBy_iff.mpr told
        refine ⟨fun h => ?_, fun c hc => ?_, fun c e he => ?_⟩
        · exact absurd ((mem_watches_ctrAdd.mp h).2.symm.trans woken) Bool.false_ne_true
        · exact mem_wakes_ctrAdd (s := signalTaken s (before ++ after)) hw woken (by rw [hc]; rfl)
        · exact mem_wakes_ctrAdd (s := signalTaken s (before ++ after)) hw woken (by rw [he]; rfl)
      · next untold =>
        exact mem_watches_ctrAdd.mpr ⟨hw, Bool.eq_false_iff.mpr fun woken => untold (wokenBy_iff.mp woken)⟩
  · intro c v n gd target pc before after waits goes
    refine ⟨fun queue first => ⟨_, execWake_control queue first, proceed_control_spec waits v⟩, ?_⟩
    rintro w slot watch hslot runs rfl reached
    exact ⟨_, execWaitTimeout_satisfied watch hslot runs reached, proceed_control_spec waits _⟩
  · intro c e v i rest he head found
    refine ⟨_, execWake_engine he found, ?_⟩
    rw [proceed_engine head, coreOf_setCore_self]
    exact ⟨fun a => rfl, fun o ho => coreOf_setCore_ne _ _ ho.symm, rfl, fun x => queueOfEng_put ..⟩
  · intro n w only
    refine ⟨fun reached c hc => ⟨_, execCounterPoll_one only, pollOne_satisfied only reached (by rw [hc]; rfl)⟩, fun short room => ?_⟩
    exact ⟨_, execCounterPoll_one only, pollOne_registers only short room⟩
  · intro c w slot m watch hslot runs cmd undecided alive short pc
    show execWaitTimeout c 0 s = _
    rw [execWaitTimeout_fails watch hslot runs cmd undecided alive short, timeoutRecs_control]

end Sys2Proof.Machine
end

section
namespace Sys2Proof.Machine
variable {f : FFmt} {rm : RMode} {neg : Bool} {m p q k t r n : Nat} {e : Int} {x : ℚ}

/-! ### The magnitudes of a format (R198) -/

/-- The exponent of a format's least subnormal, of which every finite magnitude is a multiple. -/
def FFmt.emin (f : FFmt) : Int := 1 - (f.bias : Int) - f.mb

/-- The magnitude of pattern `p`, in units of the least subnormal. -/
def FFmt.units (f : FFmt) (p : Nat) : Nat :=
  if p / 2 ^ f.mb = 0 then p % 2 ^ f.mb else (2 ^ f.mb + p % 2 ^ f.mb) * 2 ^ (p / 2 ^ f.mb - 1)

/-- The magnitude of pattern `p`. -/
def FFmt.mag (f : FFmt) (p : Nat) : ℚ := (f.units p : ℚ) * 2 ^ f.emin

/-- A significand of at most `mb + 1` bits or the next power of two, which is not subnormal unless its unit is the least: its pattern. -/
theorem units_of_significand (high : k ≤ 2 ^ (f.mb + 1)) (low : t = 0 ∨ 2 ^ f.mb ≤ k) : f.units (t * 2 ^ f.mb + k) = k * 2 ^ t := by
  have pos : 0 < 2 ^ f.mb := Nat.two_pow_pos _
  rw [Nat.pow_succ] at high
  unfold FFmt.units
  by_cases sub : k < 2 ^ f.mb
  · obtain rfl : t = 0 := low.resolve_right (Nat.not_le.mpr sub)
    rw [Nat.zero_mul, Nat.zero_add, Nat.div_eq_of_lt sub, if_pos rfl, Nat.mod_eq_of_lt sub, Nat.pow_zero, Nat.mul_one]
  by_cases top : k = 2 ^ f.mb * 2
  · have pattern : t * 2 ^ f.mb + k = (t + 2) * 2 ^ f.mb := by rw [top]; ring
    rw [pattern, Nat.mul_div_cancel _ pos, Nat.mul_mod_left, if_neg (by omega), top, show t + 2 - 1 = t + 1 by omega, Nat.pow_succ]
    ring
  · obtain ⟨d, rfl⟩ : ∃ d, k = 2 ^ f.mb + d := ⟨k - 2 ^ f.mb, by omega⟩
    have pattern : t * 2 ^ f.mb + (2 ^ f.mb + d) = d + (t + 1) * 2 ^ f.mb := by ring
    have small : d < 2 ^ f.mb := by omega
    rw [pattern, Nat.add_mul_div_right _ _ pos, Nat.add_mul_mod_self_right, Nat.div_eq_of_lt small, Nat.mod_eq_of_lt small, if_neg (by omega),
      show 0 + (t + 1) - 1 = t by omega]

/-- Every pattern is that of such a significand, whose successor is one too. -/
theorem exists_significand (f : FFmt) (p : Nat) : ∃ t k, p = t * 2 ^ f.mb + k ∧ k < 2 ^ (f.mb + 1) ∧ (t = 0 ∨ 2 ^ f.mb ≤ k) := by
  have pos : 0 < 2 ^ f.mb := Nat.two_pow_pos _
  have split := Nat.div_add_mod' p (2 ^ f.mb)
  have small := Nat.mod_lt p pos
  rw [Nat.pow_succ]
  rcases Nat.eq_zero_or_eq_succ_pred (p / 2 ^ f.mb) with sub | normal
  · exact ⟨0, p, by omega, by rw [sub] at split; omega, .inl rfl⟩
  · refine ⟨p / 2 ^ f.mb - 1, 2 ^ f.mb + p % 2 ^ f.mb, ?_, by omega, .inr (Nat.le_add_right _ _)⟩
    rw [normal, Nat.succ_mul] at split
    rw [← Nat.pred_eq_sub_one]
    omega

theorem units_strictMono (f : FFmt) : StrictMono f.units := by
  refine strictMono_nat_of_lt_succ fun p => ?_
  obtain ⟨t, k, rfl, high, low⟩ := exists_significand f p
  rw [Nat.add_assoc, units_of_significand high.le low, units_of_significand high (low.imp_right fun h => by omega)]
  exact Nat.mul_lt_mul_of_pos_right (Nat.lt_succ_self k) (Nat.two_pow_pos t)

theorem mag_strictMono (f : FFmt) : StrictMono f.mag := fun _ _ h =>
  mul_lt_mul_of_pos_right (Nat.cast_lt.mpr (units_strictMono f h)) (zpow_pos two_pos _)

@[simp] theorem mag_zero (f : FFmt) : f.mag 0 = 0 := by simp [FFmt.mag, FFmt.units]

theorem mag_nonneg (f : FFmt) (p : Nat) : 0 ≤ f.mag p := mul_nonneg (Nat.cast_nonneg _) (zpow_nonneg two_pos.le _)

/-! ### Patterns and their values (R197, R198) -/

/-- The value of a finite pattern; zero for any other. -/
def FFmt.finVal (f : FFmt) (w : Nat) : ℚ :=
  match f.value w with
  | .fin s m e => (if s then -1 else 1) * (m : ℚ) * 2 ^ e
  | _ => 0

/-- The pattern of a finite value. -/
def FFmt.Finite (f : FFmt) (w : Nat) : Prop := w < 2 ^ (1 + f.eb + f.mb) ∧ w % 2 ^ (f.eb + f.mb) ≤ f.top

/-- A sign as a factor. -/
def signOf (neg : Bool) : ℚ := if neg then -1 else 1

/-- What the formats of R197 have in common: a mantissa bit, and a largest finite value within the pattern's bits and below the infinities. -/
structure FFmt.Sound (f : FFmt) : Prop where
  mantissa : 1 ≤ f.mb
  top_lt : f.top < 2 ^ (f.eb + f.mb)
  below_inf : f.inf = true → f.top / 2 ^ f.mb < 2 ^ f.eb - 1

theorem sound_of_floatFmt {code : Nat} (h : floatFmt code = some f) : f.Sound := by
  unfold floatFmt at h
  split at h <;> cases h <;> exact ⟨by decide, by decide, by decide⟩

/-- A finite pattern's value is its magnitude with its sign. -/
theorem finVal_of_finite (sound : f.Sound) (finite : p % 2 ^ (f.eb + f.mb) ≤ f.top) :
    f.finVal p = signOf (p / 2 ^ (f.eb + f.mb) % 2 = 1) * f.mag (p % 2 ^ (f.eb + f.mb)) := by
  obtain ⟨g, hg⟩ : ∃ g, g = p % 2 ^ (f.eb + f.mb) := ⟨_, rfl⟩
  have notInf : ¬ (f.inf = true ∧ g / 2 ^ f.mb = 2 ^ f.eb - 1) := fun ⟨inf, ones⟩ => by
    have := sound.below_inf inf
    have := Nat.div_le_div_right (c := 2 ^ f.mb) (hg ▸ finite)
    omega
  unfold FFmt.finVal FFmt.value
  rw [← hg] at finite ⊢
  simp only [if_neg notInf, if_neg (Nat.not_lt.mpr finite)]
  by_cases zero : g = 0
  · simp [zero]
  rw [if_neg zero]
  by_cases sub : g / 2 ^ f.mb = 0
  · rw [if_pos sub, FFmt.mag, FFmt.units, if_pos sub]
    exact mul_assoc _ _ _
  · have exponent : ∀ d : Nat, d ≠ 0 → (d : Int) - f.bias - f.mb = ((d - 1 : Nat) : Int) + f.emin := fun d hd => by
      unfold FFmt.emin
      omega
    rw [if_neg sub, FFmt.mag, FFmt.units, if_neg sub, exponent _ sub]
    simp only [signOf]
    rw [zpow_add₀ two_ne_zero, zpow_natCast]
    push_cast
    ring

theorem signed_lt (neg : Bool) (h : p < 2 ^ (f.eb + f.mb)) : f.signed neg p < 2 ^ (1 + f.eb + f.mb) := by
  rw [Nat.add_assoc, Nat.pow_add]
  cases neg <;> simp [FFmt.signed, b2n] <;> omega

theorem signed_mod (neg : Bool) (h : p < 2 ^ (f.eb + f.mb)) : f.signed neg p % 2 ^ (f.eb + f.mb) = p := by
  rw [FFmt.signed, Nat.add_comm, Nat.add_mul_mod_self_right, Nat.mod_eq_of_lt h]

theorem signed_div (neg : Bool) (h : p < 2 ^ (f.eb + f.mb)) : f.signed neg p / 2 ^ (f.eb + f.mb) = if neg then 1 else 0 := by
  rw [FFmt.signed, Nat.add_comm, Nat.add_mul_div_right _ _ (Nat.two_pow_pos _), Nat.div_eq_of_lt h, Nat.zero_add]
  rfl

theorem finVal_signed (sound : f.Sound) (neg : Bool) (h : p ≤ f.top) : f.finVal (f.signed neg p) = signOf neg * f.mag p := by
  have short := Nat.lt_of_le_of_lt h sound.top_lt
  rw [finVal_of_finite sound (by rwa [signed_mod neg short]), signed_mod neg short, signed_div neg short]
  cases neg <;> rfl

theorem finVal_top (sound : f.Sound) : f.finVal f.top = f.mag f.top := by
  simpa [FFmt.signed, b2n, signOf] using finVal_signed sound false (Nat.le_refl f.top)

/-! ### A magnitude between two neighbours (R206) -/

/-- `x` lies at the fraction `r / 2 ^ n` of the way from the magnitude of pattern `p` to the next. -/
structure FFmt.Between (f : FFmt) (x : ℚ) (p r n : Nat) : Prop where
  part : r < 2 ^ n
  eq : x = f.mag p + (r : ℚ) / 2 ^ n * (f.mag (p + 1) - f.mag p)

/-- A significand of at most `mb + 1` bits with a fraction lies between two neighbours. -/
theorem between_of_significand (part : r < 2 ^ n) (high : k < 2 ^ (f.mb + 1)) (low : t = 0 ∨ 2 ^ f.mb ≤ k) :
    f.Between (((k : ℚ) + (r : ℚ) / 2 ^ n) * 2 ^ t * 2 ^ f.emin) (t * 2 ^ f.mb + k) r n := by
  refine ⟨part, ?_⟩
  rw [FFmt.mag, FFmt.mag, Nat.add_assoc, units_of_significand high.le low, units_of_significand high (low.imp_right fun h => by omega)]
  push_cast
  ring

/-- Every magnitude lies between two neighbours, and rounds to one of them. -/
theorem exists_between (f : FFmt) (hmb : 1 ≤ f.mb) (hm : 0 < m) (e : Int) : ∃ p r n, f.Between ((m : ℚ) * 2 ^ e) p r n ∧
    ∀ rm neg, f.magnitude rm neg m e false = p + b2n (roundsUp rm neg (p % 2 = 1) r n false) := by
  obtain ⟨l, hl⟩ : ∃ l, l = Nat.log2 m := ⟨_, rfl⟩
  have lower : 2 ^ l ≤ m := hl ▸ Nat.log2_self_le (Nat.ne_of_gt hm)
  have upper : m < 2 ^ (l + 1) := hl ▸ Nat.lt_log2_self
  obtain ⟨q, hq⟩ : ∃ q, q = max f.emin ((l : Int) + e - f.mb) := ⟨_, rfl⟩
  obtain ⟨t, ht⟩ : ∃ t, t = (q - f.emin).toNat := ⟨_, rfl⟩
  have unit : q = t + f.emin := by omega
  have magnitude : ∀ rm neg, f.magnitude rm neg m e false = t * 2 ^ f.mb + roundMul rm neg m e q false := by
    intro rm neg
    rw [ht, hq, hl]
    rfl
  have parity : ∀ k, (t * 2 ^ f.mb + k) % 2 = k % 2 := by
    intro k
    obtain ⟨d, hd⟩ : ∃ d, f.mb = d + 1 := ⟨f.mb - 1, by omega⟩
    rw [hd, Nat.pow_succ, ← Nat.mul_assoc]
    omega
  by_cases fine : q ≤ e
  · obtain ⟨a, ha⟩ : ∃ a, a = (e - q).toNat := ⟨_, rfl⟩
    have high : m * 2 ^ a < 2 ^ (f.mb + 1) := calc
      m * 2 ^ a < 2 ^ (l + 1) * 2 ^ a := Nat.mul_lt_mul_of_pos_right upper (Nat.two_pow_pos a)
      _ = 2 ^ (l + 1 + a) := (Nat.pow_add ..).symm
      _ ≤ 2 ^ (f.mb + 1) := Nat.pow_le_pow_right two_pos (by omega)
    have low : t = 0 ∨ 2 ^ f.mb ≤ m * 2 ^ a := by
      refine or_iff_not_imp_left.mpr fun coarse => ?_
      calc 2 ^ f.mb = 2 ^ l * 2 ^ a := by rw [← Nat.pow_add]; congr 1; omega
        _ ≤ m * 2 ^ a := Nat.mul_le_mul_right _ lower
    refine ⟨t * 2 ^ f.mb + m * 2 ^ a, 0, 0, ?_, fun rm neg => ?_⟩
    · convert between_of_significand (f := f) (r := 0) (n := 0) (by decide) high low using 1
      rw [show e = a + (t + f.emin) by omega, zpow_add₀ two_ne_zero, zpow_add₀ two_ne_zero, zpow_natCast, zpow_natCast]
      push_cast
      ring
    · rw [magnitude, roundMul, if_pos fine, ← ha]
      simp [roundsUp, b2n]
  · obtain ⟨n, hn⟩ : ∃ n, n = (q - e).toNat := ⟨_, rfl⟩
    have high : m / 2 ^ n < 2 ^ (f.mb + 1) := by
      refine Nat.div_lt_of_lt_mul (Nat.lt_of_lt_of_le upper ?_)
      rw [← Nat.pow_add]
      exact Nat.pow_le_pow_right two_pos (by omega)
    have low : t = 0 ∨ 2 ^ f.mb ≤ m / 2 ^ n := by
      refine or_iff_not_imp_left.mpr fun coarse => (Nat.le_div_iff_mul_le (Nat.two_pow_pos n)).mpr ?_
      rw [← Nat.pow_add]
      exact Nat.le_trans (Nat.pow_le_pow_right two_pos (by omega)) lower
    refine ⟨t * 2 ^ f.mb + m / 2 ^ n, m % 2 ^ n, n, ?_, fun rm neg => ?_⟩
    · convert between_of_significand (f := f) (Nat.mod_lt m (Nat.two_pow_pos n)) high low using 1
      have whole : (m : ℚ) = 2 ^ n * ((m / 2 ^ n : Nat) : ℚ) + ((m % 2 ^ n : Nat) : ℚ) := by exact_mod_cast (Nat.div_add_mod m (2 ^ n)).symm
      have exponent : (2 : ℚ) ^ t * 2 ^ f.emin = 2 ^ e * 2 ^ n := by
        rw [← zpow_natCast, ← zpow_natCast, ← zpow_add₀ two_ne_zero, ← zpow_add₀ two_ne_zero]
        congr 1
        omega
      have pos : (2 : ℚ) ^ n ≠ 0 := pow_ne_zero _ two_ne_zero
      rw [mul_assoc, exponent]
      conv_lhs => rw [whole]
      field_simp
    · rw [magnitude, roundMul, if_neg fine, ← hn, parity, Nat.add_assoc]

/-! ### The rounded magnitude among all values of the format (R206) -/

/-- `y` is, with either sign, the magnitude of a pattern. -/
def FFmt.IsValue (f : FFmt) (y : ℚ) : Prop := ∃ a, |y| = f.mag a

theorem FFmt.IsValue.negate {y : ℚ} (h : f.IsValue y) : f.IsValue (-y) := h.imp fun _ ha => (abs_neg y).trans ha

/-- No value lies between the magnitudes of neighbouring patterns. -/
theorem FFmt.IsValue.gap {y : ℚ} (h : f.IsValue y) (p : Nat) : y ≤ f.mag p ∨ f.mag (p + 1) ≤ y := by
  obtain ⟨a, ha⟩ := h
  rcases Nat.lt_or_ge p a with above | below
  · rcases abs_choice y with same | opposite
    · exact .inr (by rw [← same, ha]; exact (mag_strictMono f).monotone above)
    · have := abs_nonneg y
      exact .inl (by linarith [mag_nonneg f p])
  · exact .inl (((le_abs_self y).trans_eq ha).trans ((mag_strictMono f).monotone below))

theorem roundsUp_rz (neg odd : Bool) (r n : Nat) : roundsUp .rz neg odd r n false = false := by simp [roundsUp]

theorem roundsUp_rup (neg odd : Bool) (r n : Nat) : roundsUp .rup neg odd r n false = (!neg && decide (r ≠ 0)) := by
  by_cases h : r = 0 <;> simp [roundsUp, h]

theorem roundsUp_rdn (neg odd : Bool) (r n : Nat) : roundsUp .rdn neg odd r n false = (neg && decide (r ≠ 0)) := by
  by_cases h : r = 0 <;> simp [roundsUp, h]

section
variable (between : f.Between x p r n)
include between

theorem FFmt.Between.le : f.mag p ≤ x := by
  rw [between.eq]
  have step := mag_strictMono f (Nat.lt_succ_self p)
  have : 0 ≤ (r : ℚ) / 2 ^ n * (f.mag (p + 1) - f.mag p) := mul_nonneg (by positivity) (sub_nonneg.mpr step.le)
  linarith

theorem FFmt.Between.lt : x < f.mag (p + 1) := by
  have step := mag_strictMono f (Nat.lt_succ_self p)
  have part : (r : ℚ) / 2 ^ n < 1 := (div_lt_one (by positivity)).mpr (by exact_mod_cast between.part)
  have := mul_lt_mul_of_pos_right part (sub_pos.mpr step)
  rw [between.eq]
  linarith

theorem FFmt.Between.lt_of_part (h : r ≠ 0) : f.mag p < x := by
  rw [between.eq]
  have step := mag_strictMono f (Nat.lt_succ_self p)
  have : 0 < (r : ℚ) / 2 ^ n * (f.mag (p + 1) - f.mag p) :=
    mul_pos (div_pos (Nat.cast_pos.mpr (Nat.pos_of_ne_zero h)) (by positivity)) (sub_pos.mpr step)
  linarith

/-- Which neighbour is nearer, by the fraction. -/
theorem FFmt.Between.nearer : (2 * r ≤ 2 ^ n ↔ 2 * (x - f.mag p) ≤ f.mag (p + 1) - f.mag p) ∧
    (2 ^ n ≤ 2 * r ↔ f.mag (p + 1) - f.mag p ≤ 2 * (x - f.mag p)) := by
  have gap : 0 < f.mag (p + 1) - f.mag p := sub_pos.mpr (mag_strictMono f (Nat.lt_succ_self p))
  have pos : (0 : ℚ) < 2 ^ n := by positivity
  have twice : 2 * (x - f.mag p) = 2 * r / 2 ^ n * (f.mag (p + 1) - f.mag p) := by
    rw [between.eq]
    ring
  rw [twice, mul_le_iff_le_one_left gap, le_mul_iff_one_le_left gap, div_le_one pos, one_le_div pos]
  constructor <;> norm_cast

/-- Toward zero: the greatest value not above. -/
theorem FFmt.Between.greatest {y : ℚ} (hy : f.IsValue y) (h : y ≤ x) : y ≤ f.mag p :=
  (hy.gap p).resolve_right fun above => (above.trans h).not_gt between.lt

/-- Away from zero: the least value not below. -/
theorem FFmt.Between.least : x ≤ f.mag (p + b2n (r ≠ 0)) ∧ ∀ y, f.IsValue y → x ≤ y → f.mag (p + b2n (r ≠ 0)) ≤ y := by
  by_cases exact' : r = 0
  · have same : x = f.mag p := by simpa [exact'] using between.eq
    simp [exact', b2n, same]
  · have up : p + b2n (r ≠ 0) = p + 1 := by simp [exact', b2n]
    rw [up]
    exact ⟨between.lt.le, fun y hy h => (hy.gap p).resolve_left fun below => (h.trans below).not_gt (between.lt_of_part exact')⟩

/-- The nearer neighbour is the nearest value, and the only one unless the magnitude lies half-way. -/
theorem FFmt.Between.nearest_lower (h : 2 * r ≤ 2 ^ n) {y : ℚ} (hy : f.IsValue y) :
    |x - f.mag p| ≤ |x - y| ∧ (|x - f.mag p| = |x - y| → y = f.mag p ∨ 2 * r = 2 ^ n) := by
  have half := between.nearer.1.mp h
  have tie : f.mag (p + 1) - f.mag p ≤ 2 * (x - f.mag p) → 2 * r = 2 ^ n := fun le => le_antisymm h (between.nearer.2.mpr le)
  have low := between.le
  have high := between.lt
  rw [abs_of_nonneg (sub_nonneg.mpr low)]
  rcases hy.gap p with below | above
  · rw [abs_of_nonneg (sub_nonneg.mpr (below.trans low))]
    exact ⟨by linarith, fun same => .inl (by linarith)⟩
  · rw [abs_of_nonpos (sub_nonpos.mpr (high.le.trans above))]
    exact ⟨by linarith, fun same => .inr (tie (by linarith))⟩

theorem FFmt.Between.nearest_upper (h : 2 ^ n ≤ 2 * r) {y : ℚ} (hy : f.IsValue y) :
    |x - f.mag (p + 1)| ≤ |x - y| ∧ (|x - f.mag (p + 1)| = |x - y| → y = f.mag (p + 1) ∨ 2 * r = 2 ^ n) := by
  have half := between.nearer.2.mp h
  have tie : 2 * (x - f.mag p) ≤ f.mag (p + 1) - f.mag p → 2 * r = 2 ^ n := fun le => le_antisymm (between.nearer.1.mpr le) h
  have low := between.le
  have high := between.lt
  rw [abs_of_nonpos (sub_nonpos.mpr high.le)]
  rcases hy.gap p with below | above
  · rw [abs_of_nonneg (sub_nonneg.mpr (below.trans low))]
    exact ⟨by linarith, fun same => .inr (tie (by linarith))⟩
  · rw [abs_of_nonpos (sub_nonpos.mpr (high.le.trans above))]
    exact ⟨by linarith, fun same => .inl (by linarith)⟩

/-- To nearest, with ties to the even pattern. -/
theorem FFmt.Between.nearest {y : ℚ} (hy : f.IsValue y) (q : Nat) (hq : q = p + b2n (roundsUp .rne neg (p % 2 = 1) r n false)) :
    |x - f.mag q| ≤ |x - y| ∧ (|x - f.mag q| = |x - y| → y = f.mag q ∨ q % 2 = 0) := by
  have pos := Nat.two_pow_pos n
  rcases Nat.lt_trichotomy (2 * r) (2 ^ n) with low | half | high
  · obtain rfl : q = p := by simp [hq, roundsUp, low, b2n]
    exact (between.nearest_lower low.le hy).imp_right fun only same => .inl ((only same).resolve_right low.ne)
  · have some' : r ≠ 0 := by omega
    rcases Nat.mod_two_eq_zero_or_one p with even | odd
    · obtain rfl : q = p := by simp [hq, roundsUp, half, even, b2n]
      exact (between.nearest_lower half.le hy).imp_right fun _ _ => .inr even
    · obtain rfl : q = p + 1 := by simp [hq, roundsUp, half, some', odd, b2n]
      exact (between.nearest_upper half.ge hy).imp_right fun _ _ => .inr (by omega)
  · have some' : r ≠ 0 := by omega
    obtain rfl : q = p + 1 := by simp [hq, roundsUp, high, high.not_gt, some', b2n]
    exact (between.nearest_upper high.le hy).imp_right fun only same => .inl ((only same).resolve_right high.ne')

/-- Up, with the sign: the least value not below. -/
theorem FFmt.Between.rup (q : Nat) (hq : q = p + b2n (roundsUp .rup neg (p % 2 = 1) r n false)) :
    signOf neg * x ≤ signOf neg * f.mag q ∧ ∀ y, f.IsValue y → signOf neg * x ≤ y → signOf neg * f.mag q ≤ y := by
  rw [hq, roundsUp_rup]
  cases neg
  · simpa [signOf] using between.least
  · refine ⟨by simpa [signOf, b2n] using between.le, fun y hy h => ?_⟩
    have := between.greatest hy.negate (by simp [signOf] at h; linarith)
    simp [signOf, b2n]
    linarith

/-- Down, with the sign: the greatest value not above. -/
theorem FFmt.Between.rdn (q : Nat) (hq : q = p + b2n (roundsUp .rdn neg (p % 2 = 1) r n false)) :
    signOf neg * f.mag q ≤ signOf neg * x ∧ ∀ y, f.IsValue y → y ≤ signOf neg * x → y ≤ signOf neg * f.mag q := by
  rw [hq, roundsUp_rdn]
  cases neg
  · refine ⟨by simpa [signOf, b2n] using between.le, fun y hy h => ?_⟩
    simpa [signOf, b2n] using between.greatest hy (by simpa [signOf] using h)
  · obtain ⟨above, least⟩ := between.least
    simp only [Bool.true_and, signOf, if_true]
    refine ⟨by linarith, fun y hy h => ?_⟩
    have := least (-y) hy.negate (by linarith)
    linarith

/-- No mode rounds a magnitude within the range out of it. -/
theorem FFmt.Between.le_top {top : Nat} (h : x ≤ f.mag top) (odd : Bool) : p + b2n (roundsUp rm neg odd r n false) ≤ top := by
  by_cases exact' : r = 0
  · have := (mag_strictMono f).le_iff_le.mp (between.le.trans h)
    simpa [roundsUp, exact', b2n] using this
  · have := (mag_strictMono f).lt_iff_lt.mp ((between.lt_of_part exact').trans_le h)
    have one : ∀ b, b2n b ≤ 1 := by decide
    have := one (roundsUp rm neg odd r n false)
    omega

end

/-! ### The rounding of a finite value (R206) -/

theorem abs_signOf_mul (neg : Bool) (h : 0 ≤ x) : |signOf neg * x| = x := by
  cases neg <;> simp [signOf, abs_of_nonneg h]

theorem isValue_finVal (sound : f.Sound) (finite : f.Finite p) : f.IsValue (f.finVal p) :=
  ⟨p % 2 ^ (f.eb + f.mb), by rw [finVal_of_finite sound finite.2, abs_signOf_mul _ (mag_nonneg f _)]⟩

/-- To nearest, with the sign. -/
theorem FFmt.Between.rne (between : f.Between x p r n) (q : Nat) (hq : q = p + b2n (roundsUp .rne neg (p % 2 = 1) r n false)) {y : ℚ}
    (hy : f.IsValue y) : |signOf neg * x - signOf neg * f.mag q| ≤ |signOf neg * x - y| ∧
      (|signOf neg * x - signOf neg * f.mag q| = |signOf neg * x - y| → y = signOf neg * f.mag q ∨ q % 2 = 0) := by
  cases neg
  · simpa [signOf] using between.nearest hy q hq
  · have mirrored := between.nearest hy.negate q hq
    have flip : ∀ a b : ℚ, |-a - -b| = |a - b| := fun a b => by rw [← abs_neg]; congr 1; ring
    have flip' : |-x - y| = |x - -y| := by rw [← abs_neg]; congr 1; ring
    simp only [signOf, if_true, neg_one_mul, flip, flip']
    exact mirrored.imp_right fun tie same => (tie same).imp_left fun h => by rw [← h, neg_neg]

/-- A value within the range of a format rounds to a finite pattern: that of its rounded magnitude, with its sign. -/
theorem encode_of_le_top (sound : f.Sound) (hm : 0 < m) (h : (m : ℚ) * 2 ^ e ≤ f.mag f.top) : ∃ p r n, f.Between ((m : ℚ) * 2 ^ e) p r n ∧
    ∀ rm, p + b2n (roundsUp rm neg (p % 2 = 1) r n false) ≤ f.top ∧
      f.encode rm false (.fin neg m e) false = f.signed neg (p + b2n (roundsUp rm neg (p % 2 = 1) r n false)) := by
  obtain ⟨p, r, n, between, rounds⟩ := exists_between f sound.mantissa hm e
  refine ⟨p, r, n, between, fun rm => ?_⟩
  have within := between.le_top (rm := rm) (neg := neg) h (p % 2 = 1)
  refine ⟨within, ?_⟩
  rw [FFmt.encode, rounds, if_neg (Nat.not_lt.mpr within)]

theorem signed_mod_two (mantissa : 1 ≤ f.mb) (neg : Bool) (q : Nat) : f.signed neg q % 2 = q % 2 := by
  obtain ⟨d, hd⟩ : ∃ d, f.eb + f.mb = d + 1 := ⟨f.eb + f.mb - 1, by omega⟩
  rw [FFmt.signed, hd, Nat.pow_succ, ← Nat.mul_assoc]
  omega

/-- Settles O60: the magnitude lies between two neighbouring patterns (`exists_between`), and each mode takes one of them, which is the nearest, the
greatest or the least of all the values that it may take. -/
theorem roundingModes : Obligations.RoundingModes := by
  intro code f hf val finite neg m e hm v range w
  have sound := sound_of_floatFmt hf
  obtain ⟨x, hx⟩ : ∃ x, x = (m : ℚ) * 2 ^ e := ⟨_, rfl⟩
  have nonneg : 0 ≤ x := by rw [hx]; positivity
  have hv : v = signOf neg * x := by rw [hx]; exact mul_assoc _ _ _
  have topVal : val f.top = f.mag f.top := finVal_top sound
  rw [hv, abs_signOf_mul _ nonneg, topVal, hx] at range
  obtain ⟨p, r, n, between, rounds⟩ := encode_of_le_top (neg := neg) sound hm range
  rw [← hx] at between
  obtain ⟨q, hq⟩ : ∃ q : RMode → Nat, q = fun rm => p + b2n (roundsUp rm neg (p % 2 = 1) r n false) := ⟨_, rfl⟩
  have at' : ∀ rm, q rm = p + b2n (roundsUp rm neg (p % 2 = 1) r n false) := fun rm => by rw [hq]
  have within : ∀ rm, q rm ≤ f.top := fun rm => at' rm ▸ (rounds rm).1
  have hw : ∀ rm, w rm = f.signed neg (q rm) := fun rm => at' rm ▸ (rounds rm).2
  have hval : ∀ rm, val (w rm) = signOf neg * f.mag (q rm) := fun rm => by
    rw [hw]
    exact finVal_signed sound neg (within rm)
  have isValue : ∀ {y}, finite y → f.IsValue (val y) := fun fin => isValue_finVal sound fin
  have truncated : q .rz = p := by rw [at', roundsUp_rz]; rfl
  refine ⟨fun rm _ => ?_, fun y fin => ?_, ?_, ?_, ?_⟩
  · have short := Nat.lt_of_le_of_lt (within rm) sound.top_lt
    rw [hw]
    exact ⟨⟨signed_lt neg short, (signed_mod neg short).trans_le (within rm)⟩, signed_div neg short⟩
  · rw [hv, hval, hw, signed_mod_two sound.mantissa]
    exact between.rne (q .rne) (at' .rne) (isValue fin)
  · rw [hv, hval, abs_signOf_mul _ nonneg, abs_signOf_mul _ (mag_nonneg f _), truncated]
    refine ⟨between.le, fun y fin below => between.greatest ?_ below⟩
    exact (isValue fin).imp fun a ha => (abs_abs _).trans ha
  · rw [hv, hval]
    exact (between.rup (q .rup) (at' .rup)).imp_right fun least y fin => least _ (isValue fin)
  · rw [hv, hval]
    exact (between.rdn (q .rdn) (at' .rdn)).imp_right fun greatest y fin => greatest _ (isValue fin)

end Sys2Proof.Machine
end

section
namespace Sys2Proof.Machine
variable {g j : Job} {o : Opnd} {p : Nat × List Byte} {r : List Nat} {fn : Nat → List Nat → Nat} {x i0 w t : Nat}

/-! ### Elements packed into bytes (R160, R170) -/

/-- Patterns of `w` bits, the first lowest. -/
def packed (w : Nat) (vals : List Nat) : Nat := vals.foldr (fun v a => v % 2 ^ w + 2 ^ w * a) 0

theorem testBit_packed (ht : t < w) : ∀ (vals : List Nat) (i : Nat), (packed w vals).testBit (i * w + t) = (vals.getD i 0).testBit t
  | [], i => by simp [packed]
  | v :: vs, i => by
    have cons : packed w (v :: vs) = 2 ^ w * packed w vs + v % 2 ^ w := Nat.add_comm ..
    rw [cons, Nat.testBit_two_pow_mul_add _ (Nat.mod_lt v (Nat.two_pow_pos w))]
    cases i with
    | zero => rw [Nat.zero_mul, Nat.zero_add, if_pos ht, Nat.testBit_mod_two_pow, decide_eq_true ht, Bool.true_and]; rfl
    | succ i =>
      rw [Nat.succ_mul, if_neg (by omega), show i * w + w + t - w = i * w + t by omega, testBit_packed ht vs i]
      rfl

theorem packed_lt (w : Nat) : ∀ vals : List Nat, packed w vals < 2 ^ (vals.length * w)
  | [] => by simp [packed]
  | v :: vs => by
    have cons : packed w (v :: vs) = v % 2 ^ w + 2 ^ w * packed w vs := rfl
    have low := Nat.mod_lt v (Nat.two_pow_pos w)
    have high := Nat.mul_le_mul_left (2 ^ w) (packed_lt w vs)
    rw [cons, List.length_cons, Nat.succ_mul, Nat.pow_add, Nat.mul_comm (2 ^ (vs.length * w))]
    rw [Nat.mul_succ] at high
    omega

/-- A row's bytes hold its elements, packed; the bits behind them are another's. -/
theorem rowBytes_eq (j : Job) (o : Opnd) (r vals : List Nat) : ∃ rest, j.rowBytes o r vals =
    (o.rowAt r, natLE (rowLen vals.length o.w) (2 ^ (vals.length * o.w) * rest + packed o.w vals)) := by
  refine ⟨if vals.length * o.w % 8 = 0 then 0 else
    j.bits o.loc (o.rowAt r + vals.length * o.w / 8) (vals.length * o.w % 8) (8 - vals.length * o.w % 8), ?_⟩
  rw [Nat.mul_comm (2 ^ _), Nat.add_comm]
  rfl

/-- A bit of an element is a bit of its row's bytes. -/
theorem testBit_rowBytes (j : Job) (o : Opnd) (r vals : List Nat) (hi : i0 < vals.length) (ht : t < o.w) :
    ∃ b, (j.rowBytes o r vals).2[(i0 * o.w + t) / 8]? = some b ∧ b.toNat.testBit ((i0 * o.w + t) % 8) = (vals.getD i0 0).testBit t := by
  obtain ⟨rest, bytes⟩ := rowBytes_eq j o r vals
  have inside : i0 * o.w + t < vals.length * o.w := by
    have := Nat.mul_le_mul_right o.w hi
    rw [Nat.succ_mul] at this
    omega
  have short : (i0 * o.w + t) / 8 < rowLen vals.length o.w := by unfold rowLen ceilDiv; omega
  rw [bytes]
  refine ⟨_, (List.getElem?_eq_getElem (by rwa [length_natLE])).trans (congrArg some (getElem_natLE ..)), ?_⟩
  rw [BitVec.toNat_ofNat, Nat.testBit_mod_two_pow, decide_eq_true (by omega), Bool.true_and, show 256 = 2 ^ 8 from rfl, ← Nat.pow_mul,
    Nat.testBit_div_two_pow, Nat.mod_add_div, Nat.testBit_two_pow_mul_add _ (packed_lt ..), if_pos inside, testBit_packed ht]

/-! ### The pieces of a tensor lie apart (R160, R164) -/

theorem mem_pieces : p ∈ j.pieces o fn ↔ ∃ r ∈ o.rows, p = j.rowBytes o r ((List.range (o.e 0)).map fun i0 => fn i0 r) := by
  simp only [Job.pieces, List.mem_map, eq_comm]

/-- Where the piece of a row lies. -/
theorem covers_rowBytes (vals : List Nat) : Covers (j.rowBytes o r vals) x ↔ o.rowAt r ≤ x ∧ x < o.rowAt r + rowLen vals.length o.w := by
  obtain ⟨rest, bytes⟩ := rowBytes_eq j o r vals
  rw [bytes, Covers, length_natLE]

theorem pieces_apart (fits : o.Fits) {q : Nat × List Byte} (hp : p ∈ j.pieces o fn) (hq : q ∈ j.pieces o fn) (px : Covers p x) (qx : Covers q x) :
    q = p := by
  obtain ⟨r, hr, rfl⟩ := mem_pieces.mp hp
  obtain ⟨r', hr', rfl⟩ := mem_pieces.mp hq
  have short := rowLen_mono (fits.within 0 (by decide)) o.w
  rw [covers_rowBytes, List.length_map, List.length_range] at px qx
  by_cases ne : r = r'
  · rw [ne]
  · have := fits.rows_apart hr hr' ne
    omega

/-- A job that reads of an operand what its elements' pieces have put there finds the elements. -/
theorem stored_of_pieces (fits : o.Fits) (f : Nat → Byte) (hr : r ∈ o.rows) (hi : i0 < o.e 0)
    (reads : ∀ x, j.byte o.loc x = (g.pieces o fn).foldl writeOver f x) : j.stored o i0 r = fn i0 r % 2 ^ o.w := by
  refine Nat.eq_of_testBit_eq fun t => ?_
  rw [Nat.testBit_mod_two_pow]
  by_cases ht : t < o.w
  · have hi' : i0 < ((List.range (o.e 0)).map fun i0 => fn i0 r).length := by rwa [List.length_map, List.length_range]
    obtain ⟨b, at', bit⟩ := testBit_rowBytes g o r _ hi' ht
    have mem : g.rowBytes o r ((List.range (o.e 0)).map fun i0 => fn i0 r) ∈ g.pieces o fn := mem_pieces.mpr ⟨r, hr, rfl⟩
    have start : (g.rowBytes o r ((List.range (o.e 0)).map fun i0 => fn i0 r)).1 = o.rowAt r := rfl
    have covers : Covers (g.rowBytes o r ((List.range (o.e 0)).map fun i0 => fn i0 r)) (o.rowAt r + (i0 * o.w + t) / 8) := by
      have := (List.getElem?_eq_some_iff.mp at').1
      exact ⟨by omega, by omega⟩
    have inside := foldl_writeOver_inside covers mem (fun q hq qx => pieces_apart fits mem hq covers qx) f
    rw [start, Nat.add_sub_cancel_left, at'] at inside
    rw [testBit_stored _ _ _ _ ht, reads, Option.some.inj inside, bit, decide_eq_true ht, Bool.true_and, List.getD_eq_getElem?_getD]
    simp [hi]
  · have high : 2 ^ o.w ≤ 2 ^ t := Nat.pow_le_pow_right (by decide) (Nat.le_of_not_lt ht)
    rw [decide_eq_false ht, Bool.false_and, Nat.testBit_lt_two_pow (Nat.lt_of_lt_of_le (stored_lt j o i0 r) high)]

/-- The pieces of an operand's elements leave every byte outside its places. -/
theorem not_in_pieces (fits : o.Fits) (out : apart (places o) o.loc x = true) (f : Nat → Byte) : (j.pieces o fn).foldl writeOver f x = f x := by
  refine foldl_writeOver_outside (fun p hp covers => ?_) f
  obtain ⟨r, hr, rfl⟩ := mem_pieces.mp hp
  rw [covers_rowBytes, List.length_map, List.length_range] at covers
  have e0 : o.e 0 ≠ 0 := by
    intro none
    rw [none, show rowLen 0 o.w = 0 by simp [rowLen, ceilDiv]] at covers
    omega
  have mem : (o.loc, o.rowAt r, rowLen (o.e 0) o.w) ∈ places o :=
    List.mem_map.mpr ⟨_, by rw [spans_eq fits]; exact List.mem_flatMap.mpr ⟨r, hr, by rw [Opnd.rowSpans, if_neg e0]; exact List.mem_cons_self ..⟩, rfl⟩
  have clear : x < o.rowAt r ∨ o.rowAt r + rowLen (o.e 0) o.w ≤ x := by simpa using List.all_eq_true.mp out _ mem
  omega

end Sys2Proof.Machine
end

section
namespace Sys2Proof.Machine
variable {g j : Job} {x : Flying} {l l' : Map Word} {m : Memory} {t : State} {f : Form} {o : Opnd} {i : EInstr}

/-! ### Pieces put into the accumulator store (R137, R158, R172) -/

theorem accWrites_eq : ∀ (ps : List (Nat × List Byte)) (k : Core), ps.foldl (fun k p => accWrite k p.1 p.2) k =
    { k with acc := ps.foldl (fun m p => Map.putRun m p.1 p.2) k.acc }
  | [], _ => rfl
  | p :: ps, k => by rw [List.foldl_cons, accWrites_eq ps]; rfl

theorem accByte_writes (ps : List (Nat × List Byte)) (k : Core) (a : Nat) :
    accByte (ps.foldl (fun k p => accWrite k p.1 p.2) k) a = ps.foldl writeOver (accByte k) a := by
  rw [accWrites_eq]
  exact putRuns_writeOver (fun x => Config.freeByte k.undef (scratchSize + x)) ps k.acc a

theorem byte_still_acc (j : Job) (t : State) (a : Nat) :
    Job.byte { j with s := still t j.core } 3 a = accByte (coreOf t j.core) a := by
  simp [Job.byte, still, inFlight, oldByte, accByte]

/-- The core whose engine takes its instruction and writes pieces into the accumulator store. -/
def Job.putsAcc (g : Job) (x : Flying) (ps : List (Nat × List Byte)) : Core :=
  ps.foldl (fun k p => accWrite k p.1 p.2) ((coreOf g.s g.core).takes g.eng x)

theorem putPieces_acc (id : x.id = (coreOf g.s g.core).started) (ps : List (Nat × List Byte)) (thru : Bool) :
    ∃ old, putPieces (g.counted l).numbered 3 ps (g.taken x l' m) thru =
      setCore (g.taken { x with old := old } l' m) g.core (g.putsAcc { x with old := old } ps) := by
  obtain ⟨old, note⟩ := noteOld_taken (l := l) (l' := l') (m := m) id 3 ps
  refine ⟨old, ?_⟩
  rw [Job.putsAcc, ← coreOf_taken g _ l' m, ← note]
  rfl

theorem queueOfEng_takes (k : Core) (e : Nat) (x : Flying) (n : Nat) :
    queueOfEng (k.takes e x) n = if n = e then (queueOfEng k n).drop 1 else queueOfEng k n := by
  split
  · next same => subst same; exact Map.get_put_self ..
  · next other => exact Map.get_put_ne _ _ _ (Ne.symm other)

theorem flyingOf_takes (k : Core) (e : Nat) (x : Flying) : flyingOf (k.takes e x) e = flyingOf k e ++ [x] := Map.get_put_self ..

section
variable {fn : Nat → List Nat → Nat} (fits : o.Fits) (acc : o.loc = 3)
  (ht : t = setCore (g.taken x l' m) g.core (g.putsAcc x (g.pieces o fn)))

include ht in
theorem coreOf_putsAcc : coreOf t g.core = g.putsAcc x (g.pieces o fn) := by
  rw [ht]
  exact coreOf_setCore_self ..

include ht in
theorem accByte_putsAcc : accByte (coreOf t g.core) = (g.pieces o fn).foldl writeOver (accByte (coreOf g.s g.core)) := by
  rw [coreOf_putsAcc ht]
  exact funext (accByte_writes _ _)

include fits acc ht

/-- An instruction that puts a tensor's elements into the accumulator store has started, and has written its places alone. -/
theorem started_of_putsAcc (plane : m.plane = g.s.mem.plane) (addr : x.addr = g.i.addr) (sctr : x.sctr = g.i.sctr) (op : x.op.toNat = g.i.op) :
    Started g t false (places o) := by
  have core := coreOf_putsAcc ht
  have plane' : t.mem.plane = g.s.mem.plane := by rw [ht]; exact plane
  have disp : t.disp = g.s.disp := by rw [ht]; rfl
  rw [Job.putsAcc, accWrites_eq] at core
  refine ⟨sameMemory_of_plane plane', fun n hn => ?_, ctrGet_congr (by rw [ht]; rfl), ?_, fun _ => ?_, fun e => ?_, ⟨x, ?_, addr, sctr, op⟩,
    fun a _ => ?_, fun a out => ?_, fun a _ => congrFun (seenByte_congr plane' disp g.k) a⟩
  · rw [ht, coreOf_setCore_ne _ _ hn.symm, coreOf_taken_ne _ _ _ _ hn]
  · rw [core]
    rfl
  · rw [core]
    exact ⟨rfl, rfl, rfl⟩
  · rw [core]
    exact queueOfEng_takes (coreOf g.s g.core) g.eng x e
  · rw [core]
    exact flyingOf_takes (coreOf g.s g.core) g.eng x
  · rw [core]
    rfl
  · rw [accByte_putsAcc ht]
    exact not_in_pieces fits (acc ▸ out) _

/-- The elements stand where they are put. -/
theorem holds_of_putsAcc : Holds g t o fn := by
  intro r hr i0 hi
  refine stored_of_pieces (g := g) fits (accByte (coreOf g.s g.core)) hr hi fun a => ?_
  rw [acc, byte_still_acc, accByte_putsAcc ht]

end

/-! ### Operations with results in the accumulator store (R153, R159) -/

/-- The operation writes DC into the accumulator store, on this chip and without reduction. -/
structure Form.WritesAcc (f : Form) : Prop where
  names : ∀ i, Part.dc ∈ (f.parts i).map (·.1)
  tensor : f.plain .dc = true := by rfl
  writes : Part.dc ∈ f.outs := by exact List.mem_singleton_self _
  near : ∀ i ops, f.remote i ops = false := by intros; rfl
  noRed : f.redOk = false := by rfl
  store : ∀ i, f.locs i .dc = locAcc := by intros; rfl
  place : ∀ j o, f.loc9 j o = none := by intros; rfl
  blind : f.IgnoresCounts := by constructor <;> intros <;> rfl

theorem red_of_check1 (noRed : f.redOk = false) (h : check1 f i = none) : i.red = 0 := by
  rw [check1, Option.map_eq_none_iff, List.findSome?_eq_none_iff] at h
  have span : spanBit i 31 4 = none := h (spanBit i 31 4) (by simp [noRed])
  have none' : ∀ b < 4, bit i.raw (31 + b) = false := by
    simpa [spanBit, spanBad, List.head?_eq_none_iff] using span
  refine Nat.eq_of_testBit_eq fun b => ?_
  rw [EInstr.red, testBit_fld, Nat.zero_testBit, Bool.and_eq_false_iff, decide_eq_false_iff_not]
  exact (Nat.lt_or_ge b 4).symm.imp Nat.not_lt.mpr (none' b)

/-- What the checks leave of an operation's destination in the accumulator store. -/
structure Job.AccDest (j : Job) : Prop where
  fits : (getOp j.ops .dc).Fits
  acc : (getOp j.ops .dc).loc = 3
  red : j.i.red = 0

theorem mem_operandsOf {p : Part × Nat × Nat} (h : p ∈ f.parts i) : ∃ o ∈ operandsOf f i, o.part = p.1 := by
  unfold operandsOf
  dsimp only
  refine ⟨_, List.mem_map.mpr ⟨p, ?_, rfl⟩, rfl⟩
  by_cases further : p.2.1 = 7
  · exact List.mem_append_right _ (List.mem_filter.mpr ⟨h, decide_eq_true further⟩)
  · exact List.mem_append_left _ (List.mem_append_left _ (List.mem_filter.mpr ⟨h, decide_eq_true further⟩))

theorem accDest_of_passes (form : f.WritesAcc) (ops : j.ops = operandsOf f j.i) (passes : j.Passes f) : j.AccDest := by
  obtain ⟨p, hp, part⟩ := List.mem_map.mp (form.names j.i)
  obtain ⟨dc, dcPart⟩ := getOp_of_mem (p := .dc) (ops ▸ part ▸ mem_operandsOf hp)
  have tensor : f.plain (getOp j.ops .dc).part = true := by rw [dcPart]; exact form.tensor
  have named : getOp j.ops .dc ∈ operandsOf f j.i := by rw [← ops]; exact dc
  refine ⟨⟨by rw [ext_of_mem named]; simp, fun k hk => within_of_check5 named (passes.extents _ dc tensor) hk,
    passes.overlap _ dc tensor (by rw [dcPart]; exact form.writes)⟩, ?_, red_of_check1 form.noRed passes.fields⟩
  have place := passes.place _ dc tensor
  rw [form.place, Option.getD_none, dcPart, show mapPart j.i .dc = .dc from rfl, form.store, locBad] at place
  by_contra no
  rw [if_pos] at place
  · cases place
  · revert no
    generalize (getOp j.ops .dc).loc = loc
    rcases loc with _ | _ | _ | _ | loc <;> simp [locAllowed, locAcc]

/-- An engine whose instruction has started has not stopped by it. -/
theorem goesOn_of_started {att : Bool} {outs : List (Nat × Nat × Nat)} (started : Started g t att outs) (sound : g.eng ∉ (coreOf g.s g.core).broken) :
    goesOn t g = true := by
  obtain ⟨-, -, -, core, -⟩ := started
  rw [goesOn_iff, core]
  exact sound

section
variable {fn : Job → Nat → List Nat → Nat} (form : f.WritesAcc)
  (run : ∀ j u, f.run j u = putPieces j (getOp j.ops .dc).loc (j.pieces (getOp j.ops .dc) (fn j)) u)
  (blind : ∀ j l, fn (Job.counted j l).numbered = fn j)
include form run blind

/-- Such an operation runs: its instruction has started, the elements of DC stand in the accumulator store, and its command is as it was. -/
theorem runs_of_writesAcc (dest : g.AccDest) (plane : m.plane = g.s.mem.plane)
    (ht : t = f.run (g.counted l).numbered (f.started g l l' m)) :
    Started g t false (places (getOp g.ops .dc)) ∧ Holds g t (getOp g.ops .dc) (fn g) ∧ cmdOf t g.k = cmdOf g.s g.k := by
  have sent : f.sent (g.counted l) = g.i := if_neg (by rw [form.near]; exact Bool.false_ne_true)
  have op : (BitVec.ofNat 8 g.i.op).toNat = g.i.op := (BitVec.toNat_ofNat ..).trans (Nat.mod_eq_of_lt (fld_lt g.i.raw 120 8))
  obtain ⟨old, puts⟩ := putPieces_acc (g := g) (x := f.entry (g.counted l)) (l := l) (l' := l') (m := m) rfl (g.pieces (getOp g.ops .dc) (fn g)) false
  have ht' : t = putPieces (g.counted l).numbered 3 (g.pieces (getOp g.ops .dc) (fn g)) (g.taken (f.entry (g.counted l)) l' m) := by
    rw [ht, run, blind, ← dest.acc]
    rfl
  rw [puts] at ht'
  refine ⟨started_of_putsAcc dest.fits dest.acc ht' plane (congrArg EInstr.addr sent) (congrArg EInstr.sctr sent)
    ((congrArg (fun i : EInstr => (BitVec.ofNat 8 i.op).toNat) sent).trans op), holds_of_putsAcc dest.fits dest.acc ht', ?_⟩
  rw [ht']
  rfl

/-- It produces the elements of DC. -/
theorem produces_of_writesAcc {e op : Nat} (names : ∀ s c, (engInstr s c e op).map (·.2) = some f) :
    Produces e op false (fun _ => true) fn (fun _ => []) (fun _ _ => True) := by
  intro s c i f' j instr inv state core eng starts g _ o all
  obtain rfl : f' = f := by
    have := names s c
    rw [instr] at this
    exact Option.some.inj this
  subst state
  obtain ⟨head, checks, -, -, running⟩ := startsNow_iff starts
  have zero := running.zero
  rw [starting_eq] at zero
  have dest := accDest_of_passes form head.ops (passes_of_allChecks checks zero)
  obtain ⟨l, l', m, plane, exec'⟩ := exec_starts form.blind instr core eng starts
  obtain ⟨a, hg⟩ := starting_onPath f' j
  rw [hg] at exec'
  obtain ⟨started, holds, cmd⟩ :=
    runs_of_writesAcc (g := { j with i := { j.i with alt := a } }) form run blind ⟨dest.fits, dest.acc, dest.red⟩ plane rfl
  have hall : all = places o := by
    show (if j.i.red = 0 then places o else []) ++ [] = places o
    rw [if_pos dest.red, List.append_nil]
  refine ⟨_, exec', fun _ _ => goesOn_of_started started head.sound, fun _ => ?_⟩
  rw [hall, if_pos dest.red, show g = _ from hg]
  exact ⟨started, trivial, holds, congrArg _ cmd⟩

end

end Sys2Proof.Machine
end

section
namespace Sys2Proof.Machine
variable {j : Job} {u : State}

/-! ### Chains of products (R201, R202) -/

theorem products_map (f g : Nat → FVal) (ks : List Nat) : products (ks.map f) (ks.map g) = ks.map fun k => (f k).mul (g k) := by
  rw [products, List.zip_map', List.map_map]
  rfl

/-- A chain adds its products in their order, each sum formed exactly and rounded once. -/
theorem chain_map (dn start : Nat) (f : Nat → FVal) (ks : List Nat) :
    chain dn start (ks.map f) = ks.foldl (fun acc k => fp32Rne dn ((fp32.value acc).add (f k))) start := by
  rw [chain, List.foldl_map]
  rfl

theorem span_add (lo a b : Nat) : span lo (a + b) = span lo a ++ span (lo + a) b := by
  simp [span, List.range_add, Nat.add_assoc, Function.comp_def]

/-- Blocks in ascending order, each in ascending order, are one run. -/
theorem foldl_blocks {β : Type} (step : β → Nat → β) (b c : Nat) : ∀ (n : Nat) (start : β),
    (List.range n).foldl (fun acc t => (span (b * (c + t)) b).foldl step acc) start = (span (b * c) (b * n)).foldl step start
  | 0, _ => rfl
  | n + 1, start => by
    rw [List.range_succ, List.foldl_append, foldl_blocks step b c n, Nat.mul_succ, span_add, List.foldl_append, ← Nat.mul_add]
    rfl

/-! ### The operations (R218, R235, R318, R321, R323, R325) -/

theorem mmForm_run (m n : Nat) (j : Job) (u : State) : (mmForm m n).run j u = putPieces j (getOp j.ops .dc).loc
    (j.pieces (getOp j.ops .dc) fun n r => chain j.denorm (j.start (getOp j.ops .dc) (bit j.i.raw 30) n (r.getD 0 0))
      ((List.range 64).map fun k => (j.value (j.op .da) k [r.getD 0 0, 0, 0, 0]).mul (j.value (j.op .db) k [n, 0, 0, 0]))) u := by
  have row : ∀ n m, products (j.lanes (j.op .da) m) (j.lanes (j.op .db) n) =
      (List.range 64).map fun k => (j.value (j.op .da) k [m, 0, 0, 0]).mul (j.value (j.op .db) k [n, 0, 0, 0]) := fun n m => products_map ..
  simp only [mmForm, Job.pieces, List.map_map, Function.comp_def, row]

theorem convChain_eq (j : Job) (src : RowSrc) (n start : Nat) : convChain j src n start =
    (span (64 * j.geo.ct0) (64 * convTiles j.i)).foldl (fun acc ch => fp32Rne j.denorm ((fp32.value acc).add
      ((gathered j src ch).mul (j.value (j.op .db) ch [n, j.geo.tap 0, j.geo.tap 1, j.geo.tap 2])))) start := by
  rw [convChain, ← foldl_blocks]
  simp only [products_map, chain_map]
  rfl

theorem cgChain_eq (j : Job) (m n start : Nat) : cgChain j m n start =
    (List.range (cgKb j.i)).foldl (fun acc u => fp32Rne j.denorm ((fp32.value acc).add ((gathered j (rowSrc j m (u % cgUx j.i))
      (j.geo.cbase + n / cgNb j.i * (cgKb j.i / cgUx j.i) + u / cgUx j.i)).mul
      (j.value (j.op .db) (n / cgNb j.i * cgKb j.i + u) [n, 0, 0, 0])))) start := by
  rw [cgChain, span, List.map_map, chain_map]
  refine List.foldl_ext _ _ _ fun acc u hu => ?_
  have lane : cgLane j (n / cgNb j.i * cgKb j.i + u) =
      (j.geo.cbase + n / cgNb j.i * (cgKb j.i / cgUx j.i) + u / cgUx j.i, u % cgUx j.i) := by
    have hu := List.mem_range.mp hu
    rw [cgLane, Nat.add_comm (_ * _) u, Nat.add_mul_mod_self_right, Nat.mod_eq_of_lt hu, Nat.add_mul_div_right _ _ (Nat.zero_lt_of_lt hu),
      Nat.div_eq_of_lt hu, Nat.zero_add]
    rfl
  simp only [Function.comp_apply, lane]

theorem cwinForm_run (j : Job) (u : State) : cwinForm.run j u = putPieces j (getOp j.ops .dc).loc (j.pieces (getOp j.ops .dc) fun n r =>
    let v := gathered j (rowSrc j (r.getD 0 0) 0) (64 * j.geo.ct0 + n)
    fp32Of j.denorm (if j.i.ext 29 2 = 0 then v else if j.i.ext 29 2 = 1 then (j.value (getOp j.ops .dc) n r).max2 v
      else (j.value (getOp j.ops .dc) n r).add v)) u := by
  unfold cwinForm
  dsimp only
  congr 2
  funext n r
  split
  · next h => rw [if_pos h]
  · next h => rw [h]; rfl
  · next h0 h1 => rw [if_neg h0, if_neg h1]

/-! ### What CROP reads of its job (R324, R325) -/

section
variable (j : Job) (l : Map Word)

theorem cropSample_counted (m iy ix : Nat) : cropSample (j.counted l).numbered m iy ix = cropSample j m iy ix := rfl

theorem cropBatch_counted (m : Nat) : cropBatch (j.counted l).numbered m = cropBatch j m := rfl

theorem op_counted (p : Part) : (j.counted l).numbered.op p = j.op p := rfl

theorem denorm_counted : (j.counted l).numbered.denorm = j.denorm := rfl

theorem cropCell_counted (m iy ix : Nat) : cropCell (j.counted l).numbered m iy ix = cropCell j m iy ix := by
  simp only [cropCell, cropSample_counted, cropBatch_counted, op_counted, denorm_counted]
  rfl

theorem cropValue_counted (m n iy ix : Nat) : cropValue (j.counted l).numbered m n iy ix = cropValue j m n iy ix := by
  delta cropValue
  rw [cropCell_counted]
  rfl

theorem cropElem_counted (m n : Nat) : cropElem (j.counted l).numbered m n = cropElem j m n := by
  simp only [cropElem, cropValue_counted, denorm_counted]
  rfl

end

theorem mmForm_writesAcc (m n : Nat) : (mmForm m n).WritesAcc := { names := fun _ => .tail _ (.tail _ (.head _)) }

theorem convForm_writesAcc : convForm.WritesAcc := { names := fun _ => .tail _ (.tail _ (.head _)) }

theorem convgForm_writesAcc : convgForm.WritesAcc := { names := fun _ => .tail _ (.tail _ (.head _)) }

theorem cwinForm_writesAcc : cwinForm.WritesAcc := { names := fun _ => .tail _ (.head _) }

theorem cropForm_writesAcc : cropForm.WritesAcc := { names := fun _ => .tail _ (.tail _ (.head _)) }

/-- Settles O30: each operation puts the elements of DC into the accumulator store (`produces_of_writesAcc`), and each element is a chain over its
lanes in their order (`chain_map`), or the one value of CWIN or of CROP. -/
theorem matrixProducts : Obligations.MatrixProducts := by
  unfold Obligations.MatrixProducts
  intro product start any no tt
  have mm : ∀ m n j u, (mmForm m n).run j u = putPieces j (getOp j.ops .dc).loc (j.pieces (getOp j.ops .dc) (product j)) u := fun m n j u => by
    simp only [mmForm_run, chain_map]
    rfl
  refine ⟨produces_of_writesAcc (mmForm_writesAcc 1024 64) (mm 1024 64) (fun _ _ => rfl) fun _ _ => rfl,
    produces_of_writesAcc (mmForm_writesAcc 63 128) (mm 63 128) (fun _ _ => rfl) fun _ _ => rfl,
    produces_of_writesAcc convForm_writesAcc (fun j u => ?_) (fun _ _ => rfl) fun _ _ => rfl,
    produces_of_writesAcc convgForm_writesAcc (fun j u => ?_) (fun _ _ => rfl) fun _ _ => rfl,
    produces_of_writesAcc cwinForm_writesAcc cwinForm_run (fun _ _ => rfl) fun _ _ => rfl,
    produces_of_writesAcc cropForm_writesAcc (fun _ _ => rfl)
      (fun j l => funext fun n => funext fun r => cropElem_counted j l (r.getD 0 0) n) fun _ _ => rfl⟩
  · simp only [convForm, convChain_eq]
    rfl
  · simp only [convgForm, cgChain_eq]
    rfl

end Sys2Proof.Machine
end
